-- ==== Sys2Proof/Word.lean ====
section
/-!
DEFINITION. Sys2Proof/Word.lean: the word types of the package and the named bit fields of a 64-bit register or
structure word (R5: every register is 64 bits; R42, R110, R329, R419: structures are little-endian 64-bit words).
-/

set_option Elab.async false

namespace Sys2Proof

/-- A management register, and a word of every memory structure of the manual. -/
abbrev Word := BitVec 64

/-- One byte. -/
abbrev Byte := BitVec 8

/-- A 32-bit pattern: an FP32 value, a lane of a vector register, a generator state. -/
abbrev W32 := BitVec 32

/-- A bit field [lo + width - 1 : lo] of a 64-bit word. -/
structure Field where
  lo : Nat
  width : Nat
  deriving DecidableEq, Repr

/-- The field written [hi:lo] in the manual's tables. -/
def bits (hi lo : Nat) : Field := { lo := lo, width := hi + 1 - lo }

/-- The one-bit field [n]. -/
def bit (n : Nat) : Field := { lo := n, width := 1 }

end Sys2Proof
end

