-- ==== Sys2Proof/Syntax.lean ====
section
/-!
DEFINITION. Sys2Proof/Syntax.lean: the commands of the block. One constructor of `Instr` per row of
spec/opcode_table.json, in the table's order. Indices of units the package has a fixed number of are `Fin`s (Table 1-1),
so no command can name a unit that does not exist; what a physical event brings with it (a measured temperature, the
bytes of a packet, the outcome of a self-test) is an operand of its command.
-/

set_option Elab.async false

namespace Sys2Proof

/-! ## Unit identifiers (R13, R22) -/

abbrev Wing := Fin 4
abbrev Die := Fin 12
abbrev Stack := Fin 12
abbrev Casement := Fin 8
abbrev Engine := Fin 8
abbrev Fibre := Fin 16
abbrev Channel := Fin 18
abbrev Seam := Fin 4
abbrev Site := Fin 4
abbrev LinkId := Fin 136
abbrev RingIdx := Fin 16
abbrev EvQueue := Fin 16
abbrev DmaChan := Fin 8
/-- A spilled queue of Table 6-1 (1,090 to 1,095 are reserved). -/
abbrev QueueIdx := Fin 1116
/-- A die-to-die attachment: 0-7 the Casements, 8-11 the guest sites (R384). -/
abbrev Attach := Fin 12
/-- A ring loop of a Casement: 0-287 engine rings (R287), 288-305 the locker rings. -/
abbrev RingLoop := Fin 306
/-- A laser of a Casement numbered as LSR_COMMn: 0-17 grid, 18-21 Attic, 22-23 carriers. -/
abbrev Laser := Fin 24

/-- A bay (die, bay). -/
structure BayId where
  die : Fin 12
  bay : Fin 12
  deriving DecidableEq, Repr

/-- The four execution units of a bay (R106). -/
inductive UnitKind where
  | matrix | vector | data | exchange
  deriving DecidableEq, Repr

/-- Who makes a management write or read (R30, R31, R158, R204, R415). Hearth firmware's writes carry its epoch (R448). -/
inductive Writer where
  | hearth (epoch : Nat)
  | host
  | peer
  | guest
  deriving DecidableEq, Repr

/-- The channel a command arrives on: a host command ring, a guest site, the I3C channel (RING 20), or another package
over Dararn (R419, R428, R536). -/
inductive Via where
  | ring (r : RingIdx)
  | guest (g : Site)
  | i3c
  | forwarded
  deriving DecidableEq, Repr

/-- A command packet (Table 14-2): header words W0 to W3 and the parameter words P0, P1, ... -/
structure Cmd where
  via : Via
  w0 : Word
  w1 : Word
  w2 : Word
  w3 : Word
  params : List Word
  deriving DecidableEq, Repr

/-- A Dararn packet (R329): header W0 and W1, argument block W2 and W3, payload bytes. -/
structure Packet where
  w0 : Word
  w1 : Word
  w2 : Word
  w3 : Word
  payload : List Byte
  deriving DecidableEq, Repr

/-- A flit of 32 words (Table 13-2). -/
structure Flit where
  words : List Word
  deriving DecidableEq, Repr

/-- A timing record of eight words (Table 10-2) with its arrival at this package. -/
structure TimingRec where
  w0 : Word
  w1 : Word
  w2 : Word
  w3 : Word
  w4 : Word
  w5 : Word
  w6 : Word
  w7 : Word
  /-- Arrival of its first preamble symbol: frame and offset in 25 ps units (t4). -/
  atFrame : Nat
  atSub : Nat
  deriving DecidableEq, Repr

/-- Where a timing record arrives: a receive fibre, or a DARARN_E link (R310). -/
inductive RecSrc where
  | fibre (c : Casement) (f : Fibre)
  | porch (j : Fin 8)
  deriving DecidableEq, Repr

/-- The 96-byte LINK_TRAIN payload (Table 11-6), words W0 to W7 (W8 to W11 are GROW), and the RT_ID of its argument
block. -/
structure TrainMsg where
  rtId : Nat
  w0 : Word
  w1 : Word
  w2 : Word
  w3 : Word
  w4 : Word
  w5 : Word
  w6 : Word
  w7 : Word
  deriving DecidableEq, Repr

/-- One sensor reading (R464), in 0.1 degrees C. -/
structure SensorReading where
  unit : Fin 36
  sensor : Nat
  temp : Int
  deriving DecidableEq, Repr

/-- What the power and thermal telemetry brings at a frame boundary (R460, R464). -/
structure FrameEnv where
  /-- Input power of each rail over the frame that ended, mW (VIN_CORE, VIN_HBM, VIN_OPT, VHTR, VAUX). -/
  railMw : List Nat
  railMv : List Nat
  wingW : List Nat
  dieW : List Nat
  dieMv : List Nat
  sensors : List SensorReading
  deriving DecidableEq, Repr

/-- An arithmetic check that fails in a unit (R59, R60, R74). -/
inductive UnitFault where
  /-- Residue mismatch in logical tile lt at check point 1 block sum, 2 chunk end, 3 rounding input. -/
  | tileResidue (lt : Fin 16) (point : Fin 4) (block : Nat)
  | tileRail (lt : Fin 16) (block : Nat)
  | vecResidue (lane : Fin 256)
  | vecRail (lane : Fin 256)
  deriving DecidableEq, Repr

/-- A read of memory that the array reports on (R182, R183). -/
structure MemErr where
  da : Nat
  corrected : Bool
  deriving DecidableEq, Repr

/-- An error found by a bay SRAM read (R95). bit = none: uncorrectable. -/
structure SramErr where
  bank : Fin 64
  row : Fin 4096
  word : Fin 8
  bit : Option (Fin 72)
  deriving DecidableEq, Repr

/-- What happens to a unit's descriptor besides its arithmetic. -/
structure UnitEnv where
  sram : List SramErr
  mem : List MemErr
  fault : Option UnitFault
  deriving DecidableEq, Repr

/-- Outcome of verifying one stored image by one Hearth (HRT_START.A_FAIL codes 1 and 2; the rest is computed). -/
structure ImgReads where
  haA : Bool
  hbA : Bool
  haB : Bool
  hbB : Bool
  deriving DecidableEq, Repr

/-- A failure that power-up BIST finds (Table 17-2). -/
inductive BistFail where
  | hearth (hb : Bool)
  | nvStore
  | baseDie (w : Wing)
  | hallwayPort (s : Seam)
  | tile (b : BayId) (t : Fin 17)
  | sramRow (b : BayId) (bank : Fin 64) (row : Fin 4096)
  | larderRow (d : Die) (bank row : Nat)
  | pantryRow (w : Wing) (bank row : Nat)
  | larderBank (d : Die)
  | pantryBank (w : Wing)
  | bay (b : BayId)
  | dieInterface (d : Die)
  | casement (c : Casement)
  deriving DecidableEq, Repr

/-- A guest die's capability words W0 and W1 as read over the sideband (Table 13-5). -/
structure GuestCap where
  w0 : Word
  w1 : Word
  deriving DecidableEq, Repr

/-- What the physical start of the package brings (R523 to R534). -/
structure StartEnv where
  reads : ImgReads
  romOkA : Bool
  romOkB : Bool
  cfgRead : Bool
  bist : List BistFail
  /-- Channels that fail training, as (stack, channel). -/
  chanFail : List (Stack × Fin 32)
  /-- Stacks that do not respond. -/
  stackDead : List Stack
  /-- Module masks trained at the Casements, base side and Casement side; one not listed trains all 16 modules. -/
  modules : List (Casement × BitVec 16 × BitVec 16)
  /-- Sideband answers of the populated guest sites; a missing site does not answer. -/
  guests : List (Site × GuestCap)
  /-- Fibre arrays whose presence contact is closed. -/
  faPresent : BitVec 8
  /-- Porch lanes whose PHY trained. -/
  porchUp : BitVec 32
  /-- Lasers that reach S7's end below their commissioned output at their bias limit. -/
  weakLasers : List (Casement × Channel)
  /-- Rings that mislock three times. -/
  ringFail : List (Casement × RingLoop)
  /-- Completion time of S1 to S8 and S11 in microseconds. -/
  stageUs : List Nat
  deriving DecidableEq, Repr

/-- How one lane's codewords of a burst decoded (R254). -/
structure LaneResult where
  lane : Fin 16
  codewords : Nat
  corrected : Nat
  symbols : Nat
  uncorrectable : Nat
  /-- Average received power, signed 0.01 dBm. -/
  power : Int
  deriving DecidableEq, Repr

/-- A burst at a receive engine (R296, R322). -/
structure Burst where
  /-- First preamble symbol's offset in the slot in 25 ps units; none: no light in [0, 8 ns). -/
  offset : Option Nat
  /-- Whether pod, package and link in it name the trained peer. -/
  peerMatch : Bool
  lanes : List LaneResult
  deriving DecidableEq, Repr

/-- One laser's output and bias at a fade measurement (R266). -/
structure LaserReading where
  laser : Laser
  /-- Signed 0.01 dBm. -/
  output : Int
  /-- 0.1 mA. -/
  bias : Nat
  atLimit : Bool
  deriving DecidableEq, Repr

/-- What a patrol read finds (R185). -/
inductive PatrolFind where
  | clean | corrected | uncorrectable
  deriving DecidableEq, Repr

/-- A Cellar line as the stack returns it (R192, R193). -/
structure CellarLine where
  words : List Word
  /-- The stack reports it uncorrectable. -/
  stackUe : Bool
  deriving DecidableEq, Repr

/-- A row under BIST that fails (R502): bank, row, word, bit. -/
structure RowFail where
  bank : Nat
  row : Nat
  word : Nat
  bit : Nat
  deriving DecidableEq, Repr

/-- What a runtime slice needs of its surroundings (R500). -/
structure SliceEnv where
  voltageOk : Bool
  fail : Option RowFail
  deriving DecidableEq, Repr

/-- What BIST_ROW_REPAIR repairs (R502). -/
inductive RepairTarget where
  | bay (b : BayId)
  | larder (d : Die)
  | pantry (w : Wing)
  deriving DecidableEq, Repr

/-- A switchable unit of Table 15-5. -/
inductive PwrUnit where
  | bay (b : BayId)
  | die (d : Die)
  | wing (w : Wing)
  | casement (c : Casement)
  | tx (c : Casement) (e : Engine)
  | rx (c : Casement) (e : Engine)
  | sky (c : Casement)
  | laser (c : Casement) (n : Laser)
  | site (g : Site)
  deriving DecidableEq, Repr

/-- What a Skylight score brings: failed candidate reads (R374), ADC clipping (R363), the probe error (R380). -/
structure ScoreEnv where
  failed : List Nat
  clipped : Bool
  probeRms : Nat
  /-- An internal uncorrectable error (R381). -/
  internalUe : Bool
  deriving DecidableEq, Repr

/-- What a peer answers to an Annex access made outside the data engine (Hatch, DMA, MEM_COPY). -/
structure PeerReply where
  /-- MEM_CPL status of Table 11-3. -/
  status : Fin 5
  data : List Byte
  deriving DecidableEq, Repr

/-- The address space a register write goes to: management space or BAR0 (R413, R415). -/
inductive Space where
  | mgmt | bar0
  deriving DecidableEq, Repr

/-- One vector micro-op's register operands and modes (R145). imm is {B, C}, bits [13:2] of the micro-op. -/
structure MicroArgs where
  bay : BayId
  d : Fin 64
  a : Fin 64
  b : Fin 64
  c : Fin 64
  imm : Fin 4096
  rmode : Fin 4
  sat : Bool
  /-- Lane check that fails while it runs (R74, R60). -/
  fault : Option UnitFault
  deriving DecidableEq, Repr

/-- The commands: one constructor per row of the table. -/
inductive Instr where
  | startUp (e : StartEnv)
  | startUpDeadline
  | resetN (ns : Nat)
  | pwrgoodDeassert (ns : Nat)
  | packageReset
  | railUndervoltage (rail : Fin 5) (mv ns : Nat)
  | dieUndervoltage (d : Die) (mv ns : Nat)
  | thermalTrip (u : Fin 36) (sensor : Nat) (temp : Int)
  | perstN (asserted : Bool)
  | functionLevelReset
  | configurationRequest (offset : Nat) (write : Option W32)
  | fsyncInEdge (phase : Int) (highPs : Nat)
  | frameBoundary (e : FrameEnv)
  | capOpDrop
  | sensorUnchanged (u : Fin 36) (sensor : Nat)
  | slotBoundary (slot : Fin 64)
  | burstArrival (c : Casement) (e : Engine) (slot : Fin 64) (b : Burst)
  | laneDegraded (c : Casement) (e : Engine) (lane : Fin 16)
  | timingRecord (src : RecSrc) (r : TimingRec)
  | electEnd
  | holdover
  | holdoverExpiry
  | handoverAnnounce
  | beatHandover
  | planApply
  | settleChange (c : Casement) (e : Engine)
  | quietPeriodEnd (c : Casement) (e : Engine)
  | faPresenceOpen (c : Casement)
  | faPresenceStable (c : Casement)
  | fadeMeasurement (c : Casement) (rs : List LaserReading)
  | atticAtOutput (c : Casement) (a : Fin 4)
  | atticSweepStop (c : Casement) (a : Fin 4)
  | atticVerifyEnd (c : Casement) (a : Fin 4) (tones : List (Fin 4))
  | atticMatched (c : Casement) (a : Fin 4)
  | atticSwitchIn (c : Casement)
  | laserRampDownComplete (c : Casement) (n : Laser)
  | laserTurnOnComplete (c : Casement) (n : Laser)
  | ringColdEnd (c : Casement) (r : RingLoop)
  | ringSweepCapture (c : Casement) (r : RingLoop) (captured : Bool) (heater : BitVec 16)
  | ringVerifyEnd (c : Casement) (r : RingLoop) (tone : Option Channel)
  | lossOfLock (c : Casement) (r : RingLoop)
  | toneAudit (c : Casement) (tone : Option Channel)
  | meshFault (c : Casement) (rx : Bool) (m : Fin 232)
  | calStart (c : Casement)
  | calDone (c : Casement) (onTarget : Bool)
  | calTimeout (c : Casement)
  | laneMapEpoch (l : LinkId)
  | laneMapNotice (l : LinkId) (p : Packet)
  | vacate (l : LinkId) (p : Packet)
  | restore (l : LinkId) (p : Packet)
  | exclude (l : LinkId) (p : Packet)
  | linkTrainingStart (l : LinkId)
  | offer (l : LinkId) (p : Packet)
  | accept (l : LinkId) (p : Packet)
  | retrainReq (l : LinkId) (p : Packet)
  | retrainAck (l : LinkId) (p : Packet)
  | goingDown (l : LinkId) (p : Packet)
  | retrainTimeout (l : LinkId)
  | lossOfLight (l : LinkId)
  | downHoldExpiry (l : LinkId)
  | replayTimer (l : LinkId)
  | ackIdleTimer (l : LinkId)
  | ackOnly (l : LinkId) (p : Packet)
  | sendData (l : LinkId) (p : Packet)
  | memRd (l : LinkId) (p : Packet) (ue : Bool)
  | memWr (l : LinkId) (p : Packet)
  | memCpl (l : LinkId) (p : Packet)
  | neighbours (l : LinkId) (p : Packet)
  | hearthCommand (l : LinkId) (p : Packet)
  | hearthReply (l : LinkId) (p : Packet)
  | hearthEvent (l : LinkId) (p : Packet)
  | skyDone (l : LinkId) (p : Packet)
  | dataFlit (a : Attach) (f : Flit)
  | idleFlit (a : Attach) (f : Flit)
  | frameFlit (a : Attach) (f : Flit)
  | flitReplay (a : Attach)
  | widthReport (a : Attach) (w : Word)
  | widthReportTimeout (a : Attach)
  | ucieModuleDown (a : Attach) (m : Fin 16)
  | guestAdmission (g : Site) (cap : GuestCap)
  | guestAbsent (g : Site)
  | guestReset (g : Site)
  | guestWindowAccess (g : Site) (offset : Nat) (write : Option Word) (answer : Option Word)
  | porchLaneFailure (n : Fin 32)
  | seamDown (h : Seam)
  | reloadComplete (step : Nat)
  | retirementCopyComplete (r : Fin 4)
  | patrolRead (st : Stack) (ch : Fin 32) (da : Nat) (f : PatrolFind) (passEnd : Bool)
  | queueRefill (q : QueueIdx) (line : CellarLine)
  | celQwmWrite (q : QueueIdx) (v : Word)
  | crossedClear (q : QueueIdx) (h l : Bool)
  | celCntClr (q : QueueIdx)
  | pantryAgeSweep (w : Wing)
  | leaseExpiry (h : BitVec 16)
  | publishListApply (step : Nat)
  | regionChangeApply
  | wingRoleChange (w : Wing)
  | stepBaseFrame (step : Nat)
  | stepCommit (step : Nat)
  | stepReplay (step : Nat)
  | replayLate (step : Nat)
  | faultReport (code : BitVec 16) (locator detail : W32)
  | budgetOverrun (k : Fin 10) (locator : W32)
  | heartbeat (fromHb : Bool) (epoch : Nat) (outSeq : Nat)
  | digestCompare (outSeq : Nat) (digest : Word)
  | digestTimeout (outSeq : Nat)
  | selfcheck (activePass standbyPass : Bool)
  | heartbeatMissing
  | resyncComplete (hb : Bool)
  | plannedPowerChange (u : PwrUnit)
  | powerChangeComplete (u : PwrUnit)
  | operatingPointChangeComplete (w : Wing)
  | rotationStep (b : BayId)
  | tileSlice (b : BayId) (voltageOk : Bool) (failCell : Option (Fin 64 × Fin 64))
  | sramSlice (b : BayId) (e : SliceEnv)
  | larderSlice (d : Die) (e : SliceEnv)
  | pantrySlice (w : Wing) (e : SliceEnv)
  | bistRowRepair (t : RepairTarget)
  | scrub (b : BayId) (errs : List SramErr)
  | drbgReseed (hb : Bool) (pass : Bool)
  | lockoutEnd
  | lifecycleTransition
  | skyMailboxScan (c : Casement)
  | loadMatrix (c : Casement) (idx : Fin 64)
  | slotReady (c : Casement) (slot : Fin 64)
  | score (c : Casement) (idx : Fin 64) (e : ScoreEnv)
  | skyJobTimeout (c : Casement)
  | skyCalibration (c : Casement)
  | skyCalibrationComplete (c : Casement) (rms : Nat)
  | carrierHandover (c : Casement)
  | cmdTimeout (c : Cmd)
  | commandDoorbell (r : RingIdx) (v : Word)
  | commandRingEnable (r : RingIdx) (v : Word)
  | eventQueueHeadWrite (q : EvQueue) (v : Word)
  | eventQueueEnable (q : EvQueue) (v : Word)
  | arm (q : EvQueue) (v : Word)
  | dmaDoorbell (ch : DmaChan) (v : Word)
  | dmaDescriptorComplete (ch : DmaChan) (hostErr : Bool) (ue : Option Nat) (peer : PeerReply)
  | resume (ch : DmaChan)
  | dmaChannelDisable (ch : DmaChan) (moved : Nat)
  | hatchWrite (bytes : List Byte) (allEnables : Bool) (peer : PeerReply)
  | hatchRead (n : Nat) (ue : Option Nat) (peer : PeerReply)
  | hatchErrClear
  | registerWrite (src : Writer) (sp : Space) (addr width : Nat) (value : Word)
  | bayPowerReq (src : Writer) (b : BayId) (on : Bool)
  | eccClr (src : Writer) (b : BayId)
  | csmPowerReq (src : Writer) (c : Casement) (on : Bool)
  | csmCntClr (src : Writer) (c : Casement)
  | strCntClr (src : Writer)
  | drlCntClr (src : Writer) (c : Casement)
  | skyCntClr (src : Writer) (c : Casement)
  | larderEnable (src : Writer) (w : Wing) (en : BitVec 3)
  | sequencerRun (src : Writer) (b : BayId)
  | descriptorFetch (b : BayId) (ue : Bool)
  | descriptorDispatch (b : BayId)
  | descriptorComplete (b : BayId) (u : UnitKind) (cycles : Nat)
  | seqStall (b : BayId)
  | eventTimeout (b : BayId)
  | nop (b : BayId)
  | matmul (b : BayId) (e : UnitEnv)
  | attnBlock (b : BayId) (e : UnitEnv)
  | conv (b : BayId) (e : UnitEnv)
  | vec (b : BayId) (e : UnitEnv)
  | vecMicro (b : BayId) (e : UnitEnv)
  | convert (b : BayId) (e : UnitEnv)
  | reduce (b : BayId) (e : UnitEnv)
  | load (b : BayId) (e : UnitEnv)
  | microprogramLoad (b : BayId) (e : UnitEnv)
  | store (b : BayId) (e : UnitEnv)
  | select (b : BayId) (e : UnitEnv)
  | send (b : BayId) (e : UnitEnv)
  | recv (b : BayId)
  | signal (b : BayId)
  | waitEvent (b : BayId)
  | fence (b : BayId)
  | frameMark (b : BayId)
  | add (m : MicroArgs)
  | sub (m : MicroArgs)
  | mul (m : MicroArgs)
  | fma (m : MicroArgs)
  | fms (m : MicroArgs)
  | neg (m : MicroArgs)
  | abs (m : MicroArgs)
  | min (m : MicroArgs)
  | max (m : MicroArgs)
  | clamp (m : MicroArgs)
  | floor (m : MicroArgs)
  | rint (m : MicroArgs)
  | rcp (m : MicroArgs)
  | div (m : MicroArgs)
  | sqrt (m : MicroArgs)
  | rsqrt (m : MicroArgs)
  | exp2 (m : MicroArgs)
  | log2 (m : MicroArgs)
  | exp (m : MicroArgs)
  | log (m : MicroArgs)
  | tanh (m : MicroArgs)
  | sigmoid (m : MicroArgs)
  | erf (m : MicroArgs)
  | cmplt (m : MicroArgs)
  | cmple (m : MicroArgs)
  | cmpeq (m : MicroArgs)
  | sel (m : MicroArgs)
  | and (m : MicroArgs)
  | or (m : MicroArgs)
  | xor (m : MicroArgs)
  | cvti (m : MicroArgs)
  | cvtf (m : MicroArgs)
  | rsum (m : MicroArgs)
  | rmax (m : MicroArgs)
  | rmin (m : MicroArgs)
  | perm (m : MicroArgs)
  | rotl (m : MicroArgs)
  | bcast (m : MicroArgs)
  | idx (m : MicroArgs)
  | mov (m : MicroArgs)
  | ldp (m : MicroArgs)
  | ldv (m : MicroArgs)
  | stv (m : MicroArgs)
  | gather (m : MicroArgs)
  | rand (m : MicroArgs)
  | loop (m : MicroArgs)
  | endloop (m : MicroArgs)
  | microHalt (m : MicroArgs)
  | identify (c : Cmd)
  | podList (c : Cmd)
  | mgmtRead (c : Cmd)
  | mgmtWrite (c : Cmd)
  | configWrite (c : Cmd)
  | configRead (c : Cmd)
  | wingRoleSet (c : Cmd)
  | regionSet (c : Cmd)
  | regionClear (c : Cmd)
  | halt (c : Cmd)
  | stepStart (c : Cmd)
  | stepAbort (c : Cmd)
  | memFill (c : Cmd)
  | memCopy (c : Cmd)
  | larderFlush (c : Cmd)
  | pantryPublish (c : Cmd)
  | pantryResolve (c : Cmd)
  | pantryRelease (c : Cmd)
  | pantryEvict (c : Cmd)
  | annexSet (c : Cmd)
  | annexClear (c : Cmd)
  | modelLoad (c : Cmd)
  | linkSet (c : Cmd)
  | linkWidth (c : Cmd)
  | linkRetrain (c : Cmd)
  | linkState (c : Cmd)
  | laserSet (c : Cmd)
  | laserSwap (c : Cmd)
  | laserCommission (c : Cmd)
  | laserThreshSet (c : Cmd)
  | calSet (c : Cmd)
  | planLoad (c : Cmd)
  | planDelta (c : Cmd)
  | settleSet (c : Cmd)
  | beatRealign (c : Cmd)
  | skySet (c : Cmd)
  | skyCal (c : Cmd)
  | powerPointSet (c : Cmd)
  | powerCapSet (c : Cmd)
  | unitPower (c : Cmd)
  | tripAck (c : Cmd)
  | faultRead (c : Cmd)
  | faultClear (c : Cmd)
  | reactionSet (c : Cmd)
  | fallbackLoad (c : Cmd)
  | unfence (c : Cmd)
  | faultInject (c : Cmd)
  | authChallenge (c : Cmd)
  | authResponse (c : Cmd)
  | authDrop (c : Cmd)
  | fwInstall (c : Cmd)
  | lifecycleSet (c : Cmd)
  | attest (c : Cmd)
  | auditRead (c : Cmd)
  | makerTest (c : Cmd)
  | i3cCommandWrite (c : Cmd)
  | i3cDataAddressWrite (da : Word)
  | i3cDataWrite (bytes : List Byte) (peer : PeerReply)
  | bypass
  | idcode
  | samplePreload
  | extest (lands : List Bool)
  | scanEn
  | scanExit
  | trstN (low : Bool)
  | moduleTrainingComplete (a : Attach) (mods x32 : BitVec 16)
  | d2dFullResetEnd (a : Attach) (cap : Option GuestCap)
  | memFillComplete (op : Nat)
  | memCopyComplete (op : Nat) (ue : Option Nat) (peer : PeerReply)
  | entropySamplePass (hb : Bool)
  | vauxWithinTolerance (straps : BitVec 2)
  | inputPowerRemoved (belowMs : Nat)
  | setdasa (addr : BitVec 7)
  | entdaa (addr : BitVec 7)
  deriving DecidableEq, Repr

end Sys2Proof
end

