-- ==== Sys2Proof/Decode.lean ====
section
/-!
DEFINITION. Sys2Proof/Decode.lean: the decoder over table words. The table gives no row any bits (its commands are register
writes, packets and physical events), so no word spells a command.
-/

set_option Elab.async false

namespace Sys2Proof

def decodeTableWord (_nbits _w : Nat) : Option Instr := none

end Sys2Proof
end

