-- ==== Sys2Proof/Config.lean ====
section
/-!
DEFINITION. Sys2Proof/Config.lean: what the manual leaves open. Every constant here is opaque: nothing in Lean can
evaluate it, so a claim about it holds for every value. `Config.free*` take the counter State.freeCtr, so that two draws
are independent.
-/

set_option Elab.async false

namespace Sys2Proof.Config

/-- A draw of the entropy source and of the DRBG (R67, R508, R520): 64 open bits. -/
opaque freeWord : Nat → BitVec 64

/-- Result and flag bits of a micro-op whose result the manual bounds but does not fix: EXP2, LOG2, EXP, LOG, TANH,
SIGMOID, ERF (Table 4-11). Arguments: micro-op code, operand pattern, rounding mode, SATMODE. Bits [31:0] the result, bits
[38:32] the flags. -/
opaque freeMicro : Nat → W32 → Nat → Bool → BitVec 39

/-- Which of the values within 1 ulp (RCP) or 2 ulp (RSQRT) of the exact one is written (Table 4-11). -/
opaque freeUlp : Nat → W32 → Nat → Int

/-- RAND: the 24 bits a lane takes from the generator's state (Table 4-11 fixes only range, resolution and generator). -/
opaque freeRand : W32 → BitVec 24

/-- The analog score of a candidate (R365, R76): open. -/
opaque freeScore : Nat → Nat → Int

/-- The eight check bits of a (72,64) SECDED word (R93, R193): the code is not given. -/
opaque secded : BitVec 64 → BitVec 8

/-- The scalar register files and buffers whose content the manual calls undefined: a byte of an output range that overlaps
an input range in a way R109 leaves undefined. -/
opaque freeByte : Nat → BitVec 8

/-- The package ID of the pod's bridge, as a package without BRIDGE knows it (R21 names one; how the others learn it is not
stated). -/
opaque bridgePkg : BitVec 12

/-- The first 64 bits of SHA-256 over output number n of an epoch, as the standby computes it (R444): outputs and their layout are
firmware's. -/
opaque outDigest : Nat → Nat → BitVec 64

/-- The role keys that Maker provisioned: 1 operator, 2 installer, 3 maker (R508). -/
opaque makerKey : Nat → BitVec 256

/-- The fused firmware root, and SHA-256 of the release a package leaves Praond with (R4, R517). -/
opaque fwRoot : List Byte
opaque factoryDigest : List Byte

/-- The identity public key, 60 bytes, and the signature of a message under leaf q (R519): the private key is not given. -/
opaque idPub : List Byte
opaque lmsSign : Nat → List Byte → List Byte

/-- What the body of a configuration image says (R19; its layout is not given): values of management registers by address, the
command timeout, boot plans as (Casement, entries), and the K_OP and K_INST values unwrapped under K_INST (R508). -/
opaque cfgRegs : List Byte → List (Nat × BitVec 64)
opaque cfgTimeout : List Byte → Nat
opaque cfgPlans : List Byte → List (Nat × List Nat)
opaque cfgKeys : List Byte → BitVec 256 → Option (BitVec 256 × BitVec 256)

/-- The bytes of the image that holds Praond's defaults (R4). -/
opaque praondImage : List Byte

/-- Praond's JEDEC manufacturer code and MIPI manufacturer ID (R506, R549). -/
opaque jedecCode : BitVec 11
opaque mipiId : BitVec 15

end Sys2Proof.Config
end

