-- ==== Sys2Proof/Machine/Sparse.lean ====
section
/-!
DEFINITION. Sys2Proof/Machine/Sparse.lean: sparse storage. Memory, SRAM, register windows and per-unit records are lists
of (key, value) pairs in one canonical form: keys strictly rising, and no entry equal to what an unlisted key reads as.
-/

set_option Elab.async false

namespace Sys2Proof.Machine

/-- Sparse storage: (key, value) pairs. -/
abbrev Sparse (α : Type) := List (Nat × α)

/-- The value at key k; d gives what an unlisted key reads as. -/
def sparseGet {α : Type} (d : Nat → α) (m : Sparse α) (k : Nat) : α :=
  match m with
  | [] => d k
  | (k', v) :: rest => if k' = k then v else sparseGet d rest k

/-- The list without the entries of key k. -/
def sparseDrop {α : Type} (m : Sparse α) (k : Nat) : Sparse α :=
  m.filter (fun e => e.1 != k)

/-- Put an entry in front of the first larger key. -/
def sparseInsert {α : Type} (m : Sparse α) (k : Nat) (v : α) : Sparse α :=
  match m with
  | [] => [(k, v)]
  | (k', v') :: rest => if k < k' then (k, v) :: (k', v') :: rest else (k', v') :: sparseInsert rest k v

/-- Write v at key k, keeping the canonical form: the value an unlisted key reads as removes the entry. -/
def sparseSet {α : Type} [DecidableEq α] (d : Nat → α) (m : Sparse α) (k : Nat) (v : α) : Sparse α :=
  if v = d k then sparseDrop m k else sparseInsert (sparseDrop m k) k v

/-- Write the entries of a list with strictly rising keys. -/
def sparsePutAll {α : Type} [DecidableEq α] (d : Nat → α) : Sparse α → Sparse α → Sparse α
  | [], m => m
  | (k, v) :: kvs, m =>
    m.takeWhile (fun e => decide (e.1 < k)) ++ (if v = d k then [] else [(k, v)]) ++
      sparsePutAll d kvs (m.dropWhile (fun e => decide (e.1 ≤ k)))

/-- Keys strictly rising. -/
def sparseSorted {α : Type} : Sparse α → Bool
  | [] => true
  | [_] => true
  | (k, _) :: (k', v') :: rest => decide (k < k') && sparseSorted ((k', v') :: rest)

/-- The canonical form. -/
def sparseWf {α : Type} [DecidableEq α] (d : Nat → α) (m : Sparse α) : Bool :=
  sparseSorted m && m.all (fun e => decide (e.2 ≠ d e.1))

/-- Memory: (address, byte) pairs (Host.Cell). An unlisted byte reads 0: R514 fills all of memory with zeros at every
start-up, and a package reset destroys what it held before. -/
abbrev Memory := List Host.Cell

def memDefault (_ : Nat) : Byte := 0

def memGet (m : Memory) (a : Nat) : Byte := sparseGet memDefault m a

def memSet (m : Memory) (a : Nat) (b : Byte) : Memory := sparseSet memDefault m a b

/-- The canonical form of a memory. -/
def Memory.wf (m : Memory) : Bool := sparseWf memDefault m

/-- n bytes from address a. -/
def memRead (m : Memory) (a n : Nat) : List Byte := (List.range n).map (fun i => memGet m (a + i))

/-- Store the bytes from address a upwards. -/
def memWrite (m : Memory) (a : Nat) : List Byte → Memory
  | [] => m
  | b :: bs => memWrite (memSet m a b) (a + 1) bs

/-- The little-endian value of a list of bytes. -/
def bytesToNat : List Byte → Nat
  | [] => 0
  | b :: bs => b.toNat + 256 * bytesToNat bs

/-- The n low bytes of v, least significant first. -/
def natToBytes (n v : Nat) : List Byte :=
  match n with
  | 0 => []
  | k + 1 => BitVec.ofNat 8 v :: natToBytes k (v / 256)

/-- The 64-bit little-endian word at address a. -/
def memWord (m : Memory) (a : Nat) : Word := BitVec.ofNat 64 (bytesToNat (memRead m a 8))

/-- Store a 64-bit word at address a, little-endian. -/
def memPutWord (m : Memory) (a : Nat) (v : Word) : Memory := memWrite m a (natToBytes 8 v.toNat)

/-- Store words at consecutive 8-byte addresses. -/
def memPutWords (m : Memory) (a : Nat) : List Word → Memory
  | [] => m
  | w :: ws => memPutWords (memPutWord m a w) (a + 8) ws

/-- The 64-bit words of a byte list, little-endian, the last one filled with zeros. -/
def bytesToWords (bs : List Byte) : List Word :=
  (List.range ((bs.length + 7) / 8)).map (fun i => BitVec.ofNat 64 (bytesToNat ((bs.drop (8 * i)).take 8)))

/-- The bytes of a list of words. -/
def wordsToBytes (ws : List Word) : List Byte := ws.flatMap (fun w => natToBytes 8 w.toNat)

/-! ## Bit fields -/

/-- The value of a field of a word. -/
def getField (v : Word) (f : Field) : Nat := v.toNat / 2 ^ f.lo % 2 ^ f.width

/-- The mask of a field. -/
def fieldMask (f : Field) : Word := BitVec.ofNat 64 ((2 ^ f.width - 1) * 2 ^ f.lo)

/-- The word with a field replaced by n modulo 2 to its width. -/
def putField (v : Word) (f : Field) (n : Nat) : Word :=
  (v &&& ~~~ fieldMask f) ||| BitVec.ofNat 64 (n % 2 ^ f.width * 2 ^ f.lo)

/-- A word whose listed fields hold the listed values and whose other bits are 0. -/
def packFields (fs : List (Field × Nat)) : Word := fs.foldl (fun v p => putField v p.1 p.2) 0

/-- The union of the masks of fields. -/
def fieldsMask (fs : List Field) : Word := fs.foldl (fun v f => v ||| fieldMask f) 0

/-- A field read as a signed value. -/
def getSigned (v : Word) (f : Field) : Int :=
  let n := getField v f
  if 2 * n < 2 ^ f.width then (n : Int) else (n : Int) - 2 ^ f.width

/-- The w-bit two's-complement code of an integer. -/
def toCode (w : Nat) (i : Int) : Nat := (i % (2 ^ w : Int)).toNat

/-- n + k, saturating at the largest value of a w-bit counter. -/
def satAdd (w n k : Nat) : Nat := min (n + k) (2 ^ w - 1)

/-- Bit i of a word. -/
def wbit (v : Word) (i : Nat) : Bool := v.getLsbD i

end Sys2Proof.Machine
end

