-- ==== Sys2Proof/Machine/State.lean ====
section
/-!
DEFINITION. Sys2Proof/Machine/State.lean: the state of the package as plain data, the reasons a command can stop, and the
state right after reset. Management registers have one home, `mgmt`, keyed by management address, and bridge registers
`hb`, keyed by BAR0 offset; a register that no entry lists holds the reset value of its register table (Regs.lean). The
records below hold what the manual gives the machine outside its registers.
-/

set_option Elab.async false

namespace Sys2Proof.Machine

/-! ## Why a command can stop -/

/-- Faults of the model: an access outside what exists. None is raised by this model: every address outside the spaces of
the manual has a stated effect (R7, R27, R166). -/
inductive Fault where
  /-- Never raised; safe. -/
  | none
  deriving DecidableEq, Repr

/-- Refusals: commands to which the manual gives no effect. -/
inductive Refusal where
  /-- An arm of Dispatch.lean without a meaning; raised by no meaning; safe. -/
  | notModelled (mnemonic : String)
  /-- MAKER_TEST in lifecycle state MAKER: its parameters and effect are not part of the manual (R432); safe. -/
  | makerTestUnspecified
  deriving DecidableEq, Repr

/-! ## Descriptors and bays (chapters 3 and 4) -/

/-- A descriptor: eight 64-bit words W0 to W7. -/
abbrev Desc := List Word

/-- A descriptor in a unit queue, dispatched and not started. -/
structure Queued where
  idx : Nat
  d : Desc
  /-- Frames slipped so far (R115). -/
  slip : Nat
  deriving DecidableEq, Repr

/-- A descriptor that has started. -/
structure Running where
  idx : Nat
  d : Desc
  startFrame : Nat
  flags : BitVec 8
  slip : Nat
  /-- An overrun boundary passed while it ran (R118). -/
  late : Bool
  /-- Status it will record when it completes, where something already decided it: 4 LINK_DOWN, 5 FAULT. -/
  status : Nat
  /-- Annex packets of LOAD, STORE or SELECT, or packets of a SEND, that are not answered or acknowledged yet. -/
  waiting : Nat
  /-- A SEND whose last packet has launched (R117). -/
  launched : Bool
  deriving DecidableEq, Repr

/-- A posted RECV (R143). -/
structure Posted where
  idx : Nat
  d : Desc
  link : Nat
  flow : Nat
  dst : Nat
  len : Nat
  got : Nat
  startFrame : Nat
  deriving DecidableEq, Repr

/-- Data that arrived with no RECV posted, in order, by (link, flow); credits: pool units it holds (link, vc, units). -/
structure Arrived where
  link : Nat
  vc : Nat
  flow : Nat
  bytes : List Byte
  /-- Event the sender asked to raise when all of LEN has arrived (RSIG), and how many bytes are still to come. -/
  rsig : Option Nat
  deriving DecidableEq, Repr

/-- The micro-program state of a vector unit between micro-ops (R139, R145). -/
structure VecCtx where
  pc : Nat
  /-- Open loops, innermost first: first micro-op of the body and passes left. -/
  loops : List (Nat × Nat)
  /-- Iterations left after the one that runs. -/
  iters : Nat
  ptrs : List Nat
  /-- Buffer format code of each pointer. -/
  pfmt : List Nat
  params : List W32
  deriving DecidableEq, Repr

def VecCtx.idle : VecCtx := { pc := 0, loops := [], iters := 0, ptrs := [0, 0, 0, 0, 0, 0], pfmt := [0, 0, 0, 0, 0, 0],
                              params := [0, 0, 0, 0] }

/-- What a bay holds outside its registers and its SRAM. -/
structure Bay where
  /-- Lane i of vector register v at key v * 256 + i. -/
  vregs : Sparse (BitVec 32)
  /-- Microprogram slots: the 32-bit micro-ops up to HALT. -/
  uprog : Sparse (List (BitVec 32))
  /-- Fetched and not dispatched (R104), with their stream index. -/
  prefetch : List (Nat × Desc)
  qMat : List Queued
  qVec : List Queued
  qData : List Queued
  qXchg : List Queued
  rMat : Option Running
  rVec : Option Running
  rData : Option Running
  rXchg : Option Running
  /-- SENDs that have launched their last packet and wait for acknowledgement (R117). -/
  acking : List Running
  /-- A dispatched WAIT_EVENT, FENCE or FRAME_MARK that still waits, and the frame boundaries it has seen (R127). -/
  control : Option Running
  ctlFrames : Nat
  recvs : List Posted
  arrived : List Arrived
  /-- After HALT or a step fence: data for the cleared RECVs is discarded (R151, R481). -/
  discard : Bool
  /-- Frame boundaries without a start or a completion (R130). -/
  stall : Nat
  /-- A descriptor started or completed since the last boundary. -/
  progress : Bool
  /-- The step-end FRAME_MARK has been reported (R129). -/
  stepEnded : Bool
  /-- Row the scrubber visits next (R96). -/
  scrubRow : Nat
  /-- Cells corrected in the pass before this one, as bank * 4096 + row (R96), and in this pass. -/
  scrubPrev : List Nat
  scrubThis : List Nat
  /-- Spare rows used: (bank, row). -/
  remaps : List (Nat × Nat)
  /-- Rows served from the BIST buffer until remapped (R502). -/
  bistRow : Option (Nat × Nat)
  /-- Row the next SRAM slice tests in every bank (Table 17-4). -/
  slicePos : Nat
  /-- Lanes that faulted in an attempt whose replay has not completed (R92). -/
  faultLanes : List Nat
  /-- Tile whose rotation slice is under way. -/
  sliceTile : Option Nat
  vctx : VecCtx
  /-- Parts of a microprogram read so far, by offset (R147). -/
  parts : List (Nat × List Byte)
  deriving DecidableEq, Repr

def Bay.init : Bay :=
  { vregs := [], uprog := [], prefetch := [], qMat := [], qVec := [], qData := [], qXchg := [], rMat := none, rVec := none,
    rData := none, rXchg := none, acking := [], control := none, ctlFrames := 0, recvs := [], arrived := [],
    discard := false, stall := 0, progress := false, stepEnded := false, scrubRow := 0, scrubPrev := [], scrubThis := [],
    remaps := [], bistRow := none, slicePos := 0, faultLanes := [], sliceTile := none,
    vctx := VecCtx.idle, parts := [] }

/-! ## Steps (chapters 4, 14 and 16) -/

/-- One bay entry of a step (R433). -/
structure StepBay where
  bay : Nat
  stream : Nat
  length : Nat
  start : Nat
  cring : BitVec 64
  jrnl : BitVec 64
  deriving DecidableEq, Repr

/-- Where a step stands. -/
inductive StepPhase where
  /-- Accepted; its base frame has not begun. -/
  | pending
  | running
  /-- Fenced: the base frame of its replay is not reached. -/
  | fenced
  deriving DecidableEq, Repr

structure Step where
  num : Nat
  base : Nat
  bays : List StepBay
  publish : Nat
  phase : StepPhase
  /-- Replays begun (R482). -/
  replays : Nat
  /-- Cause coded as BAY_SEQ_STATUS.LAST_STOP. -/
  cause : Nat
  /-- A LEAD of 0xFFFF is in force: STEP_RESUME sets the base (R480). -/
  longLead : Bool
  /-- (TAG, ORIGIN, RING) of the STEP_START, for APPLIED. -/
  tag : Nat
  origin : Nat
  ring : Nat
  /-- Bays of the attempt that was fenced last: their packets keep the step from being ready (R481). -/
  old : List Nat
  /-- FRAME of the last fence record: STEP_RESUME of a long lead takes its own (R480). -/
  frame : Nat
  deriving DecidableEq, Repr

/-! ## Memory side (chapters 5 to 7) -/

/-- A queue of the Cellar (R190, R191): bytes of its head and tail buffers, the lines of its middle as (address, sequence
number), the segments it holds, the byte lengths of its entries in order, and the next sequence number. -/
structure Queue where
  head : List (BitVec 8)
  mid : List (Nat × Nat)
  tail : List (BitVec 8)
  segs : List Nat
  /-- Lines used in the newest segment. -/
  used : Nat
  lens : List Nat
  seq : Nat
  /-- Bytes of a dropped entry that still lie ahead in the middle or the tail (Table 6-1). -/
  skip : Nat
  deriving DecidableEq, Repr

def Queue.empty : Queue :=
  { head := [], mid := [], tail := [], segs := [], used := 0, lens := [], seq := 0, skip := 0 }

/-- A pending region, window or model change (R170), in arrival order. -/
inductive RegionChange where
  | setRegion (n : Nat) (base attr : BitVec 64)
  | clearRegion (n : Nat)
  | setWindow (k : Nat) (cfg map peer : BitVec 64)
  | clearWindow (k : Nat)
  | flush (n : Nat)
  deriving DecidableEq, Repr

/-- A pending change with the command that asked for it: APPLIED follows when it takes effect, where it was deferred. -/
structure PendingChange where
  change : RegionChange
  opcode : Nat
  tag : Nat
  origin : Nat
  ring : Nat
  deferred : Bool
  deriving DecidableEq, Repr

/-- A line of a Larder: set and tag from its device address, and its 256 bytes. Listed least recently used first. -/
structure LarderLine where
  line : Nat
  data : List (BitVec 8)
  deriving DecidableEq, Repr

/-- A lease (R222): handle, frame it ends, and the pins it took: the entry's place (wing * 131072 + set * 8 + way), and its key. -/
structure Lease where
  handle : Nat
  ends : Nat
  pins : List (Nat × Nat)
  deriving DecidableEq, Repr

/-- A role change of a wing that waits for its boundary, with its command (R209). -/
structure RoleChange where
  wing : Nat
  role : Nat
  tag : Nat
  origin : Nat
  ring : Nat
  deferred : Bool
  deriving DecidableEq, Repr

/-- A Pantry entry: its four words (Table 7-2). -/
structure PantryEntry where
  w0 : BitVec 64
  w1 : BitVec 64
  w2 : BitVec 64
  w3 : BitVec 64
  deriving DecidableEq, Repr

/-- A request through an Annex window that its peer has not answered (R229), of a bay's data engine, or of the Hearth (bay
144), which restores journalled rows behind a window (R156). -/
structure AnnexReq where
  link : Nat
  /-- TAG of its packets. -/
  seq : Nat
  bay : Nat
  write : Bool
  /-- Device address here, and peer-local address. -/
  src : Nat
  da : Nat
  /-- Bytes asked for or written, and the bytes of a write. -/
  len : Nat
  data : List Byte
  /-- Of the bytes read, those the descriptor moves. -/
  skip : Nat
  take : Nat
  /-- Bay SRAM offset a read goes to, or its offset in a microprogram. -/
  sram : Nat
  /-- Formats of a converting LOAD: memory and SRAM code. -/
  conv : Option (Nat × Nat)
  /-- The microprogram slot of a LOAD with UPROG. -/
  uprog : Option Nat
  /-- The Larder that takes the line read. -/
  fill : Option Nat
  /-- The place in the journal a pre-image goes to, and the row of its STORE. -/
  jrnl : Option (Nat × Nat)
  /-- The bytes that land are open (R109). -/
  undef : Bool
  deriving DecidableEq, Repr

/-- A memory operation of MEM_FILL or MEM_COPY (chapter 14). -/
structure MemOp where
  opcode : Nat
  src : Nat
  dst : Nat
  bytes : Nat
  pattern : BitVec 64
  tag : Nat
  origin : Nat
  ring : Nat
  deriving DecidableEq, Repr

/-! ## Hearth (chapters 14 and 15) -/

/-- A command taken and not answered (R422, R430). -/
structure ActiveCmd where
  tag : Nat
  origin : Nat
  ring : Nat
  opcode : Nat
  target : Nat
  started : Nat
  /-- It was forwarded and waits for its target's reply. -/
  sent : Bool
  /-- It was answered TIMEOUT: a later reply is dropped (R430). -/
  dead : Bool
  /-- Packages whose answer to a broadcast HALT is due, those reached, and whether one answered otherwise than OK (R431). -/
  awaits : List Nat
  reached : Nat
  bad : List Nat
  deriving DecidableEq, Repr

/-- A challenge that AUTH_CHALLENGE issued on a ring (R509). -/
structure Challenge where
  ring : Nat
  role : Nat
  nonce : List (BitVec 64)
  frame : Nat
  deriving DecidableEq, Repr

/-- A remembered command with its reply entry (R422). -/
structure Remembered where
  tag : Nat
  origin : Nat
  ring : Nat
  reply : List (BitVec 64)
  deriving DecidableEq, Repr

/-- A Hearth message waiting to leave (R429). -/
structure OutMsg where
  dst : Nat
  kind : Nat
  tag : Nat
  origin : Nat
  ring : Nat
  body : List (BitVec 64)
  deriving DecidableEq, Repr

/-! ## Links, lasers, timebase (chapters 8 to 11) -/

/-- A sequenced packet sent and not acknowledged: SEQ, VC, its bytes as queued (ACK, CR and CRC are filled at launch), and
the SEND it belongs to as (bay, stream index). -/
structure OutPkt where
  seq : Nat
  vc : Nat
  bytes : List (BitVec 8)
  owner : Option (Nat × Nat)
  replayed : Bool
  deriving DecidableEq, Repr

/-- A packet whose transmit queue is at its limit: the producer stalls (Table 6-1). Pool units of a
link to free once it is queued. -/
structure StalledPkt where
  vc : Nat
  bytes : List (BitVec 8)
  owner : Option (Nat × Nat)
  freeLink : Nat
  freeVc : Nat
  freeUnits : Nat
  deriving DecidableEq, Repr

/-- A lane map that a notice names, and the frame it takes effect (R278, R279). -/
structure MapChange where
  epoch : Nat
  serial : Nat
  map : List Nat
  deriving DecidableEq, Repr

/-- What a link holds outside its registers (chapter 11). -/
structure LinkSt where
  out : List OutPkt
  /-- SENDs of the packets in the transmit queues, in queue order, by VC. -/
  own : List (Nat × Option (Nat × Nat))
  stalled : List StalledPkt
  /-- SEQs due for replay, oldest first (R337). -/
  replay : List Nat
  /-- Pool units freed and not returned, by VC (R342). -/
  freed : List Nat
  /-- ACK_ONLY is due at the head of the next burst (R334). -/
  ackDue : Bool
  /-- Frame boundaries in the present state. -/
  frames : Nat
  /-- Consecutive frames without light; light seen, and a burst expected, in the present frame (R351). -/
  dark : Nat
  lit : Bool
  expected : Bool
  rtId : Nat
  /-- RT_ID of the re-train answered last (R348). -/
  answered : Option Nat
  snapRx : Nat
  snapOcc : List Nat
  peerPool : Nat
  peerRes : Nat
  peerCap : Nat
  /-- HRT_SERIAL of the trained peer (Table 11-7). -/
  peerSerial : BitVec 64
  /-- Replay-timer firings without progress (R337, R338). -/
  firings : Nat
  /-- The peer's OFFER that passed the checks, and both ACCEPTs (R346). -/
  offer : Option TrainMsg
  accSent : Bool
  accGot : Option TrainMsg
  /-- Channels the peer has excluded, and channels this end's receive side cannot use. -/
  exclTx : BitVec 18
  exclRx : BitVec 18
  /-- Channels the peer has asked to vacate and not to restore (R278). -/
  vacTx : BitVec 18
  txPend : Option MapChange
  rxPend : Option MapChange
  /-- A re-train trigger that came while ACKED (R358). -/
  again : Bool
  /-- LINK_STATE waiting for the next boundary: enable, and its command. -/
  want : Option (Bool × Nat × Nat × Nat)
  /-- LINK_WIDTH waiting for the next boundary: PAIRS_M1, FEC, and its command. -/
  width : Option (Nat × Nat × Nat × Nat × Nat)
  /-- LINK_RETRAIN and LINK_WIDTH commands whose re-train runs: opcode, TAG, ORIGIN, RING. -/
  waits : List (Nat × Nat × Nat × Nat)
  /-- PAIRS_M1 and FEC this end asks for in the re-train. -/
  ask : Option (Nat × Nat)
  /-- Peers of the peer's links (R353). -/
  neighbours : List Nat
  /-- Segments of Hearth messages received so far, by source package (R429). -/
  parts : List (Nat × List (BitVec 64))
  /-- Packets launched and accepted since the last acknowledgement, for R334. -/
  idle : Bool
  deriving DecidableEq, Repr

def LinkSt.init : LinkSt :=
  { out := [], own := [], stalled := [], replay := [], freed := [0, 0, 0, 0, 0, 0, 0, 0], ackDue := false, frames := 0,
    dark := 0, lit := false, expected := false, rtId := 0, answered := none, snapRx := 0,
    snapOcc := [0, 0, 0, 0, 0, 0, 0, 0], peerPool := 0, peerRes := 0, peerCap := 0, peerSerial := 0, firings := 0, offer := none, accSent := false,
    accGot := none, exclTx := 0, exclRx := 0, vacTx := 0, txPend := none, rxPend := none, again := false, want := none, width := none,
    waits := [], ask := none, neighbours := [], parts := [], idle := false }

/-- A rotating calibration in progress (R287, R288). -/
inductive CalPhase where
  | idle
  /-- Waiting for the lane to leave the ring's channel; frame it started. -/
  | vacating (since : Nat)
  /-- The ring is in CAL. -/
  | cal
  deriving DecidableEq, Repr

/-- Where an Attic swap stands (R269): 0 the Attic laser wakes, 1 it sweeps, 2 its verification window runs, 3 verified, 4 ready
for the hall slot. -/
structure Swap where
  chan : Nat
  attic : Nat
  stage : Nat
  deriving DecidableEq, Repr

/-- What a Casement holds outside its registers (chapters 8 to 10). -/
structure CsmSt where
  /-- Rings ahead of the rotation (R289): their drop rings go first. -/
  calFirst : List Nat
  calPhase : CalPhase
  /-- Frame the next calibration starts. -/
  calDue : Nat
  /-- Next ring of the rotation (R287). -/
  calPos : Nat
  /-- Lanes moved off the ring's channel: link, logical lane. -/
  moved : List (Nat × Nat)
  /-- Attic swaps in progress (R269). -/
  swaps : List Swap
  /-- Attic lasers that LASER_SET has disabled (R291). -/
  atticOff : List Nat
  /-- Lasers whose bias was at its limit when last measured (R266). -/
  atLimit : List Nat
  /-- Presence contact closed for 1 s: DARK clears at the next boundary (R244). -/
  faStable : Bool
  /-- Consecutive DATA slots of wrong peer or no light, by fibre (R322). -/
  mismatch : Sparse Nat
  /-- Tone window position of the audit (R285). -/
  auditRing : Nat
  /-- Engines fenced by a mesh fault: transmit 0-7, receive 8-15; fibres: transmit 0-15, receive 16-31. -/
  meshEng : List Nat
  meshFib : List Nat
  /-- The delays of the last 16 exchanges of each pair, newest first (R311). -/
  delays : Sparse (List Nat)
  /-- Training offset A0 of each transmit fibre (R311). -/
  offsets : Sparse Nat
  /-- Last record received on each receive fibre, which the next record echoes: its TX_FRAME and TX_SUB, its arrival's frame and
  offset (Table 10-2). -/
  lastRec : List (Nat × Nat × Nat × Nat × Nat)
  /-- Plan entries whose bursts a re-train has put in conflict (R321). -/
  dropped : List Nat
  /-- The channel that is dark for the present hall slot (R271). -/
  dark : Option Nat
  deriving DecidableEq, Repr

def CsmSt.init : CsmSt :=
  { calFirst := [], calPhase := .idle, calDue := 848, calPos := 0, moved := [], swaps := [], atticOff := [], atLimit := [], faStable := false, mismatch := [],
    auditRing := 0, meshEng := [], meshFib := [], delays := [], offsets := [], lastRec := [], dropped := [], dark := none }

/-- A package heard over timing records (R302 to R309), by package, its latest record. -/
structure Heard where
  pkg : Nat
  candidate : Bool
  master : Bool
  aligned : Bool
  masterId : Nat
  stratum : Nat
  /-- Frame it was heard last, and since when it is ALIGNED. -/
  frame : Nat
  alignedAt : Option Nat
  /-- An echo has come back: records are exchanged with it. -/
  exchanged : Bool
  /-- Its frame counter less this package's. -/
  delta : Nat
  deriving DecidableEq, Repr

/-- The timebase outside its registers (R302 to R310). -/
structure BeatSt where
  heard : List Heard
  /-- Frame the present state was entered. -/
  since : Nat
  /-- Frame of the last usable exchange with the reference. -/
  lastRef : Nat
  /-- Exchanges of the filter, newest first (25 ps), and consecutive ones within 1.0 ns. -/
  offsets : List Int
  within : Nat
  /-- A handover announced: the frame it applies, and the new master. -/
  handover : Option (Nat × Nat)
  /-- FSYNC_IGNORED has been recorded since reset (R310). -/
  fsyncNoted : Bool
  /-- Fibre pairs over which a conflicting timebase was heard (R309): Casement, pair. -/
  conflicts : List (Nat × Nat)
  deriving DecidableEq, Repr

def BeatSt.init : BeatSt :=
  { heard := [], since := 0, lastRef := 0, offsets := [], within := 0, handover := none, fsyncNoted := false,
    conflicts := [] }

/-- A pending plan load or delta list (R317 to R319), its entries as (Casement, index, entry); a load's Casements. -/
structure PlanChange where
  frame : Nat
  load : Bool
  csms : List Nat
  entries : List (Nat × Nat × Nat)
  opcode : Nat
  tag : Nat
  origin : Nat
  ring : Nat
  deriving DecidableEq, Repr

/-- A power change of a unit of Table 15-5, named by its locator (R462, R463): it waits for its boundary, or runs (busy). An opposite
request that comes while it runs is next. Commands as (opcode, TAG, ORIGIN, RING). -/
structure PowerJob where
  unit : Nat
  on : Bool
  busy : Bool
  /-- Frame boundaries since it began to run. -/
  frames : Nat
  next : Option Bool
  cmd : Option (Nat × Nat × Nat × Nat)
  nextCmd : Option (Nat × Nat × Nat × Nat)
  deriving DecidableEq, Repr

/-- A pending SETTLE_SET or a quiet period (R324). -/
structure SettleChange where
  csm : Nat
  engine : Nat
  settle : Bool
  frame : Nat
  /-- The change has applied; its quiet period runs. -/
  quiet : Bool
  tag : Nat
  origin : Nat
  ring : Nat
  deriving DecidableEq, Repr

/-! ## The package -/

/-- Where the package stands between reset and READY (chapters 17 and 18). -/
inductive PkgMode where
  /-- No PWRGOOD, or RESET_N asserted, or start-up not begun. -/
  | off
  /-- START_UP has run S1 to S8; S9 to S11 are under way. -/
  | starting
  /-- INIT after firmware verification, while a trip record is unacknowledged (R468). -/
  | initHold
  /-- A critical power-up failure (R497). -/
  | safeHold
  | ready
  deriving DecidableEq, Repr

/-- A reload record of a fallback plan in progress (Table 16-5): bytes still to come. -/
structure Reload where
  plan : Nat
  da : Nat
  srcPkg : Nat
  srcAddr : Nat
  bytes : Nat
  left : Nat
  deriving DecidableEq, Repr

/-- A stored firmware image: what its header says and what verifying it at a boot finds, coded as HRT_START.A_FAIL (1 OK,
3 ROOT, 4 SIGNATURE, 5 BODY_HASH); SHA-256 of the image. -/
structure FwImage where
  verdict : Nat
  svn : Nat
  version : BitVec 64
  digest : List (BitVec 8)
  deriving DecidableEq, Repr

/-- A configuration image: erased, Praond's defaults as a package leaves Praond (R4), or the bytes that CONFIG_WRITE stored. -/
inductive CfgImage where
  | erased
  | praond
  | image (bytes : List (BitVec 8))
  deriving DecidableEq, Repr

/-- What the NV store keeps over a package reset. -/
structure NvStore where
  /-- UNIT and FATAL fault records, oldest first, at most 256 (R473). -/
  history : List (List (BitVec 64))
  /-- Lifecycle state (Table 17-7): 0 MAKER, 1 SEALED, 2 INSTALLED, 3 SERVICE, 4 RETIRED. -/
  lifecycle : Nat
  /-- Channel retirements (R185 to R188): stack, channel, copy done. -/
  retired : List (Nat × Nat × Bool)
  /-- Grid lasers retired after an Attic swap (R273): Casement, channel. -/
  grids : List (Nat × Nat)
  /-- Attic lasers assigned to channels: Casement, channel, Attic laser. -/
  attics : List (Nat × Nat × Nat)
  /-- Attic lasers fenced: Casement, Attic laser. -/
  atticsFenced : List (Nat × Nat)
  /-- Retired ring loops (R283): Casement, ring. -/
  rings : List (Nat × Nat)
  /-- Commissioned outputs: Casement * 32 + laser, with 0x8000 where never commissioned (Table 9-15). -/
  comm : Sparse (BitVec 16)
  /-- Crossing counts of the last locks: Casement * 512 + ring (Table 9-19). -/
  xcounts : Sparse (BitVec 8)
  /-- Epoch recorded last (R447). -/
  epoch : Nat
  /-- Words of the trip record (Table 15-7), [] for none, and the lifetime trips (R467, R468). -/
  trip : List (BitVec 64)
  trips : Nat
  /-- Repair records, W0 and W1 (Table 17-6). -/
  repairs : List (BitVec 64 × BitVec 64)
  /-- The newest 4,096 audit records, oldest first, and the SEQ of the next (Table 17-12). -/
  audit : List (List (BitVec 64))
  auditSeq : Nat
  /-- Role keys; none: the key Maker provisioned. Key state of SEC_STATUS: 0 ABSENT, 1 PROVISIONED, 2 ZERO. -/
  kOp : Option (BitVec 256)
  kInst : Option (BitVec 256)
  kMaker : Option (BitVec 256)
  keys : Nat
  /-- Next leaf of the identity key (R519). -/
  nextQ : Nat
  fwA : FwImage
  fwB : FwImage
  svnFw : Nat
  svnCfg : Nat
  cfg : CfgImage
  /-- SHA-256 of the bound configuration signer's PUBKEY (R518). -/
  signer : Option (List (BitVec 8))
  /-- Boot record (R528): Porch lane roles and BRIDGE. -/
  bootRoles : BitVec 64
  bootBridge : Bool
  /-- Scan was left: SCAN_EXIT is written at the next boot (R507). -/
  scanExit : Bool
  /-- Rail of the last undervoltage reset plus 1 (PWR_STATUS.UV_RAIL). -/
  uvRail : Nat
  deriving DecidableEq, Repr

def NvStore.init : NvStore :=
  { history := [], lifecycle := 1, retired := [], grids := [], attics := [], atticsFenced := [], rings := [], comm := [],
    xcounts := [], epoch := 0, trip := [], trips := 0, repairs := [], audit := [], auditSeq := 0, kOp := none, kInst := none,
    kMaker := none, keys := 1, nextQ := 0, fwA := { verdict := 1, svn := 0, version := 0, digest := Config.factoryDigest },
    fwB := { verdict := 1, svn := 0, version := 0, digest := Config.factoryDigest }, svnFw := 0, svnCfg := 0, cfg := .praond, signer := none,
    bootRoles := 0, bootBridge := false, scanExit := false, uvRail := 0 }

/-- Fuses (R1 to R3, Table 1-6, Tables 8-11 and 13-8). -/
structure Fuses where
  rev : Nat
  /-- 1 = S1, 2 = S2. -/
  grade : Nat
  guestMask : Nat
  guestCode : Nat
  serial : BitVec 64
  /-- EIC and PIC revision and feature level of each Casement. -/
  csmId : List (Nat × Nat × Nat)
  /-- HRT_FEATURE.FLOOR. -/
  floor : Nat
  deriving DecidableEq, Repr

/-- RV4812-S1-G0-F, assembly revision 1 (log entry 2). -/
def Fuses.init : Fuses :=
  { rev := 1, grade := 1, guestMask := 0, guestCode := 0, serial := 1, csmId := List.replicate 8 (1, 1, 1), floor := 1 }

/-! ## Hearth pair, attachments, Skylight, self-test (chapters 12, 13, 15 and 17) -/

/-- The Hearth pair outside HRT_HSTATUS: frame boundaries since the last heartbeat of the active Hearth, and whether one arrived
in the present frame (R449); HEARTH_MISSING's replaced Hearth still runs (R450). -/
structure PairSt where
  silent : Nat
  heard : Bool
  stale : Bool
  deriving DecidableEq, Repr

/-- One end of a die-to-die attachment, the base die's (chapter 13). -/
structure AttachSt where
  /-- FSEQ of the next flit sent and of the next expected; a flit has been accepted. -/
  txNext : Nat
  rxNext : Nat
  rxAny : Bool
  /-- Flits sent and not acknowledged, oldest first, with their FSEQ; replays of the oldest (R388). -/
  unacked : List (Nat × List (BitVec 64))
  replays : Nat
  /-- Units waiting to be sent: (VC, first of a packet, its bytes). -/
  out : List (Nat × Bool × List (BitVec 8))
  /-- Units outstanding at the other end, by VC (R389). -/
  used : List Nat
  /-- Units of the packet being received, and words of the Hearth message being received. -/
  part : List (BitVec 8)
  msg : List (BitVec 64)
  /-- A frame-counter flit is due (R387). -/
  frameDue : Bool
  /-- The base die's last report, the other end's last report (SERIAL, MODULES, X32, RETRAINED), the serial sent last (R392). -/
  mine : Option (Nat × Nat)
  peer : Option (Nat × Nat × Nat × Bool)
  serial : Nat
  /-- SERIAL of the newest report received since the last full reset. -/
  peerSerial : Option Nat
  /-- The one re-train of R393 has begun. -/
  retrained : Bool
  /-- D2D_WIDTH_MISMATCH has led to a full reset; it runs now. -/
  fullReset : Bool
  resetting : Bool
  /-- Traffic runs. -/
  live : Bool
  deriving DecidableEq, Repr

def AttachSt.init : AttachSt :=
  { txNext := 0, rxNext := 0, rxAny := false, unacked := [], replays := 0, out := [], used := [0, 0, 0, 0, 0, 0, 0, 0],
    part := [], msg := [], frameDue := false, mine := none, peer := none, serial := 0, peerSerial := none, retrained := false,
    fullReset := false, resetting := false, live := false }

/-- A Skylight engine outside its registers (chapter 12). -/
structure SkySt where
  /-- Mailbox records the last scan found and that are not answered yet, in ascending index; the first is the running job. -/
  found : List Nat
  /-- The running job: its record as first read, and the frame it started. -/
  job : Option (List (BitVec 64) × Nat)
  /-- The weight buffer and the scale store: 4,160 bytes by slot. -/
  mats : Sparse (List (BitVec 8))
  /-- Calibrations due at the next job boundary: periodic, drift, carrier, command (as LAST_CAL). -/
  due : List Nat
  /-- Cause of the calibration that runs. -/
  cal : Option Nat
  /-- SKY_CAL commands that wait: TAG, ORIGIN, RING. -/
  cmds : List (Nat × Nat × Nat)
  /-- A calibration has completed since the carrier became ACTIVE. -/
  tuned : Bool
  /-- TIMEOUT expired while the engine calibrates (Table 12-7). -/
  expired : Bool
  deriving DecidableEq, Repr

def SkySt.init : SkySt :=
  { found := [], job := none, mats := [], due := [], cal := none, cmds := [], tuned := true, expired := false }

/-- A pending change of a wing's operating point (R458), with its command, and the frame boundaries since it was asked for. -/
structure PointChange where
  wing : Nat
  target : Nat
  frames : Nat
  cmd : Option (Nat × Nat × Nat × Nat)
  deriving DecidableEq, Repr

/-- The instruction in force in the JTAG port (R506, R507). -/
inductive JtagIr where
  | bypass | idcode | sample | extest | scan
  deriving DecidableEq, Repr

/-- The JTAG port and the reset land: what its instruction drives or captured. -/
structure JtagSt where
  ir : JtagIr
  /-- TRST_N is low. -/
  trst : Bool
  /-- Levels of the boundary register, which EXTEST drives onto the lands while RESET_N is asserted. -/
  drive : List Bool
  /-- Internal scan is in control. -/
  scan : Bool
  /-- The data register last captured for TDO. -/
  tdo : Nat
  deriving DecidableEq, Repr

/-- The state of the package. -/
structure State where
  /-- Commands that wait, first in, first out. -/
  pending : List Instr
  /-- Draws of open values so far: the model's own field, the argument of Config.freeWord. -/
  freeCtr : Nat
  fuse : Fuses
  /-- Management registers by management address; unlisted: the reset value. -/
  mgmt : Sparse (BitVec 64)
  /-- Bridge registers and the MSI-X table by BAR0 offset. -/
  hb : Sparse (BitVec 64)
  /-- Command-ring memory: BAR0 offsets 0 to 0xF_FFFF. -/
  ringMem : Memory
  /-- Stacked memory by local device address. -/
  mem : Memory
  /-- Bay SRAM: bay index * 2^24 + offset. -/
  sram : Memory
  /-- Host memory: the bridge's DMA reads and writes it. -/
  hostMem : Memory
  bays : Sparse Bay
  steps : List Step
  /-- Publish lists of committed steps that are not applied yet (R224): step and list address. -/
  publishes : List (Nat × Nat)
  /-- Fenced units with the fault code that fenced them, as (locator, code). -/
  fences : List (Nat × Nat)
  /-- Indices of the fault log's used entries, oldest first, and those among them that are cleared (R473). -/
  logOrder : List Nat
  logCleared : List Nat
  queues : Sparse Queue
  changes : List PendingChange
  larders : Sparse (List LarderLine)
  pantry : Sparse PantryEntry
  leases : List Lease
  /-- PANTRY_EVICT commands that returned DEFERRED (R219): place, key, TAG, ORIGIN, RING. -/
  evicts : List (Nat × Nat × Nat × Nat × Nat)
  /-- Role changes that wait, at most one for each wing. -/
  roles : List RoleChange
  annexReqs : List AnnexReq
  /-- Pre-images of rows behind a window that a restore still has to send (R156). -/
  restores : List (Nat × List Byte)
  memOps : List MemOp
  active : List ActiveCmd
  dups : List Remembered
  /-- Highest EPOCH received from each package (R421). -/
  peerEpochs : Sparse Nat
  /-- Authentication: open challenges, consecutive DENIED responses, and the frame a lockout ends (R509, R510). -/
  challenges : List Challenge
  denials : Nat
  lockout : Option Nat
  /-- Role and data address of the I3C channel (R536). -/
  i3cRole : Nat
  i3cAddr : Nat
  outbox : List OutMsg
  /-- Passes of each host event ring completed, modulo 2 (PHASE, R426). -/
  evqPass : Sparse Nat
  /-- MSI-X messages whose vector was masked, as the pending bit array (Table 14-1). -/
  msixPending : List Nat
  nv : NvStore
  mode : PkgMode
  /-- The thermal-trip clamp holds every regulator (R467). -/
  clamped : Bool
  /-- A PACKAGE_RESET reaction is due (R473, Table 16-3). -/
  resetPend : Bool
  /-- Units whose BLOCK_RESET reaction is due, by locator. -/
  blockResets : List Nat
  /-- Slot parts of selected fallback plans: Casement, address of the plan's entries, frame they apply (R485). -/
  slotParts : List (Nat × Nat × Nat)
  reloads : List Reload
  /-- UNFENCE commands deferred until the base frame of a recovery (R491): locator, TAG, ORIGIN, RING. -/
  unfences : List (Nat × Nat × Nat × Nat)
  /-- Fence records already forwarded, by PKG, CODE, LOCATOR and FRAME (R479). -/
  seenRecords : List (Nat × Nat × Nat × Nat)
  /-- Replies and APPLIED entries for a guest site (RING 16 to 19) and for the I3C channel (RING 20), newest last. -/
  locals : Sparse (List (List (BitVec 64)))
  /-- Configuration space by dword offset (R412). -/
  pci : Sparse (BitVec 32)
  links : Sparse LinkSt
  csms : Sparse CsmSt
  beat : BeatSt
  plans : List PlanChange
  settles : List SettleChange
  /-- Power changes pending or running, one for each unit. -/
  power : List PowerJob
  /-- TAG of the next Annex request (Table 11-3). -/
  nextTag : Nat
  /-- The configuration image in force (R19). -/
  cfgNow : CfgImage
  /-- What the start under way brings, until READY (R468), and the frame boundaries since its S8 completed. -/
  startEnv : Option StartEnv
  bootFrame : Nat
  /-- A LIFECYCLE_SET that waits for the steps in flight (R515): state, TAG, ORIGIN, RING. -/
  lifePend : Option (Nat × Nat × Nat × Nat)
  /-- RESET_N is asserted. -/
  resetLow : Bool
  jtag : JtagSt
  /-- ADDR_SEL straps as sampled, dynamic I3C address, and the status block as last written (Table 17-3). -/
  straps : Nat
  i3cDyn : Option Nat
  i3cBlock : List (BitVec 64)
  pair : PairSt
  /-- A reseed waits for a sample: in HA, in HB (R505); the commands whose DRBG request waits. -/
  drbgA : Bool
  drbgB : Bool
  drbgWait : List Cmd
  /-- SEC_ENTROPY of the Hearth that is not active. -/
  entropyOther : BitVec 64
  attach : Sparse AttachSt
  /-- What the last access to a guest-die window answered (R402). -/
  guestAnswer : BitVec 64
  sky : Sparse SkySt
  /-- Frame of the last slice, and the set the next one tests, of each kind and unit (R499): bay tile slices 0-143, bay SRAM
  144-287, Larders 288-299, Pantries 300-303. -/
  sliceAt : Sparse Nat
  slicePos : Sparse Nat
  /-- Rows of the base-die SRAMs served from a BIST buffer, and those remapped: unit (as sliceAt), bank, row. -/
  baseBist : List (Nat × Nat × Nat)
  baseRemaps : List (Nat × Nat × Nat)
  /-- Larders and Pantries that a repair disables (Table 17-2, R504), as sliceAt. -/
  baseOff : List Nat
  /-- Scrubber candidates whose rows are tested first (R96): bay, bank, row. -/
  candidates : List (Nat × Nat × Nat)
  /-- Sensors excluded (R465): CHM unit, sensor. -/
  excluded : List (Nat × Nat)
  /-- Consecutive frames at cap step 8 over the cap (R460). -/
  capHigh : Nat
  points : List PointChange
  /-- Engines switched off, by locator (Table 15-5). -/
  enginesOff : List Nat
  /-- FAULT_INJECT is raising its fault: records carry INJECTED (R493). False between commands. -/
  injecting : Bool
  deriving DecidableEq, Repr

def bayDefault (_ : Nat) : Bay := Bay.init
def queueDefault (_ : Nat) : Queue := Queue.empty
def larderDefault (_ : Nat) : List LarderLine := []
def localsDefault (_ : Nat) : List (List (BitVec 64)) := []
def linkDefault (_ : Nat) : LinkSt := LinkSt.init
def csmDefault (_ : Nat) : CsmSt := CsmSt.init
def attachDefault (_ : Nat) : AttachSt := AttachSt.init
def skyDefault (_ : Nat) : SkySt := SkySt.init
def zeroDefault (_ : Nat) : Nat := 0
def pciDefault (_ : Nat) : BitVec 32 := 0
def pantryDefault (_ : Nat) : PantryEntry := { w0 := 0, w1 := 0, w2 := 0, w3 := 0 }

/-- The state right after reset, before START_UP: registers at the reset values of their tables, every memory wiped. -/
def State.reset : State :=
  { pending := [], freeCtr := 0, fuse := Fuses.init, mgmt := [], hb := [], ringMem := [], mem := [], sram := [],
    hostMem := [], bays := [], steps := [], publishes := [], fences := [], logOrder := [], logCleared := [], queues := [], changes := [],
    larders := [], pantry := [], leases := [], evicts := [], roles := [], annexReqs := [], restores := [], memOps := [], active := [], dups := [], peerEpochs := [],
    challenges := [], denials := 0, lockout := none, i3cRole := 0, i3cAddr := 0,
    outbox := [], evqPass := [], msixPending := [], locals := [], pci := [], nv := NvStore.init, mode := .off, clamped := false, resetPend := false,
    blockResets := [], slotParts := [], reloads := [], unfences := [], seenRecords := [], links := [], csms := [],
    beat := BeatSt.init, plans := [], settles := [], power := [], nextTag := 0, cfgNow := .erased, startEnv := none, bootFrame := 0,
    lifePend := none, resetLow := true, jtag := { ir := .idcode, trst := false, drive := [], scan := false, tdo := 0 }, straps := 0,
    i3cDyn := none, i3cBlock := [1, 0], pair := { silent := 0, heard := false, stale := false }, drbgA := false, drbgB := false,
    drbgWait := [], entropyOther := 0, attach := [], guestAnswer := 0, sky := [], sliceAt := [], slicePos := [], baseBist := [], baseRemaps := [], baseOff := [],
    candidates := [], excluded := [], capHigh := 0, points := [], enginesOff := [], injecting := false }

end Sys2Proof.Machine
end

