-- ==== Sys2Proof/Machine/Crc.lean ====
section
/-!
DEFINITION. Sys2Proof/Machine/Crc.lean: CRC-32C (R330; R210, R212 use the same code).
-/

set_option Elab.async false

namespace Sys2Proof.Machine

/-- One bit of the reflected division by 0x1EDC6F41. -/
def crcBit (c : BitVec 32) : BitVec 32 := if c.getLsbD 0 then (c >>> 1) ^^^ 0x82F63B78 else c >>> 1

def crcBits : Nat → BitVec 32 → BitVec 32
  | 0, c => c
  | n + 1, c => crcBits n (crcBit c)

/-- CRC-32C over bytes: initial value and final XOR 0xFFFF_FFFF. -/
def crc32c (bs : List (BitVec 8)) : BitVec 32 :=
  bs.foldl (fun c b => crcBits 8 (c ^^^ b.setWidth 32)) 0xFFFFFFFF ^^^ 0xFFFFFFFF

/-- CHECK of a Pantry entry: CRC-32C over its bytes 0 to 27 (R212). -/
def entryCheck (e : PantryEntry) : Nat := (crc32c ((wordsToBytes [e.w0, e.w1, e.w2, e.w3]).take 28)).toNat

/-- The entry with its CHECK. -/
def sealEntry (e : PantryEntry) : PantryEntry :=
  let e := { e with w3 := 0 }
  { e with w3 := packFields [(bits 63 32, entryCheck e)] }

end Sys2Proof.Machine
end

