-- ==== Sys2Proof/Machine/Flags.lean ====
section
/-!
DEFINITION. Sys2Proof/Machine/Flags.lean: the arithmetic flag set of Table 2-6, the number formats of Table 2-1, rounding
(R62 to R66) and the out-of-range results of Table 2-5.
-/

set_option Elab.async false

namespace Sys2Proof.Machine

/-! ## Arithmetic flags (Table 2-6) -/

abbrev Flags := BitVec 8

def flInexact : Flags := 0x01
def flTinyLoss : Flags := 0x02
def flUnderflow : Flags := 0x04
def flOverflow : Flags := 0x08
def flInvalid : Flags := 0x10
def flScaleNan : Flags := 0x20
def flSat : Flags := 0x40

/-- f when c holds. -/
def flagIf (c : Bool) (f : Flags) : Flags := if c then f else 0

/-! ## Formats (R38 to R40) -/

/-- The eight formats of Table 2-1. -/
inductive Fmt where
  | fp32 | bf16 | fp16 | e4m3 | e5m2 | e3m2 | e2m1 | int8
  deriving DecidableEq, Repr

/-- The format of a 4-bit code; none: reserved. -/
def fmtOfCode : Nat → Option Fmt
  | 0 => some .fp32 | 1 => some .bf16 | 2 => some .fp16 | 3 => some .e4m3
  | 4 => some .e5m2 | 5 => some .e3m2 | 6 => some .e2m1 | 7 => some .int8 | _ => none

/-- The 2-bit buffer format code of R138; none: 3. -/
def bufFmt : Nat → Option Fmt
  | 0 => some .fp32 | 1 => some .bf16 | 2 => some .fp16 | _ => none

def Fmt.bits : Fmt → Nat
  | .fp32 => 32 | .bf16 => 16 | .fp16 => 16 | .e4m3 => 8 | .e5m2 => 8 | .e3m2 => 6 | .e2m1 => 4 | .int8 => 8

/-- Mantissa bits. -/
def Fmt.mb : Fmt → Nat
  | .fp32 => 23 | .bf16 => 7 | .fp16 => 10 | .e4m3 => 3 | .e5m2 => 2 | .e3m2 => 2 | .e2m1 => 1 | .int8 => 7

/-- Exponent bits. -/
def Fmt.eb : Fmt → Nat
  | .fp32 => 8 | .bf16 => 8 | .fp16 => 5 | .e4m3 => 4 | .e5m2 => 5 | .e3m2 => 3 | .e2m1 => 2 | .int8 => 0

def Fmt.bias : Fmt → Int
  | .fp32 => 127 | .bf16 => 127 | .fp16 => 15 | .e4m3 => 7 | .e5m2 => 15 | .e3m2 => 3 | .e2m1 => 1 | .int8 => 0

/-- The block-scaled formats: the four element float formats and INT8. -/
def Fmt.scaled : Fmt → Bool
  | .fp32 | .bf16 | .fp16 => false
  | _ => true

def Fmt.hasInf : Fmt → Bool
  | .fp32 | .bf16 | .fp16 | .e5m2 => true
  | _ => false

/-- Largest element exponent of Table 2-3. -/
def Fmt.emax : Fmt → Int
  | .e4m3 => 8 | .e5m2 => 15 | .e3m2 => 4 | .e2m1 => 2 | .int8 => 6
  | .fp32 => 127 | .bf16 => 127 | .fp16 => 15

/-- The magnitude pattern (sign bit 0) of the largest finite value (Table 2-2). -/
def Fmt.maxPat : Fmt → Nat
  | .fp32 => 0x7F7FFFFF | .bf16 => 0x7F7F | .fp16 => 0x7BFF | .e4m3 => 0x7E
  | .e5m2 => 0x7B | .e3m2 => 0b011111 | .e2m1 => 0b0111 | .int8 => 0x7F

def Fmt.infPat : Fmt → Nat
  | .fp32 => 0x7F800000 | .bf16 => 0x7F80 | .fp16 => 0x7C00 | .e5m2 => 0x7C | _ => 0

/-- Canonical NaN produced (Table 2-2); 0 where the format has none. -/
def Fmt.nanPat : Fmt → Nat
  | .fp32 => 0x7FC00000 | .bf16 => 0x7FC0 | .fp16 => 0x7E00 | .e4m3 => 0x7F | .e5m2 => 0x7E | _ => 0

/-- A decoded value: NaN, an infinity, or (-1)^neg * m * 2^e. -/
inductive FVal where
  | nan
  | inf (neg : Bool)
  | fin (neg : Bool) (m : Nat) (e : Int)
  deriving DecidableEq, Repr

/-- Decode an element's bit pattern (R39, R40). -/
def decodeVal (f : Fmt) (p : Nat) : FVal :=
  match f with
  | .int8 =>
    let b := p % 256
    if b < 128 then .fin false b 0 else .fin true (256 - b) 0
  | _ =>
    let neg := p / 2 ^ (f.bits - 1) % 2 == 1
    let ex := p / 2 ^ f.mb % 2 ^ f.eb
    let man := p % 2 ^ f.mb
    if f.hasInf && ex == 2 ^ f.eb - 1 then (if man == 0 then .inf neg else .nan)
    else if f == .e4m3 && ex == 15 && man == 7 then .nan
    else if ex == 0 then .fin neg man (1 - f.bias - f.mb)
    else .fin neg (2 ^ f.mb + man) ((ex : Int) - f.bias - f.mb)

/-- The pattern of a sign and a magnitude pattern; INT8 in two's complement. -/
def signPat (f : Fmt) (neg : Bool) (mag : Nat) : Nat :=
  match f with
  | .int8 => if neg then (256 - mag) % 256 else mag
  | _ => if neg then mag + 2 ^ (f.bits - 1) else mag

/-- The magnitude pattern of n * 2^q, where n ≤ 2^(mb+1) and q is the quantum R63 rounds to. -/
def encodeMag (f : Fmt) (n : Nat) (q : Int) : Nat :=
  match f with
  | .int8 => n
  | _ =>
    if n < 2 ^ f.mb then n
    else
      let (n, q) := if n = 2 ^ (f.mb + 1) then (2 ^ f.mb, q + 1) else (n, q)
      ((q + f.mb + f.bias).toNat) * 2 ^ f.mb + (n - 2 ^ f.mb)

/-! ## Rounding (R62 to R66) -/

/-- Rounding modes of R62. -/
inductive RMode where
  | rne | rtz | sr
  deriving DecidableEq, Repr

/-- The rounding mode of a 2-bit code; none: reserved. -/
def rmodeOfCode : Nat → Option RMode
  | 0 => some .rne | 1 => some .rtz | 2 => some .sr | _ => none

/-- One step of a stochastic-rounding generator (R64). -/
def srStep (s : W32) : W32 :=
  let a := s ^^^ (s <<< 13)
  let b := a ^^^ (a >>> 17)
  b ^^^ (b <<< 5)

/-- The generator advanced n times. -/
def srSteps : Nat → W32 → W32
  | 0, s => s
  | n + 1, s => srSteps n (srStep s)

/-- Advance a generator once for a result element (R66); the 16 random bits u of R65. -/
def srDraw (rm : RMode) (s : W32) : Nat × W32 :=
  match rm with
  | .sr => ((srStep s >>> 16).toNat, srStep s)
  | _ => (0, s)

/-- Position of the leading one of n > 0. -/
def lead (n : Nat) : Nat := Nat.log2 n

/-- Round the magnitude (m + δ) * 2^e, 0 ≤ δ < 1 and δ > 0 exactly when sticky, to the quantum of format f: the integer n,
the quantum exponent q, and whether n * 2^q differs from the value. -/
def roundMag (f : Fmt) (rm : RMode) (u : Nat) (m : Nat) (e : Int) (sticky : Bool) : Nat × Int × Bool :=
  let q : Int := match f with
    | .int8 => 0
    | _ => max ((lead m : Int) + e) (1 - f.bias) - f.mb
  if q ≤ e then (m * 2 ^ (e - q).toNat, q, sticky)
  else
    let k := (q - e).toNat
    let lo := m / 2 ^ k
    let rem := m % 2 ^ k
    let inexact := rem != 0 || sticky
    let up := match rm with
      | .rne => decide (2 * rem > 2 ^ k) || (2 * rem == 2 ^ k && (sticky || lo % 2 == 1))
      | .rtz => false
      | .sr => decide (65536 * rem / 2 ^ k + u ≥ 65536)
    (if up then lo + 1 else lo, q, inexact)

/-- Whether n * 2^q is above the largest finite value of f. -/
def overRange (f : Fmt) (n : Nat) (q : Int) : Bool :=
  match f with
  | .int8 => decide (n > 127)
  | _ => decide (encodeMag f n q > f.maxPat)

/-- The result of a finite overflow (Table 2-5, Table 2-6). -/
def overflowResult (f : Fmt) (rm : RMode) (sat neg : Bool) : Nat × Flags :=
  if sat then (signPat f neg f.maxPat, flSat ||| flInexact)
  else
    match f with
    | .e4m3 => (f.nanPat, flOverflow ||| flInvalid ||| flInexact)
    | .e3m2 | .e2m1 | .int8 => (signPat f neg f.maxPat, flSat ||| flInexact)
    | _ =>
      if rm = .rtz then (signPat f neg f.maxPat, flOverflow ||| flInexact)
      else (signPat f neg f.infPat, flOverflow ||| flInexact)

/-- Round the finite value (-1)^neg * (m + δ) * 2^e to format f. A zero keeps its sign (INT8 has one zero). -/
def roundFin (f : Fmt) (rm : RMode) (sat : Bool) (u : Nat) (neg : Bool) (m : Nat) (e : Int) (sticky : Bool) :
    Nat × Flags :=
  if m = 0 ∧ sticky = false then (signPat f neg 0, 0)
  else
    let (n, q, inexact) := roundMag f rm u m e sticky
    if overRange f n q then overflowResult f rm sat neg
    else
      let mag := encodeMag f n q
      let sub := match f with | .int8 => n == 0 | _ => decide (n < 2 ^ f.mb)
      (signPat f neg mag, flagIf inexact flInexact ||| flagIf (inexact && sub) flUnderflow)

/-- The result of an infinite value in FP32, BF16 or FP16 and, elementwise, in E5M2 and E4M3 (Table 2-5). -/
def infResult (f : Fmt) (sat neg : Bool) : Nat × Flags :=
  if sat then (signPat f neg f.maxPat, flSat)
  else
    match f with
    | .e4m3 => (f.nanPat, flInvalid)
    | .e3m2 | .e2m1 | .int8 => (0, flScaleNan)
    | _ => (signPat f neg f.infPat, 0)

/-- Round a value to an unscaled format under Table 2-5. -/
def roundVal (f : Fmt) (rm : RMode) (sat : Bool) (u : Nat) (v : FVal) : Nat × Flags :=
  match v with
  | .nan => (f.nanPat, 0)
  | .inf neg => infResult f sat neg
  | .fin neg m e => roundFin f rm sat u neg m e false

end Sys2Proof.Machine
end

