-- ==== Sys2Proof/Machine/Operands.lean ====
section
/-!
DEFINITION. Sys2Proof/Machine/Operands.lean: operands in storage: the packed element layout (R42), widening, block scales
(R43 to R46), quantisation (R69, R70) and dequantisation (R71).
-/

set_option Elab.async false

namespace Sys2Proof.Machine

/-- The pattern of element j of the packed array at address a, read through rd (R42). -/
def elemAt (rd : Nat → Byte) (f : Fmt) (a j : Nat) : Nat :=
  match f with
  | .fp32 => bytesToNat ((List.range 4).map (fun i => rd (a + 4 * j + i)))
  | .bf16 | .fp16 => bytesToNat ((List.range 2).map (fun i => rd (a + 2 * j + i)))
  | .e4m3 | .e5m2 | .int8 => (rd (a + j)).toNat
  | .e3m2 => bytesToNat ((List.range 3).map (fun i => rd (a + 3 * (j / 4) + i))) / 2 ^ (6 * (j % 4)) % 64
  | .e2m1 => (rd (a + j / 2)).toNat / 2 ^ (4 * (j % 2)) % 16

/-- Bytes an array of n elements takes (R42). -/
def arrayBytes (f : Fmt) (n : Nat) : Nat :=
  match f with
  | .e2m1 => (n + 1) / 2
  | .e3m2 => 3 * ((n + 3) / 4)
  | _ => n * (f.bits / 8)

/-- The packed bytes of a list of element patterns; unused positions of a last group are 0 (R42). -/
def packElems (f : Fmt) (ps : List Nat) : List Byte :=
  match f with
  | .fp32 => ps.flatMap (natToBytes 4)
  | .bf16 | .fp16 => ps.flatMap (natToBytes 2)
  | .e4m3 | .e5m2 | .int8 => ps.map (BitVec.ofNat 8)
  | .e3m2 =>
    (List.range ((ps.length + 3) / 4)).flatMap (fun g =>
      natToBytes 3 ((List.range 4).foldl (fun acc i => acc + (ps.getD (4 * g + i) 0) * 2 ^ (6 * i)) 0))
  | .e2m1 =>
    (List.range ((ps.length + 1) / 2)).map (fun g =>
      BitVec.ofNat 8 (ps.getD (2 * g) 0 + 16 * ps.getD (2 * g + 1) 0))

/-- The value of element j of an unscaled array. -/
def valAt (rd : Nat → Byte) (f : Fmt) (a j : Nat) : FVal := decodeVal f (elemAt rd f a j)

/-- Widen a value to FP32 exactly (R91); every NaN becomes the canonical one. -/
def widen (v : FVal) : W32 := BitVec.ofNat 32 (roundVal .fp32 .rne false 0 v).1

/-- The pattern of an FP32 lane value from a buffer element: FP32 elements keep their pattern. -/
def widenElem (f : Fmt) (p : Nat) : W32 :=
  match f with
  | .fp32 => BitVec.ofNat 32 p
  | _ => widen (decodeVal f p)

/-- Block size of a block code (R43). -/
def blockSize (blk : Bool) : Nat := if blk then 16 else 32

/-- scale * value of an element under the E8M0 byte x (R44); 0xFF makes it NaN (R45). -/
def scaleVal (x : Nat) (v : FVal) : FVal :=
  if x = 255 then .nan
  else match v with
    | .fin neg m e => .fin neg m (e + x - 127)
    | w => w

/-- The floor of log2 of the largest finite magnitude of a block; none when it is 0 (R69). -/
def blockExp (vs : List FVal) : Option Int :=
  vs.foldl (fun acc v => match v with
    | .fin _ m e => if m = 0 then acc else
        match acc with
        | none => some ((lead m : Int) + e)
        | some x => some (max x ((lead m : Int) + e))
    | _ => acc) none

/-- The scale byte of a block without NaN (R69). -/
def blockScale (f : Fmt) (vs : List FVal) : Nat :=
  match blockExp vs with
  | none => 0x7F
  | some l => let e := l - f.emax
              if e < -127 then 0 else (e + 127).toNat

/-- Whether a block takes scale 0xFF (R70). -/
def blockIsNan (f : Fmt) (sat : Bool) (vs : List FVal) : Bool :=
  vs.any (fun v => match v with
    | .nan => true
    | .inf _ => !sat && (f == .e3m2 || f == .e2m1 || f == .int8)
    | _ => false)

/-- One element of a quantised block, in the scaled domain (R69, R70). -/
def quantElem (f : Fmt) (rm : RMode) (sat : Bool) (u x : Nat) (v : FVal) : Nat × Flags :=
  match v with
  | .nan => (f.nanPat, 0)
  | .inf neg => infResult f sat neg
  | .fin neg m e => roundFin f rm sat u neg m (e - x + 127) false

/-- Quantise elements one after another, each drawing once in SR mode (R66). -/
def quantElems (f : Fmt) (rm : RMode) (sat : Bool) (x : Nat) : List FVal → W32 → List Nat × Flags × W32
  | [], s => ([], 0, s)
  | v :: vs, s =>
    let (u, s1) := srDraw rm s
    let (p, fl) := quantElem f rm sat u x v
    let (ps, fl', s2) := quantElems f rm sat x vs s1
    (p :: ps, fl ||| fl', s2)

/-- Quantise one block: its scale byte, its element patterns, flags, and the generator afterwards (R69, R70). -/
def quantBlock (f : Fmt) (rm : RMode) (sat : Bool) (vs : List FVal) (s : W32) : Nat × List Nat × Flags × W32 :=
  if blockIsNan f sat vs then
    (0xFF, vs.map (fun _ => 0), flScaleNan, match rm with | .sr => srSteps vs.length s | _ => s)
  else
    let x := blockScale f vs
    let (ps, fl, s') := quantElems f rm sat x vs s
    (x, ps, fl, s')

/-- Cut a list into runs of n; fuel is the list's length. -/
def chunksOf {α : Type} (n : Nat) : Nat → List α → List (List α)
  | 0, _ => []
  | _ + 1, [] => []
  | k + 1, x :: xs => (x :: xs).take n :: chunksOf n k ((x :: xs).drop n)

/-- Quantise an array in consecutive blocks (R140). -/
def quantArray (f : Fmt) (blk : Bool) (rm : RMode) (sat : Bool) (vs : List FVal) (s : W32) :
    List Nat × List Nat × Flags × W32 :=
  (chunksOf (blockSize blk) vs.length vs).foldl (fun acc b =>
    let (xs, ps, fl, st) := acc
    let (x, q, g, st') := quantBlock f rm sat b st
    (xs ++ [x], ps ++ q, fl ||| g, st')) ([], [], 0, s)

/-- Round values to an unscaled format, one draw each in SR mode. -/
def roundArray (f : Fmt) (rm : RMode) (sat : Bool) : List FVal → W32 → List Nat × Flags × W32
  | [], s => ([], 0, s)
  | v :: vs, s =>
    let (u, s1) := srDraw rm s
    let (p, fl) := roundVal f rm sat u v
    let (ps, fl', s2) := roundArray f rm sat vs s1
    (p :: ps, fl ||| fl', s2)

/-- The values of n elements of an array, scaled where the format is block-scaled (R44, R45); SCALE_NAN where a scale read
is 0xFF. -/
def readArray (rd : Nat → Byte) (f : Fmt) (blk : Bool) (a scl n : Nat) : List FVal × Flags :=
  if f.scaled then
    let vs := (List.range n).map (fun j =>
      scaleVal (rd (scl + j / blockSize blk)).toNat (valAt rd f a j))
    let bad := (List.range ((n + blockSize blk - 1) / blockSize blk)).any (fun b => rd (scl + b) == 0xFF)
    (vs, flagIf bad flScaleNan)
  else ((List.range n).map (valAt rd f a), 0)

end Sys2Proof.Machine
end

