-- ==== Sys2Proof/Machine/Arith.lean ====
section
/-!
DEFINITION. Sys2Proof/Machine/Arith.lean: the anchored accumulator and dot products (R47 to R56, R560), and the arithmetic
of the vector lanes (R73, R146).
-/

set_option Elab.async false

namespace Sys2Proof.Machine

/-! ## The anchored accumulator (R50 to R55) -/

/-- An accumulator: v in units of 2^(anchor - 113); tiny: TINY_LOSS so far. -/
structure Accum where
  v : Int := 0
  anchor : Int := 0
  tiny : Bool := false
  deriving DecidableEq, Repr

/-- The signed magnitude v shifted right by k with truncation toward zero, and whether a nonzero bit was lost (R52). -/
def truncShift (v : Int) (k : Nat) : Int × Bool := (Int.tdiv v (2 ^ k), v % 2 ^ k != 0)

/-- m * 2^e in units of 2^(anchor - 113) (R52). -/
def toUnits (anchor : Int) (m : Int) (e : Int) : Int × Bool :=
  let sh := e - (anchor - 113)
  if 0 ≤ sh then (m * 2 ^ sh.toNat, false) else truncShift m (-sh).toNat

/-- An addend: signed significand, exponent of its last bit, and its addend or block exponent. -/
structure Addend where
  m : Int
  e : Int
  x : Int
  deriving DecidableEq, Repr

/-- The leading-bit exponent of the accumulator's value (R50). -/
def Accum.leadExp (a : Accum) : Int := (lead a.v.natAbs : Int) + a.anchor - 113

/-- The anchor of a chunk (R50); none: nothing nonzero enters. -/
def chunkAnchor (a : Accum) (ads : List Addend) : Option Int :=
  (ads.filter (fun d => d.m != 0)).foldl (fun acc d => match acc with
    | none => some d.x
    | some y => some (max y d.x)) (if a.v = 0 then none else some a.leadExp)

/-- Re-anchor the accumulator (R54). -/
def Accum.reanchor (a : Accum) (anchor : Int) : Accum :=
  let (v, lost) := toUnits anchor a.v (a.anchor - 113)
  { v := v, anchor := anchor, tiny := a.tiny || lost }

/-- Add one addend at the accumulator's anchor. -/
def Accum.add (a : Accum) (d : Addend) : Accum :=
  let (v, lost) := toUnits a.anchor d.m d.e
  { a with v := a.v + v, tiny := a.tiny || lost }

/-- Add a chunk (R50 to R54). -/
def Accum.chunk (a : Accum) (ads : List Addend) : Accum :=
  match chunkAnchor a ads with
  | none => a
  | some x => ads.foldl Accum.add (a.reanchor x)

/-- The signed significand of a finite value. -/
def FVal.sm : FVal → Int
  | .fin neg m _ => if neg then -(m : Int) else m
  | _ => 0

def FVal.ex : FVal → Int
  | .fin _ _ e => e
  | _ => 0

def FVal.isZero : FVal → Bool
  | .fin _ m _ => m == 0
  | _ => false

def FVal.sign : FVal → Bool
  | .fin neg _ _ => neg
  | .inf neg => neg
  | .nan => false

def FVal.isNan : FVal → Bool
  | .nan => true
  | _ => false

def FVal.isInf : FVal → Bool
  | .inf _ => true
  | _ => false

/-- Place a carried value in an empty accumulator, exactly (R54). -/
def Accum.ofVal (v : FVal) : Accum := { v := v.sm, anchor := v.ex + 113, tiny := false }

/-- What the special-value rules of R56 see of one term: a product or a carried value. -/
structure Special where
  nan : Bool := false
  invalid : Bool := false
  posInf : Bool := false
  negInf : Bool := false
  deriving DecidableEq, Repr

def Special.or (a b : Special) : Special :=
  { nan := a.nan || b.nan, invalid := a.invalid || b.invalid, posInf := a.posInf || b.posInf,
    negInf := a.negInf || b.negInf }

/-- R56 for the product of two operands. -/
def specialOfProduct (a b : FVal) : Special :=
  if a.isNan || b.isNan then { nan := true }
  else if a.isInf || b.isInf then
    if a.isZero || b.isZero then { invalid := true }
    else if a.sign == b.sign then { posInf := true } else { negInf := true }
  else {}

/-- R56 for a carried value or a REDUCE source. -/
def specialOfVal (v : FVal) : Special :=
  match v with
  | .nan => { nan := true }
  | .inf neg => if neg then { negInf := true } else { posInf := true }
  | _ => {}

/-- The final rounding of a sum (R55, R56, R560). allNegZero: every term was a zero of negative sign. -/
def roundSum (out : Fmt) (rm : RMode) (sat : Bool) (u : Nat) (sp : Special) (scaleNan allNegZero : Bool) (a : Accum) :
    Nat × Flags :=
  if scaleNan then (out.nanPat, flScaleNan)
  else if sp.nan then (out.nanPat, 0)
  else if sp.invalid || (sp.posInf && sp.negInf) then (out.nanPat, flInvalid)
  else if sp.posInf || sp.negInf then infResult out sat sp.negInf
  else
    let t := flagIf a.tiny flTinyLoss
    if a.v = 0 then (signPat out allNegZero 0, t)
    else
      let (p, fl) := roundFin out rm sat u (decide (a.v < 0)) a.v.natAbs (a.anchor - 113) false
      (p, fl ||| t)

/-- One term of a dot product: its dense position along K and its two elements. -/
structure Term where
  k : Nat
  a : FVal
  b : FVal
  deriving DecidableEq, Repr

/-- The exact sum of the products of a run of terms as (significand, exponent) (R48). -/
def exactSum (ts : List Term) : Int × Int :=
  ts.foldl (fun acc t =>
    let pm := t.a.sm * t.b.sm
    let pe := t.a.ex + t.b.ex
    if pm = 0 then acc
    else if acc.1 = 0 then (pm, pe)
    else
      let e := min acc.2 pe
      (acc.1 * 2 ^ (acc.2 - e).toNat + pm * 2 ^ (pe - e).toNat, e)) (0, 0)

/-- The shape of a dot product: operand formats, block code, and the scale bytes of the two rows by block. -/
structure DotCfg where
  fa : Fmt
  fb : Fmt
  blk : Bool
  sa : List Nat
  sb : List Nat
  deriving DecidableEq, Repr

/-- The addend of one block of terms (R48, R49). -/
def blockAddend (c : DotCfg) (ts : List Term) : Addend :=
  let n := blockSize c.blk
  let b := (ts.headD { k := 0, a := .nan, b := .nan }).k / n
  let xa : Int := c.sa.getD b 0x7F
  let xb : Int := c.sb.getD b 0x7F
  let (m, e) := exactSum ts
  { m := m, e := e + (xa - 127) + (xb - 127),
    x := (xa - 127) + (xb - 127) + c.fa.emax + c.fb.emax + 1 + (lead n : Int) }

/-- The addend of one unscaled product: exponent e_a + e_b + 1. -/
def productAddend (c : DotCfg) (t : Term) : Addend :=
  { m := t.a.sm * t.b.sm, e := t.a.ex + t.b.ex, x := t.a.ex + c.fa.mb + (t.b.ex + c.fb.mb) + 1 }

/-- The addends of one chunk of terms. -/
def chunkAddends (c : DotCfg) (ts : List Term) : List Addend :=
  if c.fa.scaled then
    (ts.splitBy (fun x y => x.k / blockSize c.blk == y.k / blockSize c.blk)).map (blockAddend c)
  else ts.map (productAddend c)

/-- One result element of MATMUL, ATTN_BLOCK or CONV: pattern and flags (R47 to R56, R560). -/
def dotElem (c : DotCfg) (carry : Option FVal) (ts : List Term) (out : Fmt) (rm : RMode) (sat : Bool) (u : Nat) :
    Nat × Flags :=
  let n := blockSize c.blk
  let scaleNan := c.fa.scaled &&
    ts.any (fun t => c.sa.getD (t.k / n) 0 == 255 || c.sb.getD (t.k / n) 0 == 255)
  let sp := ts.foldl (fun s t => s.or (specialOfProduct t.a t.b))
    (match carry with | some v => specialOfVal v | none => {})
  let negZero := (ts.all (fun t => (t.a.isZero || t.b.isZero) && (t.a.sign != t.b.sign))) &&
    (match carry with | some v => v.isZero && v.sign | none => true) && (!ts.isEmpty || carry.isSome)
  let a0 := match carry with | some v => Accum.ofVal v | none => {}
  let acc := (ts.splitBy (fun x y => x.k / 4096 == y.k / 4096)).foldl (fun a ch => a.chunk (chunkAddends c ch)) a0
  roundSum out rm sat u sp scaleNan negZero acc

/-- The anchored sum of values in one chunk, in order (R140: REDUCE SUM; RSUM). -/
def sumVals (vs : List FVal) (f : Fmt) (out : Fmt) (rm : RMode) (sat : Bool) (u : Nat) : Nat × Flags :=
  let sp := vs.foldl (fun s v => s.or (specialOfVal v)) {}
  let ads := vs.map (fun v => { m := v.sm, e := v.ex, x := v.ex + f.mb : Addend })
  roundSum out rm sat u sp false (vs.all (fun v => v.isZero && v.sign)) (Accum.chunk {} ads)

/-! ## Ordering (R140, R146) -/

/-- The signed magnitude of a finite value scaled to exponent e (e at most its own). -/
def scaledTo (v : FVal) (e : Int) : Int := v.sm * 2 ^ (v.ex - e).toNat

/-- a < b on values, with -0 below +0; NaN never. -/
def valLt (a b : FVal) : Bool :=
  match a, b with
  | .nan, _ | _, .nan => false
  | .inf na, .inf nb => na && !nb
  | .inf na, _ => na
  | _, .inf nb => !nb
  | .fin na ma ea, .fin nb mb eb =>
    let e := min ea eb
    let x := scaledTo (.fin na ma ea) e
    let y := scaledTo (.fin nb mb eb) e
    decide (x < y) || (x == y && na && !nb && ma == 0)

/-- Equality of values: the two zeros are equal, NaN equals nothing. -/
def valEq (a b : FVal) : Bool :=
  match a, b with
  | .nan, _ | _, .nan => false
  | .inf na, .inf nb => na == nb
  | .fin na ma ea, .fin nb mb eb =>
    let e := min ea eb
    scaledTo (.fin na ma ea) e == scaledTo (.fin nb mb eb) e
  | _, _ => false

/-! ## Vector lanes -/

abbrev laneVal (p : W32) : FVal := decodeVal .fp32 p.toNat

def canonNan : W32 := 0x7FC00000

/-- MAX (or MIN) of two lane patterns: the canonical NaN when either is NaN (R146). -/
def lanePick (max : Bool) (a b : W32) : W32 :=
  if (laneVal a).isNan || (laneVal b).isNan then canonNan
  else if max then (if valLt (laneVal a) (laneVal b) then b else a)
  else (if valLt (laneVal b) (laneVal a) then b else a)

/-- What a lane operation needs: rounding mode, SATMODE, and the 16 random bits of this lane. -/
structure LaneCtx where
  rm : RMode
  sat : Bool
  u : Nat
  deriving DecidableEq, Repr

def lane32 (r : Nat × Flags) : W32 × Flags := (BitVec.ofNat 32 r.1, r.2)

/-- a * b + c with one rounding (R73). -/
def fmaLane (x : LaneCtx) (a b c : FVal) : W32 × Flags :=
  if a.isNan || b.isNan || c.isNan then (canonNan, 0)
  else if (a.isInf && b.isZero) || (a.isZero && b.isInf) then (canonNan, flInvalid)
  else
    let ps := a.sign != b.sign
    if a.isInf || b.isInf then
      if c.isInf && c.sign != ps then (canonNan, flInvalid) else lane32 (infResult .fp32 x.sat ps)
    else if c.isInf then lane32 (infResult .fp32 x.sat c.sign)
    else
      let pm := a.sm * b.sm
      let pe := a.ex + b.ex
      let e := min pe c.ex
      let s := pm * 2 ^ (pe - e).toNat + c.sm * 2 ^ (c.ex - e).toNat
      if s = 0 then lane32 (signPat .fp32 ((a.isZero || b.isZero) && c.isZero && ps && c.sign) 0, 0)
      else lane32 (roundFin .fp32 x.rm x.sat x.u (decide (s < 0)) s.natAbs e false)

/-- The value 1. -/
def oneVal : FVal := .fin false 1 0

/-- a + b with one rounding. -/
def addLane (x : LaneCtx) (a b : FVal) : W32 × Flags := fmaLane x a oneVal b

def FVal.neg : FVal → FVal
  | .fin s m e => .fin (!s) m e
  | .inf s => .inf (!s)
  | .nan => .nan

/-- a * b with one rounding. -/
def mulLane (x : LaneCtx) (a b : FVal) : W32 × Flags :=
  if a.isNan || b.isNan then (canonNan, 0)
  else if (a.isInf && b.isZero) || (a.isZero && b.isInf) then (canonNan, flInvalid)
  else
    let ps := a.sign != b.sign
    if a.isInf || b.isInf then lane32 (infResult .fp32 x.sat ps)
    else lane32 (roundFin .fp32 x.rm x.sat x.u ps (a.sm * b.sm).natAbs (a.ex + b.ex) false)

/-- The quotient of two nonzero finite significands: 128 quotient bits, exponent, sticky. -/
def quotient (m1 : Nat) (e1 : Int) (m2 : Nat) (e2 : Int) : Nat × Int × Bool :=
  (2 ^ 128 * m1 / m2, e1 - e2 - 128, 2 ^ 128 * m1 % m2 != 0)

/-- a / b correctly rounded (R146). -/
def divLane (x : LaneCtx) (a b : FVal) : W32 × Flags :=
  if a.isNan || b.isNan then (canonNan, 0)
  else if (a.isInf && b.isInf) || (a.isZero && b.isZero) then (canonNan, flInvalid)
  else
    let s := a.sign != b.sign
    if a.isInf || b.isZero then lane32 (infResult .fp32 x.sat s)
    else if b.isInf || a.isZero then lane32 (signPat .fp32 s 0, 0)
    else
      let (q, e, st) := quotient a.sm.natAbs a.ex b.sm.natAbs b.ex
      lane32 (roundFin .fp32 x.rm x.sat x.u s q e st)

/-- Integer square root by bisection on bits; n bits of result. -/
def isqrtBits : Nat → Nat → Nat → Nat
  | 0, _, r => r
  | k + 1, v, r => isqrtBits k v (if (r + 2 ^ k) * (r + 2 ^ k) ≤ v then r + 2 ^ k else r)

/-- The square root of m * 2^e: root, exponent, sticky. -/
def rootOf (m : Nat) (e : Int) : Nat × Int × Bool :=
  let odd := e % 2 != 0
  let m2 := 2 ^ 128 * (if odd then 2 * m else m)
  let r := isqrtBits 80 m2 0
  (r, (if odd then e - 1 else e) / 2 - 64, r * r != m2)

/-- The square root, correctly rounded (R146). -/
def sqrtLane (x : LaneCtx) (a : FVal) : W32 × Flags :=
  match a with
  | .nan => (canonNan, 0)
  | .inf true => (canonNan, flInvalid)
  | .inf false => lane32 (infResult .fp32 x.sat false)
  | .fin neg m e =>
    if m = 0 then lane32 (signPat .fp32 neg 0, 0)
    else if neg then (canonNan, flInvalid)
    else
      let (r, e', st) := rootOf m e
      lane32 (roundFin .fp32 x.rm x.sat x.u false r e' st)

/-- A result within n ulp of the exact value (m + δ) * 2^e of sign neg (RCP, RSQRT): the truncated magnitude pattern p moved
by an open number of steps, at most n for an exact value and, for an inexact one, from 1 - n to n. -/
def withinUlp (n : Nat) (code : Nat) (op : W32) (rm : Nat) (x : LaneCtx) (neg : Bool) (m : Nat) (e : Int) (st : Bool) :
    W32 × Flags :=
  let (k, q, inexact) := roundMag .fp32 .rtz 0 m e st
  if overRange .fp32 k q then lane32 (overflowResult .fp32 x.rm x.sat neg)
  else
    let p := encodeMag .fp32 k q
    let lo : Int := if inexact then 1 - n else -n
    let d := lo + Config.freeUlp code op rm % (n - lo + 1)
    let r := (p : Int) + d
    let mag := if r < 0 then 0 else if r > (Fmt.maxPat .fp32 : Int) then Fmt.maxPat .fp32 else r.toNat
    let ix := inexact || mag != p
    (BitVec.ofNat 32 (signPat .fp32 neg mag), flagIf ix flInexact ||| flagIf (ix && decide (mag < 2 ^ 23)) flUnderflow)

def RMode.code : RMode → Nat
  | .rne => 0 | .rtz => 1 | .sr => 2

/-- 1 / a within 1 ulp (R146). -/
def rcpLane (x : LaneCtx) (p : W32) : W32 × Flags :=
  let a := laneVal p
  if a.isNan || a.isInf || a.isZero then divLane x oneVal a
  else
    let (q, e, st) := quotient 1 0 a.sm.natAbs a.ex
    withinUlp 1 0x0C p x.rm.code x a.sign q e st

/-- 1 / sqrt a within 2 ulp (R146). -/
def rsqrtLane (x : LaneCtx) (p : W32) : W32 × Flags :=
  match laneVal p with
  | .nan => (canonNan, 0)
  | .inf neg => if neg then (canonNan, flInvalid) else (0, 0)
  | .fin neg m e =>
    if m = 0 then lane32 (infResult .fp32 x.sat neg)
    else if neg then (canonNan, flInvalid)
    else
      let (r, e', st) := rootOf m e
      let (q, e2, st2) := quotient 1 0 r e'
      withinUlp 2 0x0F p x.rm.code x false q e2 (st || st2)

/-- The micro-ops whose result the manual bounds but does not fix (Table 4-11): an open value, but for the special operands
IEEE 754 settles. -/
def freeLane (code : Nat) (x : LaneCtx) (p : W32) : W32 × Flags :=
  let r := Config.freeMicro code p x.rm.code x.sat
  (r.extractLsb' 0 32, (r.extractLsb' 32 7).setWidth 8)

/-- EXP2 and EXP. -/
def expLane (code : Nat) (x : LaneCtx) (p : W32) : W32 × Flags :=
  match laneVal p with
  | .nan => (canonNan, 0)
  | .inf neg => if neg then (0, 0) else lane32 (infResult .fp32 x.sat false)
  | .fin _ _ _ => freeLane code x p

/-- LOG2 and LOG (R146). -/
def logLane (code : Nat) (x : LaneCtx) (p : W32) : W32 × Flags :=
  match laneVal p with
  | .nan => (canonNan, 0)
  | .inf neg => if neg then (canonNan, flInvalid) else lane32 (infResult .fp32 x.sat false)
  | .fin neg m _ =>
    if m = 0 then lane32 (infResult .fp32 x.sat true)
    else if neg then (canonNan, flInvalid)
    else freeLane code x p

/-- TANH, SIGMOID and ERF. -/
def curveLane (code : Nat) (x : LaneCtx) (p : W32) : W32 × Flags :=
  if (laneVal p).isNan then (canonNan, 0) else freeLane code x p

/-- The integer nearest to m * 2^e in a rounding mode (no sign), and whether it differs. -/
def intMag (rm : RMode) (u m : Nat) (e : Int) : Nat × Bool :=
  let (n, _, ix) := roundMag .int8 rm u m e false
  if 0 ≤ e then (m * 2 ^ e.toNat, false) else (n, ix)

/-- FLOOR: toward minus infinity; no flag (R146). -/
def floorLane (p : W32) : W32 × Flags :=
  match laneVal p with
  | .nan => (canonNan, 0)
  | .inf _ => (p, 0)
  | .fin neg m e =>
    if 0 ≤ e ∨ m = 0 then (p, 0)
    else
      let k := (-e).toNat
      let n := m / 2 ^ k + (if neg && m % 2 ^ k != 0 then 1 else 0)
      (BitVec.ofNat 32 (roundFin .fp32 .rtz false 0 neg n 0 false).1, 0)

/-- RINT: an integer value in the rounding mode; no flag (R146). -/
def rintLane (x : LaneCtx) (p : W32) : W32 × Flags :=
  match laneVal p with
  | .nan => (canonNan, 0)
  | .inf _ => (p, 0)
  | .fin neg m e =>
    let (n, _) := intMag x.rm x.u m e
    (BitVec.ofNat 32 (roundFin .fp32 .rtz false 0 neg n 0 false).1, 0)

/-- CVTI: to int32 in the rounding mode, saturating (R146). -/
def cvtiLane (x : LaneCtx) (p : W32) : W32 × Flags :=
  match laneVal p with
  | .nan => (0, flInvalid)
  | .inf neg => (if neg then 0x80000000 else 0x7FFFFFFF, flSat)
  | .fin neg m e =>
    let (n, ix) := intMag x.rm x.u m e
    let v : Int := if neg then -(n : Int) else n
    if v > 0x7FFFFFFF then (0x7FFFFFFF, flSat ||| flInexact)
    else if v < -0x80000000 then (0x80000000, flSat ||| flInexact)
    else (BitVec.ofInt 32 v, flagIf ix flInexact)

/-- CVTF: int32 to FP32 in the rounding mode. -/
def cvtfLane (x : LaneCtx) (p : W32) : W32 × Flags :=
  lane32 (roundFin .fp32 x.rm x.sat x.u (decide (p.toInt < 0)) p.toInt.natAbs 0 false)

def boolLane (b : Bool) : W32 × Flags := (if b then 0x3F800000 else 0, 0)

/-- The codes that round in the rounding mode and so draw once a lane in SR mode (R66). -/
def microDraws (code : Nat) : Bool :=
  code ≤ 0x04 || (0x0B ≤ code && code ≤ 0x16) || code == 0x1E || code == 0x1F

/-- A lane-wise micro-op on one lane (Table 4-11); a, b, c are 32-bit patterns. -/
def laneOp (code : Nat) (x : LaneCtx) (a b c : W32) : W32 × Flags :=
  let va := laneVal a
  let vb := laneVal b
  let vc := laneVal c
  match code with
  | 0x00 => addLane x va vb
  | 0x01 => addLane x va vb.neg
  | 0x02 => mulLane x va vb
  | 0x03 => fmaLane x va vb vc
  | 0x04 => fmaLane x va vb vc.neg
  | 0x05 => (if va.isNan then canonNan else a ^^^ 0x80000000, 0)
  | 0x06 => (if va.isNan then canonNan else a &&& 0x7FFFFFFF, 0)
  | 0x07 => (lanePick false a b, 0)
  | 0x08 => (lanePick true a b, 0)
  | 0x09 => (lanePick false (lanePick true a b) c, 0)
  | 0x0A => floorLane a
  | 0x0B => rintLane x a
  | 0x0C => rcpLane x a
  | 0x0D => divLane x va vb
  | 0x0E => sqrtLane x va
  | 0x0F => rsqrtLane x a
  | 0x10 => expLane 0x10 x a
  | 0x11 => expLane 0x11 x a
  | 0x12 => logLane 0x12 x a
  | 0x13 => logLane 0x13 x a
  | 0x14 => curveLane 0x14 x a
  | 0x15 => curveLane 0x15 x a
  | 0x16 => curveLane 0x16 x a
  | 0x17 => boolLane (valLt va vb && !valEq va vb)
  | 0x18 => boolLane (valLt va vb || valEq va vb)
  | 0x19 => boolLane (valEq va vb)
  | 0x1A => (if c &&& 0x7FFFFFFF = 0 then b else a, 0)
  | 0x1B => (a &&& b, 0)
  | 0x1C => (a ||| b, 0)
  | 0x1D => (a ^^^ b, 0)
  | 0x1E => cvtiLane x a
  | 0x1F => cvtfLane x a
  | 0x27 => (a, 0)
  | _ => (a, 0)

/-- The generator step of lane i of an operation that draws (R66). -/
def laneOps (code : Nat) (rm : RMode) (sat : Bool) : List (W32 × W32 × W32) → W32 → List W32 × Flags × W32
  | [], s => ([], 0, s)
  | (a, b, c) :: rest, s =>
    let (u, s1) := if microDraws code then srDraw rm s else (0, s)
    let (d, fl) := laneOp code { rm := rm, sat := sat, u := u } a b c
    let (ds, fl', s2) := laneOps code rm sat rest s1
    (d :: ds, fl ||| fl', s2)

/-- Whether a micro-op code may be the OP of a VEC descriptor (Table 4-11, column V). -/
def microVec (code : Nat) : Bool := code ≤ 0x1F || code == 0x27


/-- Whether a micro-op reads a second operand, and a third (R561). -/
def microUsesB (code : Nat) : Bool :=
  code ≤ 0x04 || (0x07 ≤ code && code ≤ 0x09) || code == 0x0D || (0x17 ≤ code && code ≤ 0x1D)
def microUsesC (code : Nat) : Bool := code == 0x03 || code == 0x04 || code == 0x09 || code == 0x1A

end Sys2Proof.Machine
end

