-- ==== Sys2Proof/Machine/FaultTable.lean ====
section
/-!
DEFINITION. Sys2Proof/Machine/FaultTable.lean: the fault sources of Table 16-4 (R470, R477) and the recovery budgets of
Table 16-6 (R490). Reaction masks follow the bit order of Table 16-3: 1 INT, 2 NMT, 4 BLOCK_RESET, 8 PACKAGE_RESET, 16 ERR_PIN.
-/

set_option Elab.async false

namespace Sys2Proof.Machine

/-! ## Fault codes (Table 16-4) -/

def F_HEARTH_LOST : Nat := 0x0001
def F_DIVERGE : Nat := 0x0002
def F_HEARTH_BOTH : Nat := 0x0003
def F_NV_WRITE : Nat := 0x0004
def F_BUDGET_OVERRUN : Nat := 0x0005
def F_TILE_RESIDUE : Nat := 0x1001
def F_TILE_RAIL : Nat := 0x1002
def F_VEC_RESIDUE : Nat := 0x1003
def F_SRAM_UE : Nat := 0x1004
def F_SPARE_FAIL : Nat := 0x1005
def F_BAY_LOST : Nat := 0x1006
def F_DIE_UV : Nat := 0x1007
def F_DIE_SENSORS : Nat := 0x1008
def F_VEC_RAIL : Nat := 0x1009
def F_DESC_MALFORMED : Nat := 0x2001
def F_OVERRUN : Nat := 0x2002
def F_SEQ_STALL : Nat := 0x2003
def F_EVENT_TIMEOUT : Nat := 0x2004
def F_JOURNAL_FULL : Nat := 0x2005
def F_SIGNAL_DROPPED : Nat := 0x2006
def F_REPLAY_LIMIT : Nat := 0x2007
def F_NO_FALLBACK : Nat := 0x2008
def F_REPLAY_LATE : Nat := 0x2009
def F_STEP_RESUME : Nat := 0x200A
def F_COMPLETION_DROPPED : Nat := 0x200B
def F_ADDR_FAULT : Nat := 0x3001
def F_READONLY_WRITE : Nat := 0x3002
def F_MEM_UE : Nat := 0x3003
def F_CHANNEL_RETIRE : Nat := 0x3004
def F_STACK_LOST : Nat := 0x3005
def F_SEAM_DOWN : Nat := 0x3006
def F_PANTRY_DROP : Nat := 0x3007
def F_WING_LOST : Nat := 0x3008
def F_CELLAR_UE : Nat := 0x4001
def F_FA_REMOVED : Nat := 0x5001
def F_FIBRE_REACH : Nat := 0x5002
def F_MESH_FAULT : Nat := 0x5003
def F_CASEMENT_LOST : Nat := 0x5004
def F_LASER_FLOOR : Nat := 0x6001
def F_ATTIC_VERIFY : Nat := 0x6002
def F_RING_RETIRED : Nat := 0x6003
def F_LANE_LOCK_LOSS : Nat := 0x6004
def F_HALL_PARITY : Nat := 0x7001
def F_BEAT_UNREACHABLE : Nat := 0x7002
def F_BEAT_CONFLICT : Nat := 0x7003
def F_PLAN_MISMATCH : Nat := 0x7004
def F_D1_ODD_FIBRE : Nat := 0x7005
def F_FALLBACK_REJECT : Nat := 0x7006
def F_FSYNC_IGNORED : Nat := 0x7007
def F_DUP_PKG_ID : Nat := 0x8001
def F_LINK_CFG_MISMATCH : Nat := 0x8002
def F_DARARN_VERSION : Nat := 0x8003
def F_LINK_DOWN : Nat := 0x8004
def F_SKY_BAD_JOB : Nat := 0x9001
def F_SKY_FAULT : Nat := 0x9002
def F_D2D_WIDTH_MISMATCH : Nat := 0xA001
def F_D2D_LEVEL : Nat := 0xA002
def F_GUEST_ABSENT : Nat := 0xA003
def F_GUEST_VERSION : Nat := 0xA004
def F_GUEST_POWER : Nat := 0xA005
def F_GUEST_CAP : Nat := 0xA006
def F_PORCH_CFG : Nat := 0xA007
def F_CAP_OP_DROP : Nat := 0xB001
def F_RAIL_UV : Nat := 0xB002
def F_THERMTRIP : Nat := 0xC001
def F_CSM_THERMAL : Nat := 0xC002
def F_SENSOR_EXCLUDED : Nat := 0xC003
def F_MGMT_ACCESS : Nat := 0xD001
def F_BIST_SLICE_FAIL : Nat := 0xE001

/-- A fault source: its code, the level its locator must name (0: as the unit), its severity (0 NOTE, 1 UNIT, 2 FATAL), and
its default and forced reaction masks. -/
structure FaultSource where
  code : Nat
  level : Nat
  severity : Nat
  dflt : Nat
  forced : Nat

def faultTable : List FaultSource := [
  { code := F_HEARTH_LOST, level := 7, severity := 1, dflt := 3, forced := 2 },
  { code := F_DIVERGE, level := 7, severity := 0, dflt := 1, forced := 0 },
  { code := F_HEARTH_BOTH, level := 7, severity := 2, dflt := 25, forced := 24 },
  { code := F_NV_WRITE, level := 7, severity := 0, dflt := 1, forced := 0 },
  { code := F_BUDGET_OVERRUN, level := 0, severity := 0, dflt := 1, forced := 0 },
  { code := F_TILE_RESIDUE, level := 3, severity := 1, dflt := 3, forced := 2 },
  { code := F_TILE_RAIL, level := 3, severity := 1, dflt := 3, forced := 2 },
  { code := F_VEC_RESIDUE, level := 4, severity := 0, dflt := 3, forced := 2 },
  { code := F_SRAM_UE, level := 4, severity := 0, dflt := 3, forced := 2 },
  { code := F_SPARE_FAIL, level := 3, severity := 1, dflt := 1, forced := 0 },
  { code := F_BAY_LOST, level := 4, severity := 1, dflt := 3, forced := 2 },
  { code := F_DIE_UV, level := 5, severity := 1, dflt := 3, forced := 2 },
  { code := F_DIE_SENSORS, level := 5, severity := 1, dflt := 3, forced := 2 },
  { code := F_VEC_RAIL, level := 4, severity := 0, dflt := 3, forced := 2 },
  { code := F_DESC_MALFORMED, level := 4, severity := 0, dflt := 3, forced := 2 },
  { code := F_OVERRUN, level := 4, severity := 0, dflt := 3, forced := 2 },
  { code := F_SEQ_STALL, level := 4, severity := 0, dflt := 3, forced := 2 },
  { code := F_EVENT_TIMEOUT, level := 4, severity := 0, dflt := 3, forced := 2 },
  { code := F_JOURNAL_FULL, level := 4, severity := 0, dflt := 3, forced := 2 },
  { code := F_SIGNAL_DROPPED, level := 4, severity := 0, dflt := 1, forced := 0 },
  { code := F_REPLAY_LIMIT, level := 7, severity := 0, dflt := 1, forced := 0 },
  { code := F_NO_FALLBACK, level := 0, severity := 0, dflt := 17, forced := 0 },
  { code := F_REPLAY_LATE, level := 7, severity := 0, dflt := 1, forced := 0 },
  { code := F_STEP_RESUME, level := 7, severity := 0, dflt := 0, forced := 0 },
  { code := F_COMPLETION_DROPPED, level := 4, severity := 0, dflt := 1, forced := 0 },
  { code := F_ADDR_FAULT, level := 4, severity := 0, dflt := 3, forced := 2 },
  { code := F_READONLY_WRITE, level := 4, severity := 0, dflt := 3, forced := 2 },
  { code := F_MEM_UE, level := 3, severity := 0, dflt := 3, forced := 2 },
  { code := F_CHANNEL_RETIRE, level := 4, severity := 1, dflt := 3, forced := 2 },
  { code := F_STACK_LOST, level := 5, severity := 2, dflt := 19, forced := 2 },
  { code := F_SEAM_DOWN, level := 6, severity := 1, dflt := 1, forced := 0 },
  { code := F_PANTRY_DROP, level := 6, severity := 0, dflt := 1, forced := 0 },
  { code := F_WING_LOST, level := 6, severity := 2, dflt := 19, forced := 2 },
  { code := F_CELLAR_UE, level := 7, severity := 0, dflt := 1, forced := 0 },
  { code := F_FA_REMOVED, level := 5, severity := 0, dflt := 1, forced := 0 },
  { code := F_FIBRE_REACH, level := 5, severity := 0, dflt := 1, forced := 0 },
  { code := F_MESH_FAULT, level := 4, severity := 1, dflt := 3, forced := 2 },
  { code := F_CASEMENT_LOST, level := 5, severity := 1, dflt := 3, forced := 2 },
  { code := F_LASER_FLOOR, level := 3, severity := 0, dflt := 1, forced := 0 },
  { code := F_ATTIC_VERIFY, level := 3, severity := 1, dflt := 1, forced := 0 },
  { code := F_RING_RETIRED, level := 2, severity := 1, dflt := 1, forced := 0 },
  { code := F_LANE_LOCK_LOSS, level := 2, severity := 0, dflt := 1, forced := 0 },
  { code := F_HALL_PARITY, level := 5, severity := 0, dflt := 1, forced := 0 },
  { code := F_BEAT_UNREACHABLE, level := 7, severity := 0, dflt := 1, forced := 0 },
  { code := F_BEAT_CONFLICT, level := 7, severity := 0, dflt := 17, forced := 0 },
  { code := F_PLAN_MISMATCH, level := 5, severity := 0, dflt := 1, forced := 0 },
  { code := F_D1_ODD_FIBRE, level := 5, severity := 0, dflt := 1, forced := 0 },
  { code := F_FALLBACK_REJECT, level := 5, severity := 0, dflt := 1, forced := 0 },
  { code := F_FSYNC_IGNORED, level := 7, severity := 0, dflt := 1, forced := 0 },
  { code := F_DUP_PKG_ID, level := 5, severity := 0, dflt := 1, forced := 0 },
  { code := F_LINK_CFG_MISMATCH, level := 5, severity := 0, dflt := 1, forced := 0 },
  { code := F_DARARN_VERSION, level := 5, severity := 0, dflt := 1, forced := 0 },
  { code := F_LINK_DOWN, level := 5, severity := 0, dflt := 1, forced := 0 },
  { code := F_SKY_BAD_JOB, level := 4, severity := 0, dflt := 1, forced := 0 },
  { code := F_SKY_FAULT, level := 4, severity := 1, dflt := 1, forced := 0 },
  { code := F_D2D_WIDTH_MISMATCH, level := 5, severity := 0, dflt := 3, forced := 2 },
  { code := F_D2D_LEVEL, level := 5, severity := 1, dflt := 1, forced := 0 },
  { code := F_GUEST_ABSENT, level := 5, severity := 1, dflt := 1, forced := 0 },
  { code := F_GUEST_VERSION, level := 5, severity := 1, dflt := 1, forced := 0 },
  { code := F_GUEST_POWER, level := 5, severity := 1, dflt := 1, forced := 0 },
  { code := F_GUEST_CAP, level := 5, severity := 1, dflt := 1, forced := 0 },
  { code := F_PORCH_CFG, level := 2, severity := 0, dflt := 1, forced := 0 },
  { code := F_CAP_OP_DROP, level := 6, severity := 0, dflt := 1, forced := 0 },
  { code := F_RAIL_UV, level := 7, severity := 2, dflt := 17, forced := 16 },
  { code := F_THERMTRIP, level := 7, severity := 2, dflt := 17, forced := 16 },
  { code := F_CSM_THERMAL, level := 5, severity := 1, dflt := 3, forced := 2 },
  { code := F_SENSOR_EXCLUDED, level := 5, severity := 0, dflt := 1, forced := 0 },
  { code := F_MGMT_ACCESS, level := 7, severity := 0, dflt := 0, forced := 0 },
  { code := F_BIST_SLICE_FAIL, level := 3, severity := 0, dflt := 1, forced := 0 }]

def faultSource (code : Nat) : Option FaultSource := faultTable.find? (fun f => f.code == code)

/-- R472: each code has a fixed severity. -/
def faultSeverity (code : Nat) : Nat := match faultSource code with | some f => f.severity | none => 0

def faultDefault (code : Nat) : Nat := match faultSource code with | some f => f.dflt | none => 0

/-- R475: the forced mask; 0 for a reserved code (Table 16-18). -/
def faultForced (code : Nat) : Nat := match faultSource code with | some f => f.forced | none => 0

/-- The default of FLT_BUDGETk in nanoseconds (Table 16-6; the laser budget is 128, Table 16-14). -/
def budgetNs : Nat → Nat
  | 0 => 50000000 | 1 => 1500000000 | 2 => 3000000000 | 3 => 2000000000 | 4 => 30000
  | 5 => 128 | 6 => 5000000000 | 7 => 24600 | 8 => 8000000000 | _ => 8000000000

end Sys2Proof.Machine
end

