-- ==== Sys2Proof/Machine/Regs.lean ====
section
/-!
DEFINITION. Sys2Proof/Machine/Regs.lean: the management registers and the bridge registers: the address of every register,
its fields, the access code of each field (R6) and its reset value, as the register tables of chapters 01 to 18 give them.
A field's name is REGISTER_FIELD. Fields that no list names are RO, WO (never stored) or RSV (never stored).
-/

set_option Elab.async false

namespace Sys2Proof.Machine

/-! ## Windows (R26) -/

def wingBase (w : Nat) : Nat := 0x0100000000 + 0x01000000 * w
def bayBase (b : BayId) : Nat := 0x0200000000 + 0x01000000 * b.die.val + 0x100000 * b.bay.val
def tileBase (b : BayId) (t : Nat) : Nat := 0x10000 + bayBase b + 0x1000 * t
def csmBase (c : Nat) : Nat := 0x0300000000 + 0x01000000 * c
def siteBase (g : Nat) : Nat := 0x0400000000 + 0x01000000 * g
/-- Registers of a link (R22): optical link l is homed on pair l mod 16 of Casement l / 16. -/
def linkBase (l : Nat) : Nat :=
  if l < 128 then 0x801000 + csmBase (l / 16) + 0x100 * (l % 16) else 0x0410801000 + 0x100 * (l - 128)

/-! ## Addresses -/

def HRT_ID : Nat := 0x0000000000 + 0x0
def HRT_SERIAL : Nat := 0x0000000000 + 0x8
def HRT_PKGID : Nat := 0x0000000000 + 0x10
def BAY_STATUS (b : BayId) : Nat := 0x0 + bayBase b
def BAY_TILES (b : BayId) : Nat := 0x8 + bayBase b
def BAY_CTRL (b : BayId) : Nat := 0x10 + bayBase b
def BAY_ECC (b : BayId) : Nat := 0x18 + bayBase b
def BAY_VFLAGS (b : BayId) : Nat := 0x20 + bayBase b
def BAY_VSR_STATE (b : BayId) : Nat := 0x28 + bayBase b
def BAY_DSR_STATE (b : BayId) : Nat := 0x30 + bayBase b
def TIL_STATUS (b : BayId) (t : Nat) : Nat := 0x0 + tileBase b t
def TIL_FLAGS (b : BayId) (t : Nat) : Nat := 0x8 + tileBase b t
def TIL_SR_STATE (b : BayId) (t : Nat) : Nat := 0x10 + tileBase b t
def TIL_MACCYC (b : BayId) (t : Nat) : Nat := 0x18 + tileBase b t
def BAY_SEQ_CTRL (b : BayId) : Nat := 0x100 + bayBase b
def BAY_SEQ_STREAM (b : BayId) : Nat := 0x108 + bayBase b
def BAY_SEQ_POS (b : BayId) : Nat := 0x110 + bayBase b
def BAY_SEQ_BASE (b : BayId) : Nat := 0x118 + bayBase b
def BAY_SEQ_CRING (b : BayId) : Nat := 0x120 + bayBase b
def BAY_SEQ_CRCNT (b : BayId) : Nat := 0x128 + bayBase b
def BAY_SEQ_JRNL (b : BayId) : Nat := 0x130 + bayBase b
def BAY_SEQ_STATUS (b : BayId) : Nat := 0x138 + bayBase b
def BAY_SEQ_STOPIDX (b : BayId) : Nat := 0x140 + bayBase b
def BAY_SEQ_EVT (b : BayId) (i : Nat) : Nat := 0x148 + bayBase b + i * 0x8
def BAY_SEQ_UPROG (b : BayId) : Nat := 0x188 + bayBase b
def HAL_STATUS (w : Nat) : Nat := 0x0 + wingBase w
def HAL_TX_BYTES (w : Nat) (i : Nat) : Nat := 0x8 + wingBase w + i * 0x8
def LDR_CTRL (w : Nat) : Nat := 0x400000 + 0x0 + wingBase w
def LDR_STATUS (w : Nat) : Nat := 0x400000 + 0x8 + wingBase w
def LDR_HIT (w : Nat) (i : Nat) : Nat := 0x400000 + 0x10 + wingBase w + i * 0x18
def LDR_MISS (w : Nat) (i : Nat) : Nat := 0x400000 + 0x18 + wingBase w + i * 0x18
def LDR_ECC (w : Nat) (i : Nat) : Nat := 0x400000 + 0x20 + wingBase w + i * 0x18
def MEM_LAYOUT : Nat := 0xC00000 + 0x0 + wingBase 0
def MEM_RETIRE (i : Nat) : Nat := 0xC00000 + 0x8 + wingBase 0 + i * 0x8
def MEM_ECC_CTRL (w : Nat) : Nat := 0xC00000 + 0x40 + wingBase w
def MEM_ECC_LAST (w : Nat) : Nat := 0xC00000 + 0x48 + wingBase w
def MEM_POISON_CNT (w : Nat) : Nat := 0xC00000 + 0x50 + wingBase w
def MEM_POISON (w : Nat) (i : Nat) : Nat := 0xC00000 + 0x400 + wingBase w + i * 0x8
def MEM_STK (w : Nat) (i : Nat) : Nat := 0xC00000 + 0x100 + wingBase w + i * 0x8
def MEM_CHECC (w : Nat) (i : Nat) : Nat := 0xC00000 + 0x1000 + wingBase w + i * 0x8
def MEM_RGN_BASE (i : Nat) : Nat := 0xC00000 + 0x2000 + wingBase 0 + i * 0x10
def MEM_RGN_ATTR (i : Nat) : Nat := 0xC00000 + 0x2008 + wingBase 0 + i * 0x10
def CEL_CTRL : Nat := 0x0006000000 + 0x0
def CEL_STATUS : Nat := 0x0006000000 + 0x8
def CEL_CE_TOTAL : Nat := 0x0006000000 + 0x10
def CEL_LASTUE : Nat := 0x0006000000 + 0x18
def CEL_QCFG (i : Nat) : Nat := 0x0006000000 + 0x10000 + i * 0x40
def CEL_QLEVEL (i : Nat) : Nat := 0x0006000000 + 0x10008 + i * 0x40
def CEL_QWM (i : Nat) : Nat := 0x0006000000 + 0x10010 + i * 0x40
def CEL_QMARK (i : Nat) : Nat := 0x0006000000 + 0x10018 + i * 0x40
def CEL_QECC (i : Nat) : Nat := 0x0006000000 + 0x10020 + i * 0x40
def HRT_WROLE : Nat := 0x0000000000 + 0x18
def PNT_CFG (w : Nat) : Nat := 0x800000 + 0x0 + wingBase w
def PNT_STATUS (w : Nat) : Nat := 0x800000 + 0x8 + wingBase w
def PNT_HIT (w : Nat) : Nat := 0x800000 + 0x10 + wingBase w
def PNT_MISS (w : Nat) : Nat := 0x800000 + 0x18 + wingBase w
def PNT_ECC (w : Nat) : Nat := 0x800000 + 0x20 + wingBase w
def MEM_ANX_CFG (i : Nat) : Nat := 0xC00000 + 0x3000 + wingBase 0 + i * 0x10
def MEM_ANX_MAP (i : Nat) : Nat := 0xC00000 + 0x3008 + wingBase 0 + i * 0x10
def MEM_ANX_PEER (i : Nat) : Nat := 0xC00000 + 0x5000 + wingBase 0 + i * 0x8
def CSM_ID (c : Nat) : Nat := 0x0 + csmBase c
def CSM_STATUS (c : Nat) : Nat := 0x8 + csmBase c
def CSM_CTRL (c : Nat) : Nat := 0x10 + csmBase c
def CSM_FA (c : Nat) : Nat := 0x18 + csmBase c
def CSM_ATTACH (c : Nat) : Nat := 0x20 + csmBase c
def CSM_PAIR (c : Nat) (i : Nat) : Nat := 0x100 + csmBase c + i * 0x8
def CSM_RXCW (c : Nat) (i : Nat) : Nat := 0x200 + csmBase c + i * 0x20
def CSM_RXCORR (c : Nat) (i : Nat) : Nat := 0x208 + csmBase c + i * 0x20
def CSM_RXSYM (c : Nat) (i : Nat) : Nat := 0x210 + csmBase c + i * 0x20
def CSM_RXUNC (c : Nat) (i : Nat) : Nat := 0x218 + csmBase c + i * 0x20
def CSM_RXLANE (c : Nat) (i : Nat) : Nat := 0x600 + csmBase c + i * 0x8
def LSR_CFG (c : Nat) : Nat := 0x200000 + 0x0 + csmBase c
def LSR_STATUS (c : Nat) : Nat := 0x200000 + 0x8 + csmBase c
def LSR_GRID (c : Nat) (i : Nat) : Nat := 0x200000 + 0x100 + csmBase c + i * 0x8
def LSR_ATTIC (c : Nat) (i : Nat) : Nat := 0x200000 + 0x200 + csmBase c + i * 0x8
def LSR_CARRIER (c : Nat) (i : Nat) : Nat := 0x200000 + 0x220 + csmBase c + i * 0x8
def LSR_COMM (c : Nat) (i : Nat) : Nat := 0x200000 + 0x300 + csmBase c + i * 0x8
def TUN_CFG (c : Nat) : Nat := 0x400000 + 0x0 + csmBase c
def TUN_CAL (c : Nat) : Nat := 0x400000 + 0x8 + csmBase c
def TUN_RING (c : Nat) (i : Nat) : Nat := 0x400000 + 0x100 + csmBase c + i * 0x8
def TUN_LOCK (c : Nat) (i : Nat) : Nat := 0x400000 + 0xA00 + csmBase c + i * 0x8
def TUN_TXMESH (c : Nat) (i : Nat) : Nat := 0x400000 + 0x2000 + csmBase c + i * 0x8
def TUN_RXMESH (c : Nat) (i : Nat) : Nat := 0x400000 + 0x2800 + csmBase c + i * 0x8
def STR_CFG : Nat := 0x600000 + 0x0 + csmBase 0
def STR_FRAME : Nat := 0x600000 + 0x8 + csmBase 0
def STR_BEAT : Nat := 0x600000 + 0x10 + csmBase 0
def STR_OFFSET : Nat := 0x600000 + 0x18 + csmBase 0
def STR_PLANSTAT (c : Nat) : Nat := 0x600000 + 0x20 + csmBase c
def STR_SETTLED (c : Nat) : Nat := 0x600000 + 0x28 + csmBase c
def STR_DELAY (c : Nat) (i : Nat) : Nat := 0x600000 + 0x100 + csmBase c + i * 0x10
def STR_FERR (c : Nat) (i : Nat) : Nat := 0x600000 + 0x108 + csmBase c + i * 0x10
def STR_PLAN (c : Nat) (i : Nat) : Nat := 0x600000 + 0x1000 + csmBase c + i * 0x8
def DRL_CTRL (c : Nat) : Nat := 0x800000 + csmBase c
def DRL_CFG (l : Nat) : Nat := 0x0 + linkBase l
def DRL_POOL (l : Nat) : Nat := 0x8 + linkBase l
def DRL_STATUS (l : Nat) : Nat := 0x10 + linkBase l
def DRL_SEQ (l : Nat) : Nat := 0x18 + linkBase l
def DRL_RTT (l : Nat) : Nat := 0x20 + linkBase l
def DRL_RXERR (l : Nat) : Nat := 0x28 + linkBase l
def DRL_EVENTS (l : Nat) : Nat := 0x30 + linkBase l
def SKY_CFG (c : Nat) : Nat := 0xA00000 + 0x0 + csmBase c
def SKY_STATUS (c : Nat) : Nat := 0xA00000 + 0x8 + csmBase c
def SKY_MBOX (c : Nat) : Nat := 0xA00000 + 0x10 + csmBase c
def SKY_JOBS (c : Nat) : Nat := 0xA00000 + 0x18 + csmBase c
def SKY_ERR (c : Nat) : Nat := 0xA00000 + 0x20 + csmBase c
def SKY_SLOT (c : Nat) (i : Nat) : Nat := 0xA00000 + 0x100 + csmBase c + i * 0x8
def HRT_FEATURE : Nat := 0x0000000000 + 0x20
def CSM_D2D (c : Nat) : Nat := 0x28 + csmBase c
def GST_CFG (g : Nat) : Nat := 0x0 + siteBase g
def GST_STATUS (g : Nat) : Nat := 0x8 + siteBase g
def GST_CAP (g : Nat) (i : Nat) : Nat := 0x10 + siteBase g + i * 0x8
def GST_NEG (g : Nat) : Nat := 0x20 + siteBase g
def GST_ERR (g : Nat) : Nat := 0x28 + siteBase g
def GST_WIDTH (g : Nat) : Nat := 0x30 + siteBase g
def PCH_CFG : Nat := 0x0410000000 + 0x0
def PCH_STATUS : Nat := 0x0410000000 + 0x8
def PCH_PCIE : Nat := 0x0410000000 + 0x10
def PCH_LANE (i : Nat) : Nat := 0x0410000000 + 0x100 + i * 0x8
def HB_CRING_CFG (i : Nat) : Nat := 0 + 0x100000 + i * 0x10
def HB_CRING_PTR (i : Nat) : Nat := 0 + 0x100008 + i * 0x10
def HB_EVQ_BASE (i : Nat) : Nat := 0 + 0x101000 + i * 0x20
def HB_DMA_BASE (i : Nat) : Nat := 0 + 0x103000 + i * 0x20
def HB_EVQ_CFG (i : Nat) : Nat := 0 + 0x101008 + i * 0x20
def HB_EVQ_PTR (i : Nat) : Nat := 0 + 0x101010 + i * 0x20
def HB_DMA_PTR (i : Nat) : Nat := 0 + 0x103010 + i * 0x20
def HB_HATCH_ADDR : Nat := 0 + 0x102000
def HB_HATCH_ERR : Nat := 0 + 0x102008
def HB_DMA_CFG (i : Nat) : Nat := 0 + 0x103008 + i * 0x20
def HB_BRIDGE : Nat := 0 + 0x104000
def HRT_HSTATUS : Nat := 0x0000000000 + 0x100
def HRT_EPOCH : Nat := 0x0000000000 + 0x108
def PWR_CFG : Nat := 0x0002000000 + 0x0
def PWR_STATUS : Nat := 0x0002000000 + 0x8
def PWR_WING (i : Nat) : Nat := 0x0002000000 + 0x10 + i * 0x8
def PWR_RAIL (i : Nat) : Nat := 0x0002000000 + 0x100 + i * 0x8
def PWR_DIE (i : Nat) : Nat := 0x0002000000 + 0x200 + i * 0x8
def CHM_CFG : Nat := 0x0001000000 + 0x0
def CHM_PKG : Nat := 0x0001000000 + 0x8
def CHM_WING (i : Nat) : Nat := 0x0001000000 + 0x10 + i * 0x8
def CHM_UNIT (i : Nat) : Nat := 0x0001000000 + 0x100 + i * 0x8
def CHM_TRIP : Nat := 0x0001000000 + 0x400
def FLT_CFG : Nat := 0x0003000000 + 0x0
def FLT_STATUS : Nat := 0x0003000000 + 0x8
def FLT_MEMLOST : Nat := 0x0003000000 + 0x10
def FLT_PLANVALID : Nat := 0x0003000000 + 0x18
def FLT_INFORCE : Nat := 0x0003000000 + 0x20
def FLT_BUDGET (i : Nat) : Nat := 0x0003000000 + 0x100 + i * 0x8
def FLT_PLAN_KEY (i : Nat) : Nat := 0x0003000000 + 0x1000 + i * 0x10
def FLT_PLAN_DA (i : Nat) : Nat := 0x0003000000 + 0x1008 + i * 0x10
def FLT_LOG (i : Nat) : Nat := 0x0003000000 + 0x20000 + i * 0x8
def FLT_REACT (i : Nat) : Nat := 0x0003000000 + 0x100000 + i * 0x8
def BST_CFG : Nat := 0x0004000000 + 0x0
def BST_STATUS : Nat := 0x0004000000 + 0x8
def BST_COUNT : Nat := 0x0004000000 + 0x10
def BST_LAST : Nat := 0x0004000000 + 0x18
def BST_REPAIR : Nat := 0x0004000000 + 0x20
def SEC_STATUS : Nat := 0x0005000000 + 0x0
def SEC_KEYBUDGET : Nat := 0x0005000000 + 0x8
def SEC_AUTH : Nat := 0x0005000000 + 0x10
def SEC_AUDIT : Nat := 0x0005000000 + 0x18
def SEC_SVN : Nat := 0x0005000000 + 0x20
def SEC_ENTROPY : Nat := 0x0005000000 + 0x28
def HRT_START : Nat := 0x0000000000 + 0x28
def HRT_STAGE_US (i : Nat) : Nat := 0x0000000000 + 0x200 + i * 0x8
def DRL_CR (l v : Nat) : Nat := 0x40 + linkBase l + v * 8
/-- LO word of a lane map: rx = 0 the transmit map, 1 the receive map. -/
def TUN_LMAP_LO (l rx : Nat) : Nat := 0x401000 + csmBase (l / 16) + (l % 16 * 4 + 2 * rx) * 8
def TUN_LMAP_HI (l rx : Nat) : Nat := 0x401000 + csmBase (l / 16) + (l % 16 * 4 + 2 * rx + 1) * 8


/-! ## Fields -/

def HRT_ID_PART : Field := bits 63 48
def HRT_ID_PACKAGE_REV : Field := bits 47 40
def HRT_ID_SPEED_GRADE : Field := bits 33 32
def HRT_ID_GUEST_MASK : Field := bits 31 28
def HRT_ID_GUEST_CODE : Field := bits 27 20
def HRT_SERIAL_SERIAL : Field := bits 63 0
def HRT_PKGID_POD_ID : Field := bits 63 48
def HRT_PKGID_PKG_ID : Field := bits 27 16
def HRT_PKGID_BRIDGE : Field := bit 1
def HRT_PKGID_BEAT_CANDIDATE : Field := bit 0
def BAY_STATUS_NO_SPARE : Field := bit 4
def BAY_STATUS_FENCED : Field := bit 3
def BAY_STATUS_POWER : Field := bits 2 0
def BAY_TILES_RETIRED : Field := bits 55 39
def BAY_TILES_FENCE : Field := bits 38 22
def BAY_TILES_TEST : Field := bit 5
def BAY_TILES_SPARE : Field := bits 4 0
def BAY_CTRL_ECC_CLR : Field := bit 3
def BAY_CTRL_SCRUB_EN : Field := bit 2
def BAY_CTRL_POWER_REQ : Field := bit 1
def BAY_CTRL_ROT_EN : Field := bit 0
def BAY_ECC_CE_COUNT : Field := bits 63 48
def BAY_ECC_UE_COUNT : Field := bits 47 40
def BAY_ECC_LAST_UE : Field := bit 29
def BAY_ECC_LAST_VALID : Field := bit 28
def BAY_ECC_BANK : Field := bits 27 22
def BAY_ECC_ROW : Field := bits 21 10
def BAY_ECC_WORD : Field := bits 9 7
def BAY_ECC_BIT : Field := bits 6 0
def BAY_VFLAGS_FLAGS : Field := bits 6 0
def BAY_VSR_STATE_STATE : Field := bits 31 0
def BAY_DSR_STATE_STATE : Field := bits 31 0
def TIL_STATUS_FAULT_COUNT : Field := bits 23 16
def TIL_STATUS_LAST_FAULT : Field := bits 10 8
def TIL_STATUS_LOGICAL : Field := bits 7 4
def TIL_STATUS_ROLE : Field := bits 2 0
def TIL_FLAGS_FLAGS : Field := bits 6 0
def TIL_SR_STATE_STATE : Field := bits 31 0
def TIL_MACCYC_COUNT : Field := bits 63 0
def BAY_SEQ_CTRL_STALL_FRAMES : Field := bits 31 16
def BAY_SEQ_CTRL_RUN : Field := bit 0
def BAY_SEQ_STREAM_BASE : Field := bits 47 6
def BAY_SEQ_POS_LENGTH : Field := bits 63 32
def BAY_SEQ_POS_INDEX : Field := bits 31 0
def BAY_SEQ_BASE_BASE_FRAME : Field := bits 47 0
def BAY_SEQ_CRING_BASE : Field := bits 47 12
def BAY_SEQ_CRING_SIZE : Field := bits 3 0
def BAY_SEQ_CRCNT_COUNT : Field := bits 63 0
def BAY_SEQ_JRNL_BASE : Field := bits 47 12
def BAY_SEQ_JRNL_SIZE : Field := bits 3 0
def BAY_SEQ_STATUS_SLIP_COUNT : Field := bits 63 48
def BAY_SEQ_STATUS_OVERRUN_COUNT : Field := bits 47 40
def BAY_SEQ_STATUS_LAST_STOP : Field := bits 7 4
def BAY_SEQ_STATUS_GRACE : Field := bit 3
def BAY_SEQ_STATUS_STATE : Field := bits 2 0
def BAY_SEQ_STOPIDX_INDEX : Field := bits 31 0
def BAY_SEQ_EVT_EVT_HI : Field := bits 63 48
def BAY_SEQ_EVT_EVT_2 : Field := bits 47 32
def BAY_SEQ_EVT_EVT_1 : Field := bits 31 16
def BAY_SEQ_EVT_EVT_LO : Field := bits 15 0
def BAY_SEQ_UPROG_VALID : Field := bits 15 0
def HAL_STATUS_SEAM1 : Field := bits 9 8
def HAL_STATUS_SEAM0 : Field := bits 7 6
def HAL_STATUS_PORT1 : Field := bits 3 2
def HAL_STATUS_PORT0 : Field := bits 1 0
def HAL_TX_BYTES_COUNT : Field := bits 63 0
def LDR_CTRL_EN : Field := bits 2 0
def LDR_STATUS_FLUSH_BUSY : Field := bit 0
def LDR_HIT_COUNT : Field := bits 63 0
def LDR_MISS_COUNT : Field := bits 63 0
def LDR_ECC_CE_COUNT : Field := bits 63 32
def LDR_ECC_UE_COUNT : Field := bits 31 16
def MEM_LAYOUT_PKG_GIB : Field := bits 41 32
def MEM_LAYOUT_RETIRE_COUNT : Field := bits 26 24
def MEM_LAYOUT_WING_PART : Field := bits 6 0
def MEM_RETIRE_VALID : Field := bit 15
def MEM_RETIRE_STATE : Field := bits 14 13
def MEM_RETIRE_STACK : Field := bits 12 9
def MEM_RETIRE_CHANNEL : Field := bits 8 4
def MEM_ECC_CTRL_CE_RETIRE : Field := bits 39 24
def MEM_ECC_CTRL_UE_RETIRE : Field := bits 23 16
def MEM_ECC_CTRL_PATROL_HOURS : Field := bits 15 8
def MEM_ECC_LAST_SEVERITY : Field := bits 63 62
def MEM_ECC_LAST_STACK : Field := bits 61 60
def MEM_ECC_LAST_CHANNEL : Field := bits 59 55
def MEM_ECC_LAST_PC : Field := bit 54
def MEM_ECC_LAST_DA : Field := bits 47 0
def MEM_POISON_CNT_COUNT : Field := bits 6 0
def MEM_POISON_VALID : Field := bit 63
def MEM_POISON_LINE : Field := bits 47 6
def MEM_STK_CH_UP : Field := bits 63 32
def MEM_STK_STATE : Field := bits 1 0
def MEM_CHECC_CE_TOTAL : Field := bits 63 32
def MEM_CHECC_CE_PASS : Field := bits 31 16
def MEM_CHECC_UE_COUNT : Field := bits 15 8
def MEM_RGN_BASE_BASE : Field := bits 47 12
def MEM_RGN_ATTR_LAST : Field := bits 47 12
def MEM_RGN_ATTR_WING : Field := bits 9 8
def MEM_RGN_ATTR_INTERLEAVE : Field := bit 7
def MEM_RGN_ATTR_OPEN : Field := bit 6
def MEM_RGN_ATTR_LOST : Field := bit 5
def MEM_RGN_ATTR_ANNEX_BACKED : Field := bit 4
def MEM_RGN_ATTR_JOURNAL : Field := bit 3
def MEM_RGN_ATTR_CELLAR : Field := bit 2
def MEM_RGN_ATTR_READONLY : Field := bit 1
def MEM_RGN_ATTR_VALID : Field := bit 0
def CEL_CTRL_SPILL_EN : Field := bit 0
def CEL_STATUS_SEG_FREE : Field := bits 49 32
def CEL_STATUS_SEG_TOTAL : Field := bits 17 0
def CEL_CE_TOTAL_COUNT : Field := bits 63 0
def CEL_LASTUE_VALID : Field := bit 63
def CEL_LASTUE_CAUSE : Field := bits 62 60
def CEL_LASTUE_QUEUE : Field := bits 58 48
def CEL_LASTUE_DA : Field := bits 47 0
def CEL_QCFG_LIMIT : Field := bits 35 18
def CEL_QCFG_NOTIFY : Field := bits 3 2
def CEL_QCFG_EN_L : Field := bit 1
def CEL_QCFG_EN_H : Field := bit 0
def CEL_QLEVEL_DROPPED : Field := bits 63 48
def CEL_QLEVEL_LEVEL : Field := bits 31 0
def CEL_QWM_HIGH : Field := bits 63 32
def CEL_QWM_LOW : Field := bits 31 0
def CEL_QMARK_COUNT_L : Field := bits 23 16
def CEL_QMARK_COUNT_H : Field := bits 15 8
def CEL_QMARK_CNT_CLR : Field := bit 4
def CEL_QMARK_LOW_NOW : Field := bit 3
def CEL_QMARK_HIGH_NOW : Field := bit 2
def CEL_QMARK_CROSSED_L : Field := bit 1
def CEL_QMARK_CROSSED_H : Field := bit 0
def CEL_QECC_CE_COUNT : Field := bits 63 32
def CEL_QECC_UE_COUNT : Field := bits 31 16
def PNT_CFG_LEASE_FRAMES : Field := bits 31 0
def PNT_STATUS_LOST_CNT : Field := bits 53 36
def PNT_STATUS_EVICTING_CNT : Field := bits 35 18
def PNT_STATUS_READY_CNT : Field := bits 17 0
def PNT_HIT_COUNT : Field := bits 63 0
def PNT_MISS_COUNT : Field := bits 63 0
def PNT_ECC_CE_COUNT : Field := bits 63 48
def PNT_ECC_DROP_COUNT : Field := bits 47 32
def PNT_ECC_SET : Field := bits 31 18
def PNT_ECC_WAY : Field := bits 17 15
def PNT_ECC_LAST_VALID : Field := bit 0
def MEM_ANX_CFG_SIZE_M1 : Field := bits 27 0
def MEM_ANX_MAP_LINK3 : Field := bits 63 56
def MEM_ANX_MAP_LINK2 : Field := bits 55 48
def MEM_ANX_MAP_LINK1 : Field := bits 47 40
def MEM_ANX_MAP_LINK0 : Field := bits 39 32
def MEM_ANX_MAP_RBASE : Field := bits 31 4
def MEM_ANX_MAP_NLINKS_M1 : Field := bits 3 2
def MEM_ANX_MAP_RELAY_OK : Field := bit 1
def MEM_ANX_MAP_VALID : Field := bit 0
def MEM_ANX_PEER_WRITABLE : Field := bit 12
def MEM_ANX_PEER_PEER : Field := bits 11 0
def CSM_ID_FEATURE_LEVEL : Field := bits 23 16
def CSM_ID_EIC_REV : Field := bits 15 8
def CSM_ID_PIC_REV : Field := bits 7 0
def CSM_STATUS_RE_UP : Field := bits 23 16
def CSM_STATUS_TE_UP : Field := bits 15 8
def CSM_STATUS_FA_PRESENT : Field := bit 4
def CSM_STATUS_FENCED : Field := bit 3
def CSM_STATUS_POWER : Field := bits 2 0
def CSM_CTRL_CNT_CLR : Field := bit 24
def CSM_CTRL_RE_EN : Field := bits 23 16
def CSM_CTRL_TE_EN : Field := bits 15 8
def CSM_CTRL_POWER_REQ : Field := bit 0
def CSM_FA_REMOVALS : Field := bits 31 16
def CSM_FA_DARK : Field := bit 1
def CSM_FA_PRESENT : Field := bit 0
def CSM_ATTACH_MOD_UP : Field := bits 15 0
def CSM_PAIR_REACH_FAULT : Field := bit 3
def CSM_PAIR_FEC_ACTIVE : Field := bit 2
def CSM_PAIR_FEC : Field := bit 1
def CSM_PAIR_EN : Field := bit 0
def CSM_RXCW_COUNT : Field := bits 63 0
def CSM_RXCORR_COUNT : Field := bits 63 0
def CSM_RXSYM_COUNT : Field := bits 63 0
def CSM_RXUNC_COUNT : Field := bits 63 0
def CSM_RXLANE_RX_PWR : Field := bits 63 48
def CSM_RXLANE_DEGRADED : Field := bit 32
def CSM_RXLANE_SYM_ERR : Field := bits 31 0
def LSR_CFG_WARN_DB : Field := bits 63 48
def LSR_CFG_SWAP_DB : Field := bits 47 32
def LSR_CFG_FLOOR_DB : Field := bits 31 16
def LSR_CFG_SPARE_EN : Field := bit 1
def LSR_CFG_ATTIC_EN : Field := bit 0
def LSR_STATUS_SWAP_COUNT : Field := bits 63 48
def LSR_STATUS_REMAP_COUNT : Field := bits 47 32
def LSR_STATUS_PEND_CH : Field := bits 20 16
def LSR_STATUS_ATTIC_FENCED : Field := bits 7 4
def LSR_STATUS_ATTIC_BUSY : Field := bits 3 0
def LSR_GRID_FADE : Field := bits 63 48
def LSR_GRID_OUT_PWR : Field := bits 47 32
def LSR_GRID_BIAS : Field := bits 31 20
def LSR_GRID_FLOOR_X : Field := bit 11
def LSR_GRID_SWAP_X : Field := bit 10
def LSR_GRID_WARN_X : Field := bit 9
def LSR_GRID_SOURCE : Field := bits 5 3
def LSR_GRID_STATE : Field := bits 2 0
def LSR_ATTIC_FADE : Field := bits 63 48
def LSR_ATTIC_OUT_PWR : Field := bits 47 32
def LSR_ATTIC_CHANNEL : Field := bits 12 8
def LSR_ATTIC_VERIFY_FAILS : Field := bits 5 4
def LSR_ATTIC_STATE : Field := bits 2 0
def LSR_CARRIER_FADE : Field := bits 63 48
def LSR_CARRIER_OUT_PWR : Field := bits 47 32
def LSR_CARRIER_STATE : Field := bits 2 0
def LSR_COMM_COMM_PWR : Field := bits 15 0
def TUN_CFG_CAL_INTERVAL : Field := bits 63 48
def TUN_CFG_EPOCH_LEAD : Field := bits 47 40
def TUN_CFG_CAL_TIMEOUT : Field := bits 39 32
def TUN_CFG_CAL_EN : Field := bit 0
def TUN_CAL_SKIPPED : Field := bits 63 48
def TUN_CAL_ROTATIONS : Field := bits 47 32
def TUN_CAL_LATE_EPOCHS : Field := bits 31 24
def TUN_CAL_BUSY : Field := bit 17
def TUN_CAL_RING : Field := bits 16 8
def TUN_RING_HEATER : Field := bits 63 48
def TUN_RING_XCOUNT : Field := bits 39 32
def TUN_RING_MISLOCKS : Field := bits 31 24
def TUN_RING_ATTEMPT : Field := bits 17 16
def TUN_RING_TONE_CH : Field := bits 12 8
def TUN_RING_STATE : Field := bits 2 0
def TUN_LOCK_HEATER : Field := bits 63 48
def TUN_LOCK_XCOUNT : Field := bits 39 32
def TUN_LOCK_MISLOCKS : Field := bits 31 24
def TUN_LOCK_ATTEMPT : Field := bits 17 16
def TUN_LOCK_TONE_CH : Field := bits 12 8
def TUN_LOCK_STATE : Field := bits 2 0
def TUN_LMAP_HI_SERIAL : Field := bits 63 56
def TUN_LMAP_HI_PEND : Field := bit 55
def TUN_TXMESH_HEATER : Field := bits 63 48
def TUN_TXMESH_EXT : Field := bits 47 40
def TUN_TXMESH_STATE : Field := bits 2 0
def TUN_RXMESH_HEATER : Field := bits 63 48
def TUN_RXMESH_EXT : Field := bits 47 40
def TUN_RXMESH_STATE : Field := bits 2 0
def STR_CFG_ELECT_FRAMES : Field := bits 63 48
def STR_CFG_HOLD_FRAMES : Field := bits 47 40
def STR_CFG_MISMATCH_LIMIT : Field := bits 39 24
def STR_CFG_DELTA_LEAD : Field := bits 23 16
def STR_CFG_FSYNC_DELAY : Field := bits 15 8
def STR_CFG_CNT_CLR : Field := bit 1
def STR_CFG_FSYNC_SRC : Field := bit 0
def STR_FRAME_FRAME : Field := bits 47 0
def STR_BEAT_MASTER_ID : Field := bits 39 28
def STR_BEAT_REF_ID : Field := bits 27 16
def STR_BEAT_STRATUM : Field := bits 15 14
def STR_BEAT_CONFLICT : Field := bit 4
def STR_BEAT_STATE : Field := bits 2 0
def STR_OFFSET_LAST_CORR : Field := bits 31 16
def STR_OFFSET_OFFSET : Field := bits 15 0
def STR_PLANSTAT_NEXT_FRAME : Field := bits 63 16
def STR_PLANSTAT_LOAD_PEND : Field := bit 15
def STR_PLANSTAT_DELTAS_PEND : Field := bits 14 9
def STR_PLANSTAT_SKIPPED : Field := bits 7 0
def STR_SETTLED_CHANGE_FRAME : Field := bits 63 16
def STR_SETTLED_PEND : Field := bits 15 8
def STR_SETTLED_SETTLED : Field := bits 7 0
def STR_DELAY_VALID : Field := bit 63
def STR_DELAY_W : Field := bits 50 48
def STR_DELAY_ARRIVAL : Field := bits 47 32
def STR_DELAY_A : Field := bits 31 19
def STR_DELAY_D : Field := bits 18 0
def STR_FERR_WRONG_PEER : Field := bits 63 48
def STR_FERR_NO_LIGHT : Field := bits 47 32
def STR_FERR_LATE : Field := bits 31 16
def STR_FERR_MISMATCH : Field := bit 1
def STR_FERR_PARITY : Field := bit 0
def STR_PLAN_ENTRY : Field := bits 31 0
def DRL_CTRL_CNT_CLR : Field := bit 0
def DRL_CFG_DOWN_HOLD : Field := bits 63 56
def DRL_CFG_RETRAIN_FRAMES : Field := bits 55 48
def DRL_CFG_LOL_FRAMES : Field := bits 47 40
def DRL_CFG_VERSION_MAX : Field := bits 39 36
def DRL_CFG_REPLAY_LIMIT : Field := bits 35 32
def DRL_CFG_REPLAY_ADD : Field := bits 31 16
def DRL_CFG_NVC_M1 : Field := bits 9 7
def DRL_CFG_PAIRS_M1 : Field := bits 6 4
def DRL_CFG_RELAY_FWD : Field := bit 1
def DRL_CFG_EN : Field := bit 0
def DRL_POOL_CAP_PCT : Field := bits 39 32
def DRL_POOL_RES : Field := bits 31 16
def DRL_POOL_POOL : Field := bits 15 0
def DRL_STATUS_RELAY_PKG : Field := bits 63 52
def DRL_STATUS_PEER_PKG : Field := bits 51 40
def DRL_STATUS_PEER_LINK : Field := bits 39 32
def DRL_STATUS_VERSION : Field := bits 31 28
def DRL_STATUS_LAST_DOWN : Field := bits 27 24
def DRL_STATUS_STATE : Field := bits 2 0
def DRL_SEQ_RX_NEXT : Field := bits 59 48
def DRL_SEQ_TX_NEXT : Field := bits 47 36
def DRL_SEQ_TX_OLDEST : Field := bits 35 24
def DRL_SEQ_OUTSTANDING : Field := bits 10 0
def DRL_RTT_REPLAYS_NOW : Field := bits 35 32
def DRL_RTT_TIMER : Field := bits 31 16
def DRL_RTT_RTT_EST : Field := bits 15 0
def DRL_RXERR_CRC_FAIL : Field := bits 63 48
def DRL_RXERR_DUPLICATE : Field := bits 47 32
def DRL_RXERR_OUT_OF_ORDER : Field := bits 31 16
def DRL_RXERR_DISCARD : Field := bits 15 0
def DRL_EVENTS_REPLAYS : Field := bits 63 48
def DRL_EVENTS_RETRAINS : Field := bits 47 32
def DRL_EVENTS_DOWNS : Field := bits 31 16
def DRL_EVENTS_CREDIT_EXCESS : Field := bits 15 0
def DRL_CR_OCC : Field := bits 47 32
def DRL_CR_SHARED_USED : Field := bits 31 16
def DRL_CR_RES_USED : Field := bits 15 0
def SKY_CFG_CAL_PERIOD : Field := bits 63 48
def SKY_CFG_DRIFT_LIMIT : Field := bits 47 32
def SKY_CFG_CNT_CLR : Field := bit 3
def SKY_CFG_FORCE_EXACT : Field := bit 2
def SKY_CFG_DRIFT_EN : Field := bit 1
def SKY_CFG_EN : Field := bit 0
def SKY_STATUS_CAL_COUNT : Field := bits 63 48
def SKY_STATUS_LAST_CAL : Field := bits 47 44
def SKY_STATUS_MBOX_IDX : Field := bits 13 8
def SKY_STATUS_CARRIER : Field := bit 4
def SKY_STATUS_STATE : Field := bits 2 0
def SKY_MBOX_BASE : Field := bits 47 12
def SKY_JOBS_DONE : Field := bits 63 32
def SKY_JOBS_FALLBACKS : Field := bits 31 16
def SKY_JOBS_TIMEOUTS : Field := bits 15 8
def SKY_JOBS_BAD_JOBS : Field := bits 7 0
def SKY_ERR_RMS_CAL : Field := bits 63 48
def SKY_ERR_RMS_NOW : Field := bits 47 32
def SKY_ERR_CLIPS : Field := bits 31 16
def SKY_ERR_READ_FAILS : Field := bits 15 0
def SKY_SLOT_JOB_ID : Field := bits 31 16
def SKY_SLOT_STATE : Field := bits 1 0
def HRT_FEATURE_FRAME_PUSH : Field := bits 23 16
def HRT_FEATURE_FLOOR : Field := bits 15 8
def HRT_FEATURE_MIN_LEVEL : Field := bits 7 0
def CSM_D2D_FLIT_CRC : Field := bits 63 48
def CSM_D2D_MISMATCHES : Field := bits 47 40
def CSM_D2D_RATE : Field := bits 39 36
def CSM_D2D_X32_LEVEL : Field := bit 32
def CSM_D2D_X32 : Field := bits 31 16
def GST_CFG_ROLE : Field := bits 2 1
def GST_CFG_POWER_REQ : Field := bit 0
def GST_STATUS_FEATURE_LEVEL : Field := bits 31 24
def GST_STATUS_X32 : Field := bits 23 20
def GST_STATUS_MOD_UP : Field := bits 19 16
def GST_STATUS_RATE : Field := bits 15 12
def GST_STATUS_LAST_FAULT : Field := bits 11 8
def GST_STATUS_FENCED : Field := bit 3
def GST_STATUS_STATE : Field := bits 2 0
def GST_CAP_WORD : Field := bits 63 0
def GST_NEG_NVC_M1 : Field := bits 18 16
def GST_NEG_FLIT : Field := bits 15 12
def GST_NEG_RATE : Field := bits 11 8
def GST_NEG_MODULES : Field := bits 7 4
def GST_NEG_X32 : Field := bits 3 0
def GST_ERR_FLIT_CRC : Field := bits 63 48
def GST_ERR_REPLAYS : Field := bits 47 32
def GST_ERR_RETRAINS : Field := bits 31 16
def GST_ERR_MISMATCHES : Field := bits 15 8
def GST_ERR_SB_TIMEOUTS : Field := bits 7 0
def GST_WIDTH_LOCAL_X32 : Field := bits 39 36
def GST_WIDTH_LOCAL_MODS : Field := bits 35 32
def GST_WIDTH_PEER_X32 : Field := bits 23 20
def GST_WIDTH_PEER_MODS : Field := bits 19 16
def GST_WIDTH_PEER_SERIAL : Field := bits 7 4
def GST_WIDTH_LOCAL_SERIAL : Field := bits 3 0
def PCH_CFG_ROLE : Field := bits 63 0
def PCH_STATUS_FAULT : Field := bits 63 32
def PCH_STATUS_UP : Field := bits 31 0
def PCH_PCIE_SPEED : Field := bits 11 8
def PCH_PCIE_WIDTH : Field := bits 7 3
def PCH_PCIE_PERST : Field := bit 2
def PCH_PCIE_LINK_UP : Field := bit 1
def PCH_PCIE_CONFIGURED : Field := bit 0
def PCH_LANE_SNR : Field := bits 63 48
def PCH_LANE_TRAINS : Field := bits 47 40
def PCH_LANE_STATE : Field := bits 34 32
def PCH_LANE_SYM_ERR : Field := bits 31 0
def HB_CRING_CFG_ROLE : Field := bits 9 8
def HB_CRING_CFG_STATE : Field := bits 7 6
def HB_CRING_CFG_EN : Field := bit 5
def HB_CRING_CFG_EVQ : Field := bits 3 0
def HB_CRING_PTR_HEAD : Field := bits 41 32
def HB_CRING_PTR_TAIL : Field := bits 9 0
def HB_EVQ_BASE_BASE : Field := bits 63 12
def HB_DMA_BASE_BASE : Field := bits 63 12
def HB_EVQ_CFG_VECTOR : Field := bits 15 8
def HB_EVQ_CFG_SIZE : Field := bits 7 4
def HB_EVQ_CFG_ARM : Field := bit 1
def HB_EVQ_CFG_EN : Field := bit 0
def HB_EVQ_PTR_TAIL : Field := bits 47 32
def HB_EVQ_PTR_HEAD : Field := bits 15 0
def HB_DMA_PTR_HEAD : Field := bits 47 32
def HB_DMA_PTR_TAIL : Field := bits 15 0
def HB_HATCH_ADDR_ADDR : Field := bits 47 3
def HB_HATCH_ERR_ERR : Field := bit 63
def HB_HATCH_ERR_CAUSE : Field := bits 62 60
def HB_HATCH_ERR_DA : Field := bits 47 0
def HB_DMA_CFG_VECTOR : Field := bits 15 8
def HB_DMA_CFG_SIZE : Field := bits 7 4
def HB_DMA_CFG_STATE : Field := bits 3 2
def HB_DMA_CFG_RESUME : Field := bit 1
def HB_DMA_CFG_EN : Field := bit 0
def HB_BRIDGE_CMD_TIMEOUT : Field := bits 63 48
def HB_BRIDGE_PAGE : Field := bits 31 16
def HB_BRIDGE_READY : Field := bit 0
def HRT_HSTATUS_DIVERGES : Field := bits 63 48
def HRT_HSTATUS_TAKEOVERS : Field := bits 47 32
def HRT_HSTATUS_HB_STATE : Field := bits 11 8
def HRT_HSTATUS_HA_STATE : Field := bits 7 4
def HRT_HSTATUS_PAIRED : Field := bit 1
def HRT_HSTATUS_ACTIVE : Field := bit 0
def HRT_EPOCH_EPOCH : Field := bits 31 0
def PWR_CFG_CAP_W : Field := bits 63 48
def PWR_CFG_HYST_PCT : Field := bits 47 40
def PWR_CFG_CAP_FRAMES : Field := bits 39 24
def PWR_STATUS_P_LAST : Field := bits 63 48
def PWR_STATUS_CAP_STEP : Field := bits 47 44
def PWR_STATUS_CAP_DROP : Field := bit 43
def PWR_STATUS_UV_RAIL : Field := bits 42 40
def PWR_WING_POWER : Field := bits 63 48
def PWR_WING_PEND : Field := bit 7
def PWR_WING_TARGET : Field := bits 5 4
def PWR_WING_OP : Field := bits 1 0
def PWR_RAIL_MV : Field := bits 63 48
def PWR_RAIL_MW : Field := bits 31 0
def PWR_DIE_POWER : Field := bits 63 48
def PWR_DIE_MV : Field := bits 47 32
def PWR_DIE_STEP : Field := bits 11 8
def PWR_DIE_TH_STEP : Field := bits 7 4
def PWR_DIE_FENCED : Field := bit 3
def PWR_DIE_STATE : Field := bits 2 0
def CHM_CFG_THROTTLE : Field := bits 15 8
def CHM_CFG_HYST : Field := bits 7 0
def CHM_PKG_MAX : Field := bits 63 48
def CHM_PKG_UNIT : Field := bits 47 42
def CHM_PKG_SENSOR : Field := bits 41 36
def CHM_PKG_EXCLUDED : Field := bits 25 16
def CHM_WING_MAX : Field := bits 63 48
def CHM_WING_UNIT : Field := bits 47 42
def CHM_WING_SENSOR : Field := bits 41 36
def CHM_WING_EXCLUDED : Field := bits 25 16
def CHM_UNIT_MAX : Field := bits 63 48
def CHM_UNIT_SENSOR : Field := bits 47 42
def CHM_UNIT_EXCLUDED : Field := bits 41 36
def CHM_UNIT_LIMIT : Field := bit 1
def CHM_UNIT_THROTTLE : Field := bit 0
def CHM_TRIP_TEMP : Field := bits 63 48
def CHM_TRIP_UNIT : Field := bits 47 42
def CHM_TRIP_SENSOR : Field := bits 41 36
def CHM_TRIP_ACK_PEND : Field := bit 35
def CHM_TRIP_COUNT : Field := bits 31 0
def FLT_CFG_REPLAY_LEAD : Field := bits 63 48
def FLT_CFG_PLAN_LEAD : Field := bits 47 32
def FLT_CFG_REPLAY_MAX : Field := bits 31 28
def FLT_STATUS_UNCLEARED : Field := bits 63 48
def FLT_STATUS_LOST : Field := bits 47 32
def FLT_STATUS_FATAL_PEND : Field := bit 2
def FLT_STATUS_FENCE_PEND : Field := bit 1
def FLT_STATUS_ERR_N : Field := bit 0
def FLT_MEMLOST_WINGS : Field := bits 15 12
def FLT_MEMLOST_STACKS : Field := bits 11 0
def FLT_PLANVALID_PLANS : Field := bits 63 0
def FLT_INFORCE_PLANS : Field := bits 63 0
def FLT_BUDGET_OVERRUNS : Field := bits 63 48
def FLT_BUDGET_LIMIT_NS : Field := bits 39 0
def FLT_PLAN_KEY_KIND : Field := bits 47 44
def FLT_PLAN_KEY_LOST_PKG : Field := bits 43 32
def FLT_PLAN_KEY_LOCATOR : Field := bits 31 0
def FLT_PLAN_DA_DA : Field := bits 47 0
def FLT_LOG_WORD : Field := bits 63 0
def FLT_REACT_FORCED : Field := bits 12 8
def FLT_REACT_MASK : Field := bits 4 0
def BST_CFG_TILE_INTERVAL : Field := bits 63 48
def BST_CFG_SRAM_INTERVAL : Field := bits 47 32
def BST_CFG_BASE_INTERVAL : Field := bits 31 16
def BST_CFG_BASE_EN : Field := bit 2
def BST_CFG_SRAM_EN : Field := bit 1
def BST_CFG_TILE_EN : Field := bit 0
def BST_STATUS_LOCATOR : Field := bits 63 32
def BST_STATUS_CODE : Field := bits 31 16
def BST_STATUS_RESULT : Field := bits 3 0
def BST_COUNT_SLICES : Field := bits 63 32
def BST_COUNT_SKIPPED : Field := bits 31 16
def BST_COUNT_FAILED : Field := bits 15 0
def BST_LAST_LOCATOR : Field := bits 63 32
def BST_LAST_BANK : Field := bits 31 26
def BST_LAST_ROW : Field := bits 25 14
def BST_LAST_WORD : Field := bits 13 11
def BST_LAST_BIT : Field := bits 10 4
def BST_LAST_VALID : Field := bit 0
def BST_REPAIR_RECORDS : Field := bits 63 48
def SEC_STATUS_LOCKOUT : Field := bit 15
def SEC_STATUS_KEY_LOW : Field := bit 14
def SEC_STATUS_ENTROPY_FAIL : Field := bit 13
def SEC_STATUS_KEYS : Field := bits 11 10
def SEC_STATUS_CFG_BOUND : Field := bit 9
def SEC_STATUS_BLOCK : Field := bit 8
def SEC_STATUS_LIFECYCLE : Field := bits 2 0
def SEC_KEYBUDGET_REMAINING : Field := bits 63 32
def SEC_KEYBUDGET_NEXT_Q : Field := bits 31 0
def SEC_AUTH_LOCK_FRAMES : Field := bits 63 32
def SEC_AUTH_FAILS_TOTAL : Field := bits 31 16
def SEC_AUTH_FAILS_NOW : Field := bits 3 0
def SEC_AUDIT_SEQ : Field := bits 63 12
def SEC_AUDIT_INDEX : Field := bits 11 0
def SEC_SVN_SVN_MIN : Field := bits 63 32
def SEC_SVN_SVN : Field := bits 31 0
def SEC_ENTROPY_RCT_FAILS : Field := bits 63 48
def SEC_ENTROPY_APT_FAILS : Field := bits 47 32
def SEC_ENTROPY_RESEEDS : Field := bits 31 0
def HRT_START_DEADLINE_MS : Field := bits 63 48
def HRT_START_A_FAIL : Field := bits 47 44
def HRT_START_B_FAIL : Field := bits 43 40
def HRT_START_CFG_DEFAULT : Field := bit 11
def HRT_START_LATE : Field := bit 10
def HRT_START_IMAGE : Field := bit 8
def HRT_START_STAGE : Field := bits 7 4
def HRT_STAGE_US_US : Field := bits 31 0
def HRT_WROLE_ROLE (w : Nat) : Field := { lo := 4 * w, width := 2 }
def HRT_WROLE_PEND (w : Nat) : Field := { lo := 4 * w + 2, width := 1 }
/-- Field LLn of a lane map: the wavelength of logical lane n. -/
def TUN_LMAP_LL (n : Nat) : Field := { lo := 5 * (if n < 12 then n else n - 12), width := 5 }
def PCH_CFG_LANE (n : Nat) : Field := { lo := 2 * n, width := 2 }

/-! ## Register tables -/

/-- One row of a register map: count registers from offset off, stride bytes apart; which fields software may write and how
(R6); and the reset value of register i. -/
structure RegSpec where
  off : Nat
  stride : Nat
  count : Nat
  rw : List Field := []
  w1c : List Field := []
  w1s : List Field := []
  reset : Nat → Word := fun _ => 0

def hrtSpecs : List RegSpec := [
  /- HRT_ID -/
  { off := 0x0, stride := 0x8, count := 1,
    reset := fun _ => packFields [(HRT_ID_PART, 0x4812)] },
  /- HRT_SERIAL -/
  { off := 0x8, stride := 0x8, count := 1 },
  /- HRT_PKGID -/
  { off := 0x10, stride := 0x8, count := 1 },
  /- HRT_WROLE -/
  { off := 0x18, stride := 0x8, count := 1 },
  /- HRT_FEATURE -/
  { off := 0x20, stride := 0x8, count := 1 },
  /- HRT_HSTATUS -/
  { off := 0x100, stride := 0x8, count := 1 },
  /- HRT_EPOCH -/
  { off := 0x108, stride := 0x8, count := 1 },
  /- HRT_START -/
  { off := 0x28, stride := 0x8, count := 1, rw := [HRT_START_DEADLINE_MS] },
  /- HRT_STAGE_US -/
  { off := 0x208, stride := 0x8, count := 11 }]

def baySpecs : List RegSpec := [
  /- BAY_STATUS -/
  { off := 0x0, stride := 0x8, count := 1,
    reset := fun _ => packFields [(BAY_STATUS_POWER, 0b010)] },
  /- BAY_TILES -/
  { off := 0x8, stride := 0x8, count := 1 },
  /- BAY_CTRL -/
  { off := 0x10, stride := 0x8, count := 1, rw := [BAY_CTRL_SCRUB_EN, BAY_CTRL_POWER_REQ, BAY_CTRL_ROT_EN],
    reset := fun _ => packFields [(BAY_CTRL_SCRUB_EN, 1), (BAY_CTRL_POWER_REQ, 1), (BAY_CTRL_ROT_EN, 1)] },
  /- BAY_ECC -/
  { off := 0x18, stride := 0x8, count := 1 },
  /- BAY_VFLAGS -/
  { off := 0x20, stride := 0x8, count := 1, w1c := [BAY_VFLAGS_FLAGS] },
  /- BAY_VSR_STATE -/
  { off := 0x28, stride := 0x8, count := 1, rw := [BAY_VSR_STATE_STATE] },
  /- BAY_DSR_STATE -/
  { off := 0x30, stride := 0x8, count := 1, rw := [BAY_DSR_STATE_STATE] },
  /- BAY_SEQ_CTRL -/
  { off := 0x100, stride := 0x8, count := 1, rw := [BAY_SEQ_CTRL_STALL_FRAMES, BAY_SEQ_CTRL_RUN],
    reset := fun _ => packFields [(BAY_SEQ_CTRL_STALL_FRAMES, 0x0400)] },
  /- BAY_SEQ_STREAM -/
  { off := 0x108, stride := 0x8, count := 1, rw := [BAY_SEQ_STREAM_BASE] },
  /- BAY_SEQ_POS -/
  { off := 0x110, stride := 0x8, count := 1, rw := [BAY_SEQ_POS_LENGTH, BAY_SEQ_POS_INDEX] },
  /- BAY_SEQ_BASE -/
  { off := 0x118, stride := 0x8, count := 1, rw := [BAY_SEQ_BASE_BASE_FRAME] },
  /- BAY_SEQ_CRING -/
  { off := 0x120, stride := 0x8, count := 1, rw := [BAY_SEQ_CRING_BASE, BAY_SEQ_CRING_SIZE] },
  /- BAY_SEQ_CRCNT -/
  { off := 0x128, stride := 0x8, count := 1 },
  /- BAY_SEQ_JRNL -/
  { off := 0x130, stride := 0x8, count := 1, rw := [BAY_SEQ_JRNL_BASE, BAY_SEQ_JRNL_SIZE] },
  /- BAY_SEQ_STATUS -/
  { off := 0x138, stride := 0x8, count := 1 },
  /- BAY_SEQ_STOPIDX -/
  { off := 0x140, stride := 0x8, count := 1 },
  /- BAY_SEQ_EVT -/
  { off := 0x148, stride := 0x8, count := 8 },
  /- BAY_SEQ_UPROG -/
  { off := 0x188, stride := 0x8, count := 1 }]

def tilSpecs : List RegSpec := [
  /- TIL_STATUS -/
  { off := 0x0, stride := 0x8, count := 1 },
  /- TIL_FLAGS -/
  { off := 0x8, stride := 0x8, count := 1, w1c := [TIL_FLAGS_FLAGS] },
  /- TIL_SR_STATE -/
  { off := 0x10, stride := 0x8, count := 1, rw := [TIL_SR_STATE_STATE] },
  /- TIL_MACCYC -/
  { off := 0x18, stride := 0x8, count := 1 }]

def halSpecs : List RegSpec := [
  /- HAL_STATUS -/
  { off := 0x0, stride := 0x8, count := 1 },
  /- HAL_TX_BYTES -/
  { off := 0x8, stride := 0x8, count := 2 }]

def ldrSpecs : List RegSpec := [
  /- LDR_CTRL -/
  { off := 0x0, stride := 0x8, count := 1, rw := [LDR_CTRL_EN],
    reset := fun _ => packFields [(LDR_CTRL_EN, 0b111)] },
  /- LDR_STATUS -/
  { off := 0x8, stride := 0x8, count := 1 },
  /- LDR_HIT -/
  { off := 0x10, stride := 0x18, count := 3 },
  /- LDR_MISS -/
  { off := 0x18, stride := 0x18, count := 3 },
  /- LDR_ECC -/
  { off := 0x20, stride := 0x18, count := 3 }]

def memSpecs : List RegSpec := [
  /- MEM_LAYOUT -/
  { off := 0x0, stride := 0x8, count := 1 },
  /- MEM_RETIRE -/
  { off := 0x8, stride := 0x8, count := 4 },
  /- MEM_ECC_CTRL -/
  { off := 0x40, stride := 0x8, count := 1, rw := [MEM_ECC_CTRL_CE_RETIRE, MEM_ECC_CTRL_UE_RETIRE, MEM_ECC_CTRL_PATROL_HOURS],
    reset := fun _ => packFields [(MEM_ECC_CTRL_CE_RETIRE, 0x1000), (MEM_ECC_CTRL_UE_RETIRE, 0x04), (MEM_ECC_CTRL_PATROL_HOURS, 0x18)] },
  /- MEM_ECC_LAST -/
  { off := 0x48, stride := 0x8, count := 1 },
  /- MEM_POISON_CNT -/
  { off := 0x50, stride := 0x8, count := 1 },
  /- MEM_POISON -/
  { off := 0x400, stride := 0x8, count := 64 },
  /- MEM_STK -/
  { off := 0x100, stride := 0x8, count := 3 },
  /- MEM_CHECC -/
  { off := 0x1000, stride := 0x8, count := 96 },
  /- MEM_RGN_BASE -/
  { off := 0x2000, stride := 0x10, count := 64, rw := [MEM_RGN_BASE_BASE] },
  /- MEM_RGN_ATTR -/
  { off := 0x2008, stride := 0x10, count := 64, rw := [MEM_RGN_ATTR_LAST, MEM_RGN_ATTR_WING, MEM_RGN_ATTR_INTERLEAVE, MEM_RGN_ATTR_ANNEX_BACKED, MEM_RGN_ATTR_JOURNAL, MEM_RGN_ATTR_CELLAR, MEM_RGN_ATTR_READONLY, MEM_RGN_ATTR_VALID] },
  /- MEM_ANX_CFG -/
  { off := 0x3010, stride := 0x10, count := 255, rw := [MEM_ANX_CFG_SIZE_M1] },
  /- MEM_ANX_MAP -/
  { off := 0x3018, stride := 0x10, count := 255, rw := [MEM_ANX_MAP_LINK3, MEM_ANX_MAP_LINK2, MEM_ANX_MAP_LINK1, MEM_ANX_MAP_LINK0, MEM_ANX_MAP_RBASE, MEM_ANX_MAP_NLINKS_M1, MEM_ANX_MAP_RELAY_OK, MEM_ANX_MAP_VALID] },
  /- MEM_ANX_PEER -/
  { off := 0x5008, stride := 0x8, count := 255, rw := [MEM_ANX_PEER_WRITABLE, MEM_ANX_PEER_PEER] }]

def celSpecs : List RegSpec := [
  /- CEL_CTRL -/
  { off := 0x0, stride := 0x8, count := 1, rw := [CEL_CTRL_SPILL_EN],
    reset := fun _ => packFields [(CEL_CTRL_SPILL_EN, 1)] },
  /- CEL_STATUS -/
  { off := 0x8, stride := 0x8, count := 1 },
  /- CEL_CE_TOTAL -/
  { off := 0x10, stride := 0x8, count := 1 },
  /- CEL_LASTUE -/
  { off := 0x18, stride := 0x8, count := 1 },
  /- CEL_QCFG -/
  { off := 0x10000, stride := 0x40, count := 1116, rw := [CEL_QCFG_LIMIT, CEL_QCFG_NOTIFY, CEL_QCFG_EN_L, CEL_QCFG_EN_H] },
  /- CEL_QLEVEL -/
  { off := 0x10008, stride := 0x40, count := 1116 },
  /- CEL_QWM -/
  { off := 0x10010, stride := 0x40, count := 1116, rw := [CEL_QWM_HIGH, CEL_QWM_LOW],
    reset := fun _ => packFields [(CEL_QWM_HIGH, 0xFFFFFFFF)] },
  /- CEL_QMARK -/
  { off := 0x10018, stride := 0x40, count := 1116, w1c := [CEL_QMARK_CROSSED_L, CEL_QMARK_CROSSED_H],
    reset := fun _ => packFields [(CEL_QMARK_LOW_NOW, 1)] },
  /- CEL_QECC -/
  { off := 0x10020, stride := 0x40, count := 1116 }]

def pntSpecs : List RegSpec := [
  /- PNT_CFG -/
  { off := 0x0, stride := 0x8, count := 1, rw := [PNT_CFG_LEASE_FRAMES],
    reset := fun _ => packFields [(PNT_CFG_LEASE_FRAMES, 0x00010000)] },
  /- PNT_STATUS -/
  { off := 0x8, stride := 0x8, count := 1 },
  /- PNT_HIT -/
  { off := 0x10, stride := 0x8, count := 1 },
  /- PNT_MISS -/
  { off := 0x18, stride := 0x8, count := 1 },
  /- PNT_ECC -/
  { off := 0x20, stride := 0x8, count := 1 }]

def csmSpecs : List RegSpec := [
  /- CSM_ID -/
  { off := 0x0, stride := 0x8, count := 1 },
  /- CSM_STATUS -/
  { off := 0x8, stride := 0x8, count := 1 },
  /- CSM_CTRL -/
  { off := 0x10, stride := 0x8, count := 1, rw := [CSM_CTRL_RE_EN, CSM_CTRL_TE_EN, CSM_CTRL_POWER_REQ],
    reset := fun _ => packFields [(CSM_CTRL_RE_EN, 0xFF), (CSM_CTRL_TE_EN, 0xFF), (CSM_CTRL_POWER_REQ, 1)] },
  /- CSM_FA -/
  { off := 0x18, stride := 0x8, count := 1 },
  /- CSM_ATTACH -/
  { off := 0x20, stride := 0x8, count := 1 },
  /- CSM_PAIR -/
  { off := 0x100, stride := 0x8, count := 16, rw := [CSM_PAIR_FEC, CSM_PAIR_EN] },
  /- CSM_RXCW -/
  { off := 0x200, stride := 0x20, count := 16 },
  /- CSM_RXCORR -/
  { off := 0x208, stride := 0x20, count := 16 },
  /- CSM_RXSYM -/
  { off := 0x210, stride := 0x20, count := 16 },
  /- CSM_RXUNC -/
  { off := 0x218, stride := 0x20, count := 16 },
  /- CSM_RXLANE -/
  { off := 0x600, stride := 0x8, count := 128,
    reset := fun _ => packFields [(CSM_RXLANE_RX_PWR, 0x8000)] },
  /- CSM_D2D -/
  { off := 0x28, stride := 0x8, count := 1 }]

def lsrSpecs : List RegSpec := [
  /- LSR_CFG -/
  { off := 0x0, stride := 0x8, count := 1, rw := [LSR_CFG_WARN_DB, LSR_CFG_SWAP_DB, LSR_CFG_FLOOR_DB, LSR_CFG_SPARE_EN, LSR_CFG_ATTIC_EN],
    reset := fun _ => packFields [(LSR_CFG_WARN_DB, 0xFF9C), (LSR_CFG_SWAP_DB, 0xFF38), (LSR_CFG_FLOOR_DB, 0xFED4), (LSR_CFG_SPARE_EN, 1), (LSR_CFG_ATTIC_EN, 1)] },
  /- LSR_STATUS -/
  { off := 0x8, stride := 0x8, count := 1,
    reset := fun _ => packFields [(LSR_STATUS_PEND_CH, 0x1F)] },
  /- LSR_GRID -/
  { off := 0x100, stride := 0x8, count := 18, w1c := [LSR_GRID_FLOOR_X, LSR_GRID_SWAP_X, LSR_GRID_WARN_X] },
  /- LSR_ATTIC -/
  { off := 0x200, stride := 0x8, count := 4 },
  /- LSR_CARRIER -/
  { off := 0x220, stride := 0x8, count := 2 },
  /- LSR_COMM -/
  { off := 0x300, stride := 0x8, count := 24 }]

def tunSpecs : List RegSpec := [
  /- TUN_CFG -/
  { off := 0x0, stride := 0x8, count := 1, rw := [TUN_CFG_CAL_INTERVAL, TUN_CFG_EPOCH_LEAD, TUN_CFG_CAL_TIMEOUT, TUN_CFG_CAL_EN],
    reset := fun _ => packFields [(TUN_CFG_CAL_INTERVAL, 0x0350), (TUN_CFG_EPOCH_LEAD, 0x10), (TUN_CFG_CAL_TIMEOUT, 0x40), (TUN_CFG_CAL_EN, 1)] },
  /- TUN_CAL -/
  { off := 0x8, stride := 0x8, count := 1 },
  /- TUN_RING -/
  { off := 0x100, stride := 0x8, count := 288,
    reset := fun _ => packFields [(TUN_RING_TONE_CH, 0x1F)] },
  /- TUN_LOCK -/
  { off := 0xA00, stride := 0x8, count := 18,
    reset := fun _ => packFields [(TUN_LOCK_TONE_CH, 0x1F)] },
  /- TUN_LMAP_LO -/
  { off := 0x1000, stride := 0x10, count := 32,
    reset := fun _ => packFields ((List.range 12).map (fun n => (TUN_LMAP_LL n, n))) },
  /- TUN_LMAP_HI -/
  { off := 0x1008, stride := 0x10, count := 32,
    reset := fun _ => packFields ((List.range 4).map (fun n => (TUN_LMAP_LL (n + 12), n + 12))) },
  /- TUN_TXMESH -/
  { off := 0x2000, stride := 0x8, count := 232 },
  /- TUN_RXMESH -/
  { off := 0x2800, stride := 0x8, count := 232 }]

def strSpecs : List RegSpec := [
  /- STR_CFG -/
  { off := 0x0, stride := 0x8, count := 1, rw := [STR_CFG_ELECT_FRAMES, STR_CFG_HOLD_FRAMES, STR_CFG_MISMATCH_LIMIT, STR_CFG_DELTA_LEAD, STR_CFG_FSYNC_DELAY, STR_CFG_FSYNC_SRC],
    reset := fun _ => packFields [(STR_CFG_ELECT_FRAMES, 0x0100), (STR_CFG_HOLD_FRAMES, 0x20), (STR_CFG_MISMATCH_LIMIT, 0x0040), (STR_CFG_DELTA_LEAD, 0x02)] },
  /- STR_FRAME -/
  { off := 0x8, stride := 0x8, count := 1 },
  /- STR_BEAT -/
  { off := 0x10, stride := 0x8, count := 1,
    reset := fun _ => packFields [(STR_BEAT_STRATUM, 0b11)] },
  /- STR_OFFSET -/
  { off := 0x18, stride := 0x8, count := 1 },
  /- STR_PLANSTAT -/
  { off := 0x20, stride := 0x8, count := 1 },
  /- STR_SETTLED -/
  { off := 0x28, stride := 0x8, count := 1 },
  /- STR_DELAY -/
  { off := 0x100, stride := 0x10, count := 16 },
  /- STR_FERR -/
  { off := 0x108, stride := 0x10, count := 16 },
  /- STR_PLAN -/
  { off := 0x1000, stride := 0x8, count := 1024 }]

def drlSpecs : List RegSpec := [
  /- DRL_CTRL -/
  { off := 0x0, stride := 0x8, count := 1 },
  /- DRL_CFG -/
  { off := 0x1000, stride := 8, count := 1, rw := [DRL_CFG_DOWN_HOLD, DRL_CFG_RETRAIN_FRAMES, DRL_CFG_LOL_FRAMES, DRL_CFG_VERSION_MAX, DRL_CFG_REPLAY_LIMIT, DRL_CFG_REPLAY_ADD, DRL_CFG_NVC_M1, DRL_CFG_PAIRS_M1, DRL_CFG_RELAY_FWD, DRL_CFG_EN],
    reset := fun _ => packFields [(DRL_CFG_DOWN_HOLD, 0x10), (DRL_CFG_RETRAIN_FRAMES, 0x08), (DRL_CFG_LOL_FRAMES, 0x04), (DRL_CFG_VERSION_MAX, 0x2), (DRL_CFG_REPLAY_LIMIT, 0x4), (DRL_CFG_REPLAY_ADD, 0x07D0)] },
  /- DRL_POOL -/
  { off := 0x1008, stride := 8, count := 1, rw := [DRL_POOL_CAP_PCT, DRL_POOL_RES, DRL_POOL_POOL],
    reset := fun _ => packFields [(DRL_POOL_CAP_PCT, 0x4B), (DRL_POOL_RES, 0x0100), (DRL_POOL_POOL, 0x2000)] },
  /- DRL_STATUS -/
  { off := 0x1010, stride := 8, count := 1 },
  /- DRL_SEQ -/
  { off := 0x1018, stride := 8, count := 1 },
  /- DRL_RTT -/
  { off := 0x1020, stride := 8, count := 1 },
  /- DRL_RXERR -/
  { off := 0x1028, stride := 8, count := 1 },
  /- DRL_EVENTS -/
  { off := 0x1030, stride := 8, count := 1 },
  /- DRL_CR -/
  { off := 0x1040, stride := 8, count := 8 }]

def skySpecs : List RegSpec := [
  /- SKY_CFG -/
  { off := 0x0, stride := 0x8, count := 1, rw := [SKY_CFG_CAL_PERIOD, SKY_CFG_DRIFT_LIMIT, SKY_CFG_FORCE_EXACT, SKY_CFG_DRIFT_EN, SKY_CFG_EN],
    reset := fun _ => packFields [(SKY_CFG_CAL_PERIOD, 0x5F5E), (SKY_CFG_DRIFT_LIMIT, 0x005A), (SKY_CFG_DRIFT_EN, 1), (SKY_CFG_EN, 1)] },
  /- SKY_STATUS -/
  { off := 0x8, stride := 0x8, count := 1 },
  /- SKY_MBOX -/
  { off := 0x10, stride := 0x8, count := 1, rw := [SKY_MBOX_BASE] },
  /- SKY_JOBS -/
  { off := 0x18, stride := 0x8, count := 1 },
  /- SKY_ERR -/
  { off := 0x20, stride := 0x8, count := 1 },
  /- SKY_SLOT -/
  { off := 0x100, stride := 0x8, count := 64 }]

def gstSpecs : List RegSpec := [
  /- GST_CFG -/
  { off := 0x0, stride := 0x8, count := 1, rw := [GST_CFG_ROLE, GST_CFG_POWER_REQ],
    reset := fun _ => packFields [(GST_CFG_POWER_REQ, 1)] },
  /- GST_STATUS -/
  { off := 0x8, stride := 0x8, count := 1 },
  /- GST_CAP -/
  { off := 0x10, stride := 0x8, count := 2 },
  /- GST_NEG -/
  { off := 0x20, stride := 0x8, count := 1 },
  /- GST_ERR -/
  { off := 0x28, stride := 0x8, count := 1 },
  /- GST_WIDTH -/
  { off := 0x30, stride := 0x8, count := 1 }]

def pchSpecs : List RegSpec := [
  /- PCH_CFG -/
  { off := 0x0, stride := 0x8, count := 1 },
  /- PCH_STATUS -/
  { off := 0x8, stride := 0x8, count := 1 },
  /- PCH_PCIE -/
  { off := 0x10, stride := 0x8, count := 1 },
  /- PCH_LANE -/
  { off := 0x100, stride := 0x8, count := 32 }]

def hbSpecs : List RegSpec := [
  /- HB_CRING_CFG -/
  { off := 0x100000, stride := 0x10, count := 16, rw := [HB_CRING_CFG_EN, HB_CRING_CFG_EVQ] },
  /- HB_CRING_PTR -/
  { off := 0x100008, stride := 0x10, count := 16, rw := [HB_CRING_PTR_TAIL] },
  /- HB_EVQ_BASE -/
  { off := 0x101000, stride := 0x20, count := 16, rw := [HB_EVQ_BASE_BASE] },
  /- HB_DMA_BASE -/
  { off := 0x103000, stride := 0x20, count := 8, rw := [HB_DMA_BASE_BASE] },
  /- HB_EVQ_CFG -/
  { off := 0x101008, stride := 0x20, count := 16, rw := [HB_EVQ_CFG_VECTOR, HB_EVQ_CFG_SIZE, HB_EVQ_CFG_EN], w1s := [HB_EVQ_CFG_ARM],
    reset := fun q => packFields [(HB_EVQ_CFG_VECTOR, q)] },
  /- HB_EVQ_PTR -/
  { off := 0x101010, stride := 0x20, count := 16, rw := [HB_EVQ_PTR_HEAD] },
  /- HB_DMA_PTR -/
  { off := 0x103010, stride := 0x20, count := 8, rw := [HB_DMA_PTR_TAIL] },
  /- HB_HATCH_ADDR -/
  { off := 0x102000, stride := 0x8, count := 1, rw := [HB_HATCH_ADDR_ADDR] },
  /- HB_HATCH_ERR -/
  { off := 0x102008, stride := 0x8, count := 1, w1c := [HB_HATCH_ERR_ERR] },
  /- HB_DMA_CFG -/
  { off := 0x103008, stride := 0x20, count := 8, rw := [HB_DMA_CFG_VECTOR, HB_DMA_CFG_SIZE, HB_DMA_CFG_EN],
    reset := fun c => packFields [(HB_DMA_CFG_VECTOR, 16 + c)] },
  /- HB_BRIDGE -/
  { off := 0x104000, stride := 0x8, count := 1, rw := [HB_BRIDGE_PAGE] }]

def pwrSpecs : List RegSpec := [
  /- PWR_CFG -/
  { off := 0x0, stride := 0x8, count := 1, rw := [PWR_CFG_CAP_W, PWR_CFG_HYST_PCT, PWR_CFG_CAP_FRAMES],
    reset := fun _ => packFields [(PWR_CFG_HYST_PCT, 0x03), (PWR_CFG_CAP_FRAMES, 0x0040)] },
  /- PWR_STATUS -/
  { off := 0x8, stride := 0x8, count := 1, w1c := [PWR_STATUS_CAP_DROP] },
  /- PWR_WING -/
  { off := 0x10, stride := 0x8, count := 4 },
  /- PWR_RAIL -/
  { off := 0x100, stride := 0x8, count := 5 },
  /- PWR_DIE -/
  { off := 0x200, stride := 0x8, count := 12 }]

def chmSpecs : List RegSpec := [
  /- CHM_CFG -/
  { off := 0x0, stride := 0x8, count := 1, rw := [CHM_CFG_THROTTLE, CHM_CFG_HYST],
    reset := fun _ => packFields [(CHM_CFG_THROTTLE, 0x64), (CHM_CFG_HYST, 0x02)] },
  /- CHM_PKG -/
  { off := 0x8, stride := 0x8, count := 1 },
  /- CHM_WING -/
  { off := 0x10, stride := 0x8, count := 4 },
  /- CHM_UNIT -/
  { off := 0x100, stride := 0x8, count := 36 },
  /- CHM_TRIP -/
  { off := 0x400, stride := 0x8, count := 1 }]

def fltSpecs : List RegSpec := [
  /- FLT_CFG -/
  { off := 0x0, stride := 0x8, count := 1, rw := [FLT_CFG_REPLAY_LEAD, FLT_CFG_PLAN_LEAD, FLT_CFG_REPLAY_MAX],
    reset := fun _ => packFields [(FLT_CFG_REPLAY_LEAD, 0x0200), (FLT_CFG_PLAN_LEAD, 0x0100), (FLT_CFG_REPLAY_MAX, 0x3)] },
  /- FLT_STATUS -/
  { off := 0x8, stride := 0x8, count := 1 },
  /- FLT_MEMLOST -/
  { off := 0x10, stride := 0x8, count := 1 },
  /- FLT_PLANVALID -/
  { off := 0x18, stride := 0x8, count := 1 },
  /- FLT_INFORCE -/
  { off := 0x20, stride := 0x8, count := 1 },
  /- FLT_BUDGET -/
  { off := 0x100, stride := 0x8, count := 10, rw := [FLT_BUDGET_LIMIT_NS],
    reset := fun k => packFields [(FLT_BUDGET_LIMIT_NS, budgetNs k)] },
  /- FLT_PLAN_KEY -/
  { off := 0x1000, stride := 0x10, count := 64 },
  /- FLT_PLAN_DA -/
  { off := 0x1008, stride := 0x10, count := 64 },
  /- FLT_LOG -/
  { off := 0x20000, stride := 0x8, count := 4096 },
  /- FLT_REACT -/
  { off := 0x100000, stride := 0x8, count := 65536,
    reset := fun code => packFields [(FLT_REACT_FORCED, faultForced code), (FLT_REACT_MASK, faultDefault code)] }]

def bstSpecs : List RegSpec := [
  /- BST_CFG -/
  { off := 0x0, stride := 0x8, count := 1, rw := [BST_CFG_TILE_INTERVAL, BST_CFG_SRAM_INTERVAL, BST_CFG_BASE_INTERVAL, BST_CFG_BASE_EN, BST_CFG_SRAM_EN, BST_CFG_TILE_EN],
    reset := fun _ => packFields [(BST_CFG_TILE_INTERVAL, 0x1000), (BST_CFG_SRAM_INTERVAL, 0x0010), (BST_CFG_BASE_INTERVAL, 0x0010), (BST_CFG_BASE_EN, 1), (BST_CFG_SRAM_EN, 1), (BST_CFG_TILE_EN, 1)] },
  /- BST_STATUS -/
  { off := 0x8, stride := 0x8, count := 1 },
  /- BST_COUNT -/
  { off := 0x10, stride := 0x8, count := 1 },
  /- BST_LAST -/
  { off := 0x18, stride := 0x8, count := 1 },
  /- BST_REPAIR -/
  { off := 0x20, stride := 0x8, count := 1 }]

def secSpecs : List RegSpec := [
  /- SEC_STATUS -/
  { off := 0x0, stride := 0x8, count := 1 },
  /- SEC_KEYBUDGET -/
  { off := 0x8, stride := 0x8, count := 1 },
  /- SEC_AUTH -/
  { off := 0x10, stride := 0x8, count := 1 },
  /- SEC_AUDIT -/
  { off := 0x18, stride := 0x8, count := 1 },
  /- SEC_SVN -/
  { off := 0x20, stride := 0x8, count := 1 },
  /- SEC_ENTROPY -/
  { off := 0x28, stride := 0x8, count := 1 }]

/-- The register blocks of Table 1-9. -/
inductive Block where
  | hrt | chm | pwr | flt | bst | sec | cel | hal | ldr | pnt | mem | bay | til | csm | lsr | tun | str | drl | sky | gst | pch
  deriving DecidableEq, Repr

def blockSpecs : Block → List RegSpec
  | .hrt => hrtSpecs | .chm => chmSpecs | .pwr => pwrSpecs | .flt => fltSpecs | .bst => bstSpecs | .sec => secSpecs
  | .cel => celSpecs | .hal => halSpecs | .ldr => ldrSpecs | .pnt => pntSpecs | .mem => memSpecs | .bay => baySpecs
  | .til => tilSpecs | .csm => csmSpecs | .lsr => lsrSpecs | .tun => tunSpecs | .str => strSpecs | .drl => drlSpecs
  | .sky => skySpecs | .gst => gstSpecs | .pch => pchSpecs

/-- A place in management space (R26): a block of a unit with the offset in it, a window of a guest die, an address of a
window that holds no block, or an address outside every window. -/
inductive Place where
  | reg (b : Block) (inst off : Nat)
  | guestWindow (g off : Nat)
  | empty
  | outside
  deriving DecidableEq, Repr

/-- Offsets of the DRL_ block fold the sixteen links of a window onto one register map. -/
def drlOff (n o : Nat) : Option Nat :=
  if o < 0x1000 then some o else if (o - 0x1000) / 0x100 < n then some (0x1000 + (o - 0x1000) % 0x100) else none

/-- Locate a 40-bit management address (Table 1-9). -/
def locate (a : Nat) : Place :=
  let win := a / 0x1000000
  let o := a % 0x1000000
  if win < 7 then
    match win with
    | 0 => .reg .hrt 0 o | 1 => .reg .chm 0 o | 2 => .reg .pwr 0 o | 3 => .reg .flt 0 o
    | 4 => .reg .bst 0 o | 5 => .reg .sec 0 o | _ => .reg .cel 0 o
  else if 0x100 ≤ win ∧ win < 0x104 then
    match o / 0x400000 with
    | 0 => .reg .hal (win - 0x100) (o % 0x400000)
    | 1 => .reg .ldr (win - 0x100) (o % 0x400000)
    | 2 => .reg .pnt (win - 0x100) (o % 0x400000)
    | _ => .reg .mem (win - 0x100) (o % 0x400000)
  else if 0x200 ≤ win ∧ win < 0x20C then
    if 0xC00000 ≤ o then .empty
    else
      let bay := (win - 0x200) * 12 + o / 0x100000
      let bo := o % 0x100000
      if bo < 0x10000 then .reg .bay bay bo
      else if (bo - 0x10000) / 0x1000 < 17 then .reg .til (bay * 17 + (bo - 0x10000) / 0x1000) ((bo - 0x10000) % 0x1000)
      else .empty
  else if 0x300 ≤ win ∧ win < 0x308 then
    let c := win - 0x300
    match o / 0x200000 with
    | 0 => .reg .csm c (o % 0x200000)
    | 1 => .reg .lsr c (o % 0x200000)
    | 2 => .reg .tun c (o % 0x200000)
    | 3 => .reg .str c (o % 0x200000)
    | 4 => match drlOff 16 (o % 0x200000) with
           | some x => .reg .drl c x
           | none => .empty
    | 5 => .reg .sky c (o % 0x200000)
    | _ => .empty
  else if 0x400 ≤ win ∧ win < 0x404 then
    if o < 0x800000 then .reg .gst (win - 0x400) o else .guestWindow (win - 0x400) (o - 0x800000)
  else if win = 0x410 then
    if o < 0x800000 then .reg .pch 0 o
    else match drlOff 8 (o - 0x800000) with
         | some x => if x < 0x1000 then .empty else .reg .drl 8 x
         | none => .empty
  else .outside

/-- The register map row that holds an offset, with the index of the register in it. -/
def findSpec (specs : List RegSpec) (o : Nat) : Option (RegSpec × Nat) :=
  match specs with
  | [] => none
  | sp :: rest =>
    if sp.off ≤ o ∧ (o - sp.off) % sp.stride = 0 ∧ (o - sp.off) / sp.stride < sp.count then
      some (sp, (o - sp.off) / sp.stride)
    else findSpec rest o

/-- The row of the register tables that a management address names; none: no register there (R7). -/
def regSpecAt (a : Nat) : Option (RegSpec × Nat) :=
  match locate a with
  | .reg b _ o => findSpec (blockSpecs b) o
  | _ => none

/-- Registers that read the same in every window: the layout, region and window registers of every wing, and STR_CFG,
STR_FRAME, STR_BEAT and STR_OFFSET of every Casement. They are held at the address of unit 0. -/
def canonAddr (a : Nat) : Nat :=
  match locate a with
  | .reg .mem w o =>
    if o < 0x28 ∨ (0x2000 ≤ o ∧ o < 0x2400) ∨ (0x3010 ≤ o ∧ o < 0x4000) ∨ (0x5008 ≤ o ∧ o < 0x5800) then a - 0x01000000 * w
    else a
  | .reg .str c o => if o < 0x20 then a - 0x01000000 * c else a
  | _ => a

/-- Reset values that differ among the instances of a block: a tile's role and logical position, a bay's spare (R84: T16), and the
seams of a wing's two ports (Table 5-5, R14). -/
def instReset (b : Block) (i o : Nat) (v : Word) : Word :=
  match b, o with
  | .til, 0 => if i % 17 = 16 then packFields [(TIL_STATUS_ROLE, 1)] else packFields [(TIL_STATUS_LOGICAL, i % 17)]
  | .bay, 8 => packFields [(BAY_TILES_SPARE, 16)]
  | .hal, 0 => packFields [(HAL_STATUS_SEAM0, i / 2), (HAL_STATUS_SEAM1, 2 + i % 2)]
  | _, _ => v

/-- The reset value of a management register; 0 where no register is. -/
def regReset (a : Nat) : Word :=
  match locate a with
  | .reg b i o =>
    match findSpec (blockSpecs b) o with
    | some (sp, k) => instReset b i o (sp.reset k)
    | none => 0
  | _ => 0

/-- The reset value of a bridge register, by its BAR0 offset; an MSI-X table entry resets with its mask bit set (PRESUMED:
PCI Express, log entry 6). -/
def hbReset (a : Nat) : Word :=
  match findSpec hbSpecs a with
  | some (sp, i) => sp.reset i
  | none => if 0x110000 ≤ a ∧ a < 0x111000 ∧ a % 16 = 8 then 0x0000000100000000 else 0

/-- What a write of v leaves in a register that held old (R6): RW bits take v, RW1C bits clear where v is 1, RW1S bits set
where v is 1, every other bit keeps its value. -/
def softwareWrite (sp : RegSpec) (old v : Word) : Word :=
  let rw := fieldsMask sp.rw
  let c := fieldsMask sp.w1c
  let t := fieldsMask sp.w1s
  (((old &&& ~~~ rw) ||| (v &&& rw)) &&& ~~~ (v &&& c)) ||| (v &&& t)

end Sys2Proof.Machine
end

