-- ==== Sys2Proof/Machine/Ops.lean ====
section
/-!
DEFINITION. Sys2Proof/Machine/Ops.lean: the named operations over registers, SRAM, host memory and per-unit records that
every meaning uses.
-/

set_option Elab.async false

namespace Sys2Proof.Machine

/-! ## Registers -/

/-- What management register a holds. -/
def State.reg (s : State) (a : Nat) : Word := sparseGet regReset s.mgmt a

/-- Set management register a. -/
def State.setReg (s : State) (a : Nat) (v : Word) : State := { s with mgmt := sparseSet regReset s.mgmt a v }

/-- A field of a management register. -/
def State.rf (s : State) (a : Nat) (f : Field) : Nat := getField (s.reg a) f

/-- A signed field of a management register. -/
def State.rfs (s : State) (a : Nat) (f : Field) : Int := getSigned (s.reg a) f

/-- Set a field of a management register to n modulo 2 to its width. -/
def State.wf (s : State) (a : Nat) (f : Field) (n : Nat) : State := s.setReg a (putField (s.reg a) f n)

/-- Set several fields of one management register. -/
def State.wfs (s : State) (a : Nat) (fs : List (Field × Nat)) : State :=
  s.setReg a (fs.foldl (fun v p => putField v p.1 p.2) (s.reg a))

/-- Add k to a counter field that saturates. -/
def State.satf (s : State) (a : Nat) (f : Field) (k : Nat) : State := s.wf a f (satAdd f.width (s.rf a f) k)

/-- Add k to a counter field that wraps to 0. -/
def State.addf (s : State) (a : Nat) (f : Field) (k : Nat) : State := s.wf a f (s.rf a f + k)

/-- Set management registers; the addresses rise strictly. -/
def State.setRegs (s : State) (kvs : List (Nat × Word)) : State := { s with mgmt := sparsePutAll regReset kvs s.mgmt }

/-- What bridge register a (BAR0 offset) holds. -/
def State.hreg (s : State) (a : Nat) : Word := sparseGet hbReset s.hb a

def State.setHreg (s : State) (a : Nat) (v : Word) : State := { s with hb := sparseSet hbReset s.hb a v }

def State.hf (s : State) (a : Nat) (f : Field) : Nat := getField (s.hreg a) f

def State.whf (s : State) (a : Nat) (f : Field) (n : Nat) : State := s.setHreg a (putField (s.hreg a) f n)

/-! ## Units -/

/-- The index 0 to 143 of a bay. -/
def bayIx (b : BayId) : Nat := b.die.val * 12 + b.bay.val

/-- The bay of an index. -/
def bayOf (i : Nat) : BayId :=
  { die := ⟨i / 12 % 12, Nat.mod_lt _ (by decide)⟩, bay := ⟨i % 12, Nat.mod_lt _ (by decide)⟩ }

def State.bay (s : State) (b : BayId) : Bay := sparseGet bayDefault s.bays (bayIx b)

def State.setBay (s : State) (b : BayId) (x : Bay) : State := { s with bays := sparseSet bayDefault s.bays (bayIx b) x }

/-- All bays. -/
def allBays : List BayId := (List.range 144).map bayOf

/-! ## Memories -/

/-- A byte of a bay's SRAM; offsets are modulo 16 MiB (R150). -/
def State.sramByte (s : State) (b : BayId) (o : Nat) : Byte := memGet s.sram (2 ^ 24 * bayIx b + o % 2 ^ 24)

def State.setSram (s : State) (b : BayId) (o : Nat) (v : Byte) : State :=
  { s with sram := memSet s.sram (2 ^ 24 * bayIx b + o % 2 ^ 24) v }

/-- Write bytes to a bay's SRAM from offset o upwards. -/
def State.sramWrite (s : State) (b : BayId) (o : Nat) : List Byte → State
  | [] => s
  | v :: vs => (s.setSram b o v).sramWrite b (o + 1) vs

/-- n bytes of a bay's SRAM. -/
def State.sramRead (s : State) (b : BayId) (o n : Nat) : List Byte := (List.range n).map (fun i => s.sramByte b (o + i))

/-! ## Open values -/

/-- The next open 64-bit value (R67, R508, R520); the counter advances. -/
def State.draw (s : State) : Word × State := (Config.freeWord s.freeCtr, { s with freeCtr := s.freeCtr + 1 })

/-- A generator state from the entropy source: a zero drawn becomes 1 (R67). -/
def State.drawSr (s : State) : Nat × State :=
  let (w, s') := s.draw
  let v := w.toNat % 2 ^ 32
  (if v = 0 then 1 else v, s')

/-! ## Identity -/

def State.pkg (s : State) : Nat := s.rf HRT_PKGID HRT_PKGID_PKG_ID

def State.isBridge (s : State) : Bool := s.rf HRT_PKGID HRT_PKGID_BRIDGE == 1

def State.epoch (s : State) : Nat := s.rf HRT_EPOCH HRT_EPOCH_EPOCH

/-- The frame counter. -/
def State.frame (s : State) : Nat := s.rf (STR_FRAME) STR_FRAME_FRAME

/-- Frame arithmetic modulo 2^48. -/
def frameAdd (a b : Nat) : Nat := (a + b) % 2 ^ 48

/-- Frame a has begun at frame counter n: it lies at most half the counter's range behind. -/
def frameReached (n a : Nat) : Bool := decide ((n + 2 ^ 48 - a % 2 ^ 48) % 2 ^ 48 < 2 ^ 47)

/-! ## Unit locators (R24) -/

def locPackage : Nat := 0x0E000000
def locBay (b : BayId) : Nat := 0x10000000 + 4 * 2 ^ 25 + 2 ^ 21 * b.die.val + 2 ^ 17 * b.bay.val
def locDie (d : Nat) : Nat := 0x10000000 + 5 * 2 ^ 25 + 2 ^ 21 * d
def locTile (b : BayId) (t : Nat) : Nat := 0x10000000 + 3 * 2 ^ 25 + 2 ^ 21 * b.die.val + 2 ^ 17 * b.bay.val + 2 ^ 12 * t
def locBank (b : BayId) (bank : Nat) : Nat :=
  0x10000000 + 3 * 2 ^ 25 + 2 ^ 21 * b.die.val + 2 ^ 17 * b.bay.val + 0x1E * 2 ^ 12 + bank
def locStack (k : Nat) : Nat := 0x20000000 + 5 * 2 ^ 25 + 2 ^ 21 * k
def locChannel (k ch : Nat) : Nat := 0x20000000 + 4 * 2 ^ 25 + 2 ^ 21 * k + 2 ^ 16 * ch
def locPseudo (k ch pc : Nat) : Nat := 0x20000000 + 3 * 2 ^ 25 + 2 ^ 21 * k + 2 ^ 16 * ch + 2 ^ 15 * pc
def locCasement (c : Nat) : Nat := 0x30000000 + 5 * 2 ^ 25 + 2 ^ 22 * c
/-- An optical unit of a Casement: level, kind, index, wavelength, element. -/
def locOptical (c level kind index wl el : Nat) : Nat :=
  0x30000000 + 2 ^ 25 * level + 2 ^ 22 * c + 2 ^ 19 * kind + 2 ^ 14 * index + 2 ^ 9 * wl + el
def locSite (g : Nat) : Nat := 0x40000000 + 5 * 2 ^ 25 + 2 ^ 23 * g
def locPorch (n : Nat) : Nat := 0x50000000 + 2 * 2 ^ 25 + 2 ^ 20 * n
def locWing (w : Nat) : Nat := 0x60000000 + 6 * 2 ^ 25 + 2 ^ 22 * w
def locSeam (h : Nat) : Nat := locWing (4 + h)
/-- Package control: 0 HA, 1 HB, 2 NV store, 3 Chimney, 4 host PCIe endpoint, 5 Cellar. -/
def locControl (i : Nat) : Nat := 0x70000000 + 7 * 2 ^ 25 + 2 ^ 21 * i

def locClass (l : Nat) : Nat := l / 2 ^ 28
def locLevel (l : Nat) : Nat := l / 2 ^ 25 % 8
def locIndex (l : Nat) : Nat := l % 2 ^ 25

/-- Fields [hi:lo] of a locator. -/
def locBits (l hi lo : Nat) : Nat := l / 2 ^ lo % 2 ^ (hi + 1 - lo)

/-- A valid locator (R24, Table 1-4). -/
def locValid (l : Nat) : Bool :=
  let lv := locLevel l
  let ix := locIndex l
  match locClass l with
  | 0 => lv == 7 && ix == 0
  | 1 =>
    let die := locBits l 24 21
    let bay := locBits l 20 17
    let tile := locBits l 16 12
    let low := locBits l 11 0
    let col := locBits l 5 0
    if lv == 5 then decide (die < 12) && ix % 2 ^ 21 == 0
    else if !(decide (die < 12) && decide (bay < 12)) then false
    else if lv == 4 then low == 0 && (tile == 0 || tile == 0x1F || tile == 0x1E || tile == 0x1D)
    else if lv == 3 then (decide (tile < 17) && low == 0) || (tile == 0x1E && decide (low < 64))
    else if lv == 2 then (decide (tile < 17) && col == 0) || (tile == 0x1F && decide (low < 256))
    else if lv == 1 then decide (tile < 17)
    else false
  | 2 =>
    let st := locBits l 24 21
    decide (st < 12) && ix % 2 ^ 15 == 0 &&
      (if lv == 5 then ix % 2 ^ 21 == 0 else if lv == 4 then ix % 2 ^ 16 == 0 else lv == 3)
  | 3 =>
    let kind := locBits l 21 19
    let index := locBits l 18 14
    let wl := locBits l 13 9
    let el := locBits l 8 0
    let ixOk := match kind with
      | 0 | 1 => decide (index < 8)
      | 2 => index == 0
      | 3 => decide (index < 18)
      | 4 => decide (index < 4)
      | 5 => decide (index < 2)
      | _ => false
    if lv == 5 then ix % 2 ^ 22 == 0
    else if lv == 1 && decide (kind ≤ 1) && index == 0x10 then wl == 0 && decide (el < 232)
    else if !(ixOk && decide (wl < 18)) then false
    else if lv == 4 then decide (kind ≤ 2) && wl == 0 && el == 0
    else if lv == 3 then decide (3 ≤ kind) && wl == 0 && el == 0
    else if lv == 2 then decide (kind ≤ 2) && el == 0
    else lv == 1 && decide (kind ≤ 2)
  | 4 => lv == 5 && ix % 2 ^ 23 == 0
  | 5 => lv == 2 && ix % 2 ^ 20 == 0
  | 6 => lv == 6 && ix % 2 ^ 22 == 0
  | 7 => lv == 7 && decide (locBits l 24 21 < 6) && ix % 2 ^ 21 == 0
  | _ => false

/-- The bay a class-1 locator of level 4 or below lies in. -/
def locBayIx (l : Nat) : Nat := locBits l 24 21 * 12 + locBits l 20 17

/-- Whether unit u contains unit v (R35); the wing's index rule is Table 1-1. -/
def locContains (u v : Nat) : Bool :=
  u == v ||
  match locClass u with
  | 0 => true
  | 1 =>
    locClass v == 1 && (
      if locLevel u == 5 then locBits u 24 21 == locBits v 24 21
      else if locLevel u == 4 && locBits u 16 12 == 0 then decide (locLevel v < 5) && locBayIx u == locBayIx v
      else locBayIx u == locBayIx v && decide (locLevel v < locLevel u) && locBits u 16 12 == locBits v 16 12)
  | 2 =>
    locClass v == 2 && locBits u 24 21 == locBits v 24 21 &&
      (locLevel u == 5 || (locLevel u == 4 && decide (locLevel v < 5) && locBits u 20 16 == locBits v 20 16))
  | 3 =>
    locClass v == 3 && locBits u 24 22 == locBits v 24 22 &&
      (locLevel u == 5 || (decide (locLevel v < locLevel u) && locBits u 21 14 == locBits v 21 14 &&
        (locLevel u == 4 || locBits u 13 9 == locBits v 13 9)))
  | 6 =>
    let w := locBits u 24 22
    decide (w < 4) && (match locClass v with
      | 1 => locBits v 24 21 / 3 == w
      | 2 => locBits v 24 21 / 3 == w
      | 3 => locBits v 24 22 / 2 == w
      | 4 => locBits v 24 23 == w
      | 5 => locBits v 24 20 / 8 == w
      | _ => false)
  | _ => false

/-! ## Fences -/

/-- Whether a unit, or a unit that contains it, is fenced. -/
def State.isFenced (s : State) (l : Nat) : Bool := s.fences.any (fun f => locContains f.1 l)

/-- The registers that show a unit's fence: BAY_STATUS, PWR_DIEd, CSM_STATUS, GST_STATUS. -/
def State.showFence (s : State) (l : Nat) (v : Nat) : State :=
  match locClass l with
  | 1 =>
    if locLevel l == 5 then s.wf (PWR_DIE (locBits l 24 21)) PWR_DIE_FENCED v
    else if locLevel l == 4 && locBits l 16 12 == 0 then s.wf (BAY_STATUS (bayOf (locBayIx l))) BAY_STATUS_FENCED v
    else s
  | 3 => if locLevel l == 5 then s.wf (CSM_STATUS (locBits l 24 22)) CSM_STATUS_FENCED v else s
  | 4 => s.wf (GST_STATUS (locBits l 24 23)) GST_STATUS_FENCED v
  | _ => s

/-- Fence a unit under a fault code. -/
def State.fence (s : State) (l code : Nat) : State :=
  if s.fences.any (fun f => f.1 == l) then s
  else ({ s with fences := s.fences ++ [(l, code)] } : State).showFence l 1

/-- Lift a unit's fence. -/
def State.unfence (s : State) (l : Nat) : State :=
  ({ s with fences := s.fences.filter (fun f => f.1 != l) } : State).showFence l 0

end Sys2Proof.Machine
end

