-- ==== Sys2Proof/Machine/Memory.lean ====
section
/-!
DEFINITION. Sys2Proof/Machine/Memory.lean: device addresses, the layout and interleave of stacked memory, the region table,
Annex windows, the poison list, and reads and writes of local memory (chapter 5, R226 to R228, R487).
-/

set_option Elab.async false

namespace Sys2Proof.Machine

def GiB : Nat := 2 ^ 30

/-! ## Layout (R164 to R167, R487) -/

/-- DA[47:40]: 0 local memory, else an Annex window. -/
def daWindow (da : Nat) : Nat := da / 2 ^ 40 % 256

/-- DA[39:0]. -/
def daOffset (da : Nat) : Nat := da % 2 ^ 40

/-- MEM_LAYOUT.WING_PART, in GiB per stack. -/
def State.wingPart (s : State) : Nat := s.rf MEM_LAYOUT MEM_LAYOUT_WING_PART

def State.retireCount (s : State) : Nat := s.rf MEM_LAYOUT MEM_LAYOUT_RETIRE_COUNT

/-- FLT_MEMLOST.STACKS. -/
def State.stackLost (s : State) (k : Nat) : Bool := wbit (s.reg FLT_MEMLOST) k

/-- FLT_MEMLOST.WINGS. -/
def State.wingLost (s : State) (w : Nat) : Bool := wbit (s.reg FLT_MEMLOST) (12 + w)

/-- Surviving stacks in ascending index. -/
def State.survivors (s : State) : List Nat := (List.range 12).filter (fun k => !s.stackLost k)

/-- Bytes of PACKAGE space: N * (64 - P - 2n) GiB. -/
def State.pkgTop (s : State) : Nat := s.survivors.length * (GiB * (64 - s.wingPart - 2 * s.retireCount))

/-- First byte of the wing spaces. -/
def State.wingBot (s : State) : Nat := 12 * (GiB * (64 - s.wingPart))

/-- The wing whose space holds local address a; none: a lies in no wing space, or in one that lost a stack. -/
def State.wingOf (s : State) (a : Nat) : Option Nat :=
  let sz := GiB * (3 * s.wingPart)
  if a < s.wingBot ∨ sz = 0 then none
  else
    let w := (a - s.wingBot) / sz
    if w < 4 ∧ !((List.range 3).any (fun i => s.stackLost (3 * w + i))) then some w else none

/-- Whether a local address lies in PACKAGE space or a wing space (R166). -/
def State.inSpace (s : State) (a : Nat) : Bool := decide (a < s.pkgTop) || (s.wingOf a).isSome

/-- The XOR of fourteen 2-bit fields of a granule number. -/
def foldWing (g : Nat) : Nat := (List.range 14).foldl (fun w i => w ^^^ (g / 2 ^ (2 * i) % 4)) 0

/-- Where a local address lives: stack, channel, row, pseudo-channel (R167, R487). -/
structure Home where
  stack : Nat
  channel : Nat
  row : Nat
  pc : Nat
  deriving DecidableEq, Repr

def homeOf (stack l a : Nat) : Home :=
  { stack := stack,
    channel := (l % 32) ^^^ (l / 2 ^ 5 % 32) ^^^ (l / 2 ^ 10 % 32) ^^^ (l / 2 ^ 15 % 32) ^^^ (l / 2 ^ 20 % 16),
    row := l / 32, pc := a / 64 % 2 }

/-- Where the controller serves a granule of a retired channel from: retirement record r (R187). -/
def State.retiredHome (s : State) (r : Nat) (h : Home) : Home :=
  if s.rf (MEM_RETIRE r) MEM_RETIRE_VALID = 1 ∧ s.rf (MEM_RETIRE r) MEM_RETIRE_STACK = h.stack ∧
      s.rf (MEM_RETIRE r) MEM_RETIRE_CHANNEL = h.channel then
    let b := 2 ^ 13 * (62 - s.wingPart - 2 * r)
    let q := if h.row < b then h.row else h.row - 2 ^ 13 * (64 - s.wingPart) + b
    let p := q % 31
    { h with channel := if p < h.channel then p else p + 1, row := b + q / 31 }
  else h

/-- The home of a local address by the hashes of R167, before retirements move it. -/
def State.hashHome (s : State) (a : Nat) : Option Home :=
  let g := a / 4096
  if a < s.pkgTop then
    if s.survivors.length = 12 then some (homeOf (3 * foldWing g + g / 4 % 3) (g / 12) a)
    else some (homeOf (s.survivors.getD (g % s.survivors.length) 0) (g / s.survivors.length) a)
  else
    (s.wingOf a).map (fun w =>
      let h := (a - s.wingBot - w * (GiB * (3 * s.wingPart))) / 4096
      homeOf (3 * w + h % 3) (2 ^ 18 * (64 - s.wingPart) + h / 3) a)

/-- The home of a local address: a granule of a retired channel is served from its new place (at most one retirement per
stack, R186). -/
def State.home (s : State) (a : Nat) : Option Home :=
  (s.hashHome a).map (fun h => match (List.range 4).find? (fun r =>
      s.rf (MEM_RETIRE r) MEM_RETIRE_VALID == 1 && s.rf (MEM_RETIRE r) MEM_RETIRE_STACK == h.stack) with
    | some r => s.retiredHome r h
    | none => h)

/-! ## Regions (R168) -/

def State.rgnAttr (s : State) (n : Nat) : Word := s.reg (MEM_RGN_ATTR n)

def State.rgnValid (s : State) (n : Nat) : Bool := s.rf (MEM_RGN_ATTR n) MEM_RGN_ATTR_VALID == 1

/-- First byte of region n. -/
def State.rgnLo (s : State) (n : Nat) : Nat := 4096 * s.rf (MEM_RGN_BASE n) MEM_RGN_BASE_BASE

/-- First byte after region n. -/
def State.rgnHi (s : State) (n : Nat) : Nat := 4096 * s.rf (MEM_RGN_ATTR n) MEM_RGN_ATTR_LAST + 4096

/-- The valid region that covers a device address. -/
def State.regionAt (s : State) (da : Nat) : Option Nat :=
  (List.range 64).find? (fun n => s.rgnValid n && decide (s.rgnLo n ≤ da) && decide (da < s.rgnHi n))

/-- The valid regions that meet [lo, hi). -/
def State.regionsIn (s : State) (lo hi : Nat) : List Nat :=
  (List.range 64).filter (fun n => s.rgnValid n && decide (s.rgnLo n < hi) && decide (lo < s.rgnHi n))

def State.rgnBit (s : State) (n : Nat) (f : Field) : Bool := s.rf (MEM_RGN_ATTR n) f == 1

/-! ## Poison lists (R183, R184) -/

/-- The wing whose list holds a line. -/
def State.homeWing (s : State) (a : Nat) : Nat := (s.home a).elim 0 (fun h => h.stack / 3)

def State.isPoisoned (s : State) (a : Nat) : Bool :=
  let w := s.homeWing a
  (List.range 64).any (fun e => s.rf (MEM_POISON w e) MEM_POISON_VALID == 1 &&
    s.rf (MEM_POISON w e) MEM_POISON_LINE == a / 64 % 2 ^ 42)

/-- Remove a line from its wing's list. -/
def State.unpoison (s : State) (a : Nat) : State :=
  let w := s.homeWing a
  match (List.range 64).find? (fun e => s.rf (MEM_POISON w e) MEM_POISON_VALID == 1 &&
    s.rf (MEM_POISON w e) MEM_POISON_LINE == a / 64 % 2 ^ 42) with
  | some e =>
    let s := s.setReg (MEM_POISON w e) 0
    s.wf (MEM_POISON_CNT w) MEM_POISON_CNT_COUNT (s.rf (MEM_POISON_CNT w) MEM_POISON_CNT_COUNT - 1)
  | none => s

/-- Enter a line in its wing's list; none: the line would be the 65th entry. -/
def State.poison (s : State) (a : Nat) : Option State :=
  let w := s.homeWing a
  if s.isPoisoned a then some s
  else match (List.range 64).find? (fun e => s.rf (MEM_POISON w e) MEM_POISON_VALID == 0) with
    | some e =>
      some ((s.setReg (MEM_POISON w e) (packFields [(MEM_POISON_VALID, 1), (MEM_POISON_LINE, a / 64)])).addf
        (MEM_POISON_CNT w) MEM_POISON_CNT_COUNT 1)
    | none => none

/-! ## Access checks -/

/-- How an access to memory ends in error. -/
inductive MemFail where
  | addrFault (da : Nat)
  | readonly (da : Nat)
  | uncorrectable (da : Nat)
  | linkDown (da : Nat)
  deriving DecidableEq, Repr

/-- The 4 KiB granules that [lo, lo + n) touches, by their first bytes. -/
def granules (lo n : Nat) : List Nat :=
  (List.range ((4095 + lo % 4096 + n) / 4096)).map (fun i => 4096 * (lo / 4096 + i))

/-- The 64-byte lines that [lo, lo + n) touches. -/
def linesOf (lo n : Nat) : List Nat := (List.range ((lo % 64 + n + 63) / 64)).map (fun i => (lo / 64 + i) * 64)

/-- A local access raises ADDR_FAULT outside every space and in a LOST region (R166). -/
def State.localBad (s : State) (a : Nat) : Bool :=
  !s.inSpace a || (match s.regionAt a with | some n => s.rgnBit n MEM_RGN_ATTR_LOST | none => false)

/-- The first address of [a, a + n) in local memory that raises ADDR_FAULT. -/
def State.firstBad (s : State) (a n : Nat) : Option Nat :=
  ((granules a n).find? s.localBad).map (fun g => max g a)

/-- The first granule of [a, a + n) in a READONLY region; `open` says whether an OPEN region accepts the write. -/
def State.firstReadonly (s : State) (a n : Nat) (openOk : Bool) : Option Nat :=
  ((granules a n).find? (fun g => match s.regionAt g with
    | some r => s.rgnBit r MEM_RGN_ATTR_READONLY && !(openOk && s.rgnBit r MEM_RGN_ATTR_OPEN)
    | none => false)).map (fun g => max g a)

/-- Read n bytes of local memory as hardware engines do; an address fault or a poisoned line ends it. -/
def State.localRead (s : State) (a n : Nat) : Except MemFail (List Byte) :=
  match s.firstBad a n with
  | some x => .error (.addrFault x)
  | none =>
    match (linesOf a n).find? s.isPoisoned with
    | some x => .error (.uncorrectable (max x a))
    | none => .ok (memRead s.mem a n)

/-- Store bytes in local memory without checks. A full line clears its poison entry (R184). -/
def State.memStore (s : State) (a : Nat) (bs : List Byte) : State :=
  let full := (linesOf a bs.length).filter (fun l => decide (a ≤ l) && decide (l + 64 ≤ a + bs.length))
  let s := full.foldl (fun s l => if s.isPoisoned l then s.unpoison l else s) s
  { s with mem := memWrite s.mem a bs }

/-- Write local memory. readonly: 0 the writer is a descriptor, 1 a host write, which an OPEN region accepts (R172). -/
def State.localWrite (s : State) (a : Nat) (bs : List Byte) (host : Bool) : Except MemFail State :=
  match s.firstBad a bs.length with
  | some x => .error (.addrFault x)
  | none =>
    match s.firstReadonly a bs.length host with
    | some x => .error (.readonly x)
    | none =>
      match (linesOf a bs.length).find? (fun l =>
        s.isPoisoned l && !(decide (a ≤ l) && decide (l + 64 ≤ a + bs.length))) with
      | some x => .error (.uncorrectable (max x a))
      | none => .ok (s.memStore a bs)

/-- A write by firmware or hardware engines that no region attribute stops: journal headers, completion records. -/
def State.engineWrite (s : State) (a : Nat) (bs : List Byte) : Except MemFail State :=
  match s.firstBad a bs.length with
  | some x => .error (.addrFault x)
  | none =>
    match (linesOf a bs.length).find? (fun l =>
      s.isPoisoned l && !(decide (a ≤ l) && decide (l + 64 ≤ a + bs.length))) with
    | some x => .error (.uncorrectable (max x a))
    | none => .ok (s.memStore a bs)

/-- Words of local memory without checks. -/
def State.memWords (s : State) (a n : Nat) : List Word := (List.range n).map (fun i => memWord s.mem (a + 8 * i))

/-! ## Windows (R226 to R228) -/

def State.winValid (s : State) (k : Nat) : Bool := s.rf (MEM_ANX_MAP k) MEM_ANX_MAP_VALID == 1

/-- SIZE of window k in bytes. -/
def State.winSize (s : State) (k : Nat) : Nat := 4096 * (s.rf (MEM_ANX_CFG k) MEM_ANX_CFG_SIZE_M1 + 1)

def State.winPeer (s : State) (k : Nat) : Nat := s.rf (MEM_ANX_PEER k) MEM_ANX_PEER_PEER

def State.winWritable (s : State) (k : Nat) : Bool := s.rf (MEM_ANX_PEER k) MEM_ANX_PEER_WRITABLE == 1

def State.winRbase (s : State) (k : Nat) : Nat := 4096 * s.rf (MEM_ANX_MAP k) MEM_ANX_MAP_RBASE

def State.winLinks (s : State) (k : Nat) : List Nat :=
  [s.rf (MEM_ANX_MAP k) MEM_ANX_MAP_LINK0, s.rf (MEM_ANX_MAP k) MEM_ANX_MAP_LINK1,
   s.rf (MEM_ANX_MAP k) MEM_ANX_MAP_LINK2, s.rf (MEM_ANX_MAP k) MEM_ANX_MAP_LINK3].take
    (s.rf (MEM_ANX_MAP k) MEM_ANX_MAP_NLINKS_M1 + 1)

/-- The link that carries an address of a window: granule i on link i mod NLINKS (R228). -/
def State.winLink (s : State) (da : Nat) : Nat :=
  let ls := s.winLinks (daWindow da)
  ls.getD (daOffset da / 4096 % ls.length) 0

/-- An access through a window that is an ADDR_FAULT here (R226). -/
def State.winBad (s : State) (da n : Nat) (write : Bool) : Bool :=
  let k := daWindow da
  !s.winValid k || decide (s.winSize k < daOffset da + n) || (write && !s.winWritable k)

/-- PKG_GIB of MEM_LAYOUT: PACKAGE space in GiB (log entry on Table 5-13). -/
def State.pkgGib (s : State) : Nat := s.pkgTop / GiB

end Sys2Proof.Machine
end

