-- ==== Sys2Proof/Machine/Sha.lean ====
section
/-!
DEFINITION. Sys2Proof/Machine/Sha.lean: SHA-256 (FIPS 180-4), HMAC-SHA-256 (RFC 2104), and the verification of HSS and LMS
signatures (RFC 8554) that R509, R516, R517, R520 and R521 name.
-/

set_option Elab.async false

namespace Sys2Proof.Machine

abbrev Bytes := List Byte

/-! ## SHA-256 -/

def shaK : List (BitVec 32) :=
  ([0x428a2f98, 0x71374491, 0xb5c0fbcf, 0xe9b5dba5, 0x3956c25b, 0x59f111f1, 0x923f82a4, 0xab1c5ed5] ++
   [0xd807aa98, 0x12835b01, 0x243185be, 0x550c7dc3, 0x72be5d74, 0x80deb1fe, 0x9bdc06a7, 0xc19bf174] ++
   [0xe49b69c1, 0xefbe4786, 0x0fc19dc6, 0x240ca1cc, 0x2de92c6f, 0x4a7484aa, 0x5cb0a9dc, 0x76f988da] ++
   [0x983e5152, 0xa831c66d, 0xb00327c8, 0xbf597fc7, 0xc6e00bf3, 0xd5a79147, 0x06ca6351, 0x14292967] ++
   [0x27b70a85, 0x2e1b2138, 0x4d2c6dfc, 0x53380d13, 0x650a7354, 0x766a0abb, 0x81c2c92e, 0x92722c85] ++
   [0xa2bfe8a1, 0xa81a664b, 0xc24b8b70, 0xc76c51a3, 0xd192e819, 0xd6990624, 0xf40e3585, 0x106aa070] ++
   [0x19a4c116, 0x1e376c08, 0x2748774c, 0x34b0bcb5, 0x391c0cb3, 0x4ed8aa4a, 0x5b9cca4f, 0x682e6ff3] ++
   [0x748f82ee, 0x78a5636f, 0x84c87814, 0x8cc70208, 0x90befffa, 0xa4506ceb, 0xbef9a3f7, 0xc67178f2])

def shaInit : List (BitVec 32) :=
  [0x6a09e667, 0xbb67ae85, 0x3c6ef372, 0xa54ff53a, 0x510e527f, 0x9b05688c, 0x1f83d9ab, 0x5be0cd19]

def ror32 (x : BitVec 32) (n : Nat) : BitVec 32 := (x >>> n) ||| (x <<< (32 - n))

/-- Big-endian number of a byte string, and back. -/
def beNat (bs : Bytes) : Nat := bs.foldl (fun n b => 256 * n + b.toNat) 0
def beBytes (n v : Nat) : Bytes := (natToBytes n v).reverse

/-- The next word of the schedule; w holds the last sixteen, newest first. -/
def shaSchedule (w : List (BitVec 32)) : BitVec 32 :=
  let a := w.getD 14 0
  let b := w.getD 1 0
  (ror32 b 17 ^^^ ror32 b 19 ^^^ (b >>> 10)) + w.getD 6 0 + (ror32 a 7 ^^^ ror32 a 18 ^^^ (a >>> 3)) + w.getD 15 0

/-- The 64 words of the schedule. fuel: words still to make. -/
def shaWords : Nat → List (BitVec 32) → List (BitVec 32)
  | 0, _ => []
  | n + 1, w => w.getD 15 0 :: shaWords n (shaSchedule w :: w.take 15)

def shaRound (v : List (BitVec 32)) (kw : BitVec 32 × BitVec 32) : List (BitVec 32) :=
  match v with
  | [a, b, c, d, e, f, g, h] =>
    let t1 := h + (ror32 e 6 ^^^ ror32 e 11 ^^^ ror32 e 25) + ((e &&& f) ^^^ (~~~e &&& g)) + kw.1 + kw.2
    let t2 := (ror32 a 2 ^^^ ror32 a 13 ^^^ ror32 a 22) + ((a &&& b) ^^^ (a &&& c) ^^^ (b &&& c))
    [t1 + t2, a, b, c, d + t1, e, f, g]
  | v => v

/-- Words of a big-endian block of 64 bytes, last word first. -/
def blockWords (bs : Bytes) : List (BitVec 32) :=
  ((List.range 16).map (fun i => BitVec.ofNat 32 (beNat ((bs.drop (4 * i)).take 4)))).reverse

def shaBlock (h : List (BitVec 32)) (bs : Bytes) : List (BitVec 32) :=
  List.zipWith (fun a b => a + b) h ((shaK.zip (shaWords 64 (blockWords bs))).foldl shaRound h)

def shaBlocks : Nat → List (BitVec 32) → Bytes → List (BitVec 32)
  | 0, h, _ => h
  | n + 1, h, bs => shaBlocks n (shaBlock h (bs.take 64)) (bs.drop 64)

def shaPad (bs : Bytes) : Bytes :=
  bs ++ (0x80 : Byte) :: List.replicate ((119 - bs.length % 64) % 64) 0 ++ beBytes 8 (8 * bs.length)

/-- SHA-256 of a byte string. -/
def sha256 (bs : Bytes) : Bytes :=
  let p := shaPad bs
  (shaBlocks (p.length / 64) shaInit p).flatMap (fun w => beBytes 4 w.toNat)

/-- HMAC-SHA-256 under a 32-byte key. -/
def hmac (key msg : Bytes) : Bytes :=
  let k := key ++ List.replicate (64 - key.length) 0
  sha256 (k.map (fun b => b ^^^ 0x5c) ++ sha256 (k.map (fun b => b ^^^ 0x36) ++ msg))

/-! ## LMS and HSS (R517: LMS_SHA256_M32_H15 with LMOTS_SHA256_N32_W8, two levels) -/

/-- The chain of a Winternitz digit from step j to 255. fuel: steps. -/
def lmotsChain (iq : Bytes) (i : Nat) : Nat → Nat → Bytes → Bytes
  | 0, _, y => y
  | n + 1, j, y => lmotsChain iq i n (j + 1) (sha256 (iq ++ beBytes 2 i ++ beBytes 1 j ++ y))

/-- The LM-OTS public key that a signature of a message under (I, q) recovers: type, C, and 34 strings. -/
def lmotsKey (iq sig msg : Bytes) : Bytes :=
  let q := sha256 (iq ++ [0x81, 0x81] ++ (sig.drop 4).take 32 ++ msg)
  let sum := (q.map (fun b => 255 - b.toNat)).sum
  let ds := q ++ beBytes 2 sum
  let ys := (ds.zipIdx).map (fun p =>
    lmotsChain iq p.2 (255 - p.1.toNat) p.1.toNat ((sig.drop (36 + 32 * p.2)).take 32))
  sha256 (iq ++ [0x80, 0x80] ++ ys.flatten)

/-- The root that a leaf and its authentication path give. -/
def lmsClimb (i : Bytes) : Nat → Bytes → List Bytes → Bytes
  | _, t, [] => t
  | r, t, p :: ps =>
    lmsClimb i (r / 2) (sha256 (i ++ beBytes 4 (r / 2) ++ [0x83, 0x83] ++ (if r % 2 = 1 then p ++ t else t ++ p))) ps

/-- Whether an LMS signature of height h, with LMS type code lt, verifies a message under a 56-byte public key. -/
def lmsVerify (h lt : Nat) (pub sig msg : Bytes) : Bool :=
  let i := (pub.drop 8).take 16
  let q := beNat (sig.take 4)
  let ots := (sig.drop 4).take 1124
  let path := (List.range h).map (fun k => (sig.drop (1132 + 32 * k)).take 32)
  let leaf := sha256 (i ++ beBytes 4 (2 ^ h + q) ++ [0x82, 0x82] ++ lmotsKey (i ++ beBytes 4 q) ots msg)
  pub.length == 56 && sig.length == 1132 + 32 * h && beNat (pub.take 4) == lt && beNat ((pub.drop 4).take 4) == 4 &&
    beNat (ots.take 4) == 4 && beNat ((sig.drop 1128).take 4) == lt && decide (q < 2 ^ h) &&
    lmsClimb i (2 ^ h + q) leaf path == (pub.drop 24).take 32

/-- Whether a 3,284-byte HSS signature of two levels verifies a message under a 60-byte HSS public key (R517). -/
def hssVerify (pub sig msg : Bytes) : Bool :=
  let s0 := (sig.drop 4).take 1612
  let p1 := (sig.drop 1616).take 56
  let s1 := sig.drop 1672
  pub.length == 60 && sig.length == 3284 && beNat (pub.take 4) == 2 && beNat (sig.take 4) == 1 &&
    lmsVerify 15 7 (pub.drop 4) s0 p1 && lmsVerify 15 7 p1 s1 msg

/-! ## Words and bytes -/

/-- Word i of a hash: little-endian, as structures are (R42). -/
def hashWord (h : Bytes) (i : Nat) : Word := BitVec.ofNat 64 (bytesToNat ((h.drop (8 * i)).take 8))

end Sys2Proof.Machine
end

