-- ==== Sys2Proof/Machine/Events.lean ====
section
/-!
DEFINITION. Sys2Proof/Machine/Events.lean: the queue engine of the Cellar (chapter 6), host event queues, MSI-X (R426, R427),
and replies (R422, R424).
-/

set_option Elab.async false

namespace Sys2Proof.Machine

/-! ## Queues (R190 to R203) -/

def State.queue (s : State) (n : Nat) : Queue := sparseGet queueDefault s.queues n

def State.setQueue (s : State) (n : Nat) (q : Queue) : State := { s with queues := sparseSet queueDefault s.queues n q }

/-- Bytes of the on-chip head buffer of queue n, and of its tail buffer (Table 6-1). -/
def queueCap (n : Nat) : Nat := if n < 1088 then 16384 else if n < 1090 then 8192 else 4096

/-- Whether a queue index is in use (Table 6-1). -/
def queueUsed (n : Nat) : Bool := decide (n < 1090) || (decide (1096 ≤ n) && decide (n < 1116))

/-- Bytes a queue holds. -/
def queueBytes (q : Queue) : Nat := q.head.length + 56 * q.mid.length + q.tail.length - q.skip

/-- The level of a queue in 64-byte units, rounded up (R198). -/
def queueLevel (q : Queue) : Nat := (queueBytes q + 63) / 64

/-- Bytes pass from tail to head directly while the middle is empty (R191). -/
def passToHead (n : Nat) (q : Queue) : Queue :=
  if q.mid.isEmpty then
    let k := min q.tail.length (queueCap n - q.head.length)
    { q with head := q.head ++ q.tail.take k, tail := q.tail.drop k }
  else q

/-- The valid CELLAR region. -/
def State.cellarRegion (s : State) : Option Nat :=
  (List.range 64).find? (fun n => s.rgnValid n && s.rgnBit n MEM_RGN_ATTR_CELLAR)

/-- The lowest segment of the pool that no queue holds. -/
def State.freeSegment (s : State) : Option Nat :=
  let held := s.queues.flatMap (fun e => e.2.segs)
  if s.rf CEL_STATUS CEL_STATUS_SEG_FREE = 0 then none
  else (List.range (held.length + 1)).find? (fun k => !held.contains k && decide (k < s.rf CEL_STATUS CEL_STATUS_SEG_TOTAL))

/-- Where the next line of queue n goes: its address and the queue with the line's place taken; none: at its limit (R196). -/
def State.nextLine (s : State) (n : Nat) (q : Queue) : Option (Nat × Queue × Bool) :=
  match s.cellarRegion with
  | none => none
  | some r =>
    if s.rf CEL_CTRL CEL_CTRL_SPILL_EN = 0 then none
    else if q.segs ≠ [] ∧ q.used < 1024 then
      some (s.rgnLo r + 65536 * q.segs.getLastD 0 + q.used * 64, { q with used := q.used + 1 }, false)
    else if s.rf (CEL_QCFG n) CEL_QCFG_LIMIT ≤ q.segs.length then none
    else (s.freeSegment).map (fun g => (s.rgnLo r + 65536 * g, { q with segs := q.segs ++ [g], used := 1 }, true))

/-- The eight words of a Cellar line (R192). -/
def cellarLine (bs : List Byte) (seq : Nat) : List Word :=
  let ws := (bytesToWords bs).take 7
  let chk := (List.range 7).foldl (fun acc k => acc + (Config.secded (ws.getD k 0)).toNat * 2 ^ (8 * k)) 0
  ws ++ [BitVec.ofNat 64 (chk + 2 ^ 56 * (seq % 256))]

/-- Spill the tail's oldest 56 bytes while the tail is over its buffer; none: the queue is at its limit. fuel: lines. -/
def State.spill : Nat → State → Nat → Queue → Option (State × Queue)
  | 0, s, n, q => if q.tail.length ≤ queueCap n then some (s, q) else none
  | k + 1, s, n, q =>
    if q.tail.length ≤ queueCap n then some (s, q)
    else match s.nextLine n q with
      | none => none
      | some (a, q', took) =>
        let s := s.memStore a (wordsToBytes (cellarLine (q.tail.take 56) q.seq))
        let s := if took then s.wf CEL_STATUS CEL_STATUS_SEG_FREE (s.rf CEL_STATUS CEL_STATUS_SEG_FREE - 1) else s
        State.spill k (s.setQueue n { q' with tail := q.tail.drop 56, mid := q.mid ++ [(a, q.seq % 256)], seq := q.seq + 1 })
          n { q' with tail := q.tail.drop 56, mid := q.mid ++ [(a, q.seq % 256)], seq := q.seq + 1 }

/-- Join an entry at the tail of queue n (R191); none: the queue is at its limit. -/
def State.queuePut (s : State) (n : Nat) (bs : List Byte) : Option State :=
  let q := s.queue n
  let q := passToHead n { q with tail := q.tail ++ bs, lens := q.lens ++ [bs.length] }
  (s.spill (bs.length / 56 + 1) n q).map (fun r => r.1.setQueue n r.2)

/-- The oldest entry of queue n where its bytes are all in the head (or, the middle being empty, in head and tail), and the
queue without it. -/
def queueTake (n : Nat) (q : Queue) : Option (List Byte × Queue) :=
  match q.lens with
  | [] => none
  | l :: rest =>
    let q := passToHead n q
    let avail := if q.mid.isEmpty then q.head ++ q.tail else q.head
    if avail.length < l then none
    else
      some (avail.take l,
        if q.mid.isEmpty then passToHead n { q with head := (avail.drop l).take (queueCap n), tail := (avail.drop l).drop (queueCap n),
                                                    lens := rest }
        else { q with head := q.head.drop l, lens := rest })

/-- Signal MSI-X vector v: the message is written to host memory, or its pending bit is set while it is masked. -/
def State.msix (s : State) (v : Nat) : State :=
  let a := (s.hreg (0x110000 + v * 16)).toNat
  let d := s.hreg (0x110008 + v * 16)
  if wbit d 32 then { s with msixPending := if s.msixPending.contains v then s.msixPending else s.msixPending ++ [v] }
  else { s with hostMem := memWrite s.hostMem a (natToBytes 4 (d.toNat % 2 ^ 32)) }

/-- Bus Master Enable: bit 2 of the command register of configuration space. -/
def State.busMaster (s : State) : Bool := (sparseGet pciDefault s.pci 1).getLsbD 2

/-- Entries of host event ring q: 2^(SIZE + 6). -/
def State.evqEntries (s : State) (q : Nat) : Nat := 2 ^ (s.hf (HB_EVQ_CFG q) HB_EVQ_CFG_SIZE + 6)

/-- Write one entry at the tail of host event ring q: its PHASE bit, the new TAIL, and the MSI-X message where ARM is 1
(R426, R427). -/
def State.ringWrite (s : State) (q : Nat) (bs : List Byte) : State :=
  let tail := s.hf (HB_EVQ_PTR q) HB_EVQ_PTR_TAIL
  let size := s.evqEntries q
  let pass := sparseGet zeroDefault s.evqPass q
  let ws := bytesToWords bs
  let base := 4096 * s.hf (HB_EVQ_BASE q) HB_EVQ_BASE_BASE
  let s := { s with
    hostMem := memPutWords s.hostMem (base + tail * 64) (putField (ws.getD 0 0) (bit 4) (1 - pass) :: ws.drop 1),
    evqPass := if tail + 1 = size then sparseSet zeroDefault s.evqPass q (1 - pass) else s.evqPass }
  let s := s.whf (HB_EVQ_PTR q) HB_EVQ_PTR_TAIL ((tail + 1) % size)
  if s.hf (HB_EVQ_CFG q) HB_EVQ_CFG_ARM = 1 then
    (s.whf (HB_EVQ_CFG q) HB_EVQ_CFG_ARM 0).msix (s.hf (HB_EVQ_CFG q) HB_EVQ_CFG_VECTOR)
  else s

/-- Whether host event ring q takes an entry now: enabled, Bus Master Enable, and space (R416, R426). -/
def State.ringReady (s : State) (q : Nat) : Bool :=
  s.hf (HB_EVQ_CFG q) HB_EVQ_CFG_EN == 1 && s.busMaster &&
    s.hf (HB_EVQ_PTR q) HB_EVQ_PTR_HEAD != (s.hf (HB_EVQ_PTR q) HB_EVQ_PTR_TAIL + 1) % s.evqEntries q

/-- Move one waiting entry of host event queue q into its ring; none: nothing can move. -/
def State.deliverOne (s : State) (q : Nat) : Option State :=
  if s.ringReady q then
    (queueTake (1096 + q) (s.queue (1096 + q))).map (fun r => (s.setQueue (1096 + q) r.2).ringWrite q r.1)
  else none

/-- Move waiting entries of host event queue q into its ring (R426). fuel: entries. -/
def State.deliver : Nat → State → Nat → State
  | 0, s, _ => s
  | k + 1, s, q =>
    match s.deliverOne q with
    | none => s
    | some s' => State.deliver k s' q

def State.deliverAll (s : State) (q : Nat) : State := s.deliver (s.queue (1096 + q)).lens.length q

/-- A notice to host software for a host event queue is its MSI-X message alone (R202). -/
def State.notifyRing (s : State) (q : Nat) : State := s.msix (s.hf (HB_EVQ_CFG q) HB_EVQ_CFG_VECTOR)

/-- Evaluate the two comparisons of queue n as they stand; hiWas and loWas say how they stood before (R199 to R201). The Bools of
the answer say that a notice to host software is due for a high and for a low crossing. -/
def State.crossingsW (s : State) (n : Nat) (hiWas loWas : Bool) : State × Bool × Bool :=
  let level := queueLevel (s.queue n)
  let hi := decide (s.rf (CEL_QWM n) CEL_QWM_HIGH ≤ level) && !hiWas && s.rf (CEL_QCFG n) CEL_QCFG_EN_H == 1
  let lo := decide (level ≤ s.rf (CEL_QWM n) CEL_QWM_LOW) && !loWas && s.rf (CEL_QCFG n) CEL_QCFG_EN_L == 1
  let nh := hi && s.rf (CEL_QMARK n) CEL_QMARK_CROSSED_H == 0
  let nl := lo && s.rf (CEL_QMARK n) CEL_QMARK_CROSSED_L == 0
  let s := if hi then (s.satf (CEL_QMARK n) CEL_QMARK_COUNT_H 1).wf (CEL_QMARK n) CEL_QMARK_CROSSED_H 1 else s
  let s := if lo then (s.satf (CEL_QMARK n) CEL_QMARK_COUNT_L 1).wf (CEL_QMARK n) CEL_QMARK_CROSSED_L 1 else s
  let host := decide (2 ≤ s.rf (CEL_QCFG n) CEL_QCFG_NOTIFY)
  (s, nh && host, nl && host)

/-- The comparison LEVEL ≥ HIGH of queue n at a level. -/
def State.highAt (s : State) (n level : Nat) : Bool := decide (s.rf (CEL_QWM n) CEL_QWM_HIGH ≤ level)

/-- The comparison LEVEL ≤ LOW of queue n at a level. -/
def State.lowAt (s : State) (n level : Nat) : Bool := decide (level ≤ s.rf (CEL_QWM n) CEL_QWM_LOW)

/-- The crossings of queue n after a change of its level from `before`. -/
def State.crossings (s : State) (n before : Nat) : State × Bool × Bool :=
  s.crossingsW n (s.highAt n before) (s.lowAt n before)

/-- Put an entry in host event queue q of this package; at the queue's limit it is dropped and counted (Table 6-1). -/
def State.putEvent (s : State) (q : Nat) (ws : List Word) : State :=
  let n := 1096 + q
  let before := queueLevel (s.queue n)
  let s := match s.queuePut n (wordsToBytes ws) with
    | some s => s
    | none => s.satf (CEL_QLEVEL n) CEL_QLEVEL_DROPPED 1
  let (s, h, l) := s.crossings n before
  let s := if h || l then s.notifyRing q else s
  let lvl := queueLevel (s.queue n)
  let s := s.deliverAll q
  let (s, h, l) := s.crossings n lvl
  if h || l then s.notifyRing q else s

/-- The eight words of an event entry (Table 14-4), PHASE left 0. -/
def eventEntry (source kind tag epoch status opcode : Nat) (body : List Word) : List Word :=
  [packFields [(bits 3 0, 1), (bits 19 8, source), (bits 47 32, kind), (bits 63 48, tag)],
   packFields [(bits 31 0, epoch), (bits 35 32, status), (bits 47 36, opcode)]] ++
  (body ++ List.replicate 6 0).take 6

/-- Queue a Hearth message for another package; dst 0 is the bridge of the pod. -/
def State.sendHearth (s : State) (m : OutMsg) : State := { s with outbox := s.outbox ++ [m] }

/-- Raise a host event (Table 14-5): on host event queue 0 of the bridge, or as a Hearth message to it (R426). -/
def State.hostEvent (s : State) (kind : Nat) (body : List Word) : State :=
  let e := eventEntry s.pkg kind 0 s.epoch 0 0 body
  if s.isBridge then s.putEvent 0 e
  else s.sendHearth { dst := 0, kind := 2, tag := 0, origin := 0, ring := 0, body := e }

/-- Send the notices of queue n to host software: for a host event queue its MSI-X message alone, else WATERMARK events
(R201, R202). -/
def State.notices (s : State) (n : Nat) (h l : Bool) : State :=
  if 1096 ≤ n ∧ n < 1112 then (if h || l then s.notifyRing (n - 1096) else s)
  else
    let s := if h then s.hostEvent 0x0050 [packFields [(bits 10 0, n)]] else s
    if l then s.hostEvent 0x0050 [packFields [(bits 10 0, n), (bit 11, 1)]] else s

/-- The notices of queue n after a change of its level from `before` (R201, R202). -/
def State.noticeFrom (s : State) (n before : Nat) : State :=
  let r := s.crossings n before
  r.1.notices n r.2.1 r.2.2

/-- Join an entry to a queue that is not a host event queue, with its notices; none: at its limit. -/
def State.enqueue (s : State) (n : Nat) (bs : List Byte) : Option State :=
  let before := queueLevel (s.queue n)
  (s.queuePut n bs).map (fun s => s.noticeFrom n before)

/-- Take the oldest entry of queue n. -/
def State.dequeue (s : State) (n : Nat) : Option (List Byte × State) :=
  let before := queueLevel (s.queue n)
  (queueTake n (s.queue n)).map (fun r => (r.1, (s.setQueue n r.2).noticeFrom n before))

end Sys2Proof.Machine

namespace Sys2Proof

open Sys2Proof.Machine

/-! ## Commands and replies (R419 to R424) -/

def Cmd.opcode (c : Cmd) : Nat := getField c.w0 (bits 15 4)
def Cmd.tag (c : Cmd) : Nat := getField c.w0 (bits 31 16)
def Cmd.target (c : Cmd) : Nat := getField c.w0 (bits 43 32)
def Cmd.role (c : Cmd) : Nat := getField c.w0 (bits 45 44)
def Cmd.len (c : Cmd) : Nat := getField c.w0 (bits 63 48)

/-- Parameter word i; a word that the packet does not carry reads 0. -/
def Cmd.p (c : Cmd) (i : Nat) : Word := c.params.getD i 0

/-- A field of a parameter word. -/
def Cmd.pf (c : Cmd) (i hi lo : Nat) : Nat := getField (c.p i) (bits hi lo)

/-- The RING a command is known by: r, 16 + g, or 20 for the I3C channel (R536). -/
def Cmd.ringId (c : Cmd) : Nat :=
  match c.via with
  | .ring r => r.val
  | .guest g => 16 + g.val
  | .i3c => 20
  | .forwarded => getField c.w1 (bits 51 44)

end Sys2Proof

namespace Sys2Proof.Machine

/-- The ORIGIN a command is known by: this package for its own rings, guests and I3C channel. -/
def originOf (s : State) (c : Cmd) : Nat :=
  match c.via with
  | .forwarded => getField c.w1 (bits 43 32)
  | _ => s.pkg

/-- Leave an entry for a guest site, or as the reply to the last command of the I3C channel, which delivers no other entry
(R426, R536). -/
def State.putLocal (s : State) (ring : Nat) (e : List Word) : State :=
  if ring ≠ 20 then { s with locals := sparseSet localsDefault s.locals ring (sparseGet localsDefault s.locals ring ++ [e]) }
  else if getField (e.getD 0 0) (bits 47 32) = 1 then { s with locals := sparseSet localsDefault s.locals ring [e] }
  else s

/-- Where a reply or APPLIED entry of (TAG, ORIGIN, RING) goes: the ring's event queue here, the guest site or I3C reply
here, or back to ORIGIN (R426, R428). -/
def State.sendReply (s : State) (kind tag origin ring status opcode : Nat) (body : List Word) : State :=
  let e := eventEntry s.pkg kind tag s.epoch status opcode body
  if origin ≠ s.pkg then
    s.sendHearth { dst := origin, kind := 1, tag := tag, origin := origin, ring := ring, body := e }
  else if ring < 16 then
    let q := s.hf (HB_CRING_CFG ring) HB_CRING_CFG_EVQ
    if s.hf (HB_EVQ_CFG q) HB_EVQ_CFG_EN = 1 ∧ s.hf (HB_CRING_CFG ring) HB_CRING_CFG_EN = 1 then s.putEvent q e else s
  else s.putLocal ring e

/-- Remember a reply, the newest last, 256 for each (ORIGIN, RING) (R422). -/
def rememberIn (ds : List Remembered) (r : Remembered) : List Remembered :=
  let same := ds.filter (fun d => d.origin == r.origin && d.ring == r.ring)
  let ds := if 256 ≤ same.length then
      match same with
      | old :: _ => ds.erase old
      | [] => ds
    else ds
  ds ++ [r]

/-- The entry of a command that was taken and not answered. -/
def State.activeOf (s : State) (tag origin ring : Nat) : Option ActiveCmd :=
  s.active.find? (fun a => a.tag == tag && a.origin == origin && a.ring == ring)

def State.dropActive (s : State) (tag origin ring : Nat) : State :=
  { s with active := s.active.filter (fun a => !(a.tag == tag && a.origin == origin && a.ring == ring)) }

/-! ## Opcodes (R432) -/

/-- Opcodes and the role each needs: 0 NONE, 1 OPERATOR, 2 INSTALLER, 3 MAKER (Tables 14-6 to 14-11). -/
def opTable : List (Nat × Nat) :=
  [(0x001, 0), (0x002, 1), (0x003, 1), (0x101, 3), (0x110, 2), (0x111, 1), (0x120, 2), (0x130, 1), (0x131, 1)] ++
  [(0x201, 1), (0x210, 1), (0x211, 1), (0x301, 1), (0x302, 1), (0x310, 1), (0x330, 1), (0x331, 1), (0x332, 1), (0x333, 1),
   (0x340, 1), (0x341, 1), (0x350, 1)] ++
  [(0x410, 2), (0x411, 1), (0x412, 1), (0x413, 2), (0x420, 2), (0x421, 2), (0x422, 2), (0x423, 2), (0x424, 2), (0x430, 1),
   (0x431, 1), (0x432, 1), (0x433, 2), (0x440, 2), (0x441, 1)] ++
  [(0x501, 1), (0x502, 2), (0x510, 1), (0x520, 2), (0x601, 1), (0x602, 1), (0x610, 2), (0x620, 1), (0x630, 2), (0x6F0, 3)] ++
  [(0x701, 0), (0x702, 0), (0x703, 0), (0x710, 2), (0x720, 2), (0x730, 1), (0x740, 1)]

def opHalt : Nat := 0x201

/-- The role an opcode needs; none: the code is reserved. -/
def opRole (op : Nat) : Option Nat :=
  if 0x800 ≤ op ∧ op ≤ 0x8FF then some 3 else (opTable.find? (fun e => e.1 == op)).map (fun e => e.2)

/-- The authenticated role of the channel a command arrives on. -/
def State.chanRole (s : State) (c : Cmd) : Nat :=
  match c.via with
  | .ring r => s.hf (HB_CRING_CFG r.val) HB_CRING_CFG_ROLE
  | .guest g => if s.rf (GST_CFG g.val) GST_CFG_ROLE = 1 then 1 else 0
  | .i3c => s.i3cRole
  | .forwarded => 3

/-! ## Audit log (R521) -/

/-- Write one audit record: KIND and its fields; PREV chains it to the record before, 0 for the first. -/
def State.auditRec (s : State) (kind role opcode status origin ring old new : Nat) (d0 d1 : Word) : State :=
  let prev := match s.nv.audit.getLast? with | some r => sha256 (wordsToBytes r) | none => []
  let r := [packFields [(bits 3 0, 1), (bits 7 4, kind), (bits 9 8, role), (bits 27 16, opcode), (bits 31 28, status),
      (bits 43 32, origin), (bits 51 44, ring)],
    BitVec.ofNat 64 s.nv.auditSeq, packFields [(bits 47 0, s.frame)],
    packFields [(bits 31 0, s.epoch), (bits 34 32, old), (bits 37 35, new)], d0, d1, hashWord prev 0, hashWord prev 1]
  let n := s.nv.auditSeq
  let rs := s.nv.audit ++ [r]
  ({ s with nv := { s.nv with audit := rs.drop (rs.length - 4096), auditSeq := n + 1 } } : State).setReg SEC_AUDIT
    (packFields [(SEC_AUDIT_SEQ, n), (SEC_AUDIT_INDEX, n % 4096)])

/-- The record of a command that needs the Installer or Maker role and returns OK or DEFERRED. -/
def State.auditCmd (s : State) (c : Cmd) (status : Nat) (d0 d1 : Word) : State :=
  if 2 ≤ (opRole c.opcode).getD 0 ∧ status ≤ 1 then
    s.auditRec 0 (if c.via == .forwarded then c.role else s.chanRole c) c.opcode status (originOf s c) c.ringId 0 0 d0 d1
  else s

/-- Answer a command with one REPLY and remember it; the reply of a command answered TIMEOUT is dropped (R422, R430). -/
def State.replyWith (s : State) (c : Cmd) (status : Nat) (body : List Word) (d0 d1 : Word) : State :=
  let o := originOf s c
  let s := s.auditCmd c status d0 d1
  let dead := match s.activeOf c.tag o c.ringId with | some a => a.dead | none => false
  let s := s.dropActive c.tag o c.ringId
  let s := { s with
    dups := rememberIn s.dups { tag := c.tag, origin := o, ring := c.ringId,
                                reply := eventEntry s.pkg 1 c.tag s.epoch status c.opcode body } }
  if dead then s else s.sendReply 1 c.tag o c.ringId status c.opcode body

/-- Answer a command; its audit record, where it has one, holds P0 and P1. -/
def State.reply (s : State) (c : Cmd) (status : Nat) (body : List Word) : State := s.replyWith c status body (c.p 0) (c.p 1)

/-- The APPLIED event of a command that returned DEFERRED (R424). -/
def State.applied (s : State) (tag origin ring opcode status : Nat) (superseded : Bool) : State :=
  s.sendReply 2 tag origin ring status opcode [if superseded then 1 else 0]

/-! ## Status codes (Table 14-3) -/

def stOk : Nat := 0
def stDeferred : Nat := 1
def stBusy : Nat := 2
def stDenied : Nat := 3
def stBadVersion : Nat := 4
def stBadParam : Nat := 5
def stCapacity : Nat := 6
def stFaulted : Nat := 7
def stTimeout : Nat := 8
def stLinkDown : Nat := 9

end Sys2Proof.Machine
end

