-- ==== Sys2Proof/Machine/Faults.lean ====
section
/-!
DEFINITION. Sys2Proof/Machine/Faults.lean: the fault collector, its reactions, the step fence, journal restore and the
selection of fallback plans (chapter 16, R149 to R157).
-/

set_option Elab.async false

namespace Sys2Proof.Machine

/-! ## The fault log (R471 to R476) -/

def State.logWord (s : State) (i j : Nat) : Word := s.reg (FLT_LOG (i * 4 + j))

/-- Indices of the uncleared records, oldest first. -/
def State.uncleared (s : State) : List Nat := s.logOrder.filter (fun i => !s.logCleared.contains i)

/-- FLT_STATUS follows the log (Table 16-11, R476). -/
def State.refreshFlt (s : State) : State :=
  let u := s.uncleared
  let fatal := u.any (fun i => getField (s.logWord i 0) (bits 5 4) == 2)
  let pin := u.any (fun i => wbit (s.logWord i 0) 12) || s.mode == .safeHold
  let fence := s.steps.any (fun t => t.phase == .fenced)
  s.wfs FLT_STATUS [(FLT_STATUS_UNCLEARED, u.length), (FLT_STATUS_FATAL_PEND, if fatal then 1 else 0),
    (FLT_STATUS_ERR_N, if pin then 1 else 0), (FLT_STATUS_FENCE_PEND, if fence then 1 else 0)]

/-- The entry a new record takes: the next empty one, else the oldest cleared; none: all 1,024 are uncleared (R473). -/
def State.logSlot (s : State) : Option Nat :=
  if s.logOrder.length < 1024 then some s.logOrder.length else s.logOrder.find? (fun i => s.logCleared.contains i)

/-- The four words of a new record (Table 16-2). -/
def faultRecord (s : State) (code loc det : Nat) (injected : Bool) (lead step : Nat) : List Word :=
  [packFields [(bits 3 0, 1), (bits 5 4, faultSeverity code), (bit 6, if injected || s.injecting then 1 else 0),
     (bits 12 8, s.rf (FLT_REACT code) FLT_REACT_MASK), (bits 31 16, code), (bits 43 32, s.pkg), (bits 63 48, 1)],
   packFields [(bits 31 0, loc), (bits 63 32, det)],
   packFields [(bits 47 0, s.frame), (bits 63 48, lead)],
   packFields [(bits 31 0, s.epoch), (bits 63 32, step)]]

/-- Put a record at log entry i, as the newest. -/
def State.putRecord (s : State) (i : Nat) (ws : List Word) : State :=
  let s := (List.range 4).foldl (fun s j => s.setReg (FLT_LOG (i * 4 + j)) (ws.getD j 0)) s
  { s with logOrder := s.logOrder.filter (fun k => k != i) ++ [i], logCleared := s.logCleared.filter (fun k => k != i) }

/-- Write a report's record or merge it, keep the NV history and ERR_N; the Bool says that a record was created (R471 to
R473). -/
def State.recordFault (s : State) (code loc det : Nat) (injected : Bool) (lead step : Nat) : State × Bool :=
  match s.uncleared.find? (fun i => getField (s.logWord i 0) (bits 31 16) == code &&
      getField (s.logWord i 1) (bits 31 0) == loc) with
  | some i => ((s.setReg (FLT_LOG (i * 4)) (putField (s.logWord i 0) (bits 63 48)
      (satAdd 16 (getField (s.logWord i 0) (bits 63 48)) 1))).refreshFlt, false)
  | none =>
    let ws := faultRecord s code loc det injected lead step
    let s := if faultSeverity code = 0 then s
      else { s with nv := { s.nv with history := (s.nv.history ++ [ws]).drop (s.nv.history.length + 1 - 256) } }
    match s.logSlot with
    | some i => ((s.putRecord i ws).refreshFlt, true)
    | none => ((s.satf FLT_STATUS FLT_STATUS_LOST 1).refreshFlt, false)

/-- A NOTE with a LEAD and STEP: the record and, where its mask has INT, the FAULT event. -/
def State.noteStep (s : State) (code loc det lead step : Nat) : State :=
  let ws := faultRecord s code loc det false lead step
  let r := s.recordFault code loc det false lead step
  if r.2 && wbit (s.reg (FLT_REACT code)) 0 then r.1.hostEvent 0x0080 ws else r.1

/-- A NOTE without recovery. -/
def State.note (s : State) (code loc det : Nat) : State := s.noteStep code loc det 0 0xFFFFFFFF

/-- A management-access error (R5, R27, R29, R203): DETAIL is address bits [39:8]. -/
def State.mgmtError (s : State) (loc addr : Nat) : State := s.note F_MGMT_ACCESS loc (addr / 256)

/-! ## Completion records (R149) -/

/-- Write the completion record of a descriptor. -/
def State.completionRecord (s : State) (b : BayId) (d : Desc) (status : Nat) (flags : BitVec 8) (cycles slip frame : Nat) :
    State :=
  let id := getField (d.getD 1 0) (bits 47 32)
  if id = 0 ∧ status ≠ 2 then s
  else
    let n := s.rf (BAY_SEQ_CRCNT b) BAY_SEQ_CRCNT_COUNT
    let size := 256 * 2 ^ min (s.rf (BAY_SEQ_CRING b) BAY_SEQ_CRING_SIZE) 11
    let da := 4096 * s.rf (BAY_SEQ_CRING b) BAY_SEQ_CRING_BASE + n % size * 16
    let lo := packFields [(bits 3 0, 1), (bits 7 4, status), (bits 15 8, getField (d.getD 0 0) (bits 11 4)),
      (bits 31 16, id), (bits 39 32, flags.toNat), (bits 55 40, min cycles 0xFFFF), (bits 63 56, min slip 0xFF)]
    let hi := packFields [(bits 47 0, frame)]
    let s := s.addf (BAY_SEQ_CRCNT b) BAY_SEQ_CRCNT_COUNT 1
    if daWindow da ≠ 0 then s.note F_COMPLETION_DROPPED (locBay b) (da / 256)
    else match s.engineWrite da (wordsToBytes [lo, hi]) with
      | .ok s' => s'
      | .error _ => s.note F_COMPLETION_DROPPED (locBay b) (da / 256)

/-! ## Stopping a bay (R151, R152) -/

/-- Record a stopped descriptor: ABORTED, or the status a fault gave it. The cycles it ran are open. -/
def State.recordStopped (s : State) (b : BayId) (r : Running) : State :=
  let (w, s) := s.draw
  s.completionRecord b r.d (if r.status = 0 then 3 else r.status) 0 (w.toNat % 2 ^ 16) r.slip r.startFrame

def recordStoppedOpt (b : BayId) (s : State) : Option Running → State
  | none => s
  | some r => s.recordStopped b r

/-- BAY_SEQ_STATUS.STATE codes (Table 4-24). -/
def seqIdle : Nat := 0
def seqRunning : Nat := 1
def seqStepDone : Nat := 2
def seqStopped : Nat := 3
def seqHalted : Nat := 4

/-- Stop every unit of a bay: running descriptors are recorded, queued and undispatched ones and posted RECVs are dropped
without records; the index of the descriptor in flight goes to STOPIDX (R151, Table 4-25). -/
def State.stopBay (s : State) (b : BayId) (state cause : Nat) : State :=
  let x := s.bay b
  let attn := match x.rMat with | some r => getField (r.d.getD 0 0) (bits 11 4) == 2 | none => false
  let stopIdx := match x.rMat, x.rVec, x.rData, x.rXchg, x.control with
    | some r, _, _, _, _ => r.idx
    | _, some r, _, _, _ => r.idx
    | _, _, some r, _, _ => r.idx
    | _, _, _, some r, _ => r.idx
    | _, _, _, _, some r => r.idx
    | _, _, _, _, _ => (s.rf (BAY_SEQ_POS b) BAY_SEQ_POS_INDEX + 2 ^ 32 - 1) % 2 ^ 32
  let s := recordStoppedOpt b s x.rMat
  let s := if attn then s else recordStoppedOpt b s x.rVec
  let s := recordStoppedOpt b s x.rData
  let s := recordStoppedOpt b s x.rXchg
  let s := x.acking.foldl (fun s r => s.recordStopped b r) s
  let s := recordStoppedOpt b s x.control
  let s := s.setBay b { x with
    prefetch := [], qMat := [], qVec := [], qData := [], qXchg := [], rMat := none, rVec := none, rData := none,
    rXchg := none, acking := [], control := none, ctlFrames := 0, recvs := [], arrived := [], discard := true,
    stall := 0, progress := false, vctx := VecCtx.idle }
  let s := { s with annexReqs := s.annexReqs.filter (fun r => r.bay != bayIx b) }
  let s := s.wf (BAY_SEQ_STOPIDX b) BAY_SEQ_STOPIDX_INDEX stopIdx
  s.wfs (BAY_SEQ_STATUS b) [(BAY_SEQ_STATUS_STATE, state), (BAY_SEQ_STATUS_LAST_STOP, cause), (BAY_SEQ_STATUS_GRACE, 0)]

/-! ## The step journal (R153 to R156) -/

def jrnlBase (j : Word) : Nat := 4096 * getField j BAY_SEQ_JRNL_BASE
def jrnlSize (j : Word) : Nat := 65536 * 2 ^ min (getField j BAY_SEQ_JRNL_SIZE) 12

/-- Write a segment header (Table 4-13). -/
def State.jrnlHeader (s : State) (j : Word) (state step base start records next : Nat) : State :=
  s.memStore (jrnlBase j) (wordsToBytes
    [packFields [(bits 3 0, 1), (bits 7 4, state), (bits 39 8, step)], packFields [(bits 47 0, base)],
     packFields [(bits 31 0, start), (bits 63 32, records)], packFields [(bits 47 0, next)], 0, 0, 0, 0])

/-- Set the STATE of a segment. -/
def State.jrnlState (s : State) (j : Word) (state : Nat) : State :=
  s.memStore (jrnlBase j) (wordsToBytes [putField (memWord s.mem (jrnlBase j)) (bits 7 4) state])

/-- The pre-image records of a segment in writing order: destination and row bytes. -/
def jrnlRecords (m : Memory) : Nat → Nat → List (Nat × List Byte)
  | 0, _ => []
  | k + 1, a =>
    let da := getField (memWord m a) (bits 63 16)
    let len := getField (memWord m (a + 8)) (bits 31 0)
    (da, memRead m (a + 64) len) :: jrnlRecords m k (a + 64 + len)

/-- Restore one segment: RESTORING, then every pre-image written back in reverse order (R156). A row behind a
window goes back as MEM_WR packets, which wait in `restores`. -/
def State.restoreSegment (s : State) (j : Word) : State :=
  let base := jrnlBase j
  let st := getField (memWord s.mem base) (bits 7 4)
  if st = 1 ∨ st = 3 then
    let s := s.jrnlState j 3
    let n := getField (memWord s.mem (base + 16)) (bits 63 32)
    let s := (jrnlRecords s.mem n (base + 64)).reverse.foldl (fun s r =>
      if daWindow r.1 = 0 then s.memStore r.1 r.2 else { s with restores := s.restores ++ [r] }) s
    s.jrnlHeader j 0 (getField (memWord s.mem base) (bits 39 8)) 0 0 0 (base + 64)
  else s

/-! ## Fallback plans (R483 to R486) -/

structure PlanHead where
  kind : Nat
  lostPkg : Nat
  loc : Nat
  nbay : Nat
  nslot : Nat
  nreload : Nat
  id : Nat
  version : Nat
  deriving DecidableEq, Repr

def State.planHead (s : State) (da : Nat) : PlanHead :=
  let w0 := memWord s.mem da
  let w1 := memWord s.mem (da + 8)
  { version := getField w0 (bits 3 0), kind := getField w0 (bits 7 4), lostPkg := getField w0 (bits 19 8),
    loc := getField w0 (bits 63 32), nbay := getField w1 (bits 15 0), nslot := getField w1 (bits 19 16),
    nreload := getField w1 (bits 35 20), id := getField (memWord s.mem (da + 16)) (bits 31 0) }

/-- One bay entry of a plan: original bay and stream, replacement bay and stream, LENGTH, STREAM_START. -/
structure PlanBay where
  bay : Nat
  stream : Nat
  newBay : Nat
  newStream : Nat
  length : Nat
  start : Nat
  /-- The die and bay fields name dies and bays 0 to 11. -/
  inRange : Bool
  deriving DecidableEq, Repr

def State.planBay (s : State) (da i : Nat) : PlanBay :=
  let e0 := memWord s.mem (da + 64 + 32 * i)
  let e1 := memWord s.mem (da + 64 + 32 * i + 8)
  let e2 := memWord s.mem (da + 64 + 32 * i + 16)
  let f := fun w => (getField w (bits 3 0), getField w (bits 7 4))
  { bay := (f e0).1 * 12 + (f e0).2, stream := getField e0 (bits 63 16), newBay := (f e1).1 * 12 + (f e1).2,
    newStream := getField e1 (bits 63 16), length := getField e2 (bits 31 0), start := getField e2 (bits 63 32),
    inRange := decide ((f e0).1 < 12) && decide ((f e0).2 < 12) && decide ((f e1).1 < 12) && decide ((f e1).2 < 12) }

def State.planBays (s : State) (da : Nat) : List PlanBay := (List.range (s.planHead da).nbay).map (s.planBay da)

/-- Slot parts: Casement and the address of the 1,024 entries that follow it at byte 64. -/
def State.planSlots (s : State) (da : Nat) : List (Nat × Nat) :=
  let h := s.planHead da
  (List.range h.nslot).map (fun i =>
    let a := da + 64 + 32 * h.nbay + 4160 * i
    (getField (memWord s.mem a) (bits 2 0), a + 64))

/-- Reload records: local destination, source package, source address, bytes. -/
def State.planReloads (s : State) (da : Nat) : List (Nat × Nat × Nat × Nat) :=
  let h := s.planHead da
  (List.range h.nreload).map (fun i =>
    let a := da + 64 + 32 * h.nbay + 4160 * h.nslot + 32 * i
    (getField (memWord s.mem a) (bits 47 0), getField (memWord s.mem (a + 8)) (bits 51 40),
     getField (memWord s.mem (a + 8)) (bits 39 0), getField (memWord s.mem (a + 16)) (bits 39 0)))

def State.planDa (s : State) (p : Nat) : Nat := s.rf (FLT_PLAN_DA p) FLT_PLAN_DA_DA

/-- Table entries that hold a plan. -/
def State.planTable (s : State) : List Nat := (List.range 64).filter (fun p => wbit (s.reg FLT_PLANVALID) p)

/-- Replace the bay entries of a step that the plan's entries match (R486). -/
def applyPlanBays (es : List PlanBay) (bs : List StepBay) : List StepBay :=
  let mapped := bs.map (fun b =>
    match es.find? (fun e => e.bay == b.bay && e.stream == b.stream) with
    | some e =>
      let own := bs.find? (fun o => o.bay == e.newBay)
      { bay := e.newBay, stream := e.newStream, length := e.length, start := e.start,
        cring := (own.getD b).cring, jrnl := (own.getD b).jrnl }
    | none => b)
  mapped.foldl (fun acc b => if acc.any (fun a => a.bay == b.bay && a.stream == b.stream) then acc else acc ++ [b]) []

/-- No bay of a list of entries holds two different streams. -/
def streamsAgree (bs : List StepBay) : Bool :=
  bs.all (fun a => bs.all (fun b => a.bay != b.bay || a.stream == b.stream))

/-- The bays of a unit. -/
def unitBays (l : Nat) : List Nat := (List.range 144).filter (fun i => locContains l (locBay (bayOf i)))

/-- The bays a report's locator names a step by: the bays in the unit, and the bay a finer locator lies in (R478). -/
def faultBays (l : Nat) : List Nat :=
  unitBays l ++ (if locClass l == 1 && decide (locLevel l ≤ 4) then [locBayIx l] else [])

/-- Whether plan p qualifies for a step after the loss of unit l of package pkg (R485). -/
def State.planFits (s : State) (p pkg l : Nat) (t : Step) : Bool :=
  let h := s.planHead (s.planDa p)
  let es := s.planBays (s.planDa p)
  let lost := if h.lostPkg = 0 then s.pkg else h.lostPkg
  lost == pkg && locContains h.loc l &&
  (pkg != s.pkg || (t.bays.filter (fun b => (unitBays l).contains b.bay)).all (fun b =>
    es.any (fun e => e.bay == b.bay && e.stream == b.stream))) &&
  es.all (fun e => t.bays.any (fun b => e.bay == b.bay && e.stream == b.stream)) &&
  streamsAgree (applyPlanBays es t.bays)

/-- The plan a step takes: lowest level, then lowest index. -/
def State.planFor (s : State) (pkg l : Nat) (t : Step) : Option Nat :=
  let fit := s.planTable.filter (fun p => s.planFits p pkg l t)
  (List.range 8).findSome? (fun lv => fit.find? (fun p => locLevel (s.planHead (s.planDa p)).loc == lv))

/-- A selected plan comes into force: its slot parts and its reloads are due (R485, R488). -/
def State.forcePlan (s : State) (p : Nat) : State :=
  if wbit (s.reg FLT_INFORCE) p then s
  else
    let da := s.planDa p
    let at' := frameAdd s.frame (s.rf FLT_CFG FLT_CFG_PLAN_LEAD)
    { s.setReg FLT_INFORCE (s.reg FLT_INFORCE ||| BitVec.ofNat 64 (2 ^ p)) with
      slotParts := s.slotParts ++ (s.planSlots da).map (fun x => (x.1, x.2, at')),
      reloads := s.reloads ++ (s.planReloads da).map (fun r =>
        { plan := p, da := r.1, srcPkg := r.2.1, srcAddr := r.2.2.1, bytes := r.2.2.2, left := r.2.2.2 }) }

/-! ## The step fence (R478 to R482) -/

def State.stepAborted (s : State) (t : Step) (replayable : Bool) : State :=
  s.hostEvent 0x0011 [packFields [(bits 31 0, t.num), (bits 35 32, t.cause), (bit 36, if replayable then 1 else 0)]]

/-- Stop and restore the bays of a step. -/
def State.quellStep (s : State) (t : Step) (state cause : Nat) : State :=
  let s := t.bays.foldl (fun s b => s.stopBay (bayOf b.bay) state cause) s
  t.bays.foldl (fun s b => s.restoreSegment b.jrnl) s

/-- End a step without replay: it leaves the package, and its APPLIED, where it never began, is superseded (R440). -/
def State.endStep (s : State) (t : Step) : State :=
  let s := { s with steps := s.steps.filter (fun x => x.num != t.num) }
  let s := s.stepAborted t false
  let s := if t.phase = .pending then s.applied t.tag t.origin t.ring 0x210 stOk true else s
  s.refreshFlt

/-- What a fence does to one step. -/
structure FenceOrder where
  /-- LAST_STOP code for the bays. -/
  cause : Nat
  replay : Bool
  /-- FRAME and LEAD of the record: the base is FRAME + LEAD * 64 (R480). -/
  frame : Nat
  lead : Nat
  /-- Package and unit whose loss selects a plan; none: no unit is lost. -/
  lost : Option (Nat × Nat)
  deriving DecidableEq, Repr

/-- Fence one step (R478 to R482, R485, R491). A step that has not begun is only re-planned; one that is fenced already keeps
its bays stopped and takes the later base. -/
def State.fenceStep (s : State) (o : FenceOrder) (t : Step) : State :=
  let s := if t.phase = .running then s.quellStep t seqStopped o.cause else s
  let plan := match o.lost with
    | none => none
    | some (pkg, l) => s.planFor pkg l t
  let needs := match o.lost with
    | none => false
    | some (pkg, l) => pkg == s.pkg && t.bays.any (fun b => (unitBays l).contains b.bay)
  let t := { t with cause := o.cause }
  if needs && plan.isNone then
    let l := match o.lost with | some (_, l) => l | none => locPackage
    (s.note F_NO_FALLBACK l 0).endStep t
  else if o.replay = false then s.endStep t
  else if t.phase = .running ∧ s.rf FLT_CFG FLT_CFG_REPLAY_MAX ≤ t.replays then
    (s.note F_REPLAY_LIMIT locPackage 0).endStep t
  else
    let s := match plan with | some p => s.forcePlan p | none => s
    let es := match plan with | some p => s.planBays (s.planDa p) | none => []
    let bays := applyPlanBays es t.bays
    let base := frameAdd o.frame (o.lead * 64)
    let newBase := if t.phase = .running ∨ frameReached base t.base then base else t.base
    let pend := t.phase == .pending
    let t' : Step := { t with
      bays := bays, phase := if pend then .pending else .fenced, base := if pend then t.base else newBase,
      longLead := t.longLead || o.lead == 0xFFFF, frame := o.frame,
      old := if t.phase == .running then t.bays.map (fun b => b.bay) else t.old }
    let s : State := { s with steps := s.steps.map (fun (x : Step) => if x.num = t.num then t' else x) }
    if t.phase = .running then (s.stepAborted t' true).refreshFlt else s.refreshFlt

/-- Fence every step of a list. -/
def State.fenceSteps (s : State) (o : FenceOrder) (ts : List Step) : State := ts.foldl (fun s t => s.fenceStep o t) s

/-- Codes whose step is not replayed (R482). -/
def noReplay (code : Nat) : Bool :=
  code == F_DESC_MALFORMED || code == F_JOURNAL_FULL || code == F_ADDR_FAULT || code == F_READONLY_WRITE ||
    code == F_REPLAY_LATE

/-- Codes that raise a step fence (Table 16-4). -/
def fencesSteps (code : Nat) : Bool :=
  [F_TILE_RESIDUE, F_TILE_RAIL, F_VEC_RESIDUE, F_VEC_RAIL, F_SRAM_UE, F_BAY_LOST, F_DIE_UV, F_DIE_SENSORS,
   F_DESC_MALFORMED, F_OVERRUN, F_SEQ_STALL, F_EVENT_TIMEOUT, F_JOURNAL_FULL, F_ADDR_FAULT, F_READONLY_WRITE, F_MEM_UE,
   F_CHANNEL_RETIRE, F_STACK_LOST, F_WING_LOST].contains code

/-- Codes by which a unit is lost, so that a plan is selected (Table 16-4, R485). -/
def losesUnit (code : Nat) : Bool :=
  [F_BAY_LOST, F_DIE_UV, F_DIE_SENSORS, F_STACK_LOST, F_WING_LOST, F_CASEMENT_LOST, F_CSM_THERMAL].contains code

/-- LAST_STOP of the bays a fault fences (Table 4-24). -/
def stopCause (code : Nat) : Nat :=
  if code = F_DESC_MALFORMED then 1 else if code = F_OVERRUN then 2 else if code = F_SEQ_STALL then 3
  else if code = F_EVENT_TIMEOUT then 4 else if code = F_JOURNAL_FULL then 5 else 7

/-- The steps a fault fences (R478); met: the bays whose descriptors met it. -/
def State.fencedBy (s : State) (code loc : Nat) (met : List Nat) : List Step :=
  if !fencesSteps code then []
  else if code = F_STACK_LOST ∨ code = F_WING_LOST ∨ code = F_CHANNEL_RETIRE then s.steps
  else
    let bs := faultBays loc ++ met
    s.steps.filter (fun t => t.bays.any (fun b => bs.contains b.bay))

/-- LEAD of a fence in units of 64 frames (R480). -/
def State.leadOf (s : State) (code : Nat) : Nat :=
  if code = F_CHANNEL_RETIRE ∨ code = F_STACK_LOST ∨ code = F_WING_LOST then 0xFFFF
  else s.rf FLT_CFG FLT_CFG_REPLAY_LEAD / 64

/-! ## Effects of a fault on its unit -/

/-- A tile takes a role (R84); LOGICAL follows the ACTIVE tiles. -/
def State.tileRole (s : State) (b : BayId) (t : Nat) : Nat := s.rf (TIL_STATUS b t) TIL_STATUS_ROLE

/-- Recompute LOGICAL of every tile and BAY_TILES of a bay from the roles (R84, Table 3-9). -/
def State.remapTiles (s : State) (b : BayId) : State :=
  let roles := (List.range 17).map (fun t => s.tileRole b t)
  let s := (List.range 17).foldl (fun s t =>
    s.wf (TIL_STATUS b t) TIL_STATUS_LOGICAL
      (if roles.getD t 0 = 0 then ((roles.take t).filter (fun r => r == 0)).length else 0)) s
  let mask := fun (p : Nat → Bool) => (List.range 17).foldl (fun acc t => if p (roles.getD t 0) then acc + 2 ^ t else acc) 0
  let spare := (List.range 17).find? (fun t => roles.getD t 0 == 1 || roles.getD t 0 == 2)
  let s := s.wfs (BAY_TILES b) [(BAY_TILES_RETIRED, mask (fun r => r == 4)), (BAY_TILES_FENCE, mask (fun r => r == 3 || r == 4)),
    (BAY_TILES_TEST, if (mask (fun r => r == 2)) = 0 then 0 else 1), (BAY_TILES_SPARE, spare.getD 0x1F)]
  s.wf (BAY_STATUS b) BAY_STATUS_NO_SPARE (if spare.isSome then 0 else 1)

/-- A SPARE or TEST tile becomes ACTIVE in a fenced one's place; a slice under way in it counts as skipped (R88). -/
def State.tileIn (s : State) (b : BayId) (u : Nat) : State :=
  let s := if s.tileRole b u = 2 then
      (s.satf BST_COUNT BST_COUNT_SKIPPED 1).setBay b { s.bay b with sliceTile := none } else s
  let v := s.drawSr
  ((v.2.wf (TIL_STATUS b u) TIL_STATUS_ROLE 0).wf (TIL_SR_STATE b u) TIL_SR_STATE_STATE v.1).remapTiles b

/-- Fence a tile and put the spare in its place; a slice it was in is abandoned and counted as skipped (R88). The
replacement draws its own generator state (R67). -/
def State.fenceTile (s : State) (b : BayId) (t lastFault : Nat) : State :=
  let s := (s.satf (TIL_STATUS b t) TIL_STATUS_FAULT_COUNT 1).wfs (TIL_STATUS b t)
    [(TIL_STATUS_LAST_FAULT, lastFault), (TIL_STATUS_ROLE, 3)]
  let spare := (List.range 17).find? (fun u => s.tileRole b u == 1 || s.tileRole b u == 2)
  spare.elim (s.remapTiles b) (fun u => s.tileIn b u)

/-- Tiles of a bay in role ACTIVE. -/
def State.activeTiles (s : State) (b : BayId) : Nat :=
  ((List.range 17).filter (fun t => s.tileRole b t == 0)).length

/-- Invalidate every Larder line of a device-address range [lo, hi) (R171, R178, R180). -/
def State.larderDrop (s : State) (lo hi : Nat) : State :=
  { s with larders := (s.larders.map (fun e => (e.1, e.2.filter (fun l =>
      !(decide (lo < 256 * (l.line + 1)) && decide (256 * l.line < hi)))))).filter (fun e => !e.2.isEmpty) }

/-- Regions in PACKAGE space that no reload covers, and regions of lost wings, become LOST (R188, R487, R488). -/
def State.loseRegions (s : State) (hit : Nat → Bool) : State :=
  (List.range 64).foldl (fun s n =>
    if s.rgnValid n && !s.rgnBit n MEM_RGN_ATTR_ANNEX_BACKED && !s.rgnBit n MEM_RGN_ATTR_LOST && hit n then
      (s.wf (MEM_RGN_ATTR n) MEM_RGN_ATTR_LOST 1).hostEvent 0x0040 [packFields [(bits 5 0, n)]]
    else s) s

/-- Whether reload records of plans in force cover region n in full. -/
def State.reloadCovers (s : State) (n : Nat) : Bool :=
  (granules (s.rgnLo n) (s.rgnHi n - s.rgnLo n)).all (fun g =>
    s.reloads.any (fun r => decide (r.da ≤ g) && decide (g + 4096 ≤ r.da + r.bytes)))

/-- Pantry entries whose block has a granule on a lost stack become LOST (R225). -/
def State.losePantry (s : State) (before : Nat → Option Home) (lost : Nat → Bool) : State :=
  { s with pantry := s.pantry.map (fun e =>
      let addr := getField e.2.w0 (bits 63 24)
      let len := (getField e.2.w2 (bits 63 48) + 1) * 64
      let st := getField e.2.w0 (bits 5 4)
      if (st = 1 ∨ st = 2) ∧ getField e.2.w0 (bits 19 8) = s.pkg ∧
          (granules addr len).any (fun g => match before g with | some h => lost h.stack | none => false) then
        (e.1, sealEntry { e.2 with w0 := putField e.2.w0 (bits 5 4) 3 })
      else e) }

/-- The layout change after stacks or wings are lost (R225, R487, R488). ks: lost stacks; ws: lost wings. -/
def State.loseMemory (s : State) (ks ws : List Nat) : State :=
  let before := s.home
  let mask := ks.foldl (fun m k => m ||| 2 ^ k) 0 ||| ws.foldl (fun m w => m ||| 2 ^ (12 + w)) 0
  let s' := s.setReg FLT_MEMLOST (s.reg FLT_MEMLOST ||| BitVec.ofNat 64 mask)
  let s' := ks.foldl (fun s k => s.wf (MEM_STK (k / 3) (k % 3)) MEM_STK_STATE 3) s'
  let s' := s'.wf MEM_LAYOUT MEM_LAYOUT_PKG_GIB s'.pkgGib
  let s' := { s' with larders := [] }
  let s' := { s' with pantry := s'.pantry.filter (fun e => !ws.contains (e.1 / 131072)) }
  let s' := s'.losePantry before (fun k => ks.contains k)
  s'.loseRegions (fun n =>
    let pkg := !s'.rgnBit n MEM_RGN_ATTR_INTERLEAVE
    if pkg then !s'.reloadCovers n
    else (List.range 3).any (fun i => s'.stackLost (3 * s'.rf (MEM_RGN_ATTR n) MEM_RGN_ATTR_WING + i)))

/-- The stacks a STACK_LOST or WING_LOST takes with it, and the wings (Table 16-4: two stacks of a wing lost lose it). -/
def lostMembers (code loc : Nat) : List Nat × List Nat :=
  if code = F_STACK_LOST then ([locBits loc 24 21], [])
  else
    let w := locBits loc 24 22
    ([3 * w, 3 * w + 1, 3 * w + 2], [w])

/-! ## Reports -/

/-- Add a repair record (R504, Table 17-6); the Bool is false where the store is full. -/
def State.addRepair (s : State) (kind spare loc bank row word bitNo : Nat) : State × Bool :=
  let n := s.nv.repairs.length
  if 8192 ≤ n then (s, false)
  else
    let r := (packFields [(bits 3 0, 1), (bits 7 4, kind), (bits 11 8, spare), (bits 63 32, loc)],
      packFields [(bits 5 0, bank), (bits 17 6, row), (bits 20 18, word), (bits 27 21, bitNo), (bits 63 32, n)])
    (({ s with nv := { s.nv with repairs := s.nv.repairs ++ [r] } } : State).wf BST_REPAIR BST_REPAIR_RECORDS (n + 1), true)

/-- Record the retirement of a unit; a full store fences it. -/
def State.recordRetired (s : State) (kind loc code : Nat) : State :=
  let r := s.addRepair kind 0 loc 0 0 0 0
  if r.2 then r.1 else r.1.fence loc code

/-- Begin the retirement of a channel (R186 to R188): the record, RETIRE_COUNT, and the regions cut by the band. -/
def State.retireChannel (s : State) (k ch : Nat) : State :=
  let r := s.retireCount
  let old := s.pkgTop
  let s := s.setReg (MEM_RETIRE r) (packFields [(MEM_RETIRE_VALID, 1), (MEM_RETIRE_STATE, 0), (MEM_RETIRE_STACK, k),
    (MEM_RETIRE_CHANNEL, ch)])
  let s := ({ s with nv := { s.nv with retired := s.nv.retired ++ [(k, ch, false)] } } : State).recordRetired 6 (locChannel k ch)
    F_CHANNEL_RETIRE
  let s := s.wf MEM_LAYOUT MEM_LAYOUT_RETIRE_COUNT (r + 1)
  let s := s.wf MEM_LAYOUT MEM_LAYOUT_PKG_GIB s.pkgGib
  let s := s.wf (MEM_STK (k / 3) (k % 3)) MEM_STK_CH_UP
    (s.rf (MEM_STK (k / 3) (k % 3)) MEM_STK_CH_UP &&& (0xFFFFFFFF - 2 ^ ch))
  s.loseRegions (fun n => decide (s.rgnLo n < old) && decide (s.pkgTop < s.rgnHi n) && !s.rgnBit n MEM_RGN_ATTR_INTERLEAVE)

/-- Effect of a fault on the unit it names, before the step fence (Table 16-4). -/
def State.faultUnit (s : State) (code loc det : Nat) : State :=
  let s := if faultSeverity code = 0 ∨ locClass loc = 0 then s else s.fence loc code
  if code = F_TILE_RESIDUE ∨ code = F_TILE_RAIL then
    s.fenceTile (bayOf (locBayIx loc)) (locBits loc 16 12) (if code = F_TILE_RAIL then 4 else det)
  else if code = F_CHANNEL_RETIRE then s.retireChannel (locBits loc 24 21) (locBits loc 20 16)
  else s

/-- Send a record of this package to every package it reaches by a link, and to the bridge (R479). -/
def State.spread (s : State) (ws : List Word) : State :=
  let w0 := ws.getD 0 0
  ({ s with seenRecords := s.seenRecords ++ [(s.pkg, getField w0 (bits 31 16), getField (ws.getD 1 0) (bits 31 0),
      getField (ws.getD 2 0) (bits 47 0))] } : State).sendHearth
    { dst := 0xFFF, kind := 2, tag := 0, origin := 0, ring := 0, body := eventEntry s.pkg 0x0080 0 s.epoch 0 0 ws }

/-- Report a fault: its record, then ERR_PIN, the recovery NMT runs, INT, BLOCK_RESET and PACKAGE_RESET (R471 to R482).
met: bays whose descriptors met the fault. poisoned: a line it concerns is poisoned, so that no replay follows (R183). -/
def State.report (s : State) (code loc det : Nat) (met : List Nat) (injected poisoned : Bool) : State :=
  let mask := s.reg (FLT_REACT code)
  let ts := s.fencedBy code loc met
  let lead := if ts.isEmpty then 0 else s.leadOf code
  let step := match ts with | t :: _ => t.num | [] => 0xFFFFFFFF
  let ws := faultRecord s code loc det injected lead step
  let (s, fresh) := s.recordFault code loc det injected lead step
  let s := s.faultUnit code loc det
  let lost := if losesUnit code then some (s.pkg, loc) else none
  let s := s.fenceSteps { cause := stopCause code, replay := !noReplay code && !poisoned, frame := s.frame,
                          lead := s.leadOf code, lost := lost } ts
  let s := match lost with
    | some (pkg, l) => if ts.isEmpty then
        (match s.planTable.find? (fun p => (s.planHead (s.planDa p)).nbay == 0 &&
            locContains (s.planHead (s.planDa p)).loc l &&
            ((s.planHead (s.planDa p)).lostPkg == 0 || (s.planHead (s.planDa p)).lostPkg == pkg)) with
          | some p => s.forcePlan p
          | none => s) else s
    | none => s
  let s := if code = F_STACK_LOST ∨ code = F_WING_LOST then
      s.loseMemory (lostMembers code loc).1 (lostMembers code loc).2 else s
  let s := if !ts.isEmpty || losesUnit code then s.spread ws else s
  let s := if fresh && wbit mask 0 then s.hostEvent 0x0080 ws else s
  let s := if wbit mask 2 then { s with blockResets := s.blockResets ++ [loc] } else s
  if wbit mask 3 then { s with resetPend := true } else s

/-- Report a fault of a unit. -/
def State.raise (s : State) (code loc det : Nat) : State := s.report code loc det [] false false

/-- Report a fault that a descriptor of a bay met. -/
def State.raiseAt (s : State) (b : BayId) (code loc det : Nat) : State := s.report code loc det [bayIx b] false false

/-- Report the loss of a stack; a second stack of a wing takes the wing with it (Table 16-4, WING_LOST). -/
def State.loseStack (s : State) (k : Nat) : State :=
  let s := s.raise F_STACK_LOST (locStack k) 0
  let w := k / 3
  if 2 ≤ ((List.range 3).filter (fun i => s.stackLost (3 * w + i))).length && !s.wingLost w then
    s.raise F_WING_LOST (locWing w) 0
  else s

/-- Report that a bay is lost (R89, R92, R95, R102). -/
def State.loseBay (s : State) (b : BayId) : State := s.raise F_BAY_LOST (locBay b) 0

/-- After a tile fault, a bay with fewer than 16 tiles in role ACTIVE is lost (R89). -/
def State.tileLost (s : State) (b : BayId) : State :=
  if s.activeTiles b < 16 ∧ !s.isFenced (locBay b) then s.loseBay b else s

end Sys2Proof.Machine
end

