-- ==== Sys2Proof/Machine/Sequencer.lean ====
section
/-!
DEFINITION. Sys2Proof/Machine/Sequencer.lean: the descriptor sequencer of a bay (chapter 4): fetch, the checks at dispatch,
unit queues, starts and completions, events, control descriptors and stalls.
-/

set_option Elab.async false

namespace Sys2Proof.Machine

/-! ## Fields of a descriptor (Tables 4-1, 4-4 to 4-9) -/

/-- Bits [hi:lo] of word w. -/
def dfield (d : Desc) (w hi lo : Nat) : Nat := getField (d.getD w 0) (bits hi lo)

def dtype (d : Desc) : Nat := dfield d 0 11 4
def dRmode (d : Desc) : RMode := (rmodeOfCode (dfield d 0 13 12)).getD .rne
def dSat (d : Desc) : Bool := dfield d 0 14 14 == 1
def dStart (d : Desc) : Nat := dfield d 0 63 16
def dFit (d : Desc) : Nat := dfield d 1 63 48
def dId (d : Desc) : Nat := dfield d 1 47 32

/-- Types to which frame fit applies (Table 4-2). -/
def fitApplies (t : Nat) : Bool :=
  [0x01, 0x02, 0x03, 0x10, 0x11, 0x20, 0x21, 0x22, 0x23, 0x24, 0x30].contains t

/-- Control types (Table 4-2, executed by the sequencer). -/
def isControl (t : Nat) : Bool := [0x00, 0x40, 0x41, 0x42, 0x43].contains t

/-- The unit of a type. -/
def unitOf (t : Nat) : UnitKind :=
  if t = 0x01 ∨ t = 0x02 ∨ t = 0x03 then .matrix
  else if t = 0x10 ∨ t = 0x11 then .vector
  else if t = 0x30 ∨ t = 0x31 then .exchange
  else .data

/-! ## Checks (R150) -/

/-- A range of bay SRAM that does not lie below 16 MiB. -/
def rangeBad (a n : Nat) : Bool := decide (2 ^ 24 < a + n)

/-- An address that is not 64-byte aligned. -/
def misaligned (a : Nat) : Bool := a % 64 != 0

/-- Operand formats that form a pair (R47). -/
def pairOk (a b : Fmt) : Bool :=
  if a.scaled then b.scaled && (a == .int8) == (b == .int8) else a == b

def cdiv (a b : Nat) : Nat := (a + b - 1) / b

/-- Bytes of one stored row of k positions: dense, or 2:4 (R81). -/
def rowBytes (f : Fmt) (k : Nat) (sp24 : Bool) : Nat := arrayBytes f (if sp24 then 2 * cdiv k 4 else k)

/-- The fields of a MATMUL (Table 4-5). -/
structure MatmulD where
  a : Nat
  b : Nat
  c : Nat
  aScl : Nat
  bScl : Nat
  bMeta : Nat
  bMask : Nat
  lda : Nat
  ldb : Nat
  ldc : Nat
  m : Nat
  n : Nat
  k : Nat
  fa : Option Fmt
  fb : Option Fmt
  out : Option Fmt
  blk : Bool
  acc : Bool
  sp24 : Bool
  bsparse : Bool
  deriving DecidableEq, Repr

def matmulOf (d : Desc) : MatmulD :=
  { a := dfield d 2 23 0, b := dfield d 2 47 24, lda := dfield d 2 63 48 * 64,
    c := dfield d 3 23 0, aScl := dfield d 3 47 24, ldb := dfield d 3 63 48 * 64,
    bScl := dfield d 4 23 0, bMeta := dfield d 4 47 24, ldc := dfield d 4 63 48 * 64,
    bMask := dfield d 5 23 0, m := dfield d 5 35 24 + 1, n := dfield d 5 47 36 + 1,
    k := dfield d 6 23 0, fa := fmtOfCode (dfield d 6 27 24), fb := fmtOfCode (dfield d 6 31 28),
    out := bufFmt (dfield d 6 33 32), blk := dfield d 6 34 34 == 1, acc := dfield d 6 35 35 == 1,
    sp24 := dfield d 6 36 36 == 1, bsparse := dfield d 6 37 37 == 1 }

/-- MATMUL breaks a limit known at dispatch (R131 to R134, R83). -/
def matmulBad (d : Desc) : Bool :=
  let x := matmulOf d
  match x.fa, x.fb, x.out with
  | some fa, some fb, some out =>
    let nb := blockSize x.blk
    !pairOk fa fb || x.k == 0 || (x.sp24 && fb == .fp32) || (x.bsparse && x.k % 64 != 0) ||
    misaligned x.a || misaligned x.b || misaligned x.c ||
    rangeBad x.a ((x.m - 1) * x.lda + rowBytes fa x.k false) ||
    rangeBad x.c ((x.m - 1) * x.ldc + x.n * (out.bits / 8)) ||
    (!x.bsparse && rangeBad x.b ((x.n - 1) * x.ldb + rowBytes fb x.k x.sp24)) ||
    (fa.scaled && (misaligned x.aScl || rangeBad x.aScl (x.m * cdiv x.k nb))) ||
    (fb.scaled && (misaligned x.bScl || (!x.bsparse && rangeBad x.bScl (x.n * cdiv x.k nb)))) ||
    (x.sp24 && (misaligned x.bMeta || (!x.bsparse && rangeBad x.bMeta (x.n * cdiv x.k 8)))) ||
    (x.bsparse && (misaligned x.bMask || rangeBad x.bMask (cdiv (cdiv x.k 64 * cdiv x.n 64) 8)))
  | _, _, _ => true

/-- The fields of an ATTN_BLOCK (Table 4-6). -/
structure AttnD where
  q : Nat
  k : Nat
  v : Nat
  o : Nat
  st : Nat
  qScl : Nat
  kScl : Nat
  vScl : Nat
  lq : Nat
  lk : Nat
  dim : Nat
  fq : Option Fmt
  fk : Option Fmt
  fv : Option Fmt
  blk : Bool
  causal : Bool
  init : Bool
  final : Bool
  out : Option Fmt
  scale : W32
  ofs : Int
  deriving DecidableEq, Repr

def attnOf (d : Desc) : AttnD :=
  { q := dfield d 2 23 0, k := dfield d 2 47 24, v := dfield d 3 23 0, o := dfield d 3 47 24,
    st := dfield d 4 23 0, qScl := dfield d 4 47 24, kScl := dfield d 5 23 0, vScl := dfield d 5 47 24,
    lq := dfield d 6 7 0 + 1, lk := dfield d 6 19 8 + 1, dim := 64 * 2 ^ dfield d 6 21 20,
    fq := fmtOfCode (dfield d 6 25 22), fk := fmtOfCode (dfield d 6 29 26), fv := fmtOfCode (dfield d 6 33 30),
    blk := dfield d 6 34 34 == 1, causal := dfield d 6 36 35 == 1, init := dfield d 6 37 37 == 1,
    final := dfield d 6 38 38 == 1, out := bufFmt (dfield d 6 40 39), scale := BitVec.ofNat 32 (dfield d 7 31 0),
    ofs := getSigned (d.getD 7 0) (bits 55 32) }

/-- The format P takes before it multiplies V (R136). -/
def attnPFmt (v : Fmt) : Fmt := if v.scaled then .e4m3 else v

def attnBad (d : Desc) : Bool :=
  let x := attnOf d
  match x.fq, x.fk, x.fv, x.out with
  | some q, some k, some v, some _ =>
    let n := blockSize x.blk
    dfield d 6 21 20 == 3 || decide (2 ≤ dfield d 6 36 35) || v == .int8 || !pairOk q k || !pairOk (attnPFmt v) v ||
    misaligned x.q || misaligned x.k || misaligned x.v || misaligned x.o || misaligned x.st ||
    rangeBad x.q (x.lq * arrayBytes q x.dim) || rangeBad x.k (x.lk * arrayBytes k x.dim) ||
    rangeBad x.v (x.lk * arrayBytes v x.dim) || rangeBad x.o (x.lq * x.dim * 4) || rangeBad x.st (x.lq * 8) ||
    (q.scaled && (misaligned x.qScl || rangeBad x.qScl (x.lq * (x.dim / n)))) ||
    (k.scaled && (misaligned x.kScl || rangeBad x.kScl (x.lk * (x.dim / n)))) ||
    (v.scaled && (misaligned x.vScl || rangeBad x.vScl (cdiv x.lk n * x.dim)))
  | _, _, _, _ => true

/-- The fields of a CONV (Table 4-7). -/
structure ConvD where
  inA : Nat
  wt : Nat
  outA : Nat
  inScl : Nat
  wtScl : Nat
  h : Nat
  iw : Nat
  cin : Nat
  cout : Nat
  kh : Nat
  kw : Nat
  stride : Nat
  pad : Nat
  dil : Nat
  fin : Option Fmt
  fwt : Option Fmt
  out : Option Fmt
  blk : Bool
  acc : Bool
  sp24 : Bool
  deriving DecidableEq, Repr

def convOf (d : Desc) : ConvD :=
  { inA := dfield d 2 23 0, wt := dfield d 2 47 24, outA := dfield d 3 23 0, inScl := dfield d 3 47 24,
    wtScl := dfield d 4 23 0, h := dfield d 4 35 24 + 1, iw := dfield d 4 47 36 + 1,
    cin := dfield d 5 11 0 + 1, cout := dfield d 5 23 12 + 1, kh := dfield d 5 27 24 + 1, kw := dfield d 5 31 28 + 1,
    stride := dfield d 5 33 32 + 1, pad := dfield d 5 36 34, dil := dfield d 5 38 37 + 1,
    fin := fmtOfCode (dfield d 5 42 39), fwt := fmtOfCode (dfield d 5 46 43), out := bufFmt (dfield d 5 48 47),
    blk := dfield d 5 49 49 == 1, acc := dfield d 5 50 50 == 1, sp24 := dfield d 5 51 51 == 1 }

/-- The output height or width of a CONV, as an integer (R137). -/
def convOut (x pad dil k stride : Nat) : Int := ((x : Int) + 2 * pad - dil * (k - 1) - 1) / stride + 1

def ConvD.oh (x : ConvD) : Int := convOut x.h x.pad x.dil x.kh x.stride
def ConvD.ow (x : ConvD) : Int := convOut x.iw x.pad x.dil x.kw x.stride

def convBad (d : Desc) : Bool :=
  let x := convOf d
  match x.fin, x.fwt, x.out with
  | some fi, some fw, some out =>
    let n := blockSize x.blk
    let kk := x.kh * x.kw * x.cin
    !pairOk fi fw || (x.sp24 && fw == .fp32) || (fi.scaled && x.cin % n != 0) ||
    decide (x.oh < 1) || decide (x.ow < 1) ||
    misaligned x.inA || misaligned x.wt || misaligned x.outA ||
    rangeBad x.inA (x.h * arrayBytes fi (x.iw * x.cin)) || rangeBad x.wt (x.cout * rowBytes fw kk x.sp24) ||
    rangeBad x.outA ((x.oh * x.ow).toNat * x.cout * (out.bits / 8)) ||
    (fi.scaled && (misaligned x.inScl || misaligned x.wtScl || rangeBad x.inScl (x.h * x.iw * x.cin / n) ||
      rangeBad x.wtScl (x.cout * cdiv kk n)))
  | _, _, _ => true

/-- The fields of a VEC (Table 4-8). -/
structure VecD where
  a : Nat
  b : Nat
  c : Nat
  dst : Nat
  op : Nat
  fa : Option Fmt
  fb : Option Fmt
  fd : Option Fmt
  scalar : Bool
  count : Nat
  param : W32
  deriving DecidableEq, Repr

def vecOf (d : Desc) : VecD :=
  { a := dfield d 2 23 0, b := dfield d 2 47 24, op := dfield d 2 53 48, fa := bufFmt (dfield d 2 55 54),
    fb := bufFmt (dfield d 2 57 56), fd := bufFmt (dfield d 2 59 58), scalar := dfield d 2 60 60 == 1,
    c := dfield d 3 23 0, dst := dfield d 3 47 24, count := dfield d 4 23 0, param := BitVec.ofNat 32 (dfield d 4 63 32) }

def vecBad (d : Desc) : Bool :=
  let x := vecOf d
  match x.fa, x.fb, x.fd with
  | some fa, some fb, some fd =>
    !microVec x.op || rangeBad x.a (arrayBytes fa x.count) || rangeBad x.dst (arrayBytes fd x.count) ||
    (microUsesB x.op && !x.scalar && rangeBad x.b (arrayBytes fb x.count)) ||
    (microUsesC x.op && rangeBad x.c (arrayBytes fb x.count))
  | _, _, _ => true

/-- The buffer pointers and their format codes of a VEC_MICRO. -/
def microPtrs (d : Desc) : List Nat :=
  [dfield d 3 23 0, dfield d 3 47 24, dfield d 4 23 0, dfield d 4 47 24, dfield d 5 23 0, dfield d 5 47 24]
def microPfmt (d : Desc) : List Nat := (List.range 6).map (fun i => dfield d 2 (25 + 2 * i) (24 + 2 * i))
def microParams (d : Desc) : List W32 :=
  [BitVec.ofNat 32 (dfield d 6 31 0), BitVec.ofNat 32 (dfield d 6 63 32), BitVec.ofNat 32 (dfield d 7 31 0),
   BitVec.ofNat 32 (dfield d 7 63 32)]

def vecMicroBad (d : Desc) : Bool := (microPfmt d).any (fun f => f == 3)

/-- The fields of a CONVERT (Table 4-8). -/
structure ConvertD where
  src : Nat
  dst : Nat
  fs : Option Fmt
  fd : Option Fmt
  sblk : Bool
  dblk : Bool
  sscl : Nat
  dscl : Nat
  count : Nat
  deriving DecidableEq, Repr

def convertOf (d : Desc) : ConvertD :=
  { src := dfield d 2 23 0, dst := dfield d 2 47 24, fs := fmtOfCode (dfield d 2 51 48), fd := fmtOfCode (dfield d 2 55 52),
    sblk := dfield d 2 56 56 == 1, dblk := dfield d 2 57 57 == 1, sscl := dfield d 3 23 0, dscl := dfield d 3 47 24,
    count := dfield d 4 23 0 }

def convertBad (d : Desc) : Bool :=
  let x := convertOf d
  match x.fs, x.fd with
  | some fs, some fd =>
    rangeBad x.src (arrayBytes fs x.count) || rangeBad x.dst (arrayBytes fd x.count) ||
    (fs.scaled && rangeBad x.sscl (cdiv x.count (blockSize x.sblk))) ||
    (fd.scaled && rangeBad x.dscl (cdiv x.count (blockSize x.dblk)))
  | _, _ => true

/-- The fields of a REDUCE (Table 4-8). -/
structure ReduceD where
  srcs : List Nat
  dst : Nat
  op : Nat
  fs : Option Fmt
  fd : Option Fmt
  count : Nat
  deriving DecidableEq, Repr

def reduceOf (d : Desc) : ReduceD :=
  { srcs := [dfield d 2 23 0, dfield d 2 47 24, dfield d 3 23 0, dfield d 3 47 24].take (dfield d 4 25 24 + 1),
    dst := dfield d 4 23 0, op := dfield d 4 27 26, fs := bufFmt (dfield d 4 29 28), fd := bufFmt (dfield d 4 31 30),
    count := dfield d 4 55 32 }

def reduceBad (d : Desc) : Bool :=
  let x := reduceOf d
  match x.fs, x.fd with
  | some fs, some fd =>
    x.op == 3 || rangeBad x.dst (arrayBytes fd x.count) || x.srcs.any (fun a => rangeBad a (arrayBytes fs x.count))
  | _, _ => true

/-- The fields of a LOAD or STORE (Table 4-8). -/
structure MoveD where
  da : Nat
  rows : Nat
  sram : Nat
  rowBytes : Nat
  daPitch : Nat
  sramPitch : Nat
  memFmt : Nat
  sramFmt : Nat
  jrnl : Bool
  uprog : Bool
  slot : Nat
  deriving DecidableEq, Repr

def moveOf (d : Desc) : MoveD :=
  { da := dfield d 2 47 0, rows := dfield d 2 63 48 + 1, sram := dfield d 3 23 0, rowBytes := dfield d 3 47 24,
    daPitch := dfield d 4 39 0, sramPitch := dfield d 4 63 40, memFmt := dfield d 5 1 0, sramFmt := dfield d 5 3 2,
    jrnl := dfield d 5 4 4 == 1, uprog := dfield d 5 5 5 == 1, slot := dfield d 5 9 6 }

/-- The formats of a converting LOAD or STORE; none: it moves raw bytes (R141). -/
def MoveD.conv (x : MoveD) : Option (Fmt × Fmt) :=
  if x.memFmt = x.sramFmt then none
  else match bufFmt x.memFmt, bufFmt x.sramFmt with
    | some m, some s => some (m, s)
    | _, _ => none

/-- SRAM-side bytes per row. -/
def MoveD.sramRow (x : MoveD) : Nat :=
  match x.conv with
  | some (m, s) => x.rowBytes / (m.bits / 8) * (s.bits / 8)
  | none => x.rowBytes

def moveBad (load : Bool) (d : Desc) : Bool :=
  let x := moveOf d
  if load && x.uprog then
    misaligned x.da || x.rowBytes % 64 != 0 || x.rows != 1 || decide (256 < x.rowBytes) || x.daPitch % 64 != 0
  else
    misaligned x.da || x.rowBytes % 64 != 0 || x.daPitch % 64 != 0 || x.sramPitch % 64 != 0 ||
    ((x.memFmt == 3) != (x.sramFmt == 3)) ||
    (x.conv.isSome && (x.sramRow % 64 != 0 || dfield d 0 13 12 == 3)) ||
    rangeBad x.sram ((x.rows - 1) * x.sramPitch + x.sramRow)

/-- The fields of a SELECT (Table 4-8). -/
structure SelectD where
  bitmap : Nat
  table : Nat
  ncand : Nat
  dst : Nat
  countOut : Nat
  maxSel : Nat
  blkBytes : Nat
  all : Bool
  deriving DecidableEq, Repr

def selectOf (d : Desc) : SelectD :=
  { bitmap := dfield d 2 23 0, table := dfield d 2 47 24, ncand := dfield d 2 63 48 + 1, dst := dfield d 3 23 0,
    countOut := dfield d 3 47 24, maxSel := dfield d 3 63 48, blkBytes := dfield d 4 23 0, all := dfield d 4 24 24 == 1 }

/-- The most blocks a SELECT can copy. -/
def SelectD.limit (x : SelectD) : Nat := if x.maxSel = 0 then x.ncand else min x.ncand x.maxSel

def selectBad (d : Desc) : Bool :=
  let x := selectOf d
  x.blkBytes % 64 != 0 || rangeBad x.table (8 * x.ncand) || (!x.all && rangeBad x.bitmap (cdiv x.ncand 8)) ||
  rangeBad x.dst (x.limit * x.blkBytes) || rangeBad x.countOut (4 + 2 * x.limit)

/-- The fields of a SEND or RECV (Table 4-9). -/
structure XchgD where
  addr : Nat
  len : Nat
  link : Nat
  vc : Nat
  flow : Nat
  die : Nat
  bay : Nat
  rsig : Option Nat
  deriving DecidableEq, Repr

def xchgOf (d : Desc) : XchgD :=
  { addr := dfield d 2 23 0, len := dfield d 2 47 24, link := dfield d 2 55 48, vc := dfield d 2 58 56,
    flow := dfield d 3 15 0, die := dfield d 3 19 16, bay := dfield d 3 23 20,
    rsig := if dfield d 3 24 24 = 1 then some (dfield d 3 29 25) else none }

/-- A link ID that names a link which is configured: its EN is 1 and no other link owns its pair (R23, R144). -/
def State.linkOwner (s : State) (l : Nat) : Nat :=
  if l < 128 then
    ((List.range (l % 16 + 1)).find? (fun p =>
      let h := l / 16 * 16 + p
      decide (h < l) && s.rf (DRL_CFG h) DRL_CFG_EN == 1 &&
        decide (l ≤ h + s.rf (DRL_CFG h) DRL_CFG_PAIRS_M1))).map (fun p => l / 16 * 16 + p) |>.getD l
  else l

def State.linkNamed (s : State) (l : Nat) : Bool :=
  decide (l < 136) && s.rf (DRL_CFG l) DRL_CFG_EN == 1 && s.linkOwner l == l

def State.xchgBad (s : State) (send : Bool) (d : Desc) : Bool :=
  let x := xchgOf d
  x.len == 0 || x.len % 32 != 0 || rangeBad x.addr x.len ||
  (send && (decide (12 ≤ x.die) || decide (12 ≤ x.bay))) ||
  (x.link != 255 && (!s.linkNamed x.link || (send && decide (s.rf (DRL_CFG x.link) DRL_CFG_NVC_M1 < x.vc))))

/-- Core cycles a frame holds (R99, R116). -/
def State.frameCycles (s : State) : Nat := if s.fuse.grade = 2 then 14745 else 16384

/-- Types whose RMODE is checked whatever their settings (R62, R111). -/
def roundsAlways (t : Nat) : Bool := [0x01, 0x02, 0x03, 0x10, 0x11, 0x20, 0x21].contains t

/-- The checks at dispatch (R150). -/
def State.malformed (s : State) (d : Desc) : Bool :=
  let t := dtype d
  dfield d 0 3 0 != 1 ||
  (roundsAlways t && dfield d 0 13 12 == 3) ||
  (fitApplies t && decide (s.frameCycles < dFit d)) ||
  match t with
  | 0x00 | 0x41 | 0x42 | 0x43 => false
  | 0x40 => dfield d 2 13 13 == 0 && (decide (12 ≤ dfield d 2 3 0) || decide (12 ≤ dfield d 2 7 4))
  | 0x01 => matmulBad d
  | 0x02 => attnBad d
  | 0x03 => convBad d
  | 0x10 => vecBad d
  | 0x11 => vecMicroBad d
  | 0x20 => convertBad d
  | 0x21 => reduceBad d
  | 0x22 => moveBad true d
  | 0x23 => moveBad false d
  | 0x24 => selectBad d
  | 0x30 => s.xchgBad true d
  | 0x31 => s.xchgBad false d
  | _ => true

/-! ## Events (R122 to R124) -/

def evtField (e : Nat) : Field := { lo := 16 * (e % 4), width := 16 }

def State.evt (s : State) (b : BayId) (e : Nat) : Nat := s.rf (BAY_SEQ_EVT b (e / 4)) (evtField e)

/-- Increment event e, modulo 2^16. -/
def State.bumpEvt (s : State) (b : BayId) (e n : Nat) : State := s.addf (BAY_SEQ_EVT b (e / 4)) (evtField e) n

/-- E reaches V (R123). -/
def State.reaches (s : State) (b : BayId) (e v : Nat) : Bool := decide ((s.evt b e + 65536 - v % 65536) % 65536 < 32768)

/-- The header wait is met. -/
def State.waitMet (s : State) (b : BayId) (d : Desc) : Bool :=
  dfield d 1 5 5 == 0 || s.reaches b (dfield d 1 10 6) (dfield d 1 31 16)

/-- The start frame of a descriptor has begun (R112). -/
def State.startBegun (s : State) (b : BayId) (d : Desc) : Bool :=
  dStart d == 0xFFFFFFFFFFFF || frameReached s.frame (frameAdd (s.rf (BAY_SEQ_BASE b) BAY_SEQ_BASE_BASE_FRAME) (dStart d))

/-- Zero every event of a bay. -/
def State.clearEvts (s : State) (b : BayId) : State := (List.range 8).foldl (fun s k => s.setReg (BAY_SEQ_EVT b k) 0) s

def State.seqState (s : State) (b : BayId) : Nat := s.rf (BAY_SEQ_STATUS b) BAY_SEQ_STATUS_STATE

/-- The sequencer fetches and dispatches. -/
def State.seqRuns (s : State) (b : BayId) : Bool :=
  s.seqState b == seqRunning && s.rf (BAY_SEQ_CTRL b) BAY_SEQ_CTRL_RUN == 1 && !(s.bay b).stepEnded

/-! ## Stops -/

/-- A malformed descriptor: record, STOPPED, DESC_MALFORMED, and the step aborted without replay (R150). -/
def State.malformedStop (s : State) (b : BayId) (idx : Nat) (d : Desc) : State :=
  let s := s.completionRecord b d 2 0 0 0 s.frame
  let s := s.raiseAt b F_DESC_MALFORMED (locBay b) idx
  let s := if s.seqState b = seqRunning then s.stopBay b seqStopped 1 else s
  s.wf (BAY_SEQ_STOPIDX b) BAY_SEQ_STOPIDX_INDEX idx

/-- The running descriptor of a unit. -/
def Bay.running (x : Bay) : UnitKind → Option Running
  | .matrix => x.rMat | .vector => x.rVec | .data => x.rData | .exchange => x.rXchg

def Bay.setRunning (x : Bay) (u : UnitKind) (r : Option Running) : Bay :=
  match u with
  | .matrix => { x with rMat := r }
  | .vector => { x with rVec := r }
  | .data => { x with rData := r }
  | .exchange => { x with rXchg := r }

def Bay.queue (x : Bay) : UnitKind → List Queued
  | .matrix => x.qMat | .vector => x.qVec | .data => x.qData | .exchange => x.qXchg

def Bay.setQueue (x : Bay) (u : UnitKind) (q : List Queued) : Bay :=
  match u with
  | .matrix => { x with qMat := q }
  | .vector => { x with qVec := q }
  | .data => { x with qData := q }
  | .exchange => { x with qXchg := q }

/-- A fault that stops the descriptor a unit runs: status FAULT, the report, and the bay stopped even where no step fence
covers it (R152). -/
def State.unitFault (s : State) (b : BayId) (u : UnitKind) (code loc det : Nat) (poisoned : Bool) : State :=
  let x := s.bay b
  let s := s.setBay b (x.setRunning u ((x.running u).map (fun r => { r with status := 5 })))
  let s := s.report code loc det [bayIx b] false poisoned
  if s.seqState b = seqRunning then s.stopBay b seqStopped (stopCause code) else s

/-- Retire an SRAM row to a spare row of its bank, a word that does not read becoming zero; no spare row left, or a full repair
store: the bay is lost (R95, R102, R504). -/
def State.retireRow (s : State) (b : BayId) (bank row word bitNo : Nat) (lost : Bool) : State :=
  let x := s.bay b
  let used := (x.remaps.filter (fun r => r.1 == bank)).length
  let r := s.addRepair 1 used (locBank b bank) bank row word bitNo
  if 16 ≤ used ∨ r.2 = false then s.loseBay b
  else
    let s := r.1.setBay b { x with remaps := x.remaps ++ [(bank, row)] }
    if lost then s.sramWrite b (4096 * row + bank * 64 + word * 8) (List.replicate 8 0) else s

/-- Record an SRAM error in BAY_ECC (R95, Table 3-11). -/
def State.sramEcc (s : State) (b : BayId) (e : SramErr) : State :=
  let s := match e.bit with
    | some _ => s.satf (BAY_ECC b) BAY_ECC_CE_COUNT 1
    | none => s.satf (BAY_ECC b) BAY_ECC_UE_COUNT 1
  s.wfs (BAY_ECC b) [(BAY_ECC_LAST_UE, if e.bit.isNone then 1 else 0), (BAY_ECC_LAST_VALID, 1), (BAY_ECC_BANK, e.bank.val),
    (BAY_ECC_ROW, e.row.val), (BAY_ECC_WORD, e.word.val), (BAY_ECC_BIT, match e.bit with | some k => k.val | none => 0x7F)]

/-- Errors a descriptor's SRAM reads meet; the Option is the first uncorrectable one. -/
def State.sramErrs (s : State) (b : BayId) (es : List SramErr) : State × Option SramErr :=
  let upTo := (es.takeWhile (fun e => e.bit.isSome))
  let bad := es.find? (fun e => e.bit.isNone)
  let s := upTo.foldl (fun s e => s.sramEcc b e) s
  match bad with
  | some e => (s.sramEcc b e, some e)
  | none => (s, none)

/-- An uncorrectable SRAM error: the descriptor stops, the row is retired during the fence, the step is replayed (R95). -/
def State.sramUe (s : State) (b : BayId) (u : UnitKind) (e : SramErr) : State :=
  let s := s.unitFault b u F_SRAM_UE (locBay b) 0 false
  s.retireRow b e.bank.val e.row.val e.word.val 0x7F true

/-! ## Starts (R106, R107) -/

/-- The head of a unit's queue, where it can start: the start frame has begun, the wait is met, the unit is free. -/
def State.headReady (s : State) (b : BayId) (u : UnitKind) (t : Nat) : Option Queued :=
  let x := s.bay b
  if s.seqState b ≠ seqRunning then none
  else match x.queue u with
    | [] => none
    | q :: _ =>
      if dtype q.d = t ∧ (x.running u).isNone ∧ s.startBegun b q.d ∧ s.waitMet b q.d then some q else none

/-- A descriptor that starts now. -/
def newRun (s : State) (q : Queued) : Running :=
  { idx := q.idx, d := q.d, startFrame := s.frame, flags := 0, slip := q.slip, late := false, status := 0, waiting := 0,
    launched := false }

/-- Start the head of a unit's queue. -/
def State.startHead (s : State) (b : BayId) (u : UnitKind) (q : Queued) : State :=
  let x := s.bay b
  s.setBay b { (x.setQueue u ((x.queue u).drop 1)).setRunning u (some (newRun s q)) with stall := 0, progress := true }

/-- Set the flags of a running descriptor. -/
def State.runFlags (s : State) (b : BayId) (u : UnitKind) (fl : BitVec 8) : State :=
  let x := s.bay b
  s.setBay b (x.setRunning u ((x.running u).map (fun r => { r with flags := r.flags ||| fl })))

/-! ## Completion (R113, R118, R124, R149) -/

/-- Status a descriptor completes with. -/
def Running.done (r : Running) : Nat := if r.status ≠ 0 then r.status else if r.late then 1 else 0

/-- Complete a descriptor: DONE_EVT where SIG_EN is 1 and it is DONE or DONE_LATE, and its record. -/
def State.complete (s : State) (b : BayId) (r : Running) (cycles : Nat) : State :=
  let s := if dfield r.d 0 15 15 = 1 ∧ r.done ≤ 1 then s.bumpEvt b (dfield r.d 1 4 0) 1 else s
  let s := s.completionRecord b r.d r.done r.flags cycles r.slip r.startFrame
  s.setBay b { s.bay b with stall := 0, progress := true }

/-- Every earlier descriptor of the bay has completed: queues, units and posted RECVs are empty (R128). -/
def Bay.drained (x : Bay) : Bool :=
  x.qMat.isEmpty && x.qVec.isEmpty && x.qData.isEmpty && x.qXchg.isEmpty && x.rMat.isNone && x.rVec.isNone &&
  x.rData.isNone && x.rXchg.isNone && x.acking.isEmpty && x.recvs.isEmpty

/-- WAIT_EVENT's condition (R127). -/
def State.waitEventMet (s : State) (b : BayId) (d : Desc) : Bool :=
  let entry := fun (w lo : Nat) => (dfield d w (lo + 4) lo, dfield d w (lo + 5) (lo + 5), dfield d w (lo + 21) (lo + 6))
  let es := [entry 2 0, entry 2 22, entry 3 0, entry 3 22].filter (fun e => e.2.1 == 1)
  let met := fun (e : Nat × Nat × Nat) => s.reaches b e.1 e.2.2
  es.isEmpty || (if dfield d 4 0 0 = 1 then es.any met else es.all met)

/-- Whether a waiting control descriptor can complete (R127 to R129). An Annex STORE is written at the peer once no request
of the bay is unanswered. -/
def State.controlMet (s : State) (b : BayId) (d : Desc) : Bool :=
  match dtype d with
  | 0x41 => s.waitEventMet b d
  | 0x42 => (s.bay b).drained && (dfield d 2 0 0 == 0 || !s.annexReqs.any (fun r => r.bay == bayIx b && r.write))
  | 0x43 => s.startBegun b d && (dfield d 2 16 16 == 0 || (s.bay b).drained)
  | _ => true

/-- What a control descriptor does as it completes. -/
def State.controlEffect (s : State) (b : BayId) (d : Desc) : State :=
  if dtype d = 0x43 then
    let s := if dfield d 2 17 17 = 1 then
        s.hostEvent 0x0020 [packFields [(bits 3 0, b.die.val), (bits 7 4, b.bay.val), (bits 31 16, dfield d 2 15 0)],
          packFields [(bits 47 0, s.frame)]] else s
    if dfield d 2 16 16 = 1 then
      (s.wf (BAY_SEQ_STATUS b) BAY_SEQ_STATUS_STATE seqStepDone).setBay b { s.bay b with stepEnded := true }
    else s
  else if dtype d = 0x40 then
    let t := if dfield d 2 13 13 = 1 then b
      else bayOf (dfield d 2 3 0 * 12 + dfield d 2 7 4)
    if s.isFenced (locBay t) ∨ s.rf (BAY_STATUS t) BAY_STATUS_POWER ≠ 2 then s.note F_SIGNAL_DROPPED (locBay t) 0
    else s.bumpEvt t (dfield d 2 12 8) (dfield d 2 31 16)
  else s

/-- Complete the waiting control descriptor where its condition holds. Its cycles are open. -/
def State.settleControl (s : State) (b : BayId) : State :=
  match (s.bay b).control with
  | none => s
  | some r =>
    if s.controlMet b r.d then
      let s := s.setBay b { s.bay b with control := none, ctlFrames := 0 }
      let s := s.controlEffect b r.d
      let (w, s) := s.draw
      s.complete b r (w.toNat % 2 ^ 16)
    else s

/-- Dispatch the control descriptor at the front, once its start frame has begun and its wait is met (R125). -/
def State.dispatchControl (s : State) (b : BayId) (idx : Nat) (d : Desc) : State :=
  if s.startBegun b d ∧ s.waitMet b d then
    let x := s.bay b
    let s := s.wf (BAY_SEQ_POS b) BAY_SEQ_POS_INDEX (idx + 1)
    let s := s.setBay b { x with
      prefetch := x.prefetch.drop 1, control := some (newRun s { idx := idx, d := d, slip := 0 }), ctlFrames := 0,
      progress := true }
    s.settleControl b
  else s

/-- LOADs of a microprogram wait for earlier VEC_MICROs of their slot (R148). -/
def Bay.slotBusy (x : Bay) (slot : Nat) : Bool :=
  let names := fun (d : Desc) => dtype d == 0x11 && dfield d 2 3 0 == slot
  x.qVec.any (fun q => names q.d) || (match x.rVec with | some r => names r.d | none => false)

/-- A microprogram LOAD of the slot, dispatched before stream index idx, that has not completed. -/
def Bay.slotLoading (x : Bay) (slot idx : Nat) : Bool :=
  let names := fun (d : Desc) (i : Nat) => dtype d == 0x22 && (moveOf d).uprog && (moveOf d).slot == slot && decide (i < idx)
  x.qData.any (fun q => names q.d q.idx) || (match x.rData with | some r => names r.d r.idx | none => false)

/-- Dispatch the front descriptor into its unit's queue, or hold (R106, R107, R148). -/
def State.dispatchUnit (s : State) (b : BayId) (idx : Nat) (d : Desc) : State :=
  let x := s.bay b
  let q : Queued := { idx := idx, d := d, slip := 0 }
  let attn := dtype d == 2
  let u := unitOf (dtype d)
  let full := decide (16 ≤ (x.queue u).length) || (attn && decide (16 ≤ x.qVec.length))
  let held := dtype d == 0x22 && (moveOf d).uprog && x.slotBusy (moveOf d).slot
  if full || held then s
  else
    let x := { x with prefetch := x.prefetch.drop 1 }
    let x := x.setQueue u (x.queue u ++ [q])
    let x := if attn then { x with qVec := x.qVec ++ [q] } else x
    (s.wf (BAY_SEQ_POS b) BAY_SEQ_POS_INDEX (idx + 1)).setBay b x

/-- Dispatch the front descriptor of a bay (R106, R125, R150). A malformed one of a reserved type or version stops once
every descriptor before it has been dispatched, which holds here since dispatch is in order. -/
def State.dispatchFront (s : State) (b : BayId) : State :=
  let x := s.bay b
  if !s.seqRuns b || x.control.isSome then s
  else match x.prefetch with
    | [] => s
    | (idx, d) :: _ =>
      if s.malformed d then s.malformedStop b idx d
      else if isControl (dtype d) then s.dispatchControl b idx d
      else s.dispatchUnit b idx d

/-- A control row acts when a descriptor of its type is at the front, or is the one that waits. -/
def State.controlRow (s : State) (b : BayId) (t : Nat) : State :=
  match (s.bay b).control with
  | some r => if dtype r.d = t ∧ s.seqState b = seqRunning then s.settleControl b else s
  | none =>
    match (s.bay b).prefetch with
    | (_, d) :: _ => if dtype d = t then s.dispatchFront b else s
    | [] => s

/-! ## The commands -/

abbrev Out := Host.Outcome State Fault Refusal

/-- SEQUENCER_RUN: BAY_SEQ_CTRL.RUN set; the sequencer runs its stream from BAY_SEQ_POS.INDEX (R104, R158). -/
def State.runSequencer (s : State) (src : Writer) (b : BayId) : State :=
  let ours := match src with | .hearth e => decide (s.epoch ≤ e) | _ => false
  if !ours || s.rf (BAY_STATUS b) BAY_STATUS_POWER ≠ 2 then s
  else
    let s := s.wf (BAY_SEQ_CTRL b) BAY_SEQ_CTRL_RUN 1
    let s := s.setBay b { s.bay b with discard := false }
    s.wf (BAY_SEQ_STATUS b) BAY_SEQ_STATUS_STATE seqRunning

def execSequencerRun (src : Writer) (b : BayId) (s : State) : Out := .next (s.runSequencer src b)

/-- An uncorrectable fetch: STOPPED with LAST_STOP 8, then as every uncorrectable read (R104, R183). -/
def State.fetchError (s : State) (b : BayId) (a : Nat) (ue : Bool) : State :=
  let s := s.report F_MEM_UE (match s.home a with | some h => locPseudo h.stack h.channel h.pc | none => locBay b)
    0 [bayIx b] false (!ue)
  let s := if s.seqState b = seqRunning then s.stopBay b seqStopped 8 else s
  s.wf (BAY_SEQ_STATUS b) BAY_SEQ_STATUS_LAST_STOP 8

/-- Fetch the next descriptor, up to 64 ahead of dispatch, from local memory (R104). -/
def State.fetchDesc (s : State) (b : BayId) (ue : Bool) : State :=
  let x := s.bay b
  let next := s.rf (BAY_SEQ_POS b) BAY_SEQ_POS_INDEX + x.prefetch.length
  let a := s.rf (BAY_SEQ_STREAM b) BAY_SEQ_STREAM_BASE * 64 + next * 64
  if !s.seqRuns b || decide (64 ≤ x.prefetch.length) || decide (s.rf (BAY_SEQ_POS b) BAY_SEQ_POS_LENGTH ≤ next) then s
  else
    let bad := match s.localRead a 64 with | .ok _ => false | .error _ => true
    if bad || ue then s.fetchError b a ue
    else s.setBay b { x with prefetch := x.prefetch ++ [(next, s.memWords a 8)] }

/-- DESCRIPTOR_FETCH: ue says that the read proves uncorrectable. -/
def execDescriptorFetch (b : BayId) (ue : Bool) (s : State) : Out := .next (s.fetchDesc b ue)

/-- DESCRIPTOR_DISPATCH. -/
def execDescriptorDispatch (b : BayId) (s : State) : Out := .next (s.dispatchFront b)

def execNop (b : BayId) (s : State) : Out := .next (s.controlRow b 0x00)

def execSignal (b : BayId) (s : State) : Out := .next (s.controlRow b 0x40)

def execWaitEvent (b : BayId) (s : State) : Out := .next (s.controlRow b 0x41)

def execFence (b : BayId) (s : State) : Out := .next (s.controlRow b 0x42)

def execFrameMark (b : BayId) (s : State) : Out := .next (s.controlRow b 0x43)

/-- What a bay counts as work (R130). -/
def State.hasWork (s : State) (b : BayId) : Bool :=
  s.seqRuns b && (decide (s.rf (BAY_SEQ_POS b) BAY_SEQ_POS_INDEX < s.rf (BAY_SEQ_POS b) BAY_SEQ_POS_LENGTH) ||
    !(s.bay b).drained || (s.bay b).control.isSome)

/-- Report a fault of a bay's sequencer and stop the bay where no step fence covers it (R119, R127, R130). -/
def State.seqFault (s : State) (b : BayId) (code : Nat) : State :=
  let s := s.raiseAt b code (locBay b) 0
  if s.seqState b = seqRunning then s.stopBay b seqStopped (stopCause code) else s

/-- SEQ_STALL: STALL_FRAMES boundaries have passed with work, and no start or completion (R130). -/
def State.seqStall (s : State) (b : BayId) : State :=
  let n := s.rf (BAY_SEQ_CTRL b) BAY_SEQ_CTRL_STALL_FRAMES
  if n ≠ 0 ∧ n ≤ (s.bay b).stall ∧ s.hasWork b then s.seqFault b F_SEQ_STALL else s

def execSeqStall (b : BayId) (s : State) : Out := .next (s.seqStall b)

/-- EVENT_TIMEOUT: TIMEOUT boundaries have passed since a WAIT_EVENT was dispatched, and its condition does not hold (R127). -/
def State.eventTimeout (s : State) (b : BayId) : State :=
  match (s.bay b).control with
  | none => s
  | some r =>
    let n := dfield r.d 4 31 16
    if dtype r.d = 0x41 ∧ n ≠ 0 ∧ n ≤ (s.bay b).ctlFrames ∧ !s.waitEventMet b r.d then s.seqFault b F_EVENT_TIMEOUT else s

def execEventTimeout (b : BayId) (s : State) : Out := .next (s.eventTimeout b)

/-! ## Completion of a unit's descriptor -/

/-- The matrix unit's descriptor completes; an ATTN_BLOCK completes in the matrix and the vector unit together (R107). -/
def State.completeMatrix (s : State) (b : BayId) (cycles : Nat) : State :=
  let x := s.bay b
  match x.rMat with
  | none => s
  | some r =>
    let s := s.setBay b { x with rMat := none, rVec := if dtype r.d = 2 then none else x.rVec }
    s.complete b r cycles

/-- The vector unit's descriptor completes. -/
def State.completeVector (s : State) (b : BayId) (cycles : Nat) : State :=
  let x := s.bay b
  match x.rVec with
  | none => s
  | some r =>
    if dtype r.d = 2 then s.completeMatrix b cycles
    else (s.setBay b { x with rVec := none }).complete b r cycles

/-- The data engine's descriptor completes, once no peer owes it an answer. -/
def State.completeData (s : State) (b : BayId) (cycles : Nat) : State :=
  let x := s.bay b
  match x.rData with
  | none => s
  | some r => if r.waiting = 0 then (s.setBay b { x with rData := none }).complete b r cycles else s

/-- A SEND all of whose packets are acknowledged, or whose link went down. -/
def Running.settled (r : Running) : Bool := r.waiting == 0 || r.status != 0

/-- A posted RECV as a running descriptor. -/
def Posted.asRun (r : Posted) : Running :=
  { idx := r.idx, d := r.d, startFrame := r.startFrame, flags := 0, slip := 0, late := false, status := 0, waiting := 0,
    launched := false }

/-- One descriptor of the exchange port completes: the oldest that is done (R113, R117, R143). -/
def State.completeExchange (s : State) (b : BayId) (cycles : Nat) : State :=
  let x := s.bay b
  match x.acking.find? (fun r => r.settled) with
  | some r => (s.setBay b { x with acking := x.acking.erase r }).complete b r cycles
  | none =>
    match x.rXchg.bind (fun r => if r.settled then some r else none) with
    | some r => (s.setBay b { x with rXchg := none }).complete b r cycles
    | none =>
      match x.recvs.find? (fun p => decide (p.len ≤ p.got)) with
      | some p => (s.setBay b { x with recvs := x.recvs.erase p }).complete b p.asRun cycles
      | none => s

/-- DESCRIPTOR_COMPLETE: the descriptor a unit runs has written its last result (R113, R149). -/
def State.completeUnit (s : State) (b : BayId) (u : UnitKind) (cycles : Nat) : State :=
  let s := match u with
    | .matrix => s.completeMatrix b cycles
    | .vector => s.completeVector b cycles
    | .data => s.completeData b cycles
    | .exchange => s.completeExchange b cycles
  s.settleControl b

def execDescriptorComplete (b : BayId) (u : UnitKind) (cycles : Nat) (s : State) : Out := .next (s.completeUnit b u cycles)

end Sys2Proof.Machine
end

