-- ==== Sys2Proof/Machine/Links.lean ====
section
/-!
DEFINITION. Sys2Proof/Machine/Links.lean: the Dararn link layer's shared operations (chapter 11): packets, transmit queues,
credits, acknowledgement, bursts, delivery to bays, re-train and going down.
-/

set_option Elab.async false

namespace Sys2Proof.Machine

/-! ## Links -/

def lkDisabled : Nat := 0
def lkDown : Nat := 1
def lkTraining : Nat := 2
def lkUp : Nat := 3
def lkRetraining : Nat := 4
def lkAcked : Nat := 5
def lkHeld : Nat := 6

def State.link (s : State) (l : Nat) : LinkSt := sparseGet linkDefault s.links l
def State.setLink (s : State) (l : Nat) (x : LinkSt) : State := { s with links := sparseSet linkDefault s.links l x }

def State.linkState (s : State) (l : Nat) : Nat := s.rf (DRL_STATUS l) DRL_STATUS_STATE

/-- A new link state; its frame count starts again. -/
def State.setLinkState (s : State) (l n : Nat) : State :=
  (s.wf (DRL_STATUS l) DRL_STATUS_STATE n).setLink l { s.link l with frames := 0 }

def State.linkUp (s : State) (l : Nat) : Bool := s.linkState l == lkUp

def State.linkPeer (s : State) (l : Nat) : Nat := s.rf (DRL_STATUS l) DRL_STATUS_PEER_PKG

/-- Virtual channels of a link. -/
def State.nvc (s : State) (l : Nat) : Nat := s.rf (DRL_CFG l) DRL_CFG_NVC_M1 + 1

/-- Dararn 1. -/
def State.isD1 (s : State) (l : Nat) : Bool := s.rf (DRL_STATUS l) DRL_STATUS_VERSION == 1

def allLinks : List Nat := List.range 136

/-- Links homed on a Casement. -/
def csmLinks (c : Nat) : List Nat := (List.range 16).map (fun p => 16 * c + p)

/-- The fault locator of a link: its Casement; a DARARN_E link's, the first Porch lane of its group (R471). -/
def linkLoc (l : Nat) : Nat := if l < 128 then locCasement (l / 16) else locPorch ((l - 128) * 4)

/-- Fibre pairs a link owns. -/
def State.linkPairs (s : State) (l : Nat) : List Nat :=
  (List.range (s.rf (DRL_CFG l) DRL_CFG_PAIRS_M1 + 1)).map (fun i => l % 16 + i)

/-- Porch lanes of a DARARN_E link's group. -/
def State.porchLanes (s : State) (l : Nat) : List Nat :=
  let n := if getField (s.reg PCH_CFG) (PCH_CFG_LANE ((l - 128) * 4)) = 2 then 8 else 4
  (List.range n).map (fun i => (l - 128) * 4 + i)

/-! ## Lane maps (R277) -/

/-- A lane map of a link: rx 0 transmit, 1 receive. -/
def State.laneMap (s : State) (l rx : Nat) : List Nat :=
  (List.range 16).map (fun n => s.rf (if n < 12 then TUN_LMAP_LO l rx else TUN_LMAP_HI l rx) (TUN_LMAP_LL n))

def State.setLaneMap (s : State) (l rx : Nat) (m : List Nat) (serial : Nat) : State :=
  let s := (List.range 16).foldl (fun s n =>
    s.wf (if n < 12 then TUN_LMAP_LO l rx else TUN_LMAP_HI l rx) (TUN_LMAP_LL n) (m.getD n 0x1F)) s
  s.wf (TUN_LMAP_HI l rx) TUN_LMAP_HI_SERIAL serial

def State.mapSerial (s : State) (l rx : Nat) : Nat := s.rf (TUN_LMAP_HI l rx) TUN_LMAP_HI_SERIAL

/-- Lanes that are up in a map. -/
def upLanes (m : List Nat) : Nat := (m.filter (fun k => k != 0x1F)).length

/-- 32-byte units a burst of a link holds (R255, Tables 8-6 and 13-7). -/
def State.burstUnits (s : State) (l : Nat) : Nat :=
  if l < 128 then
    let n := upLanes (s.laneMap l 0)
    if s.rf (CSM_PAIR (l / 16) (l % 16)) CSM_PAIR_FEC_ACTIVE = 1 then 23220 * n / 256 else 20560 * n / 256
  else 25700 * ((s.porchLanes l).filter (fun n => wbit (s.reg PCH_STATUS) n)).length / 256

/-! ## Packets (R329, R330) -/

/-- The words of a packet toward the peer of link l, SEQ, ACK, CR and CRC left 0 (R329). -/
def State.packetWords (s : State) (l type vc len w2 w3 : Nat) (relayTo : Option Nat) : List Word :=
  [packFields [(bits 3 0, s.rf (DRL_STATUS l) DRL_STATUS_VERSION), (bits 7 4, type), (bits 10 8, vc), (bits 15 11, len),
     (bit 41, if relayTo.isSome then 1 else 0), (bits 53 42, relayTo.getD 0)],
   packFields [(bits 27 16, s.pkg), (bits 35 28, l), (bits 47 36, s.linkPeer l)],
   BitVec.ofNat 64 w2, packFields [(bits 31 0, w3)]]

/-- The bytes of a packet, its payload filled to whole units. -/
def State.packetBytes (s : State) (l type vc w2 w3 : Nat) (relayTo : Option Nat) (payload : List Byte) : List Byte :=
  let len := cdiv payload.length 32
  wordsToBytes (s.packetWords l type vc len w2 w3 relayTo) ++ payload ++ List.replicate (32 * len - payload.length) 0

def ptAckOnly : Nat := 0
def ptSendData : Nat := 1
def ptMemRd : Nat := 2
def ptMemWr : Nat := 3
def ptMemCpl : Nat := 4
def ptHearth : Nat := 5
def ptLinkCtl : Nat := 6

/-- Fields of queued packet bytes. -/
def pktType (b : List Byte) : Nat := getField ((bytesToWords (b.take 8)).getD 0 0) (bits 7 4)
def pktW2 (b : List Byte) : Word := (bytesToWords ((b.drop 16).take 8)).getD 0 0
def pktUnits (b : List Byte) : Nat := b.length / 32
def pktLast (b : List Byte) : Bool := pktType b == ptSendData && wbit (pktW2 b) 30

/-- The CRC of a packet (R330). -/
def packetCrc (p : Packet) : W32 :=
  crc32c (wordsToBytes [p.w0, p.w1, p.w2, putField p.w3 (bits 63 32) 0] ++ p.payload)

/-! ## Credits (R340 to R342) -/

def State.sharedUsed (s : State) (l : Nat) : Nat :=
  ((List.range 8).map (fun v => s.rf (DRL_CR l v) DRL_CR_SHARED_USED)).sum

def State.txShared (s : State) (l : Nat) : Nat := (s.link l).peerPool - s.nvc l * (s.link l).peerRes

/-- Units of u that channel v places in the shared part. -/
def State.sharedNeed (s : State) (l v u : Nat) : Nat := u - min u ((s.link l).peerRes - s.rf (DRL_CR l v) DRL_CR_RES_USED)

/-- Whether channel v may send a packet of u units (R341). -/
def State.creditOk (s : State) (l v u : Nat) : Bool :=
  let n := s.sharedNeed l v u
  decide (n ≤ s.txShared l - s.sharedUsed l) &&
    decide (s.rf (DRL_CR l v) DRL_CR_SHARED_USED + n ≤ s.txShared l * (s.link l).peerCap / 100)

/-- Charge a packet of u units on channel v. -/
def State.charge (s : State) (l v u : Nat) : State :=
  let n := s.sharedNeed l v u
  (s.addf (DRL_CR l v) DRL_CR_RES_USED (u - n)).addf (DRL_CR l v) DRL_CR_SHARED_USED n

/-- A return of c units for channel v; an excess is counted and ignored. -/
def State.creditReturn (s : State) (l v c : Nat) : State :=
  let sh := s.rf (DRL_CR l v) DRL_CR_SHARED_USED
  let re := s.rf (DRL_CR l v) DRL_CR_RES_USED
  let d := min c sh
  let s := s.wfs (DRL_CR l v) [(DRL_CR_SHARED_USED, sh - d), (DRL_CR_RES_USED, re - (c - d))]
  if re < c - d then s.satf (DRL_EVENTS l) DRL_EVENTS_CREDIT_EXCESS 1 else s

/-- Free pool units of channel v: they are returned to the peer (R342). -/
def State.freePool (s : State) (l v u : Nat) : State :=
  if u = 0 then s
  else
    let s := s.wf (DRL_CR l v) DRL_CR_OCC (s.rf (DRL_CR l v) DRL_CR_OCC - u)
    s.setLink l { s.link l with freed := (s.link l).freed.set v ((s.link l).freed.getD v 0 + u) }

/-- Units the receive pool holds. -/
def State.poolUsed (s : State) (l : Nat) : Nat := ((List.range 8).map (fun v => s.rf (DRL_CR l v) DRL_CR_OCC)).sum

/-! ## Transmit queues (Table 6-1) -/

def txq (l v : Nat) : Nat := l * 8 + v

/-- Put a packet in its transmit queue; at the queue's limit the producer stalls and nothing is lost. Once it is queued, pool
units of a link's channel are freed. -/
def State.linkPutFor (s : State) (l v : Nat) (bytes : List Byte) (owner : Option (Nat × Nat)) (freeLink freeVc freeUnits : Nat) :
    State :=
  let x := s.link l
  let st : StalledPkt :=
    { vc := v, bytes := bytes, owner := owner, freeLink := freeLink, freeVc := freeVc, freeUnits := freeUnits }
  if x.stalled.any (fun p => p.vc == v) then s.setLink l { x with stalled := x.stalled ++ [st] }
  else match s.enqueue (txq l v) bytes with
    | some s' =>
      (s'.setLink l { s'.link l with own := (s'.link l).own ++ [(v, owner)] }).freePool freeLink freeVc freeUnits
    | none => s.setLink l { x with stalled := x.stalled ++ [st] }

/-- Put a packet that frees no pool units, or units of its own link. -/
def State.linkPut (s : State) (l v : Nat) (bytes : List Byte) (owner : Option (Nat × Nat)) (freeVc freeUnits : Nat) : State :=
  s.linkPutFor l v bytes owner l freeVc freeUnits

/-- Stalled packets of channel v join their queue while it has room. fuel: packets. -/
def State.linkRefill : Nat → State → Nat → Nat → State
  | 0, s, _, _ => s
  | n + 1, s, l, v =>
    match (s.link l).stalled.find? (fun p => p.vc == v) with
    | none => s
    | some p =>
      match s.enqueue (txq l v) p.bytes with
      | none => s
      | some s' =>
        let x := s'.link l
        State.linkRefill n ((s'.setLink l { x with stalled := x.stalled.erase p, own := x.own ++ [(v, p.owner)] }).freePool
          p.freeLink p.freeVc p.freeUnits) l v

/-- The packet at the head of a transmit queue. -/
def State.txHead (s : State) (l v : Nat) : Option (List Byte) := (queueTake (txq l v) (s.queue (txq l v))).map (·.1)

/-! ## Acknowledgement (R335) -/

/-- One packet of a SEND is acknowledged. -/
def State.sendAcked (s : State) (o : Nat × Nat) : State :=
  let b := bayOf o.1
  let x := s.bay b
  let dec := fun (r : Running) => if r.idx = o.2 then { r with waiting := r.waiting - 1 } else r
  s.setBay b { x with rXchg := x.rXchg.map dec, acking := x.acking.map dec }

/-- A SEND's last packet launches: the exchange port is free (R117). -/
def State.sendLaunched (s : State) (o : Nat × Nat) : State :=
  let b := bayOf o.1
  let x := s.bay b
  match x.rXchg with
  | some r =>
    if r.idx = o.2 then s.setBay b { x with rXchg := none, acking := x.acking ++ [{ r with launched := true }] } else s
  | none => s

/-- RTT_EST and TIMER after a round-trip sample, whose value is open (R336). -/
def State.rttSample (s : State) (l : Nat) : State :=
  let (w, s) := s.draw
  let r := w.toNat % 2 ^ 16
  s.wfs (DRL_RTT l) [(DRL_RTT_RTT_EST, r), (DRL_RTT_TIMER, r + s.rf (DRL_CFG l) DRL_CFG_REPLAY_ADD)]

/-- An ACK value k (R335). -/
def State.ackTo (s : State) (l k : Nat) : State :=
  let old := s.rf (DRL_SEQ l) DRL_SEQ_TX_OLDEST
  let n := (k + 4096 - old) % 4096 + 1
  let x := s.link l
  if s.rf (DRL_SEQ l) DRL_SEQ_OUTSTANDING < n then s
  else
    let done := x.out.take n
    let s := s.wfs (DRL_SEQ l) [(DRL_SEQ_TX_OLDEST, k + 1), (DRL_SEQ_OUTSTANDING, s.rf (DRL_SEQ l) DRL_SEQ_OUTSTANDING - n)]
    let s := s.wf (DRL_RTT l) DRL_RTT_REPLAYS_NOW 0
    let s := s.setLink l { x with
      firings := 0,
      out := x.out.drop n, replay := x.replay.filter (fun q => !(done.any (fun p => p.seq == q))) }
    let s := done.foldl (fun s p => match p.owner with | some o => s.sendAcked o | none => s) s
    if done.any (fun p => !p.replayed) then s.rttSample l else s

/-! ## Bursts (R301, R316) -/

/-- Whether the head of channel v can be launched in `left` units. -/
def State.canLaunch (s : State) (l v left : Nat) : Bool :=
  match s.txHead l v with
  | none => false
  | some b =>
    decide (pktUnits b ≤ left) && decide (s.rf (DRL_SEQ l) DRL_SEQ_OUTSTANDING < 1536) && s.creditOk l v (pktUnits b)

/-- Launch the head of channel v as a new sequenced packet (R332). -/
def State.launch (s : State) (l v : Nat) : State :=
  match s.dequeue (txq l v) with
  | none => s
  | some (b, s) =>
    let x := s.link l
    let owner := ((x.own.find? (fun o => o.1 == v)).map (·.2)).getD none
    let seq := s.rf (DRL_SEQ l) DRL_SEQ_TX_NEXT
    let s := s.setLink l { x with
      own := match x.own.find? (fun o => o.1 == v) with | some o => x.own.erase o | none => x.own,
      out := x.out ++ [{ seq := seq, vc := v, bytes := b, owner := owner, replayed := false }], ackDue := false }
    let s := s.wfs (DRL_SEQ l) [(DRL_SEQ_TX_NEXT, seq + 1), (DRL_SEQ_OUTSTANDING, s.rf (DRL_SEQ l) DRL_SEQ_OUTSTANDING + 1)]
    let s := s.charge l v (pktUnits b)
    let s := match owner with | some o => if pktLast b then s.sendLaunched o else s | none => s
    s.linkRefill ((s.link l).stalled.length) l v

/-- Launch heads of the channels in turn while `ok` holds of the head and it fits. fuel: packets. Answers the units left and
the packets launched. -/
def State.fillFrom (ok : List Byte → Bool) : Nat → State → Nat → List Nat → Nat → Nat → State × Nat × Nat
  | 0, s, _, _, left, n => (s, left, n)
  | k + 1, s, l, vcs, left, n =>
    match vcs.find? (fun v => s.canLaunch l v left && (match s.txHead l v with | some b => ok b | none => false)) with
    | none => (s, left, n)
    | some v =>
      let u := match s.txHead l v with | some b => pktUnits b | none => 0
      let rest := vcs.drop (vcs.findIdx (fun x => x == v) + 1) ++ vcs.take (vcs.findIdx (fun x => x == v) + 1)
      State.fillFrom ok k (s.launch l v) l rest (left - u) (n + 1)

/-- Launch replays while they fit (R337). -/
def State.fillReplays : Nat → State → Nat → Nat → Nat → State × Nat × Nat
  | 0, s, _, left, n => (s, left, n)
  | k + 1, s, l, left, n =>
    let x := s.link l
    match x.replay with
    | [] => (s, left, n)
    | q :: rest =>
      match x.out.find? (fun p => p.seq == q) with
      | none => State.fillReplays k (s.setLink l { x with replay := rest }) l left n
      | some p =>
        if pktUnits p.bytes ≤ left then
          State.fillReplays k (s.setLink l { x with
            replay := rest, out := x.out.map (fun o => if o.seq = q then { o with replayed := true } else o), ackDue := false })
            l (left - pktUnits p.bytes) (n + 1)
        else (s, left, n)

/-- Credit returns that leave with n packets and, where it goes, ACK_ONLY: one channel a packet, the largest first (R342). -/
def returnsSent : Nat → List Nat → List Nat
  | 0, fs => fs
  | n + 1, fs => returnsSent n (let m := fs.foldl max 0; if m = 0 then fs else fs.set (fs.findIdx (fun x => x == m)) 0)

/-- What a burst carries besides VC0 packets and replays. -/
inductive BurstKind where
  | hall
  | data (flow : Nat)
  | flex
  deriving DecidableEq, Repr

/-- The attachment of a link's Casement carries traffic; without it the link sends and accepts no sequenced packet (R390). -/
def State.attachLive (s : State) (l : Nat) : Bool := decide (128 ≤ l) || (sparseGet attachDefault s.attach (l / 16)).live

/-- Fill one burst of an UP link: ACK_ONLY where due, VC0, replays, the slot's flow, then the rest (R301, R316, R334). -/
def State.fillBurst (s : State) (l cap : Nat) (k : BurstKind) : State :=
  if !s.attachLive l then s
  else
  let pend := ((s.link l).freed.filter (fun n => n != 0)).length
  let due := (s.link l).ackDue || pend != 0
  let left := if due then cap - 2 else cap
  let r0 := s.fillFrom (fun _ => true) left l [0] left 0
  let r := match k with
    | .hall => r0
    | _ =>
      let r1 := r0.1.fillReplays (r0.1.link l).replay.length l r0.2.1 r0.2.2
      let vcs := (List.range (s.nvc l)).drop 1
      let flow := fun (b : List Byte) => pktType b == ptSendData &&
        (match k with | .data f => f == 0 || getField (pktW2 b) (bits 15 0) == f | _ => true)
      let r2 := State.fillFrom flow r1.2.1 r1.1 l (0 :: vcs) r1.2.1 r1.2.2
      State.fillFrom (fun _ => true) r2.2.1 r2.1 l vcs r2.2.1 r2.2.2
  let x := r.1.link l
  let ackOnly := x.ackDue || decide (r.2.2 < pend)
  r.1.setLink l { x with
    freed := if ackOnly then [0, 0, 0, 0, 0, 0, 0, 0] else returnsSent r.2.2 x.freed,
    ackDue := if ackOnly then false else x.ackDue, idle := !ackOnly && r.2.2 == 0 }

/-! ## Delivery to bays (R143, R481) -/

/-- Write arriving bytes into posted RECVs of a bay, in posting order; answers the bytes that found no RECV. -/
def State.deliverBay : Nat → State → BayId → Nat → Nat → List Byte → State × List Byte
  | 0, s, _, _, _, bs => (s, bs)
  | n + 1, s, b, link, flow, bs =>
    if bs.isEmpty then (s, [])
    else match (s.bay b).recvs.find? (fun r => r.link == link && r.flow == flow && decide (r.got < r.len)) with
      | none => (s, bs)
      | some r =>
        let k := min bs.length (r.len - r.got)
        let s := s.sramWrite b (r.dst + r.got) (bs.take k)
        let x := s.bay b
        let s := s.setBay b { x with recvs := x.recvs.map (fun p => if p.idx = r.idx then { p with got := p.got + k } else p) }
        State.deliverBay n s b link flow (bs.drop k)

/-- Data of one packet (or of one internal SEND) for a bay: into its RECVs, else waiting in the pool; units of the pool are
freed once every byte is written. rsig: the event to raise with its last byte. -/
def State.arriveBay (s : State) (b : BayId) (link vc flow units : Nat) (bs : List Byte) (rsig : Option Nat) : State :=
  if (s.bay b).discard then (if link < 136 then s.freePool link vc units else s)
  else
    let waits := (s.bay b).arrived.any (fun a => a.link == link && a.flow == flow)
    let r := if waits then (s, bs) else s.deliverBay (s.bay b).recvs.length b link flow bs
    if r.2.isEmpty then
      let s := if link < 136 then r.1.freePool link vc units else r.1
      match rsig with | some e => s.bumpEvt b e 1 | none => s
    else
      let x := r.1.bay b
      r.1.setBay b { x with arrived := x.arrived ++ [{ link := link, vc := vc, flow := flow, bytes := r.2, rsig := rsig }] }

/-- Waiting data meets a RECV just posted. -/
def State.drainArrived : Nat → State → BayId → Nat → Nat → State
  | 0, s, _, _, _ => s
  | n + 1, s, b, link, flow =>
    match (s.bay b).arrived.find? (fun a => a.link == link && a.flow == flow) with
    | none => s
    | some a =>
      let r := s.deliverBay (s.bay b).recvs.length b link flow a.bytes
      let x := r.1.bay b
      if r.2.isEmpty then
        let s := r.1.setBay b { x with arrived := x.arrived.erase a }
        let s := if link < 136 then s.freePool link a.vc (1 + cdiv a.bytes.length 32) else s
        let s := match a.rsig with | some e => s.bumpEvt b e 1 | none => s
        State.drainArrived n s b link flow
      else
        r.1.setBay b { x with arrived := x.arrived.map (fun y => if y = a then { a with bytes := r.2 } else y) }

/-! ## Going down (R351, R352) -/

/-- Empty a queue, its Cellar segments back in the pool. -/
def State.dropQueue (s : State) (n : Nat) : State :=
  let q := s.queue n
  let before := queueLevel q
  let s := if q.segs.isEmpty then s
    else s.wf CEL_STATUS CEL_STATUS_SEG_FREE (s.rf CEL_STATUS CEL_STATUS_SEG_FREE + q.segs.length)
  if before = 0 then s.setQueue n Queue.empty else (s.setQueue n Queue.empty).noticeFrom n before

/-- Steps with a bay of a list. -/
def State.stepsOf (s : State) (bs : List Nat) : List Step := s.steps.filter (fun t => t.bays.any (fun b => bs.contains b.bay))

/-- Fence the steps of bays whose descriptors complete with LINK_DOWN (R144, R478). -/
def State.fenceBays (s : State) (bs : List Nat) : State :=
  let ts := s.stepsOf bs
  s.fenceSteps { cause := 7, replay := true, frame := s.frame, lead := s.rf FLT_CFG FLT_CFG_REPLAY_LEAD / 64, lost := none } ts

/-- The LINK_DOWN record (R352); it carries the step it fences and goes to the packages that may run the step (R479). -/
def State.linkDownRecord (s : State) (l cause : Nat) (ts : List Step) : State :=
  let det := 256 * cause + l
  match ts with
  | [] => s.note F_LINK_DOWN (linkLoc l) det
  | t :: _ =>
    let lead := s.rf FLT_CFG FLT_CFG_REPLAY_LEAD / 64
    let s := s.noteStep F_LINK_DOWN (linkLoc l) det lead t.num
    ts.foldl (fun s t => s.spread (faultRecord s F_LINK_DOWN (linkLoc l) det false lead t.num)) s

/-- Mark a bay's descriptors that wait for link l LINK_DOWN and drop its RECVs of the link; answers whether any was. -/
def State.bayLinkDown (s : State) (b : BayId) (l : Nat) (owners : List (Nat × Nat)) : State × Bool :=
  let x := s.bay b
  let mine := fun (r : Running) => owners.any (fun o => o.1 == bayIx b && o.2 == r.idx)
  let mark := fun (r : Running) => if mine r then { r with status := 4 } else r
  let gone := x.recvs.filter (fun r => r.link == l)
  let hit := gone != [] || (match x.rXchg with | some r => mine r | none => false) || x.acking.any mine
  if hit then
    let s := gone.foldl (fun s r => s.completionRecord b r.d 4 0 0 0 r.startFrame) s
    let x := s.bay b
    (s.setBay b { x with
      rXchg := x.rXchg.map mark, acking := x.acking.map mark, recvs := x.recvs.filter (fun r => r.link != l),
      arrived := x.arrived.filter (fun a => a.link != l) }, true)
  else (s.setBay b { x with arrived := x.arrived.filter (fun a => a.link != l) }, false)

/-- The link a relay toward package p takes (R353): the lowest-ID intermediate, then the lowest link. -/
def State.relayLink (s : State) (p : Nat) : Option Nat :=
  let ok := fun (l : Nat) => s.linkUp l && decide (3 ≤ s.nvc l) && s.rf (DRL_CFG l) DRL_CFG_RELAY_FWD == 1 &&
    (s.link l).neighbours.contains p
  let best := (allLinks.filter ok).foldl (fun acc l => match acc with
    | none => some l
    | some m => if s.linkPeer l < s.linkPeer m then some l else some m) none
  best

/-- The direct link to package p that is UP, the lowest ID. -/
def State.directLink (s : State) (p : Nat) : Option Nat :=
  allLinks.find? (fun l => s.linkUp l && s.linkPeer l == p && !s.isD1 l && decide (3 ≤ s.nvc l))

/-- Send a MEM_CPL to package p: over its direct link, else by relay, else it is dropped; pool units of the request's link are
freed once it is queued (R353, Table 11-5). -/
def State.sendCpl (s : State) (p tag status : Nat) (bs : List Byte) (freeLink freeUnits : Nat) : State :=
  let w2 := tag + 2 ^ 16 * status
  match s.directLink p with
  | some m => s.linkPutFor m 2 (s.packetBytes m ptMemCpl 2 w2 0 none bs) none freeLink 1 freeUnits
  | none =>
    match s.relayLink p with
    | some m => s.linkPutFor m 2 (s.packetBytes m ptMemCpl 2 w2 s.pkg (some p) bs) none freeLink 1 freeUnits
    | none => s.freePool freeLink 1 freeUnits

/-- The running descriptor of a bay's data engine waits for n fewer answers; status: a failure. -/
def State.dataAnswer (s : State) (b : BayId) (status : Nat) : State :=
  let x := s.bay b
  s.setBay b { x with rData := x.rData.map (fun r =>
    { r with waiting := r.waiting - 1, status := if r.status = 0 then status else r.status }) }

/-- The answer of a request, where a bay made it. -/
def State.reqAnswer (s : State) (r : AnnexReq) (status : Nat) : State :=
  if r.bay < 144 then s.dataAnswer (bayOf r.bay) status else s

/-- The Annex packet of a request on link l (Table 11-3). Its peer-local address is da. -/
def State.annexPacket (s : State) (l : Nat) (r : AnnexReq) (relayTo : Option Nat) : List Byte :=
  let w3 := if relayTo.isSome then s.pkg else 0
  if r.write then s.packetBytes l ptMemWr 1 (r.da % 2 ^ 40 + 2 ^ 40 * r.seq) w3 relayTo r.data
  else s.packetBytes l ptMemRd 1 (r.da % 2 ^ 40 + 2 ^ 40 * r.seq + 2 ^ 56 * (r.len / 32 - 1)) w3 relayTo []

/-- DRL_STATUS.RELAY_PKG of a link that is down shows the intermediate toward its peer. -/
def State.showRelay (s : State) : State :=
  (allLinks.filter (fun l => s.linkPeer l != 0)).foldl (fun s l =>
    s.wf (DRL_STATUS l) DRL_STATUS_RELAY_PKG
      (if s.linkUp l then 0 else match s.relayLink (s.linkPeer l) with | some m => s.linkPeer m | none => 0)) s

/-- Peers of UP links with three or more channels, sent as NEIGHBOURS on every such link (R353). -/
def State.sendNeighbours (s : State) : State :=
  let s := s.showRelay
  let ls := allLinks.filter (fun l => s.linkUp l && decide (3 ≤ s.nvc l) && !s.isD1 l)
  let ids := (ls.map s.linkPeer).dedup
  let v := 1 + 256 * ids.length + (ids.zipIdx.map (fun p => p.1 * 2 ^ (16 + 12 * p.2))).sum
  ls.foldl (fun s l => s.linkPut l 0
    (s.packetBytes l ptLinkCtl 0 2 0 none (natToBytes (32 * cdiv (2 + cdiv (ids.length * 12) 8) 32) v)) none 0 0) s

/-- Clear what a link holds when it goes down or is realigned. -/
def State.linkWipe (s : State) (l : Nat) : State :=
  let s := (List.range 8).foldl (fun s v => s.dropQueue (txq l v)) s
  let s := (List.range 8).foldl (fun s v => s.setReg (DRL_CR l v) 0) s
  let s := s.wf (DRL_SEQ l) DRL_SEQ_OUTSTANDING 0
  let x := s.link l
  let s := s.setLink l { LinkSt.init with want := x.want, width := x.width, exclRx := x.exclRx }
  allLinks.foldl (fun s m =>
    let y := s.link m
    if y.stalled.any (fun p => p.freeLink == l) then
      s.setLink m { y with stalled := y.stalled.map (fun p => if p.freeLink = l then { p with freeUnits := 0 } else p) }
    else s) s

/-- The entries of a queue, oldest first: head, the lines of the middle as memory holds them, tail. -/
def State.queueEntries (s : State) (n : Nat) : List (List Byte) :=
  let q := s.queue n
  let bs := q.head ++ q.mid.flatMap (fun e => memRead s.mem e.1 56) ++ q.tail
  (q.lens.foldl (fun (acc : List (List Byte) × List Byte) k => (acc.1 ++ [acc.2.take k], acc.2.drop k)) ([], bs)).1

def pktRelay (b : List Byte) : Bool := wbit ((bytesToWords (b.take 8)).getD 0 0) 41
def pktOrig (b : List Byte) : Nat := getField ((bytesToWords ((b.drop 24).take 8)).getD 0 0) (bits 11 0)

/-- Relayed requests of other packages that a link holds: (ORIG_PKG, TAG) (Table 11-9). -/
def State.relayedHeld (s : State) (l : Nat) : List (Nat × Nat) :=
  let x := s.link l
  let bs := x.out.map (fun p => p.bytes) ++ s.queueEntries (txq l 1) ++ x.stalled.map (fun p => p.bytes)
  (bs.filter (fun b => pktRelay b && (pktType b == ptMemRd || pktType b == ptMemWr) && pktOrig b != s.pkg)).map
    (fun b => (pktOrig b, getField (pktW2 b) (bits 55 40)))

/-- Owners of the packets a link holds: queued, stalled or outstanding. -/
def LinkSt.owners (x : LinkSt) : List (Nat × Nat) :=
  x.out.filterMap (fun p => p.owner) ++ x.own.filterMap (fun p => p.2) ++ x.stalled.filterMap (fun p => p.owner)

/-- One Annex request of a link that went down: re-sent by relay where it may be, else completed LINK_DOWN (Table 11-9). -/
def State.reroute (s : State) (r : AnnexReq) (peer : Option Nat) : State :=
  match peer.bind (fun p => (s.relayLink p).map (fun m => (p, m))) with
  | some (p, m) =>
    let s := { s with annexReqs := s.annexReqs.map (fun q => if q = r then { q with link := m } else q) }
    s.linkPut m 1 (s.annexPacket m r (some p)) none 0 0
  | none => ({ s with annexReqs := s.annexReqs.filter (fun q => q != r) }).reqAnswer r 4

/-- The peer an Annex request may reach by relay: that of its window, where RELAY_OK is 1 (R230). -/
def State.relayPeer (s : State) (r : AnnexReq) : Option Nat :=
  let k := daWindow r.src
  if s.winValid k ∧ s.rf (MEM_ANX_MAP k) MEM_ANX_MAP_RELAY_OK = 1 then some (s.winPeer k) else none

/-- Commands forwarded to a peer over link l see LINK_DOWN where no relay exists (Table 11-9); a LINK_ command that waits for
this link's re-train is answered by APPLIED with FAULTED. -/
def State.cmdsDown (s : State) (l : Nat) : State :=
  let peer := s.linkPeer l
  let s := if (s.relayLink peer).isSome || (s.directLink peer).isSome then s
    else (s.active.filter (fun a => a.target == peer && peer != s.pkg)).foldl (fun s a =>
      ({ s with active := s.active.filter (fun b => b != a) }).sendReply 1 a.tag a.origin a.ring stLinkDown a.opcode []) s
  (s.link l).waits.foldl (fun s w => s.applied w.2.1 w.2.2.1 w.2.2.2 w.1 stFaulted false) s

/-- A link goes down: cause as DRL_STATUS.LAST_DOWN (R351, R352, Table 11-9). -/
def State.goDown (s : State) (l cause : Nat) : State :=
  let st := s.linkState l
  if st = lkDisabled ∨ st = lkDown ∨ st = lkHeld then s
  else
    let x := s.link l
    let was := s.linkUp l
    let held := s.relayedHeld l
    let s := s.cmdsDown l
    let s := (x.stalled.filter (fun p => p.freeLink != l)).foldl (fun s p => s.freePool p.freeLink p.freeVc p.freeUnits) s
    let s := (s.linkWipe l).wfs (DRL_STATUS l) [(DRL_STATUS_STATE, lkHeld), (DRL_STATUS_LAST_DOWN, cause)]
    let s := s.satf (DRL_EVENTS l) DRL_EVENTS_DOWNS 1
    let r := allBays.foldl (fun (acc : State × List Nat) b =>
      let y := acc.1.bayLinkDown b l x.owners
      (y.1, if y.2 then acc.2 ++ [bayIx b] else acc.2)) (s, [])
    let s := r.1.linkDownRecord l cause (r.1.stepsOf r.2)
    let s := s.fenceBays r.2
    let s := (s.annexReqs.filter (fun r => r.link == l)).foldl (fun s r => s.reroute r (s.relayPeer r)) s
    let s := s.fenceBays ((allBays.filter (fun b =>
      match (s.bay b).rData with | some r => r.status == 4 | none => false)).map bayIx)
    let s := held.foldl (fun s h => s.sendCpl h.1 h.2 4 [] l 0) s
    if was then s.sendNeighbours else s

/-! ## Re-training (R347, R348) -/

def plOff : Nat := 0
def plTraining : Nat := 1
def plUp : Nat := 2
def plDown : Nat := 3
def plFault : Nat := 4

/-- Set a Porch lane's state (Tables 13-18 and 13-20). -/
def State.setPorch (s : State) (n st : Nat) : State :=
  let s := s.wf (PCH_LANE n) PCH_LANE_STATE st
  (s.wf PCH_STATUS (bit n) (if st = plUp then 1 else 0)).wf PCH_STATUS (bit (32 + n)) (if st = plDown ∨ st = plFault then 1 else 0)

/-- Lanes of a DARARN_E link that are down train again at its re-train (R408); whether their PHY trains is open. -/
def State.porchRetrain (s : State) (l : Nat) : State :=
  if l < 128 then s
  else (s.porchLanes l).foldl (fun s n =>
    if s.rf (PCH_LANE n) PCH_LANE_STATE = plDown then
      let w := s.draw
      let s := w.2.satf (PCH_LANE n) PCH_LANE_TRAINS 1
      if wbit w.1 0 then s.setPorch n plUp else s
    else s) s

/-- Take the snapshot of RX_NEXT and OCC, abandon pending notices (their serials stay used), and leave UP for RETRAINING or ACKED. -/
def State.snapshotLink (s : State) (l st : Nat) : State :=
  let s := (s.setLinkState l st).porchRetrain l
  let x := s.link l
  let s := match x.txPend with
    | some c => if l < 128 then s.wf (TUN_LMAP_HI l 0) TUN_LMAP_HI_SERIAL c.serial else s
    | none => s
  let s := s.setLink l { x with
    snapRx := s.rf (DRL_SEQ l) DRL_SEQ_RX_NEXT, snapOcc := (List.range 8).map (fun v => s.rf (DRL_CR l v) DRL_CR_OCC),
    freed := [0, 0, 0, 0, 0, 0, 0, 0], txPend := none, rxPend := none }
  let s := if l < 128 then (s.wf (TUN_LMAP_HI l 0) TUN_LMAP_HI_PEND 0).wf (TUN_LMAP_HI l 1) TUN_LMAP_HI_PEND 0 else s
  s.satf (DRL_EVENTS l) DRL_EVENTS_RETRAINS 1

/-- Start a re-train as initiator, where the link is UP (R347, R358). -/
def State.startRetrain (s : State) (l : Nat) : State :=
  if s.linkState l = lkUp then
    let s := s.snapshotLink l lkRetraining
    s.setLink l { s.link l with rtId := ((s.link l).rtId + 1) % 256 }
  else if s.linkState l = lkAcked then s.setLink l { s.link l with again := true }
  else s

/-- The credit audit of R348 step 4: rx the peer's RX_NEXT, occ its pool use by channel. -/
def State.audit (s : State) (l rx : Nat) (occ : List Nat) : State :=
  let s := if s.rf (DRL_SEQ l) DRL_SEQ_TX_OLDEST = rx then s else s.ackTo l ((rx + 4095) % 4096)
  (List.range (s.nvc l)).foldl (fun s v =>
    let used := occ.getD v 0 + (((s.link l).out.filter (fun p => p.vc == v)).map (fun p => pktUnits p.bytes)).sum
    let r := min used (s.link l).peerRes
    s.wfs (DRL_CR l v) [(DRL_CR_RES_USED, r), (DRL_CR_SHARED_USED, used - r)]) s

/-! ## Receiving (R331, R333) -/

/-- Where a packet type may travel, and its LEN (Table 11-3, Table 11-4). -/
def typeFits (t vc len nvc : Nat) : Bool :=
  match t with
  | 0 => vc == 0 && len == 1
  | 1 => decide (1 ≤ len ∧ len ≤ 16) && (vc == 0 || (if nvc = 2 then vc == 1 else decide (3 ≤ vc)))
  | 2 => vc == 1 && len == 0 && decide (3 ≤ nvc)
  | 3 => vc == 1 && decide (1 ≤ len ∧ len ≤ 16) && decide (3 ≤ nvc)
  | 4 => vc == 2 && decide (len ≤ 16) && decide (3 ≤ nvc)
  | 5 => vc == 0 && decide (len ≤ 16)
  | 6 => vc == 0 && decide (1 ≤ len ∧ len ≤ 7)
  | 7 => vc == 0 && len == 3
  | _ => false

def Packet.type (p : Packet) : Nat := getField p.w0 (bits 7 4)
def Packet.vc (p : Packet) : Nat := getField p.w0 (bits 10 8)
def Packet.len (p : Packet) : Nat := getField p.w0 (bits 15 11)
def Packet.seq (p : Packet) : Nat := getField p.w0 (bits 27 16)
def Packet.relay (p : Packet) : Bool := wbit p.w0 41
def Packet.endPkg (p : Packet) : Nat := getField p.w0 (bits 53 42)
def Packet.units (p : Packet) : Nat := 1 + Packet.len p

/-- Why a packet is dropped whole (R331): 1 CRC, 2 another case, 3 the wrong peer; 0: it passes. -/
def State.dropCause (s : State) (l type : Nat) (p : Packet) : Nat :=
  if packetCrc p ≠ BitVec.ofNat 32 (getField p.w3 (bits 63 32)) then 1
  else if getField p.w0 (bits 3 0) ≠ s.rf (DRL_STATUS l) DRL_STATUS_VERSION ∨ Packet.type p ≠ type ∨
      !typeFits type (Packet.vc p) (Packet.len p) (s.nvc l) ∨ p.payload.length ≠ 32 * Packet.len p ∨ s.nvc l ≤ Packet.vc p then 2
  else if getField p.w1 (bits 27 16) ≠ s.linkPeer l ∨ getField p.w1 (bits 47 36) ≠ s.pkg ∨
      getField p.w1 (bits 35 28) ≠ s.rf (DRL_STATUS l) DRL_STATUS_PEER_LINK then 3
  else 0

/-- A packet that does not name the trained peer (R322). -/
def State.wrongPeer (s : State) (l : Nat) : State :=
  if l < 128 then s.satf (STR_FERR (l / 16) (l % 16)) STR_FERR_WRONG_PEER 1 else s

/-- ACK and credit fields of a packet that passes R331; credit returns are discarded while RETRAINING or ACKED (R348). -/
def State.useHeader (s : State) (l : Nat) (p : Packet) : State :=
  let s := if wbit p.w0 40 then s.ackTo l (getField p.w0 (bits 39 28)) else s
  if s.linkUp l then s.creditReturn l (getField p.w1 (bits 2 0)) (getField p.w1 (bits 15 3)) else s

/-- A link in ACKED enters UP at the first packet other than LINK_TRAIN (R348); a trigger held back runs then (R358). -/
def State.resume (s : State) (l : Nat) : State :=
  if s.linkState l = lkAcked then
    let s := s.setLinkState l lkUp
    let x := s.link l
    let s := x.waits.foldl (fun s w => s.applied w.2.1 w.2.2.1 w.2.2.2 w.1 stOk false) s
    let s := s.setLink l { s.link l with again := false, waits := [] }
    if x.again then s.startRetrain l else s
  else s

/-- Receive a sequenced packet of a type: the checks of R331, the ACK and credit fields, the sequence rules of R333 and the
pool; the Bool says that it is accepted. -/
def State.receive (s : State) (l type : Nat) (p : Packet) : State × Bool :=
  let st := s.linkState l
  if (st ≠ lkUp ∧ st ≠ lkRetraining ∧ st ≠ lkAcked) ∨ !s.attachLive l then (s, false)
  else match s.dropCause l type p with
    | 1 => (s.satf (DRL_RXERR l) DRL_RXERR_CRC_FAIL 1, false)
    | 2 => (s.satf (DRL_RXERR l) DRL_RXERR_DISCARD 1, false)
    | 3 => (s.wrongPeer l, false)
    | _ =>
      let s := (s.resume l).useHeader l p
      let rx := s.rf (DRL_SEQ l) DRL_SEQ_RX_NEXT
      let d := (rx + 4096 - Packet.seq p) % 4096
      if d = 0 then
        if s.rf (DRL_POOL l) DRL_POOL_POOL < s.poolUsed l + Packet.units p then
          ((s.satf (DRL_RXERR l) DRL_RXERR_DISCARD 1).startRetrain l, false)
        else
          let s := s.wf (DRL_SEQ l) DRL_SEQ_RX_NEXT (rx + 1)
          (s.addf (DRL_CR l (Packet.vc p)) DRL_CR_OCC (Packet.units p), true)
      else if d ≤ 2048 then (s.satf (DRL_RXERR l) DRL_RXERR_DUPLICATE 1, false)
      else (s.satf (DRL_RXERR l) DRL_RXERR_OUT_OF_ORDER 1, false)

/-! ## Relay (R353, R354) -/

/-- The link an intermediate forwards over to END_PKG. -/
def State.onward (s : State) (p : Nat) : Option Nat :=
  allLinks.find? (fun l => s.linkUp l && s.linkPeer l == p && s.rf (DRL_CFG l) DRL_CFG_RELAY_FWD == 1 && !s.isD1 l &&
    decide (3 ≤ s.nvc l))

/-- Answer a request that arrived on link l: to the package it came from. -/
def State.answer (s : State) (l : Nat) (p : Packet) (status : Nat) (bs : List Byte) : State :=
  let tag := getField p.w2 (bits 55 40)
  if Packet.relay p then s.sendCpl (getField p.w3 (bits 11 0)) tag status bs l (Packet.units p)
  else s.linkPut l 2 (s.packetBytes l ptMemCpl 2 (tag + 2 ^ 16 * status) 0 none bs) none 1 (Packet.units p)

/-- Forward a relayed packet that arrived on link l, on the same channel; where no link takes it, a request is answered
LINK_DOWN and any other packet is dropped (R354, Table 11-9). -/
def State.passOn (s : State) (l : Nat) (p : Packet) : State :=
  let v := Packet.vc p
  match s.onward (Packet.endPkg p) with
  | some m =>
    s.linkPutFor m v (s.packetBytes m (Packet.type p) v p.w2.toNat (getField p.w3 (bits 11 0)) (some (Packet.endPkg p)) p.payload)
      none l v (Packet.units p)
  | none =>
    if Packet.type p = ptMemRd ∨ Packet.type p = ptMemWr then s.answer l p 4 [] else s.freePool l v (Packet.units p)

end Sys2Proof.Machine
end

