-- ==== Sys2Proof/Machine/MemErrors.lean ====
section
/-!
DEFINITION. Sys2Proof/Machine/MemErrors.lean: errors of stacked memory: corrected and uncorrectable reads, poisoning, channel
nomination and retirement, the patrol (R182 to R189).
-/

set_option Elab.async false

namespace Sys2Proof.Machine

/-- MEM_CHECC of a home. -/
def checcOf (h : Home) : Nat := MEM_CHECC (h.stack / 3) (h.stack % 3 * 32 + h.channel)

/-- MEM_ECC_LAST of a home: severity and device address. -/
def State.eccLast (s : State) (h : Home) (sev a : Nat) : State :=
  s.setReg (MEM_ECC_LAST (h.stack / 3)) (packFields [(MEM_ECC_LAST_SEVERITY, sev), (MEM_ECC_LAST_STACK, h.stack % 3),
    (MEM_ECC_LAST_CHANNEL, h.channel), (MEM_ECC_LAST_PC, h.pc), (MEM_ECC_LAST_DA, a)])

/-- Nominate a channel for retirement: a fifth, or a second in its stack, is the fatal fault of the stack (R185, R186). -/
def State.nominate (s : State) (k ch : Nat) : State :=
  let taken := (List.range 4).any (fun r => s.rf (MEM_RETIRE r) MEM_RETIRE_VALID == 1 &&
    s.rf (MEM_RETIRE r) MEM_RETIRE_STACK == k)
  if 4 ≤ s.retireCount || taken then s.loseStack k else s.raise F_CHANNEL_RETIRE (locChannel k ch) 0

/-- A count passes a nonzero limit. -/
def reachesLimit (old new lim : Nat) : Bool := decide (lim ≠ 0) && decide (old < lim) && decide (lim ≤ new)

/-- A corrected read (R182, R185). -/
def State.memCe (s : State) (h : Home) (a : Nat) : State :=
  let old := s.rf (checcOf h) MEM_CHECC_CE_PASS
  let s := ((s.satf (checcOf h) MEM_CHECC_CE_TOTAL 1).satf (checcOf h) MEM_CHECC_CE_PASS 1).eccLast h 1 a
  if reachesLimit old (s.rf (checcOf h) MEM_CHECC_CE_PASS) (s.rf (MEM_ECC_CTRL (h.stack / 3)) MEM_ECC_CTRL_CE_RETIRE) then
    s.nominate h.stack h.channel
  else s

/-- An uncorrectable read of the array is counted (R182); the Bool says that its channel is nominated (R185). -/
def State.memUe (s : State) (h : Home) (a : Nat) : State × Bool :=
  let old := s.rf (checcOf h) MEM_CHECC_UE_COUNT
  let s := (s.satf (checcOf h) MEM_CHECC_UE_COUNT 1).eccLast h 2 a
  (s, reachesLimit old (s.rf (checcOf h) MEM_CHECC_UE_COUNT) (s.rf (MEM_ECC_CTRL (h.stack / 3)) MEM_ECC_CTRL_UE_RETIRE))

/-- Poison a line and tell host software; a 65th entry is the fatal fault of its stack (R183, R184). -/
def State.poisonLine (s : State) (h : Home) (a : Nat) : State :=
  match s.poison a with
  | some s' => s'.hostEvent 0x0041 [packFields [(bits 47 0, a / 64 * 64)]]
  | none => s.loseStack h.stack

/-- An uncorrectable line at its home: known to be poisoned, or read again after the report (R183). -/
def State.memFaultAt (s : State) (met : List Nat) (a : Nat) (h : Home) (known : Bool) : State :=
  if known then (s.eccLast h 3 a).report F_MEM_UE (locPseudo h.stack h.channel h.pc) 0 met false true
  else
    let u := s.memUe h a
    let w := u.1.draw
    let bad := wbit w.1 0
    let s := w.2.report F_MEM_UE (locPseudo h.stack h.channel h.pc) 0 met false bad
    let s := if bad then s.poisonLine h a else s
    if u.2 then s.nominate h.stack h.channel else s

/-- Report an uncorrectable read that bays `met` met: the fence, the one re-read, whose outcome is open, and the poisoning
where it fails too. `known`: the line is on the poison list already (R183, R184). -/
def State.memFault (s : State) (met : List Nat) (a : Nat) (known : Bool) : State :=
  (s.home a).elim s (fun h => s.memFaultAt met a h known)

/-- How a read of local memory ends. -/
inductive MemRes where
  | data (bs : List Byte)
  | addr (a : Nat)
  /-- Uncorrectable; the Bool: poisoned before. -/
  | ue (a : Nat) (known : Bool)
  deriving DecidableEq, Repr

/-- The errors the array reports on lines of [a, a + n). -/
def errsIn (es : List MemErr) (a n : Nat) : List MemErr := es.filter (fun e => (linesOf a n).contains (e.da / 64 * 64))

/-- Corrected reads of a list of errors are counted. -/
def State.countCe (s : State) (es : List MemErr) : State :=
  es.foldl (fun s e => match s.home e.da with | some h => s.memCe h e.da | none => s) s

/-- Read [a, a + n) of local memory, with the errors the array reports. -/
def State.arrayRead (s : State) (es : List MemErr) (a n : Nat) : State × MemRes :=
  match s.localRead a n with
  | .error (.uncorrectable x) => (s, .ue x true)
  | .error _ => (s, .addr ((s.firstBad a n).getD a))
  | .ok bs =>
    let mine := errsIn es a n
    match mine.find? (fun e => !e.corrected) with
    | some e => (s.countCe (mine.takeWhile (fun e => e.corrected)), .ue (max a (e.da / 64 * 64)) false)
    | none => (s.countCe mine, .data bs)

/-- RETIREMENT_COPY_COMPLETE: the live granules are in their new places (R187, R188). Accesses are served from there from the
start of the retirement, so that only the record changes. -/
def State.copyDone (s : State) (r : Nat) : State :=
  if s.rf (MEM_RETIRE r) MEM_RETIRE_VALID = 1 ∧ s.rf (MEM_RETIRE r) MEM_RETIRE_STATE = 0 then
    let k := s.rf (MEM_RETIRE r) MEM_RETIRE_STACK
    let ch := s.rf (MEM_RETIRE r) MEM_RETIRE_CHANNEL
    let s := { s with nv := { s.nv with retired := s.nv.retired.map (fun (e : Nat × Nat × Bool) => if e.1 = k ∧ e.2.1 = ch then (k, ch, true) else e) } }
    s.wf (MEM_RETIRE r) MEM_RETIRE_STATE 1
  else s

/-- PATROL_READ: what the controller patrol finds in the line at da of a channel; da is 0 outside every space. An
uncorrectable line of a space is treated as under R183 with no descriptor; a line on the poison list is not read. The end of
a pass starts CE_PASS again (R182, R185). -/
def State.patrol (s : State) (k ch da : Nat) (f : PatrolFind) (passEnd : Bool) : State :=
  let h : Home := { stack := k, channel := ch, row := 0, pc := da / 64 % 2 }
  let inside := match s.home da with | some x => x.stack == k && x.channel == ch | none => false
  let known := inside && s.isPoisoned da
  let s := if s.rf (MEM_ECC_CTRL (k / 3)) MEM_ECC_CTRL_PATROL_HOURS = 0 then s
    else match f, inside, known with
    | .clean, _, _ => s
    | _, _, true => s.eccLast h 3 da
    | .corrected, _, false => s.memCe h da
    | .uncorrectable, true, false => s.memFault [] da false
    | .uncorrectable, false, false => let u := s.memUe h da; if u.2 then u.1.nominate k ch else u.1
  if passEnd then s.wf (checcOf h) MEM_CHECC_CE_PASS 0 else s

def execPatrolRead (st : Stack) (ch : Fin 32) (da : Nat) (f : PatrolFind) (passEnd : Bool) (s : State) : Out :=
  .next (s.patrol st.val ch.val da f passEnd)

end Sys2Proof.Machine
end

