-- ==== Sys2Proof/Machine/Commands.lean ====
section
/-!
DEFINITION. Sys2Proof/Machine/Commands.lean: how a command comes in, is checked, forwarded and answered (R417 to R431), and the
Hearth messages that carry commands, replies and events between packages (R428 to R431, R479).
-/

set_option Elab.async false

namespace Sys2Proof.Machine

/-! ## Reaching a package (R428, R353) -/

/-- The link toward a package and, where it relays, the package to relay to. -/
def State.routeTo (s : State) (p : Nat) : Option (Nat × Option Nat) :=
  match s.directLink p with
  | some l => some (l, none)
  | none => (s.relayLink p).map (fun l => (l, some p))

/-- Whether a TARGET is this package. -/
def State.isSelf (s : State) (t : Nat) : Bool := t == 0 || t == s.pkg

/-- Packages this one reaches, each with whether by relay. -/
def State.reached (s : State) : List (Nat × Bool) :=
  let direct := ((allLinks.filter (fun l => s.linkUp l && !s.isD1 l && decide (3 ≤ s.nvc l))).map s.linkPeer).dedup
  let far := ((allLinks.filter (fun l => s.linkUp l && s.rf (DRL_CFG l) DRL_CFG_RELAY_FWD == 1 && decide (3 ≤ s.nvc l))).flatMap
    (fun l => (s.link l).neighbours)).dedup
  direct.map (fun p => (p, false)) ++
    (far.filter (fun p => !direct.contains p && p != s.pkg && (s.relayLink p).isSome)).map (fun p => (p, true))

/-! ## Hearth messages (R429) -/

/-- W2 of a HEARTH packet (Table 14-12). -/
def hearthW2 (m : OutMsg) (seg nseg : Nat) : Nat :=
  1 + 2 ^ 4 * m.kind + 2 ^ 8 * seg + 2 ^ 16 * (nseg - 1) + 2 ^ 24 * m.tag + 2 ^ 40 * m.origin + 2 ^ 52 * m.ring

/-- Put one message on a link: padded to 32 bytes and cut into segments of 512. -/
def State.putMessage (s : State) (m : OutMsg) (l : Nat) (relay : Option Nat) : State :=
  let bs := wordsToBytes m.body
  let bs := bs ++ List.replicate (cdiv bs.length 32 * 32 - bs.length) 0
  let n := max 1 (cdiv bs.length 512)
  (List.range n).foldl (fun s i =>
    s.linkPut l 0 (s.packetBytes l ptHearth 0 (hearthW2 m i n) (if relay.isSome then s.pkg else 0) relay
      ((bs.drop (512 * i)).take 512)) none 0 0) s

/-- Packages a message goes to: dst 0 is the bridge of the pod, 0xFFF every package with a link that is UP, and the bridge
(R479). Which package is the bridge is open (log entry). -/
def State.msgTargets (s : State) (m : OutMsg) : List Nat :=
  let bridge := if s.isBridge then [] else [Config.bridgePkg.toNat]
  if m.dst = 0 then bridge
  else if m.dst = 0xFFF then (bridge ++ ((allLinks.filter (fun l => s.linkUp l && !s.isD1 l)).map s.linkPeer)).dedup
  else [m.dst]

/-- Send what waits in the outbox; a message to one package without a path waits on, but a SKY_DONE is dropped (Table 12-7). -/
def State.flushOutbox (s : State) : State :=
  s.outbox.foldl (fun s m =>
    (s.msgTargets m).foldl (fun s p =>
      match s.routeTo p with
      | some (l, relay) => s.putMessage m l relay
      | none => if m.dst = 0xFFF ∨ m.kind = 3 then s else { s with outbox := s.outbox ++ [m] }) s) { s with outbox := [] }

/-! ## Checks (R420, R425) -/

def isForwarded (c : Cmd) : Bool := c.via == .forwarded

/-- Opcodes that act on the ring they arrive on (Table 14-11). -/
def isAuth (op : Nat) : Bool := op == 0x701 || op == 0x702 || op == 0x703

/-- The status a package that is not READY gives an opcode; none: it runs (R468, R497, R530). -/
def State.modeStatus (s : State) (c : Cmd) : Option Nat :=
  let op := c.opcode
  match s.mode with
  | .ready => none
  | .off => some stFaulted
  | .starting =>
    if op == 0x001 || op == 0x003 || op == 0x601 || op == 0x740 || op == opHalt || isAuth op then none else some stBusy
  | .initHold =>
    if op == 0x001 || op == 0x003 || op == 0x601 || op == 0x520 || isAuth op then none else some stFaulted
  | .safeHold =>
    if op == 0x001 || op == 0x003 || op == 0x601 || op == 0x740 || isAuth op || (decide (0x800 ≤ op) && decide (op ≤ 0x8FF)) ||
      (op == 0x720 && c.pf 0 2 0 == 0) then none else some stFaulted

/-- Opcodes that the lifecycle state denies where they run (R512). -/
def State.lifeDenies (s : State) (op : Nat) : Bool :=
  let maker := op == 0x6F0 || (decide (0x800 ≤ op) && decide (op ≤ 0x8FF))
  match s.nv.lifecycle with
  | 0 => false
  | 2 => maker
  | 1 => maker || op == 0x210
  | 3 => maker || op == 0x210
  | _ => !(op == 0x001 || isAuth op)

/-- The command runs at this package. -/
def State.runsHere (s : State) (c : Cmd) : Bool := isForwarded c || c.target == 0xFFF || s.isSelf c.target

/-- Steps 1 to 5 of R425, with the lifecycle limits after the role (R512); none: they pass. -/
def State.precheck (s : State) (c : Cmd) : Option Nat :=
  if getField c.w0 (bits 3 0) ≠ 1 then some stBadVersion
  else match opRole c.opcode with
  | none => some stBadParam
  | some need =>
    if !isForwarded c && !(decide (c.role ≤ s.chanRole c) && decide (need ≤ c.role)) then some stDenied
    else if s.runsHere c && s.lifeDenies c.opcode then some stDenied
    else if c.target = 0xFFF ∧ c.opcode ≠ opHalt then some stBadParam
    else if isAuth c.opcode ∧ !s.isSelf c.target then some stBadParam
    else if isForwarded c then s.modeStatus c
    else if c.target ≠ 0xFFF ∧ !s.isSelf c.target then
      (if (s.routeTo c.target).isSome then none else some stLinkDown)
    else s.modeStatus c

/-! ## Running a command -/

/-- A command's words with ORIGIN and RING stamped (R428). -/
def stampedWords (s : State) (c : Cmd) : List Word :=
  [c.w0, putField (putField (putField c.w1 (bits 31 0) s.epoch) (bits 43 32) (originOf s c)) (bits 51 44) c.ringId, c.w2, c.w3] ++
    c.params.take (c.len / 8)

/-- The command queue a channel uses (Table 6-1). -/
def cmdQueue (c : Cmd) : Nat := if isForwarded c then 1089 else 1088

/-- The queue entry of a command: as taken, its EPOCH left out. -/
def queueEntry (s : State) (c : Cmd) : List Byte :=
  wordsToBytes ((stampedWords s c).set 1 (putField ((stampedWords s c).getD 1 0) (bits 31 0) 0))

/-- A command leaves its queue where it is the oldest there. -/
def State.unqueue (s : State) (c : Cmd) : State :=
  match s.dequeue (cmdQueue c) with
  | some (bs, s') => if bs = queueEntry s c then s' else s
  | none => s

/-- Record a command as taken. -/
def State.addActive (s : State) (c : Cmd) (sent : Bool) : State :=
  let o := originOf s c
  let s := s.dropActive c.tag o c.ringId
  { s with active := s.active ++ [{ tag := c.tag, origin := o, ring := c.ringId, opcode := c.opcode, target := c.target,
                                    started := s.frame, sent := sent, dead := false, awaits := [], reached := 0, bad := [] }] }

/-- Send a command on to its target (R428). -/
def State.forwardTo (s : State) (c : Cmd) (p : Nat) : State :=
  s.sendHearth { dst := p, kind := 0, tag := c.tag, origin := originOf s c, ring := c.ringId, body := stampedWords s c }

/-- Forward a command; its active entry waits for the reply. -/
def State.forward (s : State) (c : Cmd) : State := (s.addActive c true).forwardTo c c.target

/-- Send a remembered reply again (R422). -/
def State.resend (s : State) (r : Remembered) : State :=
  let st := getField (r.reply.getD 1 0) (bits 35 32)
  (s.dropActive r.tag r.origin r.ring).sendReply 1 r.tag r.origin r.ring st (getField (r.reply.getD 1 0) (bits 47 36)) (r.reply.drop 2)

/-- Whether a command's channel can bring it here at all: a host ring needs the bridge function, and the package must run. -/
def State.canTake (s : State) (c : Cmd) : Bool :=
  s.mode != .off && (match c.via with | .ring _ => s.isBridge | _ => true)

/-- Run a command of opcode op: from its queue, once (R422), after the checks of R425, here or at its target. -/
def State.runCmd (s : State) (c : Cmd) (op : Nat → Bool) (body : State → State) : State :=
  if !op c.opcode || !s.canTake c then s
  else
    let o := originOf s c
    let s := s.unqueue c
    match s.dups.find? (fun d => d.tag == c.tag && d.origin == o && d.ring == c.ringId) with
    | some d => s.resend d
    | none =>
      if (match s.activeOf c.tag o c.ringId with | some a => a.sent && !a.dead | none => false) then s
      else match s.precheck c with
        | some st => s.reply c st []
        | none => if c.target ≠ 0xFFF ∧ !isForwarded c ∧ !s.isSelf c.target then s.forward c else body s

/-- A command row of one opcode. -/
def State.command (s : State) (c : Cmd) (op : Nat) (body : State → State) : State := s.runCmd c (fun k => k == op) body

/-! ## Taking commands from a ring (R417 to R419) -/

/-- n bytes of a ring from slot i, wrapping. -/
def State.ringBytes (s : State) (r i n : Nat) : List Byte :=
  (List.range n).map (fun k => memGet s.ringMem (65536 * r + (i * 64 + k) % 65536))

/-- The command at slot i of ring r. -/
def State.ringCmd (s : State) (r : RingIdx) (i : Nat) : Cmd :=
  let h := bytesToWords (s.ringBytes r.val i 32)
  let len := getField (h.getD 0 0) (bits 63 48)
  { via := .ring r, w0 := h.getD 0 0, w1 := h.getD 1 0, w2 := h.getD 2 0, w3 := h.getD 3 0,
    params := (bytesToWords (s.ringBytes r.val i (32 + len))).drop 4 }

def State.ringHead (s : State) (r : Nat) : Nat := s.hf (HB_CRING_PTR r) HB_CRING_PTR_HEAD
def State.ringTail (s : State) (r : Nat) : Nat := s.hf (HB_CRING_PTR r) HB_CRING_PTR_TAIL

/-- Stop a ring (R418). -/
def State.ringError (s : State) (r : Nat) : State := s.whf (HB_CRING_CFG r) HB_CRING_CFG_STATE 2

/-- A command taken: a duplicate in progress is discarded; a HALT goes ahead of the queue; at the queue's limit, and for a
reserved opcode, it is answered at once (R422, R423, R425). -/
def State.takeCmd (s : State) (c : Cmd) : State :=
  let o := originOf s c
  if (match s.activeOf c.tag o c.ringId with | some a => !a.dead | none => false) then s
  else if (opRole c.opcode).isNone then s.reply c ((s.precheck c).getD stBadParam) []
  else if c.opcode = opHalt then s.addActive c false
  else match s.enqueue (cmdQueue c) (queueEntry s c) with
    | some s' => s'.addActive c false
    | none => s.reply c ((s.precheck c).getD stBusy) []

/-- Take the command at HEAD, if the doorbell covers it; none: nothing to take. -/
def State.takeOne (s : State) (r : RingIdx) : Option State :=
  let head := s.ringHead r.val
  let avail := (s.ringTail r.val + 1024 - head) % 1024
  if avail = 0 ∨ s.hf (HB_CRING_CFG r.val) HB_CRING_CFG_STATE ≠ 1 ∨ s.hf HB_BRIDGE HB_BRIDGE_READY ≠ 1 then none
  else
    let c := s.ringCmd r head
    if 65440 < c.len ∨ c.len % 8 ≠ 0 then
      some ((s.ringError r.val).sendReply 1 c.tag s.pkg r.val stBadParam c.opcode [])
    else
      let need := cdiv (32 + c.len) 64
      if avail < need then none
      else some ((s.takeCmd c).whf (HB_CRING_PTR r.val) HB_CRING_PTR_HEAD ((head + need) % 1024))

/-- Take every command a doorbell covers. fuel: slots. -/
def State.takeRing : Nat → State → RingIdx → State
  | 0, s, _ => s
  | n + 1, s, r =>
    match s.takeOne r with
    | none => s
    | some s' => State.takeRing n s' r

/-- COMMAND_DOORBELL: TAIL is written. While EN is 0 the pointers stay 0 (log entry). -/
def State.doorbell (s : State) (r : RingIdx) (v : Word) : State :=
  let old := s.ringTail r.val
  let new := getField v HB_CRING_PTR_TAIL
  let free := (s.ringHead r.val + 1023 - old) % 1024
  if !s.isBridge || s.hf (HB_CRING_CFG r.val) HB_CRING_CFG_EN == 0 then s
  else if s.hf (HB_CRING_CFG r.val) HB_CRING_CFG_STATE ≠ 1 then s.whf (HB_CRING_PTR r.val) HB_CRING_PTR_TAIL new
  else if free < (new + 1024 - old) % 1024 then s.ringError r.val
  else State.takeRing 1024 (s.whf (HB_CRING_PTR r.val) HB_CRING_PTR_TAIL new) r

def execCommandDoorbell (r : RingIdx) (v : Word) (s : State) : Out := .next (s.doorbell r v)

/-- A role leaves a channel, with the challenges open on it. -/
def State.dropChallenges (s : State) (ring : Nat) : State :=
  { s with challenges := s.challenges.filter (fun c => c.ring != ring) }

/-- Disable a ring: HEAD, TAIL and ROLE return to 0, and the loss of a role is recorded (R418, R510, R521). -/
def State.ringOff (s : State) (r : Nat) : State :=
  let role := s.hf (HB_CRING_CFG r) HB_CRING_CFG_ROLE
  let s := if role = 0 then s else s.auditRec 3 role 0 0 s.pkg r 0 0 0 0
  let s := ((s.whf (HB_CRING_CFG r) HB_CRING_CFG_EN 0).whf (HB_CRING_CFG r) HB_CRING_CFG_STATE 0).whf (HB_CRING_CFG r) HB_CRING_CFG_ROLE 0
  (s.setHreg (HB_CRING_PTR r) 0).dropChallenges r

/-- COMMAND_RING_ENABLE: HB_CRINGr_CFG is written (R418, Table 14-17). -/
def State.ringCfg (s : State) (r : Nat) (v : Word) : State :=
  if !s.isBridge then s
  else
    let s := s.whf (HB_CRING_CFG r) HB_CRING_CFG_EVQ (getField v HB_CRING_CFG_EVQ)
    if getField v HB_CRING_CFG_EN = 0 then s.ringOff r
    else if s.hf (HB_CRING_CFG r) HB_CRING_CFG_EN = 1 then s
    else ((s.ringOff r).whf (HB_CRING_CFG r) HB_CRING_CFG_EN 1).whf (HB_CRING_CFG r) HB_CRING_CFG_STATE 1

def execCommandRingEnable (r : RingIdx) (v : Word) (s : State) : Out := .next (s.ringCfg r.val v)

/-! ## Broadcast HALT (R431) -/

/-- W2 and W3 of the reply to a broadcast HALT. -/
def haltBody (a : ActiveCmd) : List Word :=
  let miss := a.awaits ++ a.bad
  [packFields [(bits 11 0, a.reached), (bits 23 12, a.reached - miss.length)],
   BitVec.ofNat 64 ((miss.take 4).zipIdx.map (fun p => p.1 * 2 ^ (12 * p.2))).sum]

/-- Answer a broadcast HALT with a status. -/
def State.haltReply (s : State) (a : ActiveCmd) (status : Nat) : State :=
  let s := s.dropActive a.tag a.origin a.ring
  let e := eventEntry s.pkg 1 a.tag s.epoch status a.opcode (haltBody a)
  let s := { s with dups := rememberIn s.dups { tag := a.tag, origin := a.origin, ring := a.ring, reply := e } }
  if a.dead then s else s.sendReply 1 a.tag a.origin a.ring status a.opcode (haltBody a)

/-- One package answered a broadcast HALT. -/
def State.haltAnswer (s : State) (a : ActiveCmd) (p status : Nat) : State :=
  let a' := { a with awaits := a.awaits.filter (fun q => q != p), bad := if status = stOk then a.bad else a.bad ++ [p] }
  let s := { s with active := s.active.map (fun x => if x = a then a' else x) }
  if a'.awaits.isEmpty then s.haltReply a' (if a'.bad.isEmpty then stOk else if status = stLinkDown then stLinkDown else stTimeout)
  else s

/-! ## CMD_TIMEOUT (R430) -/

/-- Frames since frame a. -/
def State.framesSince (s : State) (a : Nat) : Nat := (s.frame + 2 ^ 48 - a) % 2 ^ 48

def State.cmdTimeout (s : State) (c : Cmd) : State :=
  match s.activeOf c.tag (originOf s c) c.ringId with
  | none => s
  | some a =>
    if isForwarded c || a.dead || decide (s.framesSince a.started < s.hf HB_BRIDGE HB_BRIDGE_CMD_TIMEOUT) then s
    else if a.target = 0xFFF then s.haltReply a stTimeout
    else
      let s := { s with active := s.active.map (fun x => if x = a then { a with dead := true } else x) }
      s.sendReply 1 a.tag a.origin a.ring stTimeout a.opcode []

def execCmdTimeout (c : Cmd) (s : State) : Out := .next (s.cmdTimeout c)

/-! ## Messages that arrive -/

/-- A Hearth message after reassembly (R429): the package it came from, its header and its words. -/
structure HearthMsg where
  src : Nat
  tag : Nat
  origin : Nat
  ring : Nat
  body : List Word
  deriving DecidableEq, Repr

def mkCommand : Nat := 0
def mkReply : Nat := 1
def mkEvent : Nat := 2
def mkSkyDone : Nat := 3

/-- The package a HEARTH packet comes from. -/
def hearthSrc (p : Packet) : Nat :=
  if Packet.relay p then getField p.w3 (bits 11 0) else getField p.w1 (bits 27 16)

/-- A segment joins those of its message; answers the whole message's words with its last segment. A segment out of place
drops what was gathered (R429). -/
def State.gather (s : State) (l : Nat) (p : Packet) : State × Option (List Word) :=
  let src := hearthSrc p
  let x := s.link l
  let seg := getField p.w2 (bits 15 8)
  let have' := match x.parts.find? (fun e => e.1 == src) with | some e => e.2 | none => []
  let got := if seg = 0 then [] else have'
  let rest := x.parts.filter (fun e => e.1 != src)
  let ws := got ++ bytesToWords p.payload
  if 64 * seg ≠ got.length then (s.setLink l { x with parts := rest }, none)
  else if seg = getField p.w2 (bits 23 16) then (s.setLink l { x with parts := rest }, some ws)
  else (s.setLink l { x with parts := rest ++ [(src, ws)] }, none)

/-- A HEARTH packet of message kind k: received, sent on where it is relayed, else taken by the Hearth, which acts on a
complete message. -/
def State.hearthPacket (s : State) (l k : Nat) (p : Packet) (act : State → HearthMsg → State) : State :=
  if getField p.w2 (bits 7 4) ≠ k then s
  else
    let r := s.receive l ptHearth p
    if !r.2 then r.1
    else if Packet.relay p && Packet.endPkg p != s.pkg then r.1.passOn l p
    else
      let s := r.1.freePool l 0 (Packet.units p)
      if getField p.w2 (bits 3 0) ≠ 1 then s
      else
        let g := s.gather l p
        match g.2 with
        | none => g.1
        | some ws => act g.1 { src := hearthSrc p, tag := getField p.w2 (bits 39 24), origin := getField p.w2 (bits 51 40),
                               ring := getField p.w2 (bits 59 52), body := ws }

/-- The command of a COMMAND message. -/
def msgCmd (m : HearthMsg) : Cmd :=
  { via := .forwarded, w0 := m.body.getD 0 0, w1 := m.body.getD 1 0, w2 := m.body.getD 2 0, w3 := m.body.getD 3 0,
    params := (m.body.drop 4).take (getField (m.body.getD 0 0) (bits 63 48) / 8) }

/-- HEARTH_COMMAND: a forwarded command, discarded under a stale EPOCH (R421, R428). -/
def State.hearthCommand (s : State) (m : HearthMsg) : State :=
  let c := msgCmd m
  let e := getField c.w1 (bits 31 0)
  let from' := getField c.w1 (bits 43 32)
  if s.mode = .off ∨ e < sparseGet zeroDefault s.peerEpochs from' then s
  else ({ s with peerEpochs := sparseSet zeroDefault s.peerEpochs from' e } : State).takeCmd c

def execHearthCommand (l : LinkId) (p : Packet) (s : State) : Out :=
  .next (s.hearthPacket l.val mkCommand p (fun s m => s.hearthCommand m))

/-- HEARTH_REPLY: a reply or APPLIED entry from a target; the reply of a command no longer waited for is dropped (R428, R430). -/
def State.hearthReply (s : State) (m : HearthMsg) : State :=
  let w0 := m.body.getD 0 0
  let w1 := m.body.getD 1 0
  let kind := getField w0 (bits 47 32)
  let st := getField w1 (bits 35 32)
  let op := getField w1 (bits 47 36)
  let put := fun (s : State) =>
    if m.ring < 16 then
      let q := s.hf (HB_CRING_CFG m.ring) HB_CRING_CFG_EVQ
      if s.hf (HB_EVQ_CFG q) HB_EVQ_CFG_EN = 1 ∧ s.hf (HB_CRING_CFG m.ring) HB_CRING_CFG_EN = 1 then s.putEvent q (m.body.take 8) else s
    else s.putLocal m.ring (m.body.take 8)
  if kind = 2 then put s
  else match s.activeOf m.tag s.pkg m.ring with
    | none => s
    | some a =>
      if a.target = 0xFFF then s.haltAnswer a m.src st
      else if op ≠ a.opcode then s
      else if a.dead then s.dropActive m.tag s.pkg m.ring
      else put (s.dropActive m.tag s.pkg m.ring)

def execHearthReply (l : LinkId) (p : Packet) (s : State) : Out :=
  .next (s.hearthPacket l.val mkReply p (fun s m => s.hearthReply m))

/-- The fences an arriving fence record asks for: a step with its STEP number, and a plan for the loss of a unit of another
package (R479, R485). -/
def State.actOnRecord (s : State) (ws : List Word) : State :=
  let code := getField (ws.getD 0 0) (bits 31 16)
  let pkg := getField (ws.getD 0 0) (bits 43 32)
  let loc := getField (ws.getD 1 0) (bits 31 0)
  let lead := getField (ws.getD 2 0) (bits 63 48)
  let step := getField (ws.getD 3 0) (bits 63 32)
  let ts := s.steps.filter (fun t => t.num == step && step != 0xFFFFFFFF)
  let lost := if losesUnit code then some (pkg, loc) else none
  let frame := getField (ws.getD 2 0) (bits 47 0)
  let s := if code = F_STEP_RESUME then
      { s with steps := s.steps.map (fun t => if ts.contains t && t.phase == .fenced then
          { t with base := frameAdd frame (lead * 64), longLead := false } else t) }
    else s.fenceSteps { cause := 7, replay := !noReplay code, frame := frame, lead := lead, lost := lost } ts
  match lost with
  | some (pkg, l) =>
    if ts.isEmpty then
      match s.planTable.find? (fun p => (s.planHead (s.planDa p)).nbay == 0 && locContains (s.planHead (s.planDa p)).loc l &&
          (s.planHead (s.planDa p)).lostPkg == pkg) with
      | some p => s.forcePlan p
      | none => s
    else s
  | none => s

/-- HEARTH_EVENT: an event entry; on the bridge it joins host event queue 0. A fence record is forwarded once and acted on
(R426, R479); a report shows on the host's queue where its reactions have INT. -/
def State.hearthEvent (s : State) (m : HearthMsg) : State :=
  let e := m.body.take 8
  let kind := getField (e.getD 0 0) (bits 47 32)
  let ws := (e.drop 2).take 4
  if kind ≠ 0x0080 then (if s.isBridge then s.putEvent 0 e else s)
  else
    let key := (getField (ws.getD 0 0) (bits 43 32), getField (ws.getD 0 0) (bits 31 16), getField (ws.getD 1 0) (bits 31 0),
      getField (ws.getD 2 0) (bits 47 0))
    if s.seenRecords.contains key then s
    else
      let s := { s with seenRecords := s.seenRecords ++ [key] }
      let fence := getField (ws.getD 3 0) (bits 63 32) != 0xFFFFFFFF || losesUnit (getField (ws.getD 0 0) (bits 31 16))
      let s := if s.isBridge && wbit (ws.getD 0 0) 8 then s.putEvent 0 e else s
      if fence then (s.sendHearth { dst := 0xFFF, kind := 2, tag := 0, origin := 0, ring := 0, body := e }).actOnRecord ws else s

def execHearthEvent (l : LinkId) (p : Packet) (s : State) : Out :=
  .next (s.hearthPacket l.val mkEvent p (fun s m => s.hearthEvent m))

end Sys2Proof.Machine
end

