-- ==== Sys2Proof/Machine/Lanes.lean ====
section
/-!
DEFINITION. Sys2Proof/Machine/Lanes.lean: lane maps, their notices and requests, and which channels a link can use (R239, R275 to
R280, R283, R284).
-/

set_option Elab.async false

namespace Sys2Proof.Machine

def State.csm (s : State) (c : Nat) : CsmSt := sparseGet csmDefault s.csms c
def State.setCsm (s : State) (c : Nat) (x : CsmSt) : State := { s with csms := sparseSet csmDefault s.csms c x }

/-! ## Channels and rings -/

/-- States of a channel (Table 9-12). -/
def chOff : Nat := 0
def chLit : Nat := 1
def chPending : Nat := 2
def chAttic : Nat := 3
def chSpared : Nat := 4
def chDown : Nat := 5

def State.chan (s : State) (c k : Nat) : Nat := s.rf (LSR_GRID c k) LSR_GRID_STATE
def State.setChan (s : State) (c k n : Nat) : State := s.wf (LSR_GRID c k) LSR_GRID_STATE n

/-- Light reaches the splitter on channel k. -/
def State.chanLit (s : State) (c k : Nat) : Bool := s.chan c k == chLit || s.chan c k == chPending || s.chan c k == chAttic

/-- Fade of channel k at or below SWAP. -/
def State.pastSwap (s : State) (c k : Nat) : Bool := decide (s.rfs (LSR_GRID c k) LSR_GRID_FADE ≤ s.rfs (LSR_CFG c) LSR_CFG_SWAP_DB)

/-- States of a ring loop (Table 9-5). -/
def rgOff : Nat := 0
def rgCold : Nat := 1
def rgSweep : Nat := 2
def rgVerify : Nat := 3
def rgLocked : Nat := 4
def rgCal : Nat := 5
def rgRetired : Nat := 6

/-- The register of ring loop r: 0 to 287 engine rings, 288 to 305 locker rings; one layout (Table 9-19). -/
def ringReg (c r : Nat) : Nat := if r < 288 then TUN_RING c r else TUN_LOCK c (r - 288)

def State.ring (s : State) (c r : Nat) : Nat := s.rf (ringReg c r) TUN_RING_STATE
def State.setRing (s : State) (c r n : Nat) : State := s.wf (ringReg c r) TUN_RING_STATE n

/-- Channel of a ring loop. -/
def ringChan (r : Nat) : Nat := r % 18
/-- 0 a modulator ring, 1 a drop ring, 2 a locker ring. -/
def ringKind (r : Nat) : Nat := r / 144
/-- Engine of an engine ring. -/
def ringEngine (r : Nat) : Nat := r % 144 / 18

/-- The lane a ring fault is reported against (R34); a locker ring's, the grid laser of its channel. -/
def ringLoc (c r : Nat) : Nat :=
  if ringKind r = 2 then locOptical c 3 3 (ringChan r) 0 0 else locOptical c 2 (ringKind r) (ringEngine r) (ringChan r) 0

/-- Transmit or receive engine e of a Casement is powered and not fenced. -/
def State.engineUp (s : State) (c dir e : Nat) : Bool :=
  wbit (s.reg (CSM_STATUS c)) ((if dir = 0 then 8 else 16) + e)

/-! ## Maps -/

/-- A link that carries sequenced traffic or is between re-train messages. -/
def State.isLive (s : State) (l : Nat) : Bool :=
  s.linkState l == lkUp || s.linkState l == lkRetraining || s.linkState l == lkAcked

/-- The map a direction will have: the pending one, else the one in force. rx 0 transmit, 1 receive. -/
def State.nextMap (s : State) (l rx : Nat) : List Nat :=
  match (if rx = 0 then (s.link l).txPend else (s.link l).rxPend) with
  | some p => p.map
  | none => s.laneMap l rx

/-- The map with channel j in place of k. -/
def moveChan (m : List Nat) (k j : Nat) : List Nat := m.map (fun x => if x = k then j else x)

/-- The map after channel k comes back: the lane of its own number returns to it, or for a spare the lowest lane that is down. -/
def restoreMap (m : List Nat) (k : Nat) : List Nat :=
  if m.contains k then m
  else if k < 16 then (if 16 ≤ m.getD k 0x1F then m.set k k else m)
  else match m.findIdx? (fun x => x == 0x1F) with
    | some i => m.set i k
    | none => m

/-- The lowest usable spare channel of a Casement (R275). -/
def State.spareFor (s : State) (c : Nat) : Option Nat :=
  [16, 17].find? (fun j =>
    (s.chan c j == chLit || s.chan c j == chAttic) && !s.pastSwap c j &&
    (List.range 8).all (fun e => s.ring c (e * 18 + j) != rgRetired) &&
    (csmLinks c).all (fun l => !(s.laneMap l 0).contains j && !(s.nextMap l 0).contains j && !(s.link l).exclTx.getLsbD j))

/-! ## Notices and requests (Table 9-4) -/

def lmNotice : Nat := 0
def lmVacate : Nat := 1
def lmRestore : Nat := 2
def lmExclude : Nat := 3

structure LaneMsg where
  version : Nat
  kind : Nat
  serial : Nat
  chan : Nat
  epoch : Nat
  map : List Nat
  deriving DecidableEq, Repr

def laneMsgOf (bs : List Byte) : LaneMsg :=
  let n := bytesToNat (bs.take 32)
  { version := n % 16, kind := n / 2 ^ 4 % 16, serial := n / 2 ^ 16 % 256, chan := n / 2 ^ 24 % 32, epoch := n / 2 ^ 32 % 2 ^ 48,
    map := (List.range 16).map (fun i => n / 2 ^ (80 + 5 * i) % 32) }

/-- A map as the 80 bits of MAP. -/
def mapBits (m : List Nat) : Nat := (m.zipIdx.map (fun p => p.1 % 32 * 2 ^ (5 * p.2))).sum

def laneMsgBytes (l : Nat) (m : LaneMsg) : List Byte :=
  natToBytes 32 (m.version + 2 ^ 4 * m.kind + 2 ^ 8 * l + 2 ^ 16 * m.serial + 2 ^ 24 * m.chan + 2 ^ 32 * m.epoch +
    2 ^ 80 * mapBits m.map)

/-- Queue a lane message on VC0 of a link. -/
def State.sendLane (s : State) (l : Nat) (m : LaneMsg) : State :=
  s.linkPut l 0 (s.packetBytes l ptLinkCtl 0 1 0 none (laneMsgBytes l m)) none 0 0

/-- Ask the author of a link's receive direction for a change. -/
def State.askLane (s : State) (l kind k : Nat) : State :=
  if s.isLive l then s.sendLane l { version := 1, kind := kind, serial := 0, chan := k, epoch := 0, map := [] } else s

/-- The frames from a notice to its epoch. -/
def State.epochLead (s : State) (c : Nat) : Nat := max 1 (s.rf (TUN_CFG c) TUN_CFG_EPOCH_LEAD)

/-- Change the transmit map of a link at an epoch frame: by a notice where the link is live, at once where it is not. A newer
notice takes the place of one that waits. A Dararn 1 link keeps its map (R278 to R280). -/
def State.planMap (s : State) (l : Nat) (m : List Nat) (epoch : Nat) : State :=
  if s.isD1 l || m == s.nextMap l 0 then s
  else if s.isLive l then
    let x := s.link l
    let cur := match x.txPend with | some p => p.serial | none => s.mapSerial l 0
    let ser := (cur + 1) % 256
    let s := s.sendLane l { version := 1, kind := lmNotice, serial := ser, chan := 0, epoch := epoch, map := m }
    (s.setLink l { s.link l with txPend := some { epoch := epoch, serial := ser, map := m } }).wf (TUN_LMAP_HI l 0)
      TUN_LMAP_HI_PEND 1
  else s.setLaneMap l 0 m (s.mapSerial l 0)

/-- A planned change with the least lead. -/
def State.planSoon (s : State) (l : Nat) (m : List Nat) : State := s.planMap l m (frameAdd s.frame (s.epochLead (l / 16)))

/-! ## Calibrations that give way (Table 9-7) -/

/-- Put the lanes that a calibration of ring r moved back: at once on the links of a list, by a notice on the others; for a drop
ring its authors are asked to (R288, R289). -/
def State.unmove (s : State) (c r : Nat) (now : List Nat) : State :=
  let k := ringChan r
  let s := (s.csm c).moved.foldl (fun s p =>
    if ringKind r = 1 then s.askLane p.1 lmRestore k
    else
      let m := (s.nextMap p.1 0).set p.2 k
      if now.contains p.1 then s.setLaneMap p.1 0 m (s.mapSerial p.1 0) else s.planSoon p.1 m) s
  s.setCsm c { s.csm c with moved := [] }

/-- End the calibration in progress as skipped: its ring keeps its bias and levels (R289). -/
def State.skipCal (s : State) (c : Nat) (now : List Nat) : State :=
  let r := s.rf (TUN_CAL c) TUN_CAL_RING
  let s := if s.ring c r = rgCal then s.setRing c r rgLocked else s
  let s := (s.satf (TUN_CAL c) TUN_CAL_SKIPPED 1).wf (TUN_CAL c) TUN_CAL_BUSY 0
  let s := s.unmove c r now
  s.setCsm c { s.csm c with calPhase := .idle }

/-- The calibration in progress holds a spare channel of the Casement. -/
def State.calHolds (s : State) (c : Nat) : Bool :=
  (s.csm c).calPhase != .idle && (s.csm c).moved != [] && ringKind (s.rf (TUN_CAL c) TUN_CAL_RING) == 0

/-- Lanes that peers had vacated come back, so that a spare is free: the map of link l without them. -/
def State.unvacate (s : State) (l : Nat) (m : List Nat) : List Nat :=
  (List.range 18).foldl (fun m k => if (s.link l).vacTx.getLsbD k then restoreMap m k else m) m

/-- The channel a failing lane of link l moves to, the calibration giving way where it holds the only spare; and the state
after that. -/
def State.takeSpare (s : State) (c : Nat) (now : List Nat) : Nat × State :=
  match s.spareFor c with
  | some j => (j, s)
  | none =>
    if s.calHolds c then
      let s := s.skipCal c now
      ((s.spareFor c).getD 0x1F, s)
    else
      let s := now.foldl (fun s l => s.setLaneMap l 0 (s.unvacate l (s.laneMap l 0)) (s.mapSerial l 0)) s
      ((s.spareFor c).getD 0x1F, s)

/-! ## Lanes that fail (R276, R283, R284) -/

/-- The transmit map of link l changes at once and the link re-trains with it. -/
def State.changeMap (s : State) (l : Nat) (m : List Nat) : State :=
  if m == s.laneMap l 0 then s else (s.setLaneMap l 0 m (s.mapSerial l 0)).startRetrain l

/-- Every link of a Casement loses the lane on channel k of its transmit direction. -/
def State.failTx (s : State) (c k : Nat) : State :=
  let ls := (csmLinks c).filter (fun l => (s.laneMap l 0).contains k || (s.nextMap l 0).contains k)
  if ls.isEmpty then s
  else
    let r := s.takeSpare c ls
    ls.foldl (fun s l => s.changeMap l (moveChan (s.laneMap l 0) k (if s.isD1 l then 0x1F else r.1))) r.2

/-- Every link of a Casement whose receive map uses channel k asks its author, in a re-train, to leave it. -/
def State.failRx (s : State) (c k : Nat) : State :=
  (csmLinks c).foldl (fun s l =>
    let x := s.link l
    let s := s.setLink l { x with exclRx := x.exclRx ||| BitVec.ofNat 18 (2 ^ k) }
    if (s.laneMap l 1).contains k then s.startRetrain l else s) s

/-- Channel k comes back into use of the transmit direction by a planned epoch. -/
def State.returnTx (s : State) (c k : Nat) : State :=
  if !s.chanLit c k then s
  else (csmLinks c).foldl (fun s l =>
    if (s.link l).exclTx.getLsbD k then s else s.planSoon l (restoreMap (s.nextMap l 0) k)) s

/-- Channel k of the receive direction is usable again: every author that left it is asked to restore it. -/
def State.returnRx (s : State) (c k : Nat) : State :=
  (csmLinks c).foldl (fun s l =>
    let x := s.link l
    if x.exclRx.getLsbD k then
      (s.setLink l { x with exclRx := x.exclRx &&& ~~~(BitVec.ofNat 18 (2 ^ k)) }).askLane l lmRestore k
    else s) s

/-! ## A calibration that waits (R288) -/

/-- Some live link of the Casement uses channel k in a direction, by the map in force or the one to come. -/
def State.chanUsed (s : State) (c dir k : Nat) : Bool :=
  (csmLinks c).any (fun l => s.isLive l && (s.laneMap l dir).contains k)

/-- A ring that was waiting enters CAL once no live link uses its channel. -/
def State.calReady (s : State) (c : Nat) : State :=
  let r := s.rf (TUN_CAL c) TUN_CAL_RING
  match (s.csm c).calPhase with
  | .vacating _ =>
    if s.chanUsed c (ringKind r) (ringChan r) then s
    else (s.setRing c r rgCal).setCsm c { s.csm c with calPhase := .cal }
  | _ => s

/-! ## Spare-channel remaps that wait (R275) -/

/-- Laser n of a Casement, numbered as LSR_COMMn: grid lasers, Attic lasers, carriers. -/
def laserLoc (c n : Nat) : Nat :=
  if n < 18 then locOptical c 3 3 n 0 0 else if n < 22 then locOptical c 3 4 (n - 18) 0 0 else locOptical c 3 5 (n - 22) 0 0

def State.powerJob (s : State) (u : Nat) : Option PowerJob := s.power.find? (fun (j : PowerJob) => j.unit == u)

/-- Put the job of a unit in place of any it has. -/
def State.setJob (s : State) (j : PowerJob) : State :=
  { s with power := s.power.filter (fun (x : PowerJob) => x.unit != j.unit) ++ [j] }

def State.dropJob (s : State) (u : Nat) : State := { s with power := s.power.filter (fun (x : PowerJob) => x.unit != u) }

/-- A change that runs with no command. -/
def runJob (u : Nat) (on : Bool) : PowerJob :=
  { unit := u, on := on, busy := true, frames := 0, next := none, cmd := none, nextCmd := none }

/-- A laser ramps down over 1 ms (R273, R292). -/
def State.rampDown (s : State) (c n : Nat) : State :=
  match s.powerJob (laserLoc c n) with
  | some j => if j.busy && !j.on then s else s.setJob (runJob (laserLoc c n) false)
  | none => s.setJob (runJob (laserLoc c n) false)

/-- A channel pending without an Attic laser whose links have all left it is SPARED, and its laser ramps down. A Dararn 1 link
still on it loses the lane. -/
def State.remapDone (s : State) (c k : Nat) : State :=
  let moves := fun (l : Nat) => !s.isD1 l && (s.laneMap l 0).contains k
  if s.chan c k = chPending && !(s.csm c).swaps.any (fun w => w.chan == k) && !(csmLinks c).any moves then
    let src := s.rf (LSR_GRID c k) LSR_GRID_SOURCE
    let s := (s.setChan c k chSpared).satf (LSR_STATUS c) LSR_STATUS_REMAP_COUNT 1
    let s := if src < 4 then s.rampDown c k
      else (s.wf (LSR_ATTIC c (src - 4)) LSR_ATTIC_STATE 5).rampDown c (18 + (src - 4))
    s.failTx c k
  else s

def State.remapsDone (s : State) (c : Nat) : State := (List.range 18).foldl (fun s k => s.remapDone c k) s

/-! ## Epochs -/

/-- Apply a pending map whose epoch frame has begun. -/
def State.applyTx (s : State) (l : Nat) : State :=
  match (s.link l).txPend with
  | some p =>
    if frameReached s.frame p.epoch then
      ((s.setLaneMap l 0 p.map p.serial).wf (TUN_LMAP_HI l 0) TUN_LMAP_HI_PEND 0).setLink l { s.link l with txPend := none }
    else s
  | none => s

def State.applyRx (s : State) (l : Nat) : State :=
  match (s.link l).rxPend with
  | some p =>
    if frameReached s.frame p.epoch then
      ((s.setLaneMap l 1 p.map p.serial).wf (TUN_LMAP_HI l 1) TUN_LMAP_HI_PEND 0).setLink l { s.link l with rxPend := none }
    else s
  | none => s

/-- LANE_MAP_EPOCH: the maps of a link whose epoch frame has begun come into force (R278). -/
def State.laneEpoch (s : State) (l : Nat) : State :=
  if 128 ≤ l then s
  else
    let c := l / 16
    (((s.applyTx l).applyRx l).calReady c).remapsDone c

def execLaneMapEpoch (l : LinkId) (s : State) : Out := .next (s.laneEpoch l.val)

/-! ## Lane messages that arrive -/

/-- A LANE_MAP packet of a kind: received, its pool units freed, and acted on where its version is known (R10). -/
def State.lanePacket (s : State) (l kind : Nat) (p : Packet) (act : State → LaneMsg → State) : State :=
  let m := laneMsgOf p.payload
  if getField p.w2 (bits 7 0) ≠ 1 ∨ m.kind ≠ kind ∨ 128 ≤ l then s
  else
    let r := s.receive l ptLinkCtl p
    if !r.2 then r.1
    else
      let s := r.1.freePool l 0 (Packet.units p)
      if m.version ≠ 1 then s else act s m

/-- A notice with a newer serial waits for its epoch; a late one for the next boundary (R279). -/
def State.laneNotice (s : State) (l : Nat) (m : LaneMsg) : State :=
  let d := (m.serial + 256 - s.mapSerial l 1) % 256
  if s.isD1 l || d == 0 || decide (127 < d) then s
  else
    let late := frameReached s.frame m.epoch
    let s := if late then s.satf (TUN_CAL (l / 16)) TUN_CAL_LATE_EPOCHS 1 else s
    (s.setLink l { s.link l with
      rxPend := some { epoch := if late then frameAdd s.frame 1 else m.epoch, serial := m.serial, map := m.map } }).wf
      (TUN_LMAP_HI l 1) TUN_LMAP_HI_PEND 1

def execLaneMapNotice (l : LinkId) (p : Packet) (s : State) : Out :=
  .next (s.lanePacket l.val lmNotice p (fun s m => s.laneNotice l.val m))

/-- VACATE: the author moves the lane on channel k to a usable spare; without one it answers nothing (R278, R289). -/
def State.laneVacate (s : State) (l k : Nat) : State :=
  if !(s.nextMap l 0).contains k then s
  else match s.spareFor (l / 16) with
    | none => s
    | some j =>
      let x := s.link l
      (s.setLink l { x with vacTx := x.vacTx ||| BitVec.ofNat 18 (2 ^ k) }).planSoon l (moveChan (s.nextMap l 0) k j)

def execVacate (l : LinkId) (p : Packet) (s : State) : Out :=
  .next (s.lanePacket l.val lmVacate p (fun s m => s.laneVacate l.val m.chan))

/-- RESTORE: the lane moves back. -/
def State.laneRestore (s : State) (l k : Nat) : State :=
  let x := s.link l
  let off := ~~~(BitVec.ofNat 18 (2 ^ k))
  let s := s.setLink l { x with vacTx := x.vacTx &&& off, exclTx := x.exclTx &&& off }
  if k < 18 ∧ s.chanLit (l / 16) k then s.planSoon l (restoreMap (s.nextMap l 0) k) else s

def execRestore (l : LinkId) (p : Packet) (s : State) : Out :=
  .next (s.lanePacket l.val lmRestore p (fun s m => s.laneRestore l.val m.chan))

/-- EXCLUDE: the author stops using channel k; the lane goes down where no spare is usable (R283). -/
def State.laneExclude (s : State) (l k : Nat) : State :=
  let x := s.link l
  let s := s.setLink l { x with exclTx := x.exclTx ||| BitVec.ofNat 18 (2 ^ k) }
  if (s.nextMap l 0).contains k then s.planSoon l (moveChan (s.nextMap l 0) k ((s.spareFor (l / 16)).getD 0x1F)) else s

def execExclude (l : LinkId) (p : Packet) (s : State) : Out :=
  .next (s.lanePacket l.val lmExclude p (fun s m => s.laneExclude l.val m.chan))

end Sys2Proof.Machine
end

