-- ==== Sys2Proof/Machine/Timebase.lean ====
section
/-!
DEFINITION. Sys2Proof/Machine/Timebase.lean: the Beat (R294, R302 to R310), fibre delays and launch values (R311 to R313).
Times are in units of 25 ps; a frame holds 327,680 of them.
-/

set_option Elab.async false

namespace Sys2Proof.Machine

/-! ## Time -/

def frameSubs : Nat := 327680

/-- A time of a frame and an offset in it. -/
def timeAt (frame sub : Nat) : Nat := frame % 2 ^ 48 * frameSubs + sub

/-- a − b, taken as the nearest of the frame counter's wraps. -/
def timeDiff (a b : Nat) : Int :=
  let m : Int := 2 ^ 48 * frameSubs
  ((a : Int) - b + m / 2) % m - m / 2

/-! ## Fibre delay and launch (R311, R313) -/

def fibreSamples (_ : Nat) : List Nat := []

/-- W and A0 of a delay D: 128 ns is 5,120 units. -/
def leadOfDelay (d : Nat) : Nat × Nat := (cdiv d 5120, 5120 * cdiv d 5120 - d)

/-- Fix D, W and A of transmit fibre f from the average of the delays held. -/
def State.fixLaunch (s : State) (c f : Nat) : State :=
  let ds := sparseGet fibreSamples (s.csm c).delays f
  if ds.length < 16 then s
  else
    let d := ds.sum / 16
    let w := leadOfDelay d
    let s := s.wfs (STR_DELAY c f) [(STR_DELAY_VALID, 1), (STR_DELAY_W, w.1), (STR_DELAY_A, w.2), (STR_DELAY_D, d)]
    s.setCsm c { s.csm c with offsets := sparseSet zeroDefault (s.csm c).offsets f w.2 }

/-- The link that owns fibre pair f of a Casement, where one is enabled. -/
def State.pairLink (s : State) (c f : Nat) : Option Nat :=
  (csmLinks c).find? (fun l => s.rf (DRL_CFG l) DRL_CFG_EN == 1 && s.linkOwner l == l && (s.linkPairs l).contains f)

def State.pairOn (s : State) (c f : Nat) : Bool := s.rf (CSM_PAIR c f) CSM_PAIR_EN == 1

/-- A delay of pair f, of an exchange. Before the link trains the launch values follow the average. -/
def State.noteDelay (s : State) (c f d : Nat) : State :=
  let x := s.csm c
  let s := s.setCsm c { x with
    delays := sparseSet fibreSamples x.delays f ((d :: sparseGet fibreSamples x.delays f).take 16) }
  match s.pairLink c f with
  | some l => if s.isLive l then s else s.fixLaunch c f
  | none => s.fixLaunch c f

/-- The peer's ARRIVAL: A moves toward the planned point by at most 0.1 ns, or the link re-trains where A would leave its range
(R313). -/
def State.noteArrival (s : State) (c f : Nat) (arr : Int) : State :=
  let s := s.wf (STR_DELAY c f) STR_DELAY_ARRIVAL (toCode 16 arr)
  if s.rf (STR_DELAY c f) STR_DELAY_VALID = 0 then s
  else
    let move : Int := max (-4) (min 4 arr)
    let a : Int := (s.rf (STR_DELAY c f) STR_DELAY_A : Int) - move
    let a0 : Int := (sparseGet zeroDefault (s.csm c).offsets f : Nat)
    if 0 ≤ a ∧ a < 5120 ∧ a - a0 ≤ 60 ∧ a0 - a ≤ 60 then s.wf (STR_DELAY c f) STR_DELAY_A a.toNat
    else match s.pairLink c f with
      | some l => s.startRetrain l
      | none => s

/-! ## Beat states (Table 10-3) -/

def btAcquire : Nat := 0
def btElect : Nat := 1
def btAligning : Nat := 2
def btAligned : Nat := 3
def btHoldover : Nat := 4
def btUnaligned : Nat := 5
def btMaster : Nat := 6

def State.beatState (s : State) : Nat := s.rf STR_BEAT STR_BEAT_STATE
def State.candidate (s : State) : Bool := s.rf HRT_PKGID HRT_PKGID_BEAT_CANDIDATE == 1 && s.pkg != 0

/-- Enter a Beat state. -/
def State.toBeat (s : State) (st : Nat) : State :=
  ({ s with beat := { s.beat with since := s.frame } } : State).wf STR_BEAT STR_BEAT_STATE st

/-- An optical fibre pair is enabled (R310). -/
def State.opticalOn (s : State) : Bool := (List.range 8).any (fun c => (List.range 16).any (fun f => s.pairOn c f))

/-- The timebase follows FSYNC_IN (R310). -/
def State.fsyncOn (s : State) : Bool := s.rf STR_CFG STR_CFG_FSYNC_SRC == 1 && !s.opticalOn

/-- The lowest-ID entry of a list of packages heard. -/
def lowestHeard (hs : List Heard) : Option Heard :=
  hs.foldl (fun acc h => match acc with
    | none => some h
    | some g => if h.pkg < g.pkg then some h else some g) none

/-- A package heard within the last HOLD_FRAMES frames. -/
def State.heardNow (s : State) (h : Heard) : Bool := decide (s.framesSince h.frame < s.rf STR_CFG STR_CFG_HOLD_FRAMES)

/-- The reference for a master (R304): the master itself, else the lowest-ID stratum-1 package; and the stratum it gives. A
package on DARARN_E links alone takes any sender, at one more than its stratum (R310). -/
def State.reference (s : State) (master : Nat) : Option (Heard × Nat) :=
  let hs := s.beat.heard.filter s.heardNow
  match hs.find? (fun h => h.pkg == master) with
  | some h => some (h, 1)
  | none =>
    if s.fsyncOn then (lowestHeard (hs.filter (fun h => h.aligned || h.master))).map (fun h => (h, min 3 (h.stratum + 1)))
    else (lowestHeard (hs.filter (fun h => h.stratum == 1 && h.masterId == master))).map (fun h => (h, 2))

/-- The master a package would follow (R302, R308): one that is master, the lowest; else the lowest candidate heard; else the one
that the packages heard follow. -/
def State.masterHeard (s : State) : Option Nat :=
  let hs := s.beat.heard.filter s.heardNow
  match lowestHeard (hs.filter (fun h => h.master)) with
  | some h => some h.pkg
  | none =>
    match hs.find? (fun h => h.aligned && h.masterId != 0 && h.masterId != s.pkg) with
    | some h => some h.masterId
    | none => (lowestHeard (hs.filter (fun h => h.candidate && h.pkg != 0))).map (fun h => h.pkg)

/-- What was noted of a package, after this package's counter moved by d frames. -/
def Heard.shift (h : Heard) (d : Nat) : Heard :=
  { h with frame := frameAdd h.frame d, alignedAt := h.alignedAt.map (fun a => frameAdd a d),
           delta := (h.delta + 2 ^ 48 - d) % 2 ^ 48 }

/-- Step once to the reference's counter and discipline from then on (R303). -/
def State.alignTo (s : State) (master : Nat) (r : Heard × Nat) : State :=
  let s := s.wf STR_FRAME STR_FRAME_FRAME (s.frame + r.1.delta)
  let s := s.wfs STR_BEAT [(STR_BEAT_MASTER_ID, master), (STR_BEAT_REF_ID, r.1.pkg), (STR_BEAT_STRATUM, r.2)]
  { s with beat := { s.beat with
      since := s.frame, lastRef := s.frame, offsets := [], within := 0, heard := s.beat.heard.map (fun h => h.shift r.1.delta) } }

/-- Enter ALIGNING toward a master, or UNALIGNED where no reference is in reach (R304). -/
def State.seekReference (s : State) (master : Nat) : State :=
  match s.reference master with
  | some r => (s.alignTo master r).toBeat btAligning
  | none =>
    ((s.wfs STR_BEAT [(STR_BEAT_MASTER_ID, master), (STR_BEAT_REF_ID, 0), (STR_BEAT_STRATUM, 3)]).toBeat btUnaligned).note
      F_BEAT_UNREACHABLE locPackage 0

def State.becomeMaster (s : State) : State :=
  (s.wfs STR_BEAT [(STR_BEAT_MASTER_ID, s.pkg), (STR_BEAT_REF_ID, 0), (STR_BEAT_STRATUM, 0)]).toBeat btMaster

/-- The optical links go down with cause Beat (R351). -/
def State.beatLinksDown (s : State) : State := (List.range 128).foldl (fun s l => s.goDown l 5) s

/-! ## ELECT (R303) -/

/-- ELECT_END. -/
def State.electEnd (s : State) : State :=
  if s.beatState ≠ btElect ∨ s.framesSince s.beat.since < s.rf STR_CFG STR_CFG_ELECT_FRAMES then s
  else
    let lower := s.beat.heard.any (fun h => s.heardNow h && h.candidate && h.pkg != 0 && decide (h.pkg < s.pkg))
    let other := s.beat.heard.any (fun h => s.heardNow h && h.master)
    if s.candidate && !lower && !other then s.becomeMaster
    else match s.masterHeard with
      | some m => s.seekReference m
      | none => s.toBeat btAcquire

def execElectEnd (s : State) : Out := .next s.electEnd

/-! ## HOLDOVER and handover (R307, R308) -/

/-- This package is the lowest-ID candidate among those still heard that are not the silent master. -/
def State.heirNow (s : State) : Bool :=
  s.candidate && !s.beat.heard.any (fun h => s.heardNow h && h.candidate && h.pkg != 0 && decide (h.pkg < s.pkg)) &&
    !s.beat.heard.any (fun h => s.heardNow h && h.stratum == 1)

/-- HOLDOVER: no usable exchange with the reference for HOLD_FRAMES frames. A new reference is chosen; where the master is silent
at every stratum-1 package, the lowest-ID candidate announces itself 16 frames ahead. -/
def State.holdover (s : State) : State :=
  if s.beatState ≠ btAligned ∨ s.framesSince s.beat.lastRef < s.rf STR_CFG STR_CFG_HOLD_FRAMES then s
  else
    let s := s.toBeat btHoldover
    let m := s.rf STR_BEAT STR_BEAT_MASTER_ID
    match s.reference m with
    | some r => s.wfs STR_BEAT [(STR_BEAT_REF_ID, r.1.pkg), (STR_BEAT_STRATUM, r.2)]
    | none =>
      if s.heirNow then { s with beat := { s.beat with handover := some (frameAdd s.frame 16, s.pkg) } } else s

def execHoldover (s : State) : Out := .next s.holdover

/-- HOLDOVER_EXPIRY: no reference 1,024 frames after HOLDOVER (R304, R307). -/
def State.holdoverExpiry (s : State) : State :=
  if s.beatState ≠ btHoldover ∨ s.framesSince s.beat.since < 1024 then s
  else
    let s := ((s.wf STR_BEAT STR_BEAT_STRATUM 3).toBeat btUnaligned).note F_BEAT_UNREACHABLE locPackage 0
    s.beatLinksDown

def execHoldoverExpiry (s : State) : Out := .next s.holdoverExpiry

/-- HANDOVER_ANNOUNCE: a master names the lower-ID candidate that has been ALIGNED for 1,024 frames. -/
def State.announce (s : State) : State :=
  if s.beatState ≠ btMaster ∨ s.beat.handover.isSome then s
  else
    let ready := s.beat.heard.filter (fun h => s.heardNow h && h.candidate && decide (h.pkg < s.pkg) && h.pkg != 0 &&
      (match h.alignedAt with | some a => decide (1024 ≤ s.framesSince a) | none => false))
    match lowestHeard ready with
    | some h => { s with beat := { s.beat with handover := some (frameAdd s.frame 64, h.pkg) } }
    | none => s

def execHandoverAnnounce (s : State) : Out := .next s.announce

/-- BEAT_HANDOVER: at HANDOVER_FRAME the role moves; no package steps. -/
def State.handover (s : State) : State :=
  match s.beat.handover with
  | none => s
  | some (f, p) =>
    if !frameReached s.frame f then s
    else
      let s := { s with beat := { s.beat with handover := none } }
      if p = s.pkg then s.becomeMaster
      else if s.beatState = btMaster then
        (({ s with beat := { s.beat with offsets := [], within := 0, lastRef := s.frame } } : State).wfs STR_BEAT
          [(STR_BEAT_MASTER_ID, p), (STR_BEAT_REF_ID, p), (STR_BEAT_STRATUM, 1)]).toBeat btAligning
      else s.wf STR_BEAT STR_BEAT_MASTER_ID p

def execBeatHandover (s : State) : Out := .next s.handover

/-! ## Timing records (Table 10-2, R299, R304 to R309) -/

namespace Rec
def candidate (r : TimingRec) : Bool := wbit r.w0 4
def master (r : TimingRec) : Bool := wbit r.w0 5
def aligned (r : TimingRec) : Bool := wbit r.w0 6
def handover (r : TimingRec) : Bool := wbit r.w0 7
def pkg (r : TimingRec) : Nat := getField r.w0 (bits 19 8)
def masterId (r : TimingRec) : Nat := getField r.w0 (bits 31 20)
def stratum (r : TimingRec) : Nat := getField r.w0 (bits 33 32)
def txFibre (r : TimingRec) : Nat := getField r.w0 (bits 37 34)
def pod (r : TimingRec) : Nat := getField r.w0 (bits 63 48)
def txFrame (r : TimingRec) : Nat := getField r.w1 (bits 47 0)
def txSub (r : TimingRec) : Nat := getField r.w2 (bits 18 0)
def hold (r : TimingRec) : Nat := getField r.w4 (bits 42 19)
def echo (r : TimingRec) : Bool := wbit r.w4 43
def t1 (r : TimingRec) : Nat := timeAt (getField r.w3 (bits 47 0)) (getField r.w4 (bits 18 0))
def t3 (r : TimingRec) : Nat := timeAt (txFrame r) (txSub r)
def t4 (r : TimingRec) : Nat := timeAt r.atFrame r.atSub
/-- One-way delay and offset of R305; a half unit is dropped. -/
def delay (r : TimingRec) : Int := (timeDiff (t4 r) (t1 r) - hold r) / 2
def offset (r : TimingRec) : Int := timeDiff (t3 r) (t1 r) - hold r - delay r
end Rec

/-- The sender's frame counter less this package's. -/
def recDelta (r : TimingRec) : Nat :=
  if Rec.echo r then ((Rec.offset r + frameSubs / 2) / frameSubs % 2 ^ 48).toNat else (Rec.txFrame r + 2 ^ 48 - r.atFrame % 2 ^ 48) % 2 ^ 48

/-- Note the sender of a record. -/
def State.hear (s : State) (r : TimingRec) : State :=
  let old := s.beat.heard.find? (fun h => h.pkg == Rec.pkg r)
  let at' := if Rec.aligned r then
      (match old with | some h => (if h.aligned then h.alignedAt else some s.frame) | none => some s.frame) else none
  let was := match old with | some h => h.exchanged | none => false
  let h : Heard := { pkg := Rec.pkg r, candidate := Rec.candidate r, master := Rec.master r, aligned := Rec.aligned r,
                     masterId := Rec.masterId r, stratum := Rec.stratum r, frame := s.frame, alignedAt := at',
                     exchanged := was || Rec.echo r, delta := recDelta r }
  { s with beat := { s.beat with heard := s.beat.heard.filter (fun g => g.pkg != h.pkg) ++ [h] } }

/-- The average of the offsets held. -/
def meanOffset (os : List Int) : Int := if os.isEmpty then 0 else os.sum / os.length

/-- An exchange with the reference: the filter, the slew of at most 0.25 ns, and the states it changes (R303, R305). -/
def State.discipline (s : State) (off : Int) : State :=
  let os := (off :: s.beat.offsets).take 8
  let m := meanOffset os
  let s := s.wfs STR_OFFSET [(STR_OFFSET_OFFSET, toCode 16 m), (STR_OFFSET_LAST_CORR, toCode 16 (max (-10) (min 10 m)))]
  let within := if -40 ≤ off ∧ off ≤ 40 then s.beat.within + 1 else 0
  let s := { s with beat := { s.beat with offsets := os, within := within, lastRef := s.frame } }
  if s.beatState = btAligning ∧ 8 ≤ within then s.toBeat btAligned
  else if s.beatState = btHoldover then s.toBeat btAligned
  else s

/-- Two timebases that meet (R309): equal counters and phases within 4 ns merge under R308, the master of the higher ID handing
over; otherwise they conflict and the pair does not train. -/
def State.meets (s : State) (src : Option (Nat × Nat)) (r : TimingRec) : State :=
  let mine := s.rf STR_BEAT STR_BEAT_MASTER_ID
  let other := Rec.masterId r
  let st := s.beatState
  if !(Rec.aligned r || Rec.master r) || other == 0 || other == mine || !Rec.echo r ||
      !(st == btAligned || st == btHoldover || st == btMaster) || s.beat.handover.isSome || Rec.handover r then s
  else if -160 ≤ Rec.offset r ∧ Rec.offset r ≤ 160 then
    if st = btMaster ∧ other < s.pkg then { s with beat := { s.beat with handover := some (frameAdd s.frame 64, other) } } else s
  else
    let s := s.wf STR_BEAT STR_BEAT_CONFLICT 1
    let s := match src with
      | some p => { s with beat := { s.beat with
          conflicts := if s.beat.conflicts.contains p then s.beat.conflicts else s.beat.conflicts ++ [p] } }
      | none => s
    s.note F_BEAT_CONFLICT locPackage 0

/-- A handover that the sender announces: of its own coming (R307), or by the master, to the lowest candidate heard (R308). -/
def State.hearHandover (s : State) (r : TimingRec) : State :=
  if !Rec.handover r || s.beat.handover.isSome then s
  else
    let f := getField r.w6 (bits 47 0)
    let cand := lowestHeard (s.beat.heard.filter (fun h => h.candidate && h.pkg != 0))
    let best := match cand with
      | some h => if s.candidate && decide (s.pkg < h.pkg) then s.pkg else h.pkg
      | none => s.pkg
    let heir := if Rec.master r then best else Rec.pkg r
    { s with beat := { s.beat with handover := some (f, heir) } }

/-- What a record does to the Beat state. -/
def State.beatRecord (s : State) (r : TimingRec) : State :=
  let st := s.beatState
  if st = btAcquire then s.toBeat btElect
  else if st = btUnaligned ∧ s.rf STR_BEAT STR_BEAT_CONFLICT = 0 then
    let m := (s.masterHeard).getD 0
    match s.reference m with
    | some r => (s.alignTo m r).toBeat btAligning
    | none => s
  else if Rec.pkg r = s.rf STR_BEAT STR_BEAT_REF_ID ∧ Rec.echo r ∧ !s.fsyncOn ∧
      (st = btAligning ∨ st = btAligned ∨ st = btHoldover) then
    let s := if st = btHoldover then s else s.wf STR_BEAT STR_BEAT_MASTER_ID (Rec.masterId r)
    s.discipline (Rec.offset r)
  else s

/-- A record on an optical fibre: parity, delay and arrival (R299, R305, R313). -/
def State.fibreRecord (s : State) (c f : Nat) (r : TimingRec) : State :=
  let odd := Rec.txFibre r % 2 != f % 2
  let s := s.wf (STR_FERR c f) STR_FERR_PARITY (if odd then 1 else 0)
  let s := if odd then s.note F_HALL_PARITY (locCasement c) ((s.pairLink c f).getD (16 * c + f)) else s
  let x := s.csm c
  let s := s.setCsm c { x with
    lastRec := x.lastRec.filter (fun e => e.1 != f) ++ [(f, Rec.txFrame r, Rec.txSub r, r.atFrame, r.atSub)] }
  let s := if Rec.echo r && s.pairOn c f then s.noteDelay c f (Rec.delay r).toNat else s
  if wbit r.w5 16 && s.pairOn c f then s.noteArrival c f (getSigned r.w5 (bits 15 0)) else s

/-- TIMING_RECORD. -/
def State.timingRecord (s : State) (src : RecSrc) (r : TimingRec) : State :=
  if getField r.w0 (bits 3 0) ≠ 1 ∨ s.mode = .off then s
  else if Rec.pod r ≠ s.rf HRT_PKGID HRT_PKGID_POD_ID then
    match src with
    | .fibre c f => s.satf (STR_FERR c.val f.val) STR_FERR_WRONG_PEER 1
    | .porch _ => s
  else
    let s := match src with
      | .fibre c f => s.fibreRecord c.val f.val r
      | .porch _ => s
    let on := match src with
      | .fibre c f => s.pairOn c.val f.val
      | .porch _ => s.fsyncOn
    if !on then s
    else
      let s := s.hear r
      let s := s.meets (match src with | .fibre c f => some (c.val, f.val) | .porch _ => none) r
      (s.hearHandover r).beatRecord r

def execTimingRecord (src : RecSrc) (r : TimingRec) (s : State) : Out := .next (s.timingRecord src r)

/-! ## FSYNC_IN (R310, R552) -/

/-- FSYNC_IN_EDGE: phase is the edge less the boundary the previous edges predict, in 25 ps. -/
def State.fsyncEdge (s : State) (phase : Int) : State :=
  if s.rf STR_CFG STR_CFG_FSYNC_SRC = 0 then s
  else if s.opticalOn then
    if s.beat.fsyncNoted then s
    else ({ s with beat := { s.beat with fsyncNoted := true } } : State).note F_FSYNC_IGNORED locPackage 0
  else if phase < -80 ∨ 80 < phase then s
  else
    let st := s.beatState
    if st = btAligning ∨ st = btAligned ∨ st = btHoldover then
      s.discipline (phase - 4 * s.rf STR_CFG STR_CFG_FSYNC_DELAY)
    else s

def execFsyncInEdge (phase : Int) (_ : Nat) (s : State) : Out := .next (s.fsyncEdge phase)

/-! ## BEAT_REALIGN (R309, R325) -/

def State.beatRealign (s : State) (c : Cmd) : State :=
  if s.rf STR_BEAT STR_BEAT_CONFLICT = 0 ∧ s.beatState ≠ btUnaligned then s.reply c stBadParam []
  else
    let s := s.beatLinksDown
    let s := s.wfs STR_BEAT [(STR_BEAT_CONFLICT, 0), (STR_BEAT_MASTER_ID, 0), (STR_BEAT_REF_ID, 0), (STR_BEAT_STRATUM, 3)]
    let s := { s with beat := { BeatSt.init with fsyncNoted := s.beat.fsyncNoted } }
    (s.toBeat (if s.candidate then btElect else btAcquire)).reply c stOk []

def execBeatRealign (c : Cmd) (s : State) : Out := .next (s.command c 0x433 (fun s => s.beatRealign c))

end Sys2Proof.Machine
end

