-- ==== Sys2Proof/Machine/Plans.lean ====
section
/-!
DEFINITION. Sys2Proof/Machine/Plans.lean: slot plans (R314 to R322), settled steering (R323, R324), the work of a slot (R298, R315)
and bursts that arrive (R254, R258, R296, R297, R322).
-/

set_option Elab.async false

namespace Sys2Proof.Machine

/-! ## Entries (Table 10-4) -/

def entKind (e : Nat) : Nat := e % 4
def entFibre (e : Nat) : Nat := e / 4 % 16
def entPair (e : Nat) : Nat := e / 64 % 16
def entRsv (e : Nat) : Nat := e / 1024 % 64
def entFlow (e : Nat) : Nat := e / 2 ^ 16 % 2 ^ 16

/-- A plan: the entry at each index slot * 16 + engine. -/
abbrev Plan := Nat → Nat

def State.planNow (s : State) (c : Nat) : Plan := fun i => s.rf (STR_PLAN c i) STR_PLAN_ENTRY

def State.settled (s : State) (c e : Nat) : Bool := wbit (s.reg (STR_SETTLED c)) e

/-! ## Validation (R320) -/

/-- A burst that a transmit engine launches: its launch slot, training offset, idle tail, target slot and plan index; a hall
burst has slot 0. -/
structure Launch where
  k : Nat
  a : Nat
  tail : Nat
  slot : Nat
  ix : Nat
  deriving DecidableEq, Repr

/-- The mode of a fibre: that on the line while its link is live, else the one configured. -/
def State.fibreShort (s : State) (c f : Nat) : Bool :=
  match s.pairLink c f with
  | some l => if s.isLive l then s.rf (CSM_PAIR c f) CSM_PAIR_FEC_ACTIVE == 1 else s.rf (CSM_PAIR c f) CSM_PAIR_FEC == 1
  | none => s.rf (CSM_PAIR c f) CSM_PAIR_FEC == 1

/-- The launch of a burst for a slot on a fibre; none while the fibre has no launch values. -/
def State.launchOf (s : State) (c f slot ix : Nat) : Option Launch :=
  if s.rf (STR_DELAY c f) STR_DELAY_VALID = 0 then none
  else some { k := (slot + 64 - s.rf (STR_DELAY c f) STR_DELAY_W) % 64, a := sparseGet zeroDefault (s.csm c).offsets f,
              tail := if s.fibreShort c f then 192 else 704, slot := slot, ix := ix }

/-- The hall bursts of engine e, to both of its hall fibres. -/
def State.hallLaunches (s : State) (c e : Nat) : List Launch :=
  if s.settled c e then []
  else ([2 * e, 2 * e + 1].filter (s.pairOn c)).filterMap (fun f => s.launchOf c f 0 0)

/-- The bursts a plan asks of engine e, by target slot. -/
def State.planLaunches (s : State) (c e : Nat) (p : Plan) : List Launch :=
  (List.range 64).filterMap (fun slot =>
    let i := slot * 16 + e
    if slot = 0 ∨ entKind (p i) = 0 then none else s.launchOf c (entFibre (p i)) slot i)

/-- Burst b cannot be launched after burst a: one launch slot, or the next with too short an idle tail. -/
def Launch.clash (a b : Launch) : Bool :=
  a.k == b.k || ((a.k + 1) % 64 == b.k && decide (a.tail + b.a < a.a + 120))

def Launch.meets (a b : Launch) : Bool := !(a.slot == 0 && b.slot == 0) && (a.clash b || b.clash a)

def noMeets : List Launch → Bool
  | [] => true
  | a :: rest => rest.all (fun b => !a.meets b) && noMeets rest

/-- An entry that breaks R320 by itself. -/
def State.entryFails (s : State) (c i e : Nat) : Bool :=
  let f := entFibre e
  let eng := i % 8
  entKind e == 3 || entRsv e != 0 || (i / 16 == 0 && entKind e != 0) ||
  (entKind e != 0 &&
    (!s.pairOn c f || !(s.linkNamed (16 * c + entPair e) && (s.linkPairs (16 * c + entPair e)).contains f) ||
      s.settled c eng || (f % 2 == 1 && s.settled c (f / 2))))

/-- Two engines of a direction serve one fibre in a slot (R247). -/
def fibreTwice (p : Plan) (slot dir : Nat) : Bool :=
  let fs := (List.range 8).filterMap (fun e =>
    let x := p (slot * 16 + dir * 8 + e)
    if entKind x = 0 then none else some (entFibre x))
  !decide fs.Nodup

/-- The plan breaks R320. -/
def State.planFails (s : State) (c : Nat) (p : Plan) : Bool :=
  (List.range 1024).any (fun i => s.entryFails c i (p i)) ||
  (List.range 64).any (fun slot => fibreTwice p slot 0 || fibreTwice p slot 1) ||
  (List.range 8).any (fun e => !noMeets (s.hallLaunches c e ++ s.planLaunches c e p))

/-! ## Pending changes (R317 to R319) -/

/-- The plan after a list of changes. -/
def Plan.after (c : Nat) (es : List (Nat × Nat × Nat)) (p : Plan) : Plan := fun i =>
  match es.reverse.find? (fun x => x.1 == c && x.2.1 == i) with
  | some x => x.2.2
  | none => p i

/-- Entries of the changes that apply up to a frame, in order of frame. -/
def dueEntries (ps : List PlanChange) (frame : Nat) : List (Nat × Nat × Nat) :=
  ((ps.filter (fun p => frameReached frame p.frame)).mergeSort (fun a b => frameReached b.frame a.frame)).flatMap (fun p => p.entries)

/-- A frame that lies fewer than n frames ahead, or is past. -/
def State.lateFor (s : State) (frame n : Nat) : Bool :=
  let d := (frame + 2 ^ 48 - s.frame) % 2 ^ 48
  decide (d < n) || decide (2 ^ 47 ≤ d)

def State.deltaLead (s : State) : Nat := max 2 (s.rf STR_CFG STR_CFG_DELTA_LEAD)

/-- The earliest of a list of pending frames. -/
def earliest (fs : List Nat) : Nat :=
  match fs with
  | [] => 0
  | f :: rest => rest.foldl (fun a b => if frameReached a b then b else a) f

/-- STR_PLANSTAT follows the pending changes. -/
def State.planStat (s : State) : State :=
  (List.range 8).foldl (fun s c =>
    let mine := s.plans.filter (fun p => p.csms.contains c)
    s.wfs (STR_PLANSTAT c) [(STR_PLANSTAT_NEXT_FRAME, earliest (mine.map (fun p => p.frame))),
      (STR_PLANSTAT_LOAD_PEND, if mine.any (fun p => p.load) then 1 else 0),
      (STR_PLANSTAT_DELTAS_PEND, min 63 (mine.filter (fun p => !p.load)).length)]) s

/-- The plans that result from a change fail R320 for one of its Casements. -/
def State.changeFails (s : State) (frame : Nat) (cs : List Nat) (es : List (Nat × Nat × Nat)) : Bool :=
  cs.any (fun c => s.planFails c (Plan.after c (dueEntries s.plans frame ++ es) (s.planNow c)))

/-- Accept a change. -/
def State.takePlan (s : State) (c : Cmd) (p : PlanChange) : State :=
  (({ s with plans := s.plans ++ [p] } : State).planStat).reply c stDeferred []

/-- The entry words of the plan at word w of a packet. -/
def packetPlan (c : Cmd) (csm w : Nat) : List (Nat × Nat × Nat) :=
  (List.range 1024).map (fun i => (csm, i, if i % 2 = 0 then c.pf (w + i / 2) 31 0 else c.pf (w + i / 2) 63 32))

/-- The Casements of a mask. -/
def maskOf (m : Nat) : List Nat := (List.range 8).filter (fun c => m / 2 ^ c % 2 == 1)

def State.planLoad (s : State) (c : Cmd) : State :=
  let cs := maskOf (c.pf 0 15 8)
  let frame := c.pf 1 47 0
  let es := cs.zipIdx.flatMap (fun p => packetPlan c p.1 (8 + 512 * p.2))
  if c.pf 0 3 0 ≠ 1 then s.reply c stBadVersion []
  else if c.len ≠ 64 + 4096 * cs.length ∨ s.changeFails frame cs es then s.reply c stBadParam []
  else if s.lateFor frame s.deltaLead || s.plans.any (fun p => !p.load) then s.reply c stBusy []
  else s.takePlan c { frame := frame, load := true, csms := cs, entries := es, opcode := 0x430, tag := c.tag,
                      origin := originOf s c, ring := c.ringId }

def execPlanLoad (c : Cmd) (s : State) : Out := .next (s.command c 0x430 (fun s => s.planLoad c))

def State.planDelta (s : State) (c : Cmd) : State :=
  let n := c.pf 0 21 16
  let frame := c.pf 1 47 0
  let es := (List.range n).map (fun j => (c.pf (8 + j) 2 0, c.pf (8 + j) 12 3, c.pf (8 + j) 47 16))
  let rsv := (List.range n).any (fun j => c.pf (8 + j) 15 13 != 0 || c.pf (8 + j) 63 48 != 0)
  let cs := (es.map (fun e => e.1)).dedup
  let total := ((s.plans.filter (fun p => !p.load && p.frame == frame)).map (fun p => p.entries.length)).sum
  if c.pf 0 3 0 ≠ 1 then s.reply c stBadVersion []
  else if n = 0 ∨ 32 < n ∨ c.len ≠ 64 + 8 * n ∨ rsv ∨ s.changeFails frame cs es then s.reply c stBadParam []
  else if s.lateFor frame s.deltaLead || s.plans.any (fun p => p.load) then s.reply c stBusy []
  else if 32 < total + n then s.reply c stCapacity []
  else s.takePlan c { frame := frame, load := false, csms := cs, entries := es, opcode := 0x431, tag := c.tag,
                      origin := originOf s c, ring := c.ringId }

def execPlanDelta (c : Cmd) (s : State) : Out := .next (s.command c 0x431 (fun s => s.planDelta c))

/-- A plan comes into force on a Casement. -/
def State.setPlanOf (s : State) (c : Nat) (p : Plan) : State :=
  let s := (List.range 1024).foldl (fun s i => s.wf (STR_PLAN c i) STR_PLAN_ENTRY (p i)) s
  s.setCsm c { s.csm c with dropped := [] }

/-- The slot part of a fallback plan: 1,024 entries from an address. -/
def State.slotPlan (s : State) (a : Nat) : Plan := fun i => bytesToNat (memRead s.mem (a + 4 * i) 4)

/-- PLAN_APPLY: changes whose frame has begun apply, in order; slot parts of fallback plans and boot plans that fail R320 do not
(R319, R485, R533). -/
def State.planApply (s : State) : State :=
  let due := s.plans.filter (fun p => frameReached s.frame p.frame)
  let es := dueEntries s.plans s.frame
  let s := ((due.flatMap (fun p => p.csms)).dedup).foldl (fun s c => s.setPlanOf c (Plan.after c es (s.planNow c))) s
  let s := ({ s with plans := s.plans.filter (fun p => !frameReached s.frame p.frame) } : State).planStat
  let s := due.foldl (fun s p => if p.opcode = 0 then s else s.applied p.tag p.origin p.ring p.opcode stOk false) s
  let parts := s.slotParts.filter (fun p => frameReached s.frame p.2.2)
  let s := { s with slotParts := s.slotParts.filter (fun p => !frameReached s.frame p.2.2) }
  parts.foldl (fun s p =>
    if s.planFails p.1 (s.slotPlan p.2.1) then s.note F_FALLBACK_REJECT (locCasement p.1) 0
    else s.setPlanOf p.1 (s.slotPlan p.2.1)) s

def execPlanApply (s : State) : Out := .next s.planApply

/-! ## Re-check after a re-train (R321) -/

/-- The bursts that meet an earlier one, by target slot. -/
def dropLater (kept : List Launch) : List Launch → List Nat
  | [] => []
  | b :: rest => if kept.any (fun a => a.meets b) then b.ix :: dropLater kept rest else dropLater (kept ++ [b]) rest

/-- Re-check a Casement's plan after the launch values of fibre f changed: what newly breaks it is not sent, counted and reported. -/
def State.recheck (s : State) (c f : Nat) : State :=
  let drops := (List.range 8).flatMap (fun e => dropLater (s.hallLaunches c e) (s.planLaunches c e (s.planNow c)))
  let new := (drops.filter (fun i => !(s.csm c).dropped.contains i)).length
  let s := (s.setCsm c { s.csm c with dropped := drops }).satf (STR_PLANSTAT c) STR_PLANSTAT_SKIPPED new
  if new = 0 then s
  else s.hostEvent 0x0070 [packFields [(bits 2 0, c), (bits 6 3, f), (bits 15 8, min new 255)]]

/-- A re-train fixes W and A afresh and re-checks the plan (R313, R348). -/
def State.refix (s : State) (l : Nat) : State :=
  if 128 ≤ l then s
  else
    let c := l / 16
    (s.linkPairs l).foldl (fun s f =>
      let old := (s.rf (STR_DELAY c f) STR_DELAY_W, sparseGet zeroDefault (s.csm c).offsets f)
      let s := s.fixLaunch c f
      if old = (s.rf (STR_DELAY c f) STR_DELAY_W, sparseGet zeroDefault (s.csm c).offsets f) then s else s.recheck c f) s

/-! ## Settled steering (R324) -/

/-- STR_SETTLED.PEND and CHANGE_FRAME follow the changes. -/
def State.settleStat (s : State) (c : Nat) : State :=
  let mine := s.settles.filter (fun x => x.csm == c)
  let pend := (List.range 8).foldl (fun m e => if mine.any (fun x => x.engine == e) then m + 2 ^ e else m) 0
  s.wfs (STR_SETTLED c) [(STR_SETTLED_PEND, pend),
    (STR_SETTLED_CHANGE_FRAME, earliest ((mine.filter (fun x => !x.quiet)).map (fun x => x.frame)))]

/-- Engine e has DATA or FLEX entries, by the plan in force or one to come. -/
def State.engineBusy (s : State) (c e : Nat) : Bool :=
  let later := Plan.after c (s.plans.flatMap (fun p => p.entries)) (s.planNow c)
  (List.range 64).any (fun slot => [e, 8 + e].any (fun k =>
    entKind (s.planNow c (slot * 16 + k)) != 0 || entKind (later (slot * 16 + k)) != 0))

def State.settleSet (s : State) (c : Cmd) : State :=
  let m := c.pf 0 2 0
  let e := c.pf 0 5 3
  let settle := c.pf 0 6 6 == 0
  let frame := c.pf 1 47 0
  if settle && s.engineBusy m e then s.reply c stBadParam []
  else if s.lateFor frame 2 then s.reply c stBusy []
  else
    let quiet := s.settles.find? (fun x => x.csm == m && x.engine == e && x.quiet)
    let frame := match quiet with
      | some q => if frameReached frame (frameAdd q.frame 1) then frame else frameAdd q.frame 1
      | none => frame
    let old := s.settles.filter (fun x => x.csm == m && x.engine == e && !x.quiet)
    let s := old.foldl (fun s x => s.applied x.tag x.origin x.ring 0x432 stOk true) s
    let s : State := { s with settles := s.settles.filter (fun x => !old.contains x) ++
      [{ csm := m, engine := e, settle := settle, frame := frame, quiet := false, tag := c.tag, origin := originOf s c,
         ring := c.ringId }] }
    (s.settleStat m).reply c stDeferred []

def execSettleSet (c : Cmd) (s : State) : Out := .next (s.command c 0x432 (fun s => s.settleSet c))

/-- SETTLE_CHANGE: at CHANGE_FRAME the engine settles or is released, and its quiet period begins. -/
def State.settleChange (s : State) (c e : Nat) : State :=
  match s.settles.find? (fun x => x.csm == c && x.engine == e && !x.quiet) with
  | none => s
  | some x =>
    if !frameReached s.frame x.frame then s
    else
      let v := if x.settle then 1 else 0
      let s := s.wf (STR_SETTLED c) { lo := e, width := 1 } v
      let s := { s with settles := s.settles.filter (fun (y : SettleChange) => !(y.csm == c && y.engine == e)) ++ [{ x with quiet := true }] }
      (s.settleStat c).applied x.tag x.origin x.ring 0x432 stOk false

def execSettleChange (c : Casement) (e : Engine) (s : State) : Out := .next (s.settleChange c.val e.val)

/-- QUIET_PERIOD_END: 12 µs after the boundary, in the next frame. -/
def State.quietEnd (s : State) (c e : Nat) : State :=
  match s.settles.find? (fun x => x.csm == c && x.engine == e && x.quiet) with
  | none => s
  | some x =>
    if !frameReached s.frame (frameAdd x.frame 1) then s
    else ({ s with settles := s.settles.filter (fun y => y != x) } : State).settleStat c

def execQuietPeriodEnd (c : Casement) (e : Engine) (s : State) : Out := .next (s.quietEnd c.val e.val)

/-- Fibre pair f is in a quiet period. -/
def State.quietPair (s : State) (c f : Nat) : Bool := s.settles.any (fun x => x.csm == c && x.engine == f / 2 && x.quiet)

/-! ## A slot (R298, R315, R316) -/

def hallFibre (e frame : Nat) : Nat := 2 * e + frame % 2

/-- Engine e of a direction can carry light on fibre f now. -/
def State.pathOn (s : State) (c dir e f : Nat) : Bool :=
  s.engineUp c dir e && !(s.csm c).meshFib.contains (16 * dir + f) && !s.quietPair c f

/-- Lanes of a hall burst: those up and not dark (R271). -/
def State.hallUnits (s : State) (l : Nat) : Nat :=
  let m := s.laneMap l 0
  let n := (m.filter (fun k => k != 0x1F && (s.csm (l / 16)).dark != some k)).length
  (if s.rf (CSM_PAIR (l / 16) (l % 16)) CSM_PAIR_FEC_ACTIVE = 1 then 23220 * n / 256 else 20560 * n / 256) - 2

/-- What transmit engine e does in a slot. -/
def State.txSlot (s : State) (c slot e : Nat) : State :=
  if s.rf (CSM_FA c) CSM_FA_DARK = 1 then s
  else if s.settled c e then
    match s.pairLink c (2 * e) with
    | some l => if s.linkUp l && s.pathOn c 0 e (2 * e) then s.fillBurst l (s.burstUnits l) .flex else s
    | none => s
  else if slot = 0 then
    let f := hallFibre e s.frame
    match s.pairLink c f with
    | some l => if s.linkUp l && s.pairOn c f && s.pathOn c 0 e f then s.fillBurst l (s.hallUnits l) .hall else s
    | none => s
  else
    let i := slot * 16 + e
    let x := s.planNow c i
    let l := 16 * c + entPair x
    if entKind x = 0 ∨ (s.csm c).dropped.contains i ∨ !s.linkUp l ∨ !s.pathOn c 0 e (entFibre x) then s
    else s.fillBurst l (s.burstUnits l) (if entKind x = 1 then .data (entFlow x) else .flex)

/-- The link, the fibre and whether a burst must come, that receive engine e listens for in a slot. -/
def State.rxSlot (s : State) (c slot e : Nat) : Option (Nat × Nat × Bool) :=
  if s.settled c e then (s.pairLink c (2 * e)).map (fun l => (l, 2 * e, true))
  else if slot = 0 then
    let f := hallFibre e s.frame
    if s.pairOn c f then (s.pairLink c f).map (fun l => (l, f, true)) else none
  else
    let x := s.planNow c (slot * 16 + 8 + e)
    if entKind x = 0 then none else some (16 * c + entPair x, entFibre x, entKind x == 1)

/-- Note that a burst is due on a live link (R351). -/
def State.expectBurst (s : State) (c slot e : Nat) : State :=
  match s.rxSlot c slot e with
  | some (l, f, true) =>
    if s.isLive l && s.pathOn c 1 e f then s.setLink l { s.link l with expected := true } else s
  | _ => s

/-- A DARARN_E link sends one burst in every slot (R406, R407). -/
def State.porchSlot (s : State) (slot j : Nat) : State :=
  let l := 128 + j
  if s.linkUp l then s.fillBurst l (s.burstUnits l - (if slot = 0 then 2 else 0)) .flex else s

/-- The attenuators open at slot 1 (R271). -/
def State.undark (s : State) (slot c : Nat) : State :=
  if slot = 1 ∧ (s.csm c).dark.isSome then s.setCsm c { s.csm c with dark := none } else s

/-- SLOT_BOUNDARY. Messages, restores and reloads that wait for a path move first. -/
def State.slotBoundary (s : State) (slot : Nat) : State :=
  if s.mode = .off then s
  else
    let s := s.flushOutbox
    let s := (List.range 8).foldl (fun s c => s.undark slot c) s
    let s := (List.range 8).foldl (fun s c => (List.range 8).foldl (fun s e => s.txSlot c slot e) s) s
    let s := (List.range 8).foldl (fun s c => (List.range 8).foldl (fun s e => s.expectBurst c slot e) s) s
    (List.range 8).foldl (fun s j => s.porchSlot slot j) s

/-! ## Bursts that arrive (R254, R296, R297, R322) -/

/-- Count one lane's codewords. -/
def State.laneResult (s : State) (c e f : Nat) (r : LaneResult) : State :=
  let s := (s.satf (CSM_RXCW c f) CSM_RXCW_COUNT r.codewords).satf (CSM_RXCORR c f) CSM_RXCORR_COUNT r.corrected
  let s := (s.satf (CSM_RXSYM c f) CSM_RXSYM_COUNT r.symbols).satf (CSM_RXUNC c f) CSM_RXUNC_COUNT r.uncorrectable
  let a := CSM_RXLANE c (e * 16 + r.lane.val)
  (s.wf a CSM_RXLANE_RX_PWR (toCode 16 r.power)).satf a CSM_RXLANE_SYM_ERR r.symbols

/-- A DATA slot of wrong peer or no light: MISMATCH_LIMIT in a row raise PLAN_MISMATCH. -/
def State.dataMiss (s : State) (c f l : Nat) : State :=
  let x := s.csm c
  let n := sparseGet zeroDefault x.mismatch f + 1
  let s := s.setCsm c { x with mismatch := sparseSet zeroDefault x.mismatch f n }
  if s.rf STR_CFG STR_CFG_MISMATCH_LIMIT = n ∧ s.rf (STR_FERR c f) STR_FERR_MISMATCH = 0 then
    (s.wf (STR_FERR c f) STR_FERR_MISMATCH 1).note F_PLAN_MISMATCH (locCasement c) l
  else s

/-- A matching DATA burst. -/
def State.dataHit (s : State) (c f : Nat) : State :=
  let x := s.csm c
  (s.setCsm c { x with mismatch := sparseSet zeroDefault x.mismatch f 0 }).wf (STR_FERR c f) STR_FERR_MISMATCH 0

/-- BURST_ARRIVAL: what a receive engine makes of its slot. -/
def State.burst (s : State) (c e slot : Nat) (b : Burst) : State :=
  match s.rxSlot c slot e with
  | none => s
  | some (l, f, must) =>
    let data := slot != 0 && !s.settled c e && must
    let on := s.isLive l || s.linkState l == lkTraining
    if !on || !s.pathOn c 1 e f then s
    else match b.offset with
      | none => if data then (s.satf (STR_FERR c f) STR_FERR_NO_LIGHT 1).dataMiss c f l else s
      | some o =>
        if 320 ≤ o then (if data then (s.satf (STR_FERR c f) STR_FERR_NO_LIGHT 1).dataMiss c f l else s)
        else
          let s := s.setLink l { s.link l with lit := true }
          if 160 ≤ o && !s.settled c e then s.satf (STR_FERR c f) STR_FERR_LATE 1
          else
            let s := b.lanes.foldl (fun s r => s.laneResult c e f r) s
            if !b.peerMatch then
              let s := s.satf (STR_FERR c f) STR_FERR_WRONG_PEER 1
              if data then s.dataMiss c f l else s
            else if data then s.dataHit c f
            else s

def execBurstArrival (c : Casement) (e : Engine) (slot : Fin 64) (b : Burst) (s : State) : Out :=
  .next (s.burst c.val e.val slot.val b)

/-- LANE_DEGRADED: the lane's drop ring goes to the front of the rotation (R258, R289). -/
def State.degraded (s : State) (c e lane : Nat) : State :=
  let s := s.wf (CSM_RXLANE c (e * 16 + lane)) CSM_RXLANE_DEGRADED 1
  let l := ([2 * e, 2 * e + 1].filterMap (s.pairLink c)).find? s.isLive
  let k := match l with | some l => (s.laneMap l 1).getD lane 0x1F | none => lane
  let r := 144 + e * 18 + k
  let x := s.csm c
  if 18 ≤ k ∨ x.calFirst.contains r then s else s.setCsm c { x with calFirst := x.calFirst ++ [r] }

def execLaneDegraded (c : Casement) (e : Engine) (lane : Fin 16) (s : State) : Out := .next (s.degraded c.val e.val lane.val)

end Sys2Proof.Machine
end

