-- ==== Sys2Proof/Machine/Matrix.lean ====
section
/-!
DEFINITION. Sys2Proof/Machine/Matrix.lean: MATMUL, ATTN_BLOCK and CONV (R47 to R61, R78 to R83, R131 to R137). A matrix
descriptor reads its operands and writes its results at its start; DESCRIPTOR_COMPLETE ends it.
-/

set_option Elab.async false

namespace Sys2Proof.Machine

/-! ## Jobs over output blocks -/

/-- The physical tile of logical position LTk (R84). -/
def State.tileOf (s : State) (b : BayId) (k : Nat) : Nat := ((List.range 17).filter (fun t => s.tileRole b t == 0)).getD k 16

/-- Draw n open bytes. -/
def State.drawBytes (s : State) (n : Nat) : List Byte × State :=
  ((List.range n).map (fun i => Config.freeByte (s.freeCtr + i)), { s with freeCtr := s.freeCtr + n })

/-- Output rows and columns, the format pair's FP32 passes, and the element function: row, column, random bits. -/
structure DotJob where
  rows : Nat
  cols : Nat
  fp32 : Bool
  rm : RMode
  elem : Nat → Nat → Nat → Nat × Flags
  /-- Term-steps of block (bi, bj) (R133). -/
  steps : Nat → Nat → Nat

/-- Positions of an output block in the order its results are rounded (R66): row-major, or pass by pass in FP32. -/
def DotJob.positions (j : DotJob) (bi bj : Nat) : List (Nat × Nat) :=
  let rows := (List.range 64).map (64 * bi + ·) |>.filter (fun r => decide (r < j.rows))
  let cols := (List.range 64).map (64 * bj + ·) |>.filter (fun c => decide (c < j.cols))
  let run := fun (cs : List Nat) => rows.flatMap (fun r => cs.map (fun c => (r, c)))
  if j.fp32 then run (cols.filter (fun c => decide (c % 64 < 32))) ++ run (cols.filter (fun c => decide (32 ≤ c % 64)))
  else run cols

/-- Results of a list of positions, the generator drawing once each (R66). -/
def DotJob.run (j : DotJob) : List (Nat × Nat) → W32 → List (Nat × Nat × Nat) × Flags × W32
  | [], g => ([], 0, g)
  | (r, c) :: rest, g =>
    let d := srDraw j.rm g
    let x := j.elem r c d.1
    let y := j.run rest d.2
    ((r, c, x.1) :: y.1, x.2 ||| y.2.1, y.2.2)

def DotJob.blocksAcross (j : DotJob) : Nat := cdiv j.cols 64
def DotJob.blocks (j : DotJob) : Nat := cdiv j.rows 64 * j.blocksAcross

/-- Run output block k on its tile: generator, sticky flags, TIL_MACCYC (R64, R72, R133). -/
def State.runBlock (s : State) (b : BayId) (j : DotJob) (k : Nat) : State × List (Nat × Nat × Nat) × Flags :=
  let t := s.tileOf b (k % 16)
  let bi := k / j.blocksAcross
  let bj := k % j.blocksAcross
  let x := j.run (j.positions bi bj) (BitVec.ofNat 32 (s.rf (TIL_SR_STATE b t) TIL_SR_STATE_STATE))
  let s := s.wf (TIL_SR_STATE b t) TIL_SR_STATE_STATE x.2.2.toNat
  let s := s.wf (TIL_FLAGS b t) TIL_FLAGS_FLAGS (s.rf (TIL_FLAGS b t) TIL_FLAGS_FLAGS ||| x.2.1.toNat)
  (s.addf (TIL_MACCYC b t) TIL_MACCYC_COUNT (j.steps bi bj), x.1, x.2.1)

/-- Run the output blocks of a list in order. -/
def State.runBlocks (s : State) (b : BayId) (j : DotJob) (ks : List Nat) : State × List (Nat × Nat × Nat) × Flags :=
  ks.foldl (fun acc k =>
    let x := acc.1.runBlock b j k
    (x.1, acc.2.1 ++ x.2.1, acc.2.2 ||| x.2.2)) (s, [], 0)

/-- The output blocks whose results are written when tile lt's check fails in block fb (R59): every earlier round's, and of
the same round the ones another tile has finished, which is open (w). -/
def survivingBlocks (n lt fb : Nat) (w : Word) : List Nat :=
  (List.range n).filter (fun k => decide (k / 16 < fb / 16) || (k / 16 == fb / 16 && k % 16 != lt && wbit w (k % 16)))

/-- The tile check that fails in a job of n blocks: logical tile, block, code, LAST_FAULT detail. -/
def tileFaultOf (n : Nat) : Option UnitFault → Option (Nat × Nat × Nat × Nat)
  | some (.tileResidue lt p k) => if k < n ∧ k % 16 = lt.val then some (lt.val, k, F_TILE_RESIDUE, p.val) else none
  | some (.tileRail lt k) => if k < n ∧ k % 16 = lt.val then some (lt.val, k, F_TILE_RAIL, 4) else none
  | _ => none

/-- Blocks a job runs, given the check that fails. -/
def State.jobBlocks (s : State) (j : DotJob) (f : Option UnitFault) : List Nat × State :=
  match tileFaultOf j.blocks f with
  | none => (List.range j.blocks, s)
  | some (lt, k, _) => let w := s.draw; (survivingBlocks j.blocks lt k w.1, w.2)

/-- Report the tile check that failed. -/
def State.tileFault (s : State) (b : BayId) (n : Nat) (f : Option UnitFault) : State :=
  match tileFaultOf n f with
  | none => s
  | some (lt, _, code, det) => (s.unitFault b .matrix code (locTile b (s.tileOf b lt)) det false).tileLost b

/-- Write result patterns of format f where `at` puts each element; undef: the output overlaps an input, so that every byte
is open (R109). -/
def State.writeResults (s : State) (b : BayId) (f : Fmt) (addr : Nat → Nat → Nat) (rs : List (Nat × Nat × Nat))
    (undef : Bool) : State :=
  rs.foldl (fun s r =>
    let n := f.bits / 8
    if undef then
      let x := s.drawBytes n
      x.2.sramWrite b (addr r.1 r.2.1) x.1
    else s.sramWrite b (addr r.1 r.2.1) (natToBytes n r.2.2)) s

/-- Two byte ranges of bay SRAM meet. -/
def overlap (a n b m : Nat) : Bool := decide (a < b + m) && decide (b < a + n) && decide (0 < n) && decide (0 < m)

/-- Flags of a descriptor's record: open where its results are. -/
def State.flagsOr (s : State) (undef : Bool) (f : Flags) : Flags × State :=
  if undef then let w := s.draw; (BitVec.ofNat 8 (w.1.toNat % 128), w.2) else (f, s)

/-! ## Operands -/

/-- Term-steps of K positions for a format pair (R133); cols: columns of the output block. -/
def termSteps (fa fb : Fmt) (k cols : Nat) (sp24 : Bool) : Nat :=
  let small := fun f => f == Fmt.e3m2 || f == Fmt.e2m1
  let n := match fa with
    | .fp32 => if cols ≤ 32 then 16 * k else 32 * k
    | .bf16 | .fp16 => 2 * k
    | _ => if small fa || small fb then cdiv k 2 else k
  if sp24 then cdiv n 2 else n

/-- The scale bytes of one row, by block. -/
def scaleRow (rd : Nat → Byte) (f : Fmt) (a n : Nat) : List Nat :=
  if f.scaled then (List.range n).map (fun i => (rd (a + i)).toNat) else []

/-- Positive zero: an exact zero that enters a sum. -/
def zeroVal : FVal := .fin false 0 0

/-- The terms of a 2:4 row (R81, R82): n groups whose codes and stored elements are given; ka gives the A element of a dense
position. -/
def terms24 (n k0 : Nat) (code : Nat → Nat) (el : Nat → FVal) (ka : Nat → FVal) : List Term :=
  (List.range n).flatMap (fun g =>
    let c := code g
    let p0 := k0 + 4 * g + c % 4
    let p1 := k0 + 4 * g + c / 4 % 4
    [{ k := p0, a := ka p0, b := el (2 * g) }, { k := p1, a := ka p1, b := el (2 * g + 1) }])

/-- Code g of a metadata row at byte address a. -/
def metaCode (rd : Nat → Byte) (a g : Nat) : Nat := (rd (a + g / 2)).toNat / 16 ^ (g % 2) % 16

/-! ## MATMUL (R131 to R134) -/

/-- Weight blocks along K and along N. -/
def MatmulD.kb (x : MatmulD) : Nat := cdiv x.k 64
def MatmulD.nb (x : MatmulD) : Nat := cdiv x.n 64

/-- Whether weight block i is present. -/
def MatmulD.present (x : MatmulD) (rd : Nat → Byte) (i : Nat) : Bool :=
  !x.bsparse || (rd (x.bMask + i / 8)).getLsbD (i % 8)

/-- Present weight blocks before block i. -/
def MatmulD.rank (x : MatmulD) (rd : Nat → Byte) (i : Nat) : Nat := ((List.range i).filter (x.present rd)).length

/-- The B row n of a MATMUL without block sparsity: its terms. -/
def MatmulD.denseTerms (x : MatmulD) (rd : Nat → Byte) (fa fb : Fmt) (i n : Nat) : List Term :=
  let ka := fun p => if p < x.k then valAt rd fa (x.a + i * x.lda) p else zeroVal
  if x.sp24 then
    terms24 (cdiv x.k 4) 0 (metaCode rd (x.bMeta + n * cdiv x.k 8)) (valAt rd fb (x.b + n * x.ldb)) ka
  else (List.range x.k).map (fun p => { k := p, a := ka p, b := valAt rd fb (x.b + n * x.ldb) p })

/-- The terms of column n under block sparsity (R134). -/
def MatmulD.sparseTerms (x : MatmulD) (rd : Nat → Byte) (fa fb : Fmt) (i n : Nat) : List Term :=
  let ka := valAt rd fa (x.a + i * x.lda)
  (List.range x.kb).flatMap (fun kb =>
    let blk := n / 64 * x.kb + kb
    if x.present rd blk then
      let r := 64 * x.rank rd blk + n % 64
      let row := x.b + r * x.ldb
      if x.sp24 then terms24 16 (64 * kb) (metaCode rd (x.bMeta + r * 8)) (valAt rd fb row) ka
      else (List.range 64).map (fun p => { k := 64 * kb + p, a := ka (64 * kb + p), b := valAt rd fb row p })
    else [])

/-- Scale bytes of column n of B by block of K; an absent block's are not read. -/
def MatmulD.bScales (x : MatmulD) (rd : Nat → Byte) (fb : Fmt) (n : Nat) : List Nat :=
  let sz := blockSize x.blk
  if !fb.scaled then []
  else if x.bsparse then
    (List.range x.kb).flatMap (fun kb =>
      let blk := n / 64 * x.kb + kb
      (List.range (64 / sz)).map (fun q =>
        if x.present rd blk then (rd (x.bScl + (64 * x.rank rd blk + n % 64) * (64 / sz) + q)).toNat else 0x7F))
  else scaleRow rd fb (x.bScl + n * cdiv x.k sz) (cdiv x.k sz)

/-- K positions that output columns of block column bj cost term-steps for. -/
def MatmulD.keff (x : MatmulD) (rd : Nat → Byte) (bj : Nat) : Nat :=
  if x.bsparse then 64 * ((List.range x.kb).filter (fun kb => x.present rd (bj * x.kb + kb))).length else x.k

/-- The job of a MATMUL. -/
def MatmulD.job (x : MatmulD) (rd : Nat → Byte) (fa fb out : Fmt) (rm : RMode) (sat : Bool) : DotJob :=
  { rows := x.m, cols := x.n, fp32 := fa == .fp32, rm := rm,
    elem := fun i j u =>
      dotElem { fa := fa, fb := fb, blk := x.blk,
                sa := scaleRow rd fa (x.aScl + i * cdiv x.k (blockSize x.blk)) (cdiv x.k (blockSize x.blk)),
                sb := x.bScales rd fb j }
        (if x.acc then some (valAt rd out (x.c + i * x.ldc) j) else none)
        (if x.bsparse then x.sparseTerms rd fa fb i j else x.denseTerms rd fa fb i j) out rm sat u,
    steps := fun _ bj => termSteps fa fb (x.keff rd bj) (min 64 (x.n - 64 * bj)) x.sp24 }

/-- Bytes the stored B rows, scales and metadata span when the MATMUL starts. -/
def MatmulD.extents (x : MatmulD) (rd : Nat → Byte) (fb : Fmt) : List (Nat × Nat) :=
  let r := if x.bsparse then 64 * x.rank rd (x.kb * x.nb) else x.n
  let sz := blockSize x.blk
  [(x.b, if x.bsparse then r * x.ldb else (x.n - 1) * x.ldb + rowBytes fb x.k x.sp24)] ++
  (if fb.scaled then [(x.bScl, if x.bsparse then r * (64 / sz) else x.n * cdiv x.k sz)] else []) ++
  (if x.sp24 then [(x.bMeta, if x.bsparse then r * 8 else x.n * cdiv x.k 8)] else [])

/-- Present blocks carry an array past 16 MiB (R134). -/
def MatmulD.startBad (x : MatmulD) (rd : Nat → Byte) (fb : Fmt) : Bool :=
  x.bsparse && (x.extents rd fb).any (fun e => rangeBad e.1 e.2)

/-- The output overlaps an input, or its own rows overlap (R109). -/
def MatmulD.undef (x : MatmulD) (rd : Nat → Byte) (fa fb out : Fmt) : Bool :=
  let w := x.n * (out.bits / 8)
  let n := (x.m - 1) * x.ldc + w
  (decide (1 < x.m) && decide (x.ldc < w)) ||
  ((x.extents rd fb) ++ [(x.a, (x.m - 1) * x.lda + rowBytes fa x.k false)] ++
    (if fa.scaled then [(x.aScl, x.m * cdiv x.k (blockSize x.blk))] else []) ++
    (if x.bsparse then [(x.bMask, cdiv (x.kb * x.nb) 8)] else [])).any (fun e => overlap x.c n e.1 e.2)

/-- An uncorrectable operand read stops a job after an open number of rounds of blocks (R95). -/
def State.runUntilUe (s : State) (b : BayId) (j : DotJob) (out : Fmt) (addr : Nat → Nat → Nat) (undef : Bool) (e : SramErr) :
    State :=
  let w := s.draw
  let r := w.2.runBlocks b j ((List.range j.blocks).filter (fun k => decide (k / 16 < w.1.toNat % (j.blocks / 16 + 1))))
  (r.1.writeResults b out addr r.2.1 undef).sramUe b .matrix e

/-- Run a job whose results go straight to bay SRAM, for the descriptor that has just started. -/
def State.runMatrix (s : State) (b : BayId) (j : DotJob) (out : Fmt) (addr : Nat → Nat → Nat) (undef : Bool)
    (f : Option UnitFault) : State :=
  let ks := s.jobBlocks j f
  let r := ks.2.runBlocks b j ks.1
  let s := r.1.writeResults b out addr r.2.1 undef
  let fl := s.flagsOr undef r.2.2
  (fl.2.runFlags b .matrix fl.1).tileFault b j.blocks f

/-- MATMUL with its operands read. -/
def State.matmulRun (s : State) (b : BayId) (q : Queued) (x : MatmulD) (fa fb out : Fmt) (e : UnitEnv) : State :=
  let rd := s.sramByte b
  if x.startBad rd fb then s.malformedStop b q.idx q.d
  else
    let s := s.startHead b .matrix q
    let j := x.job rd fa fb out (dRmode q.d) (dSat q.d)
    let addr := fun i j => x.c + i * x.ldc + j * (out.bits / 8)
    match s.sramErrs b e.sram with
    | (s, some err) => s.runUntilUe b j out addr (x.undef rd fa fb out) err
    | (s, none) => s.runMatrix b j out addr (x.undef rd fa fb out) e.fault

/-- MATMUL starts: the head of the matrix queue, once it can start. -/
def execMatmul (b : BayId) (e : UnitEnv) (s : State) : Out :=
  .next (match s.headReady b .matrix 0x01 with
    | none => s
    | some q =>
      let x := matmulOf q.d
      match x.fa, x.fb, x.out with
      | some fa, some fb, some out => s.matmulRun b q x fa fb out e
      | _, _, _ => s)

/-! ## CONV (R137) -/

/-- Input position of output row i (= oh * OW + ow) and kernel position: row and column of the input, or padding. -/
def ConvD.inputAt (x : ConvD) (i kh kw : Nat) : Option (Nat × Nat) :=
  let r : Int := (i / x.ow.toNat * x.stride + kh * x.dil : Nat) - (x.pad : Int)
  let c : Int := (i % x.ow.toNat * x.stride + kw * x.dil : Nat) - (x.pad : Int)
  if 0 ≤ r ∧ r < x.h ∧ 0 ≤ c ∧ c < x.iw then some (r.toNat, c.toNat) else none

/-- The input element of output row i at dense position p of K. -/
def ConvD.inElem (x : ConvD) (rd : Nat → Byte) (f : Fmt) (i p : Nat) : FVal :=
  match x.inputAt i (p / x.cin / x.kw) (p / x.cin % x.kw) with
  | some (r, c) => valAt rd f x.inA ((r * x.iw + c) * x.cin + p % x.cin)
  | none => zeroVal

def ConvD.kk (x : ConvD) : Nat := x.kh * x.kw * x.cin

/-- Scale bytes of output row i by block of K; a padded block takes scale 1. -/
def ConvD.inScales (x : ConvD) (rd : Nat → Byte) (f : Fmt) (i : Nat) : List Nat :=
  let n := blockSize x.blk
  if f.scaled then
    (List.range (x.kk / n)).map (fun q =>
      let p := q * n
      match x.inputAt i (p / x.cin / x.kw) (p / x.cin % x.kw) with
      | some (r, c) => (rd (x.inScl + ((r * x.iw + c) * x.cin + p % x.cin) / n)).toNat
      | none => 0x7F)
  else []

/-- The job of a CONV; code j g: the metadata code of filter j, group g, whose place the manual does not give. -/
def ConvD.job (x : ConvD) (rd : Nat → Byte) (fi fw out : Fmt) (rm : RMode) (sat : Bool) (code : Nat → Nat → Nat) :
    DotJob :=
  let row := rowBytes fw x.kk x.sp24
  { rows := (x.oh * x.ow).toNat, cols := x.cout, fp32 := fi == .fp32, rm := rm,
    elem := fun i j u =>
      let ka := fun p => if p < x.kk then x.inElem rd fi i p else zeroVal
      let ts := if x.sp24 then terms24 (cdiv x.kk 4) 0 (code j) (valAt rd fw (x.wt + j * row)) ka
        else (List.range x.kk).map (fun p => { k := p, a := ka p, b := valAt rd fw (x.wt + j * row) p })
      dotElem { fa := fi, fb := fw, blk := x.blk, sa := x.inScales rd fi i,
                sb := scaleRow rd fw (x.wtScl + j * cdiv x.kk (blockSize x.blk)) (cdiv x.kk (blockSize x.blk)) }
        (if x.acc then some (valAt rd out x.outA (i * x.cout + j)) else none) ts out rm sat u,
    steps := fun _ bj => termSteps fi fw x.kk (min 64 (x.cout - 64 * bj)) x.sp24 }

def ConvD.undef (x : ConvD) (fi fw out : Fmt) : Bool :=
  let n := (x.oh * x.ow).toNat * x.cout * (out.bits / 8)
  [(x.inA, arrayBytes fi (x.h * x.iw * x.cin)), (x.wt, x.cout * rowBytes fw x.kk x.sp24)].any
    (fun e => overlap x.outA n e.1 e.2) ||
  (fi.scaled && (overlap x.outA n x.inScl (x.h * x.iw * x.cin / blockSize x.blk) ||
    overlap x.outA n x.wtScl (x.cout * cdiv x.kk (blockSize x.blk))))

/-- CONV with its operands read. The metadata codes of 2:4 filters are open values. -/
def State.convRun (s : State) (b : BayId) (q : Queued) (x : ConvD) (fi fw out : Fmt) (e : UnitEnv) : State :=
  let rd := s.sramByte b
  let s := s.startHead b .matrix q
  let g := cdiv x.kk 4
  let c0 := s.freeCtr
  let s := if x.sp24 then { s with freeCtr := c0 + x.cout * g } else s
  let code := fun j k => (Config.freeByte (c0 + j * g + k)).toNat % 16
  let j := x.job rd fi fw out (dRmode q.d) (dSat q.d) code
  let addr := fun i j => x.outA + (i * x.cout + j) * (out.bits / 8)
  match s.sramErrs b e.sram with
  | (s, some err) => s.runUntilUe b j out addr (x.undef fi fw out) err
  | (s, none) => s.runMatrix b j out addr (x.undef fi fw out) e.fault

/-- CONV starts. -/
def execConv (b : BayId) (e : UnitEnv) (s : State) : Out :=
  .next (match s.headReady b .matrix 0x03 with
    | none => s
    | some q =>
      let x := convOf q.d
      match x.fin, x.fwt, x.out with
      | some fi, some fw, some out => s.convRun b q x fi fw out e
      | _, _, _ => s)

/-! ## ATTN_BLOCK (R135, R136) -/

/-- The exact value of a dot product before its rounding: special values, else the accumulator. -/
def dotExact (c : DotCfg) (ts : List Term) : FVal × Flags :=
  let n := blockSize c.blk
  let scaleNan := c.fa.scaled && ts.any (fun t => c.sa.getD (t.k / n) 0 == 255 || c.sb.getD (t.k / n) 0 == 255)
  let sp : Special := ts.foldl (fun (s : Special) t => s.or (specialOfProduct t.a t.b)) {}
  if scaleNan then (.nan, flScaleNan)
  else if sp.nan then (.nan, 0)
  else if sp.invalid || (sp.posInf && sp.negInf) then (.nan, flInvalid)
  else if sp.posInf || sp.negInf then (.inf sp.negInf, 0)
  else
    let acc : Accum := (ts.splitBy (fun x y => x.k / 4096 == y.k / 4096)).foldl
      (fun (a : Accum) ch => a.chunk (chunkAddends c ch)) {}
    let neg := if acc.v = 0 then ts.all (fun t => (t.a.isZero || t.b.isZero) && (t.a.sign != t.b.sign)) else decide (acc.v < 0)
    (.fin neg acc.v.natAbs (acc.anchor - 113), flagIf acc.tiny flTinyLoss)

/-- The scaled score s_j of query i and key j (R135); masked: -Inf. -/
def AttnD.score (x : AttnD) (rd : Nat → Byte) (fq fk : Fmt) (rm : RMode) (sat : Bool) (i j u : Nat) : Nat × Flags :=
  if x.causal && decide ((i : Int) + x.ofs < j) then (0xFF800000, 0)
  else
    let n := x.dim / blockSize x.blk
    let d := dotExact { fa := fq, fb := fk, blk := x.blk, sa := scaleRow rd fq (x.qScl + i * n) n,
                        sb := scaleRow rd fk (x.kScl + j * n) n }
      ((List.range x.dim).map (fun p =>
        { k := p, a := valAt rd fq x.q (i * x.dim + p), b := valAt rd fk x.k (j * x.dim + p) }))
    let r := mulLane { rm := rm, sat := sat, u := u } d.1 (laneVal x.scale)
    (r.1.toNat, r.2 ||| d.2)

/-- The row state and the probabilities of one query row. -/
structure AttnRow where
  m : W32
  l : W32
  /-- exp(m - m'), which scales the carried output. -/
  decay : W32
  /-- Patterns of P in its format, and its scale bytes. -/
  p : List Nat
  scl : List Nat
  flags : Flags
  gen : W32
  deriving DecidableEq, Repr

def negInf32 : W32 := 0xFF800000

/-- exp(a - m'), +0 where a is -Inf; each of the two operations draws once. -/
def expDiff (rm : RMode) (sat : Bool) (a m : W32) (g : W32) : W32 × Flags × W32 :=
  if a = negInf32 then (0, 0, g)
  else
    let d1 := srDraw rm g
    let x := addLane { rm := rm, sat := sat, u := d1.1 } (laneVal a) (laneVal m).neg
    let d2 := srDraw rm d1.2
    let y := expLane 0x11 { rm := rm, sat := sat, u := d2.1 } x.1
    (y.1, x.2 ||| y.2, d2.2)

def expDiffs (rm : RMode) (sat : Bool) (m : W32) : List W32 → W32 → List W32 × Flags × W32
  | [], g => ([], 0, g)
  | a :: rest, g =>
    let x := expDiff rm sat a m g
    let y := expDiffs rm sat m rest x.2.2
    (x.1 :: y.1, x.2.1 ||| y.2.1, y.2.2)

/-- One query row: m', P, l' and the factor of the carried output (R135, R136). -/
def AttnD.row (x : AttnD) (fv : Fmt) (rm : RMode) (sat : Bool) (m l : W32) (ss : List W32) (g : W32) : AttnRow :=
  let m' := ss.foldl (fun a s => lanePick true a s) m
  let ps := expDiffs rm sat m' ss g
  let dec := expDiff rm sat m m' ps.2.2
  let d3 := srDraw rm dec.2.2
  let sum := sumVals (ps.1.map laneVal) .fp32 .fp32 rm sat d3.1
  let d4 := srDraw rm d3.2
  let l' := fmaLane { rm := rm, sat := sat, u := d4.1 } (laneVal l) (laneVal dec.1) (laneVal (BitVec.ofNat 32 sum.1))
  let fl := ps.2.1 ||| dec.2.1 ||| sum.2 ||| l'.2
  if fv.scaled then
    let q := quantArray .e4m3 x.blk rm sat (ps.1.map laneVal) d4.2
    { m := m', l := l'.1, decay := dec.1, p := q.2.1, scl := q.1, flags := fl ||| q.2.2.1, gen := q.2.2.2 }
  else if fv = .fp32 then
    { m := m', l := l'.1, decay := dec.1, p := ps.1.map BitVec.toNat, scl := [], flags := fl, gen := d4.2 }
  else
    let q := roundArray fv rm sat (ps.1.map laneVal) d4.2
    { m := m', l := l'.1, decay := dec.1, p := q.1, scl := [], flags := fl ||| q.2.1, gen := q.2.2 }

/-- All query rows, the vector unit's generator running on. -/
def AttnD.rowsFrom (x : AttnD) (rd : Nat → Byte) (fv : Fmt) (rm : RMode) (sat : Bool) (sc : Nat → List W32) :
    List Nat → W32 → List AttnRow × W32
  | [], g => ([], g)
  | i :: is, g =>
    let m := if x.init then negInf32 else BitVec.ofNat 32 (elemAt rd .fp32 x.st (2 * i))
    let l := if x.init then 0 else BitVec.ofNat 32 (elemAt rd .fp32 x.st (2 * i + 1))
    let r := x.row fv rm sat m l (sc i) g
    let rest := AttnD.rowsFrom x rd fv rm sat sc is r.gen
    (r :: rest.1, rest.2)

def noRow : AttnRow := { m := 0, l := 0, decay := 0, p := [], scl := [], flags := 0, gen := 1 }

/-- O' = O * exp(m - m') + P . V: the product of O is the carried value (R54). -/
def AttnD.pvJob (x : AttnD) (rd : Nat → Byte) (fv : Fmt) (rm : RMode) (sat : Bool) (rows : List AttnRow) : DotJob :=
  let fp := attnPFmt fv
  let n := blockSize x.blk
  { rows := x.lq, cols := x.dim, fp32 := fp == .fp32, rm := rm,
    elem := fun i d u =>
      let r := rows.getD i noRow
      let o := if x.init then zeroVal else valAt rd .fp32 x.o (i * x.dim + d)
      let c := mulLane { rm := if rm = .sr then .rne else rm, sat := sat, u := 0 } o (laneVal r.decay)
      let y := dotElem { fa := fp, fb := fv, blk := x.blk, sa := r.scl,
                         sb := if fv.scaled then (List.range (cdiv x.lk n)).map (fun k =>
                           (rd (x.vScl + k * x.dim + d)).toNat) else [] }
        (some (laneVal c.1))
        ((List.range x.lk).map (fun j => { k := j, a := decodeVal fp (r.p.getD j 0), b := valAt rd fv x.v (j * x.dim + d) }))
        .fp32 rm sat u
      (y.1, y.2 ||| c.2),
    steps := fun _ bj => termSteps fp fv x.lk (min 64 (x.dim - 64 * bj)) false }

/-- O' / l', rounded by the store to OUT_FMT; +0 without flags where l' = 0 (R135). -/
def attnFinal (out : Fmt) (rm : RMode) (sat : Bool) (l : W32) (o g : W32) : Nat × Flags × W32 :=
  if (laneVal l).isZero then (0, 0, g)
  else
    let d1 := srDraw rm g
    let x := divLane { rm := rm, sat := sat, u := d1.1 } (laneVal o) (laneVal l)
    if out = .fp32 then (x.1.toNat, x.2, d1.2)
    else
      let d2 := srDraw rm d1.2
      let y := roundVal out rm sat d2.1 (laneVal x.1)
      (y.1, x.2 ||| y.2, d2.2)

def attnFinals (out : Fmt) (rm : RMode) (sat : Bool) (rows : List AttnRow) :
    List (Nat × Nat × Nat) → W32 → List (Nat × Nat × Nat) × Flags × W32
  | [], g => ([], 0, g)
  | (i, d, o) :: rest, g =>
    let x := attnFinal out rm sat (rows.getD i noRow).l (BitVec.ofNat 32 o) g
    let y := attnFinals out rm sat rows rest x.2.2
    ((i, d, x.1) :: y.1, x.2.1 ||| y.2.1, y.2.2)

def AttnD.undef (x : AttnD) (fq fk fv out : Fmt) : Bool :=
  let n := blockSize x.blk
  let outs := [(x.o, x.lq * x.dim * (if x.final then out.bits / 8 else 4)), (x.st, x.lq * 8)]
  let ins := [(x.q, x.lq * arrayBytes fq x.dim), (x.k, x.lk * arrayBytes fk x.dim), (x.v, x.lk * arrayBytes fv x.dim)] ++
    (if fq.scaled then [(x.qScl, x.lq * (x.dim / n)), (x.kScl, x.lk * (x.dim / n))] else []) ++
    (if fv.scaled then [(x.vScl, cdiv x.lk n * x.dim)] else [])
  outs.any (fun o => ins.any (fun i => overlap o.1 o.2 i.1 i.2)) ||
    overlap x.o (x.lq * x.dim * 4) x.st (x.lq * 8)

/-- Write the row states (m', l'). -/
def State.attnStates (s : State) (b : BayId) (x : AttnD) (rows : List AttnRow) (undef : Bool) : State :=
  s.writeResults b .fp32 (fun i k => x.st + 8 * i + 4 * k)
    (rows.zipIdx.flatMap (fun r => [(r.2, 0, r.1.m.toNat), (r.2, 1, r.1.l.toNat)])) undef

/-- The scores of an ATTN_BLOCK. -/
def AttnD.scoreJob (x : AttnD) (rd : Nat → Byte) (fq fk : Fmt) (rm : RMode) (sat : Bool) : DotJob :=
  { rows := x.lq, cols := x.lk, fp32 := fq == .fp32, rm := rm, elem := x.score rd fq fk rm sat,
    steps := fun _ bj => termSteps fq fk x.dim (min 64 (x.lk - 64 * bj)) false }

/-- Sticky flags of the vector unit. -/
def State.vecFlags (s : State) (b : BayId) (f : Flags) : State :=
  s.wf (BAY_VFLAGS b) BAY_VFLAGS_FLAGS (s.rf (BAY_VFLAGS b) BAY_VFLAGS_FLAGS ||| f.toNat)

def State.vecGen (s : State) (b : BayId) : W32 := BitVec.ofNat 32 (s.rf (BAY_VSR_STATE b) BAY_VSR_STATE_STATE)

def State.setVecGen (s : State) (b : BayId) (g : W32) : State := s.wf (BAY_VSR_STATE b) BAY_VSR_STATE_STATE g.toNat

/-- A lane check fails (R74, R60): the descriptor stops and the step is replayed on the same bay; a repeat on the same lane
before the replayed step completes loses the bay (R92). -/
def State.laneFault (s : State) (b : BayId) (u : UnitKind) (code lane : Nat) : State :=
  let again := (s.bay b).faultLanes.contains lane
  let s := s.unitFault b u code (locBay b) lane false
  let s := s.setBay b { s.bay b with faultLanes := if again then (s.bay b).faultLanes else lane :: (s.bay b).faultLanes }
  if again then s.loseBay b else s

/-- The vector lane check that fails. -/
def laneFaultOf : Option UnitFault → Option (Nat × Nat)
  | some (.vecResidue l) => some (F_VEC_RESIDUE, l.val)
  | some (.vecRail l) => some (F_VEC_RAIL, l.val)
  | _ => none

/-- The output phase of an ATTN_BLOCK: O', and under FINAL the quotient. -/
def State.attnOut (s : State) (b : BayId) (x : AttnD) (rd : Nat → Byte) (fv out : Fmt) (rm : RMode) (sat : Bool)
    (rows : List AttnRow) (undef : Bool) : State × Flags :=
  let j := x.pvJob rd fv rm sat rows
  let r := s.runBlocks b j (List.range j.blocks)
  let s := r.1.attnStates b x rows undef
  if x.final then
    let f := attnFinals out rm sat rows r.2.1 (s.vecGen b)
    let s := (s.setVecGen b f.2.2).vecFlags b f.2.1
    (s.writeResults b out (fun i d => x.o + (i * x.dim + d) * (out.bits / 8)) f.1 undef, r.2.2 ||| f.2.1)
  else (s.writeResults b .fp32 (fun i d => x.o + (i * x.dim + d) * 4) r.2.1 undef, r.2.2)

/-- ATTN_BLOCK with its operands read. -/
def State.attnRun (s : State) (b : BayId) (x : AttnD) (fq fk fv out : Fmt) (rm : RMode) (sat : Bool) (e : UnitEnv) : State :=
  let rd := s.sramByte b
  let undef := x.undef fq fk fv out
  let sj := x.scoreJob rd fq fk rm sat
  let ks := s.jobBlocks sj e.fault
  let sc := ks.2.runBlocks b sj ks.1
  let s := sc.1
  match tileFaultOf sj.blocks e.fault, laneFaultOf e.fault with
  | some _, _ => s.tileFault b sj.blocks e.fault
  | none, some (code, lane) => s.laneFault b .matrix code lane
  | none, none =>
    let scores := fun i => (sc.2.1.filter (fun t => t.1 == i)).map (fun t => (t.2.1, BitVec.ofNat 32 t.2.2))
    let line := fun i => (List.range x.lk).map (fun j => (((scores i).find? (fun t => t.1 == j)).map (·.2)).getD 0)
    let rows := x.rowsFrom rd fv rm sat line (List.range x.lq) (s.vecGen b)
    let vfl := rows.1.foldl (fun f r => f ||| r.flags) 0
    let s := (s.setVecGen b rows.2).vecFlags b vfl
    let o := s.attnOut b x rd fv out rm sat rows.1 undef
    let fl := o.1.flagsOr undef (sc.2.2 ||| vfl ||| o.2)
    fl.2.runFlags b .matrix fl.1

/-- ATTN_BLOCK starts at the head of both queues (R107). -/
def State.attnStart (s : State) (b : BayId) (q : Queued) (e : UnitEnv) : State :=
  let x := attnOf q.d
  match x.fq, x.fk, x.fv, x.out with
  | some fq, some fk, some fv, some out =>
    let s := (s.startHead b .matrix q).startHead b .vector q
    match s.sramErrs b e.sram with
    | (s, some err) => s.sramUe b .matrix err
    | (s, none) => s.attnRun b x fq fk fv out (dRmode q.d) (dSat q.d) e
  | _, _, _, _ => s

def execAttnBlock (b : BayId) (e : UnitEnv) (s : State) : Out :=
  .next (match s.headReady b .matrix 0x02, s.headReady b .vector 0x02 with
    | some q, some q' => if q.idx = q'.idx then s.attnStart b q e else s
    | _, _ => s)

end Sys2Proof.Machine
end

