-- ==== Sys2Proof/Machine/Vector.lean ====
section
/-!
DEFINITION. Sys2Proof/Machine/Vector.lean: the vector unit: VEC, VEC_MICRO and the 48 micro-ops (R91, R92, R138, R139, R145 to
R148, R561).
-/

set_option Elab.async false

namespace Sys2Proof.Machine

/-! ## Registers and buffers -/

/-- Vector register v: its 256 lanes. -/
def Bay.vget (x : Bay) (v : Nat) : List W32 := (List.range 256).map (fun i => sparseGet (fun _ => (0 : W32)) x.vregs (256 * v + i))

/-- Write lanes from lane i of register v upwards. -/
def vsetFrom (m : Sparse W32) (v i : Nat) : List W32 → Sparse W32
  | [] => m
  | w :: ws => vsetFrom (sparseSet (fun _ => (0 : W32)) m (256 * v + i) w) v (i + 1) ws

def State.vset (s : State) (b : BayId) (v : Nat) (ws : List W32) : State :=
  s.setBay b { s.bay b with vregs := vsetFrom (s.bay b).vregs v 0 ws }

/-- A buffer format code in force; a code of 3 is malformed at dispatch. -/
def bufFmtOr (c : Nat) : Fmt := (bufFmt c).getD .fp32

/-- The 32-bit pattern of element j of a buffer, widened (R91). -/
def State.bufElem (s : State) (b : BayId) (f : Fmt) (a j : Nat) : W32 := widenElem f (elemAt (s.sramByte b) f a j)

/-- Round lane patterns to a buffer format; FP32 keeps patterns and draws nothing (R41, R66). -/
def storeLanes (f : Fmt) (rm : RMode) (sat : Bool) (ws : List W32) (g : W32) : List Nat × Flags × W32 :=
  match f with
  | .fp32 => (ws.map BitVec.toNat, 0, g)
  | _ => roundArray f rm sat (ws.map laneVal) g

/-! ## One micro-op -/

/-- A decoded micro-op (R145). -/
structure MicroOp where
  op : Nat
  d : Nat
  a : Nat
  b : Nat
  c : Nat
  imm : Nat
  deriving DecidableEq, Repr

def microOf (w : W32) : MicroOp :=
  { op := w.toNat / 2 ^ 26 % 64, d := w.toNat / 2 ^ 20 % 64, a := w.toNat / 2 ^ 14 % 64, b := w.toNat / 2 ^ 8 % 64,
    c := w.toNat / 4 % 64, imm := w.toNat / 4 % 4096 }

/-- Write the lanes of register D, and the sticky flags. -/
def State.microResult (s : State) (b : BayId) (m : MicroOp) (ws : List W32) (f : Flags) : State :=
  (s.vset b m.d ws).vecFlags b f

/-- Change the micro-program state. -/
def State.setCtx (s : State) (b : BayId) (c : VecCtx) : State := s.setBay b { s.bay b with vctx := c }

/-- Advance the program to the next micro-op. -/
def State.nextMicro (s : State) (b : BayId) : State :=
  s.setCtx b { (s.bay b).vctx with pc := (s.bay b).vctx.pc + 1 }

/-- A lane-wise micro-op (column V of Table 4-11). -/
def State.microLanes (s : State) (b : BayId) (rm : RMode) (sat : Bool) (m : MicroOp) : State :=
  let x := s.bay b
  let r := laneOps m.op rm sat ((x.vget m.a).zip ((x.vget m.b).zip (x.vget m.c))) (s.vecGen b)
  (s.setVecGen b r.2.2).microResult b m r.1 r.2.1

/-- RSUM: one anchored sum of the 256 lanes, rounded once, to every lane (R140). -/
def State.microSum (s : State) (b : BayId) (rm : RMode) (sat : Bool) (m : MicroOp) : State :=
  let g := srDraw rm (s.vecGen b)
  let r := sumVals (((s.bay b).vget m.a).map laneVal) .fp32 .fp32 rm sat g.1
  (s.setVecGen b g.2).microResult b m (List.replicate 256 (BitVec.ofNat 32 r.1)) r.2

/-- RMAX, RMIN. -/
def State.microPick (s : State) (b : BayId) (max : Bool) (m : MicroOp) : State :=
  let ws := (s.bay b).vget m.a
  let r := ws.foldl (fun acc w => lanePick max acc w) (ws.headD 0)
  s.microResult b m (List.replicate 256 r) 0

/-- A register whose lane i is f i. -/
def State.microMap (s : State) (b : BayId) (m : MicroOp) (f : Nat → W32) : State := s.microResult b m ((List.range 256).map f) 0

/-- Pointer p of the running program, and its format. -/
def State.ptr (s : State) (b : BayId) (p : Nat) : Nat := (s.bay b).vctx.ptrs.getD p 0
def State.ptrFmt (s : State) (b : BayId) (p : Nat) : Fmt := bufFmtOr ((s.bay b).vctx.pfmt.getD p 0)

/-- Advance pointer p by 256 elements. -/
def State.advance (s : State) (b : BayId) (p : Nat) : State :=
  let c := (s.bay b).vctx
  s.setCtx b { c with ptrs := c.ptrs.set p (s.ptr b p + 256 * ((s.ptrFmt b p).bits / 8)) }

/-- LDV: 256 elements at pointer A, widened; the pointer advances. -/
def State.microLoad (s : State) (b : BayId) (m : MicroOp) : State :=
  (s.microMap b m (fun i => s.bufElem b (s.ptrFmt b m.a) (s.ptr b m.a) i)).advance b m.a

/-- STV: register D at pointer A, rounded to its format; the pointer advances. -/
def State.microStore (s : State) (b : BayId) (rm : RMode) (sat : Bool) (m : MicroOp) : State :=
  let f := s.ptrFmt b m.a
  let r := storeLanes f rm sat ((s.bay b).vget m.d) (s.vecGen b)
  let a := s.ptr b m.a
  ((((s.setVecGen b r.2.2).vecFlags b r.2.1).sramWrite b a (packElems f r.1))).advance b m.a

/-- The int32 value of a lane pattern. -/
def lanePos (w : W32) : Int := w.toInt

/-- GATHER: d[i] = element int32 b[i] of buffer A; addresses are modulo 16 MiB (R150). -/
def State.microGather (s : State) (b : BayId) (m : MicroOp) : State :=
  let f := s.ptrFmt b m.a
  let ix := (s.bay b).vget m.b
  s.microMap b m (fun i =>
    let a := ((s.ptr b m.a : Int) + lanePos (ix.getD i 0) * (f.bits / 8 : Nat)) % (2 ^ 24 : Int)
    s.bufElem b f a.toNat 0)

/-- The generator's 256 next states. -/
def genStates : Nat → W32 → List W32 × W32
  | 0, g => ([], g)
  | n + 1, g =>
    let r := genStates n (srStep g)
    (srStep g :: r.1, r.2)

/-- RAND: uniform in [0, 1) with 2^-24 resolution, one step a lane; which 24 bits a lane takes is open. -/
def State.microRand (s : State) (b : BayId) (m : MicroOp) : State :=
  let r := genStates 256 (s.vecGen b)
  (s.setVecGen b r.2).microResult b m
    (r.1.map (fun g => BitVec.ofNat 32 (roundFin .fp32 .rtz false 0 false (Config.freeRand g).toNat (-24) false).1)) 0

/-- LOOP: the body after it runs imm + 1 times. -/
def VecCtx.enter (c : VecCtx) (imm : Nat) : VecCtx := { c with pc := c.pc + 1, loops := (c.pc + 1, imm) :: c.loops }

/-- ENDLOOP. -/
def VecCtx.again (c : VecCtx) : VecCtx :=
  match c.loops with
  | [] => { c with pc := c.pc + 1 }
  | (start, left) :: rest =>
    if left = 0 then { c with pc := c.pc + 1, loops := rest } else { c with pc := start, loops := (start, left - 1) :: rest }

/-- HALT: the end of one iteration; the next begins at the first micro-op while iterations are left. -/
def VecCtx.haltIter (c : VecCtx) : VecCtx :=
  if c.iters = 0 then c else { c with pc := 0, loops := [], iters := c.iters - 1 }

/-- A micro-op that is not a control one (Table 4-11). -/
def State.microData (s : State) (b : BayId) (rm : RMode) (sat : Bool) (m : MicroOp) : State :=
  let x := s.bay b
  if microVec m.op then s.microLanes b rm sat m
  else match m.op with
    | 0x20 => s.microSum b rm sat m
    | 0x21 => s.microPick b true m
    | 0x22 => s.microPick b false m
    | 0x23 => s.microMap b m (fun i => (x.vget m.a).getD (((x.vget m.b).getD i 0).toNat % 256) 0)
    | 0x24 => s.microMap b m (fun i => (x.vget m.a).getD ((i + m.imm) % 256) 0)
    | 0x25 => s.microMap b m (fun _ => (x.vget m.a).getD (m.imm % 256) 0)
    | 0x26 => s.microMap b m (fun i => BitVec.ofNat 32 i)
    | 0x28 => s.microMap b m (fun _ => x.vctx.params.getD m.imm 0)
    | 0x29 => s.microLoad b m
    | 0x2A => s.microStore b rm sat m
    | 0x2B => s.microGather b m
    | 0x2C => s.microRand b m
    | _ => s

/-- One micro-op with its effect on the program. -/
def State.micro (s : State) (b : BayId) (rm : RMode) (sat : Bool) (m : MicroOp) : State :=
  match m.op with
  | 0x2D => s.setCtx b ((s.bay b).vctx.enter m.imm)
  | 0x2E => s.setCtx b (s.bay b).vctx.again
  | 0x2F => s.setCtx b (s.bay b).vctx.haltIter
  | _ => (s.microData b rm sat m).nextMicro b

/-! ## The micro-op commands -/

/-- A micro-op command: the micro-op of code op, or the lane check that fails in it (R60, R74). -/
def State.microCmd (s : State) (op : Nat) (m : MicroArgs) : State :=
  match laneFaultOf m.fault with
  | some (code, lane) => s.laneFault m.bay .vector code lane
  | none =>
    s.micro m.bay ((rmodeOfCode m.rmode.val).getD .rne) m.sat
      { op := op, d := m.d.val, a := m.a.val, b := m.b.val, c := m.c.val, imm := m.imm.val }

/-- Micro-op ADD, code 0x00 (Table 4-11). -/
def execAdd (m : MicroArgs) (s : State) : Out := .next (s.microCmd 0x00 m)

/-- Micro-op SUB, code 0x01 (Table 4-11). -/
def execSub (m : MicroArgs) (s : State) : Out := .next (s.microCmd 0x01 m)

/-- Micro-op MUL, code 0x02 (Table 4-11). -/
def execMul (m : MicroArgs) (s : State) : Out := .next (s.microCmd 0x02 m)

/-- Micro-op FMA, code 0x03 (Table 4-11). -/
def execFma (m : MicroArgs) (s : State) : Out := .next (s.microCmd 0x03 m)

/-- Micro-op FMS, code 0x04 (Table 4-11). -/
def execFms (m : MicroArgs) (s : State) : Out := .next (s.microCmd 0x04 m)

/-- Micro-op NEG, code 0x05 (Table 4-11). -/
def execNeg (m : MicroArgs) (s : State) : Out := .next (s.microCmd 0x05 m)

/-- Micro-op ABS, code 0x06 (Table 4-11). -/
def execAbs (m : MicroArgs) (s : State) : Out := .next (s.microCmd 0x06 m)

/-- Micro-op MIN, code 0x07 (Table 4-11). -/
def execMin (m : MicroArgs) (s : State) : Out := .next (s.microCmd 0x07 m)

/-- Micro-op MAX, code 0x08 (Table 4-11). -/
def execMax (m : MicroArgs) (s : State) : Out := .next (s.microCmd 0x08 m)

/-- Micro-op CLAMP, code 0x09 (Table 4-11). -/
def execClamp (m : MicroArgs) (s : State) : Out := .next (s.microCmd 0x09 m)

/-- Micro-op FLOOR, code 0x0A (Table 4-11). -/
def execFloor (m : MicroArgs) (s : State) : Out := .next (s.microCmd 0x0A m)

/-- Micro-op RINT, code 0x0B (Table 4-11). -/
def execRint (m : MicroArgs) (s : State) : Out := .next (s.microCmd 0x0B m)

/-- Micro-op RCP, code 0x0C (Table 4-11). -/
def execRcp (m : MicroArgs) (s : State) : Out := .next (s.microCmd 0x0C m)

/-- Micro-op DIV, code 0x0D (Table 4-11). -/
def execDiv (m : MicroArgs) (s : State) : Out := .next (s.microCmd 0x0D m)

/-- Micro-op SQRT, code 0x0E (Table 4-11). -/
def execSqrt (m : MicroArgs) (s : State) : Out := .next (s.microCmd 0x0E m)

/-- Micro-op RSQRT, code 0x0F (Table 4-11). -/
def execRsqrt (m : MicroArgs) (s : State) : Out := .next (s.microCmd 0x0F m)

/-- Micro-op EXP2, code 0x10 (Table 4-11). -/
def execExp2 (m : MicroArgs) (s : State) : Out := .next (s.microCmd 0x10 m)

/-- Micro-op EXP, code 0x11 (Table 4-11). -/
def execExp (m : MicroArgs) (s : State) : Out := .next (s.microCmd 0x11 m)

/-- Micro-op LOG2, code 0x12 (Table 4-11). -/
def execLog2 (m : MicroArgs) (s : State) : Out := .next (s.microCmd 0x12 m)

/-- Micro-op LOG, code 0x13 (Table 4-11). -/
def execLog (m : MicroArgs) (s : State) : Out := .next (s.microCmd 0x13 m)

/-- Micro-op TANH, code 0x14 (Table 4-11). -/
def execTanh (m : MicroArgs) (s : State) : Out := .next (s.microCmd 0x14 m)

/-- Micro-op SIGMOID, code 0x15 (Table 4-11). -/
def execSigmoid (m : MicroArgs) (s : State) : Out := .next (s.microCmd 0x15 m)

/-- Micro-op ERF, code 0x16 (Table 4-11). -/
def execErf (m : MicroArgs) (s : State) : Out := .next (s.microCmd 0x16 m)

/-- Micro-op CMPLT, code 0x17 (Table 4-11). -/
def execCmplt (m : MicroArgs) (s : State) : Out := .next (s.microCmd 0x17 m)

/-- Micro-op CMPLE, code 0x18 (Table 4-11). -/
def execCmple (m : MicroArgs) (s : State) : Out := .next (s.microCmd 0x18 m)

/-- Micro-op CMPEQ, code 0x19 (Table 4-11). -/
def execCmpeq (m : MicroArgs) (s : State) : Out := .next (s.microCmd 0x19 m)

/-- Micro-op SEL, code 0x1A (Table 4-11). -/
def execSel (m : MicroArgs) (s : State) : Out := .next (s.microCmd 0x1A m)

/-- Micro-op AND, code 0x1B (Table 4-11). -/
def execAnd (m : MicroArgs) (s : State) : Out := .next (s.microCmd 0x1B m)

/-- Micro-op OR, code 0x1C (Table 4-11). -/
def execOr (m : MicroArgs) (s : State) : Out := .next (s.microCmd 0x1C m)

/-- Micro-op XOR, code 0x1D (Table 4-11). -/
def execXor (m : MicroArgs) (s : State) : Out := .next (s.microCmd 0x1D m)

/-- Micro-op CVTI, code 0x1E (Table 4-11). -/
def execCvti (m : MicroArgs) (s : State) : Out := .next (s.microCmd 0x1E m)

/-- Micro-op CVTF, code 0x1F (Table 4-11). -/
def execCvtf (m : MicroArgs) (s : State) : Out := .next (s.microCmd 0x1F m)

/-- Micro-op RSUM, code 0x20 (Table 4-11). -/
def execRsum (m : MicroArgs) (s : State) : Out := .next (s.microCmd 0x20 m)

/-- Micro-op RMAX, code 0x21 (Table 4-11). -/
def execRmax (m : MicroArgs) (s : State) : Out := .next (s.microCmd 0x21 m)

/-- Micro-op RMIN, code 0x22 (Table 4-11). -/
def execRmin (m : MicroArgs) (s : State) : Out := .next (s.microCmd 0x22 m)

/-- Micro-op PERM, code 0x23 (Table 4-11). -/
def execPerm (m : MicroArgs) (s : State) : Out := .next (s.microCmd 0x23 m)

/-- Micro-op ROTL, code 0x24 (Table 4-11). -/
def execRotl (m : MicroArgs) (s : State) : Out := .next (s.microCmd 0x24 m)

/-- Micro-op BCAST, code 0x25 (Table 4-11). -/
def execBcast (m : MicroArgs) (s : State) : Out := .next (s.microCmd 0x25 m)

/-- Micro-op IDX, code 0x26 (Table 4-11). -/
def execIdx (m : MicroArgs) (s : State) : Out := .next (s.microCmd 0x26 m)

/-- Micro-op MOV, code 0x27 (Table 4-11). -/
def execMov (m : MicroArgs) (s : State) : Out := .next (s.microCmd 0x27 m)

/-- Micro-op LDP, code 0x28 (Table 4-11). -/
def execLdp (m : MicroArgs) (s : State) : Out := .next (s.microCmd 0x28 m)

/-- Micro-op LDV, code 0x29 (Table 4-11). -/
def execLdv (m : MicroArgs) (s : State) : Out := .next (s.microCmd 0x29 m)

/-- Micro-op STV, code 0x2A (Table 4-11). -/
def execStv (m : MicroArgs) (s : State) : Out := .next (s.microCmd 0x2A m)

/-- Micro-op GATHER, code 0x2B (Table 4-11). -/
def execGather (m : MicroArgs) (s : State) : Out := .next (s.microCmd 0x2B m)

/-- Micro-op RAND, code 0x2C (Table 4-11). -/
def execRand (m : MicroArgs) (s : State) : Out := .next (s.microCmd 0x2C m)

/-- Micro-op LOOP, code 0x2D (Table 4-11). -/
def execLoop (m : MicroArgs) (s : State) : Out := .next (s.microCmd 0x2D m)

/-- Micro-op ENDLOOP, code 0x2E (Table 4-11). -/
def execEndloop (m : MicroArgs) (s : State) : Out := .next (s.microCmd 0x2E m)

/-- Micro-op HALT, code 0x2F (Table 4-11). -/
def execMicroHalt (m : MicroArgs) (s : State) : Out := .next (s.microCmd 0x2F m)

/-! ## VEC (R139) -/

/-- The patterns of n elements of a VEC source from element j. -/
def State.vecSource (s : State) (b : BayId) (f : Fmt) (a j n : Nat) : List W32 :=
  (List.range n).map (fun i => s.bufElem b f a (j + i))

/-- One group of a VEC: sources read from s0, results stored in s (R139). -/
def State.vecGroup (s : State) (s0 : State) (b : BayId) (x : VecD) (fa fb fd : Fmt) (rm : RMode) (sat undef : Bool)
    (j n : Nat) : State × Flags :=
  let as := s0.vecSource b fa x.a j n
  let bs := if x.scalar then List.replicate n x.param
    else if microUsesB x.op then s0.vecSource b fb x.b j n else List.replicate n 0
  let cs := if microUsesC x.op then s0.vecSource b fb x.c j n else List.replicate n 0
  let r := laneOps x.op rm sat (as.zip (bs.zip cs)) (s.vecGen b)
  let w := storeLanes fd rm sat r.1 r.2.2
  let s := s.setVecGen b w.2.2
  let fl := r.2.1 ||| w.2.1
  let bytes := packElems fd w.1
  let a := x.dst + arrayBytes fd j
  let s := if undef then let o := s.drawBytes bytes.length; o.2.sramWrite b a o.1 else s.sramWrite b a bytes
  let o := s.flagsOr undef fl
  (o.2.vecFlags b o.1, o.1)

/-- The first k groups of a VEC. -/
def State.vecGroups (s : State) (b : BayId) (x : VecD) (fa fb fd : Fmt) (rm : RMode) (sat undef : Bool) (k : Nat) :
    State × Flags :=
  (List.range k).foldl (fun acc g =>
    let r := acc.1.vecGroup s b x fa fb fd rm sat undef (256 * g) (min 256 (x.count - 256 * g))
    (r.1, acc.2 ||| r.2)) (s, 0)

/-- The destination meets a source other than by coinciding with it exactly (R109). -/
def VecD.undef (x : VecD) (fa fb fd : Fmt) : Bool :=
  let n := arrayBytes fd x.count
  let bad := fun (a m : Nat) => overlap x.dst n a m && !(x.dst == a && n == m)
  bad x.a (arrayBytes fa x.count) || (microUsesB x.op && !x.scalar && bad x.b (arrayBytes fb x.count)) ||
    (microUsesC x.op && bad x.c (arrayBytes fb x.count))

/-- A vector descriptor that stops: after an open number of its n parts, by an SRAM error or a lane check. -/
def State.vecStop (s : State) (b : BayId) (err : Option SramErr) (fault : Option UnitFault) : State :=
  match err, laneFaultOf fault with
  | some e, _ => s.sramUe b .vector e
  | none, some (code, lane) => s.laneFault b .vector code lane
  | none, none => s

/-- VEC, started. -/
def State.vecRun (s : State) (b : BayId) (d : Desc) (x : VecD) (fa fb fd : Fmt) (e : UnitEnv) : State :=
  let n := cdiv x.count 256
  let es := s.sramErrs b e.sram
  let stops := es.2.isSome || (laneFaultOf e.fault).isSome
  let w := if stops then es.1.draw else (0, es.1)
  let k := if stops then w.1.toNat % (n + 1) else n
  let r := w.2.vecGroups b x fa fb fd (dRmode d) (dSat d) (x.undef fa fb fd) k
  (r.1.runFlags b .vector r.2).vecStop b es.2 e.fault

/-- VEC starts: the head of the vector queue, once it can start. -/
def execVec (b : BayId) (e : UnitEnv) (s : State) : Out :=
  .next (match s.headReady b .vector 0x10 with
    | none => s
    | some q =>
      let x := vecOf q.d
      match x.fa, x.fb, x.fd with
      | some fa, some fb, some fd => (s.startHead b .vector q).vecRun b q.d x fa fb fd e
      | _, _, _ => s)

/-! ## VEC_MICRO -/

/-- The program has ended: its last iteration is at HALT. -/
def atEnd (prog : List W32) (c : VecCtx) : Bool :=
  match prog[c.pc]? with
  | none => true
  | some w => (microOf w).op == 0x2F && c.iters == 0

/-- Run the microprogram, at most fuel micro-ops; the Flags are those of its record. -/
def State.runMicro : Nat → State → BayId → List W32 → RMode → Bool → State
  | 0, s, _, _, _, _ => s
  | n + 1, s, b, prog, rm, sat =>
    if atEnd prog (s.bay b).vctx then s
    else State.runMicro n (s.micro b rm sat (microOf (prog.getD (s.bay b).vctx.pc 0))) b prog rm sat

/-- Micro-ops a program of 64 can execute: two nested loops of 4,096 passes, for each iteration. -/
def microFuel (iters : Nat) : Nat := (iters + 1) * (64 * 4097 * 4097)

/-- The sticky flags cleared, so that what a program sets can be read off, and both joined afterwards. -/
def State.runProgram (s : State) (b : BayId) (d : Desc) (fuel : Nat) (prog : List W32) : State :=
  let old := s.rf (BAY_VFLAGS b) BAY_VFLAGS_FLAGS
  let s := s.wf (BAY_VFLAGS b) BAY_VFLAGS_FLAGS 0
  let s := s.runMicro fuel b prog (dRmode d) (dSat d)
  let fl := s.rf (BAY_VFLAGS b) BAY_VFLAGS_FLAGS
  (s.wf (BAY_VFLAGS b) BAY_VFLAGS_FLAGS (old ||| fl)).runFlags b .vector (BitVec.ofNat 8 fl)

/-- VEC_MICRO, started. -/
def State.vecMicroRun (s : State) (b : BayId) (d : Desc) (e : UnitEnv) : State :=
  let iters := dfield d 2 23 8
  let prog := sparseGet (fun _ => ([] : List W32)) (s.bay b).uprog (dfield d 2 3 0)
  let s := s.setCtx b { pc := 0, loops := [], iters := iters, ptrs := microPtrs d, pfmt := microPfmt d, params := microParams d }
  let es := s.sramErrs b e.sram
  let stops := es.2.isSome || (laneFaultOf e.fault).isSome
  let w := if stops then es.1.draw else (0, es.1)
  (w.2.runProgram b d (if stops then w.1.toNat % (microFuel iters + 1) else microFuel iters) prog).vecStop b es.2 e.fault

/-- VEC_MICRO starts; its slot is checked at the head of the queue (R148). -/
def execVecMicro (b : BayId) (e : UnitEnv) (s : State) : Out :=
  .next (match s.headReady b .vector 0x11 with
    | none => s
    | some q =>
      let slot := dfield q.d 2 3 0
      if (s.bay b).slotLoading slot q.idx then s
      else if wbit (s.reg (BAY_SEQ_UPROG b)) slot then (s.startHead b .vector q).vecMicroRun b q.d e
      else s.malformedStop b q.idx q.d)

end Sys2Proof.Machine
end

