-- ==== Sys2Proof/Machine/DataEngine.lean ====
section
/-!
DEFINITION. Sys2Proof/Machine/DataEngine.lean: the data engine of a bay (R138 to R142, R147, R154, R176, R226 to R229): CONVERT,
REDUCE, LOAD, STORE, SELECT and microprogram LOADs, with the Larders and Annex windows they go through.
-/

set_option Elab.async false

namespace Sys2Proof.Machine

/-! ## The generator of the data engine -/

def State.dataGen (s : State) (b : BayId) : W32 := BitVec.ofNat 32 (s.rf (BAY_DSR_STATE b) BAY_DSR_STATE_STATE)
def State.setDataGen (s : State) (b : BayId) (g : W32) : State := s.wf (BAY_DSR_STATE b) BAY_DSR_STATE_STATE g.toNat

/-! ## CONVERT and REDUCE (R140) -/

/-- Write bytes, or open bytes where the output overlaps an input (R109). -/
def State.sramPut (s : State) (b : BayId) (a : Nat) (bs : List Byte) (undef : Bool) : State :=
  if undef then let o := s.drawBytes bs.length; o.2.sramWrite b a o.1 else s.sramWrite b a bs

/-- A CONVERT's output meets an input other than by coinciding with it where the elements have one size (R109). -/
def ConvertD.undef (x : ConvertD) (fs fd : Fmt) : Bool :=
  let n := arrayBytes fs x.count
  let m := arrayBytes fd x.count
  let ns := if fs.scaled then cdiv x.count (blockSize x.sblk) else 0
  let ms := if fd.scaled then cdiv x.count (blockSize x.dblk) else 0
  (overlap x.dst m x.src n && !(x.dst == x.src && fs.bits == fd.bits)) || overlap x.dst m x.sscl ns ||
    overlap x.dscl ms x.src n || (overlap x.dscl ms x.sscl ns && !(x.dscl == x.sscl && ms == ns && fs.bits == fd.bits))

/-- The first n elements of a CONVERT: scale bytes, element bytes, flags and the generator after them. -/
def ConvertD.result (x : ConvertD) (rd : Nat → Byte) (fs fd : Fmt) (rm : RMode) (sat : Bool) (n : Nat) (g : W32) :
    List Byte × List Byte × Flags × W32 :=
  let src := readArray rd fs x.sblk x.src x.sscl n
  if fd.scaled then
    let r := quantArray fd x.dblk rm sat src.1 g
    (r.1.map (BitVec.ofNat 8), packElems fd r.2.1, src.2 ||| r.2.2.1, r.2.2.2)
  else
    let r := roundArray fd rm sat src.1 g
    ([], packElems fd r.1, src.2 ||| r.2.1, r.2.2)

/-- Elements done before an uncorrectable SRAM read stops a descriptor: an open number, in whole parts. -/
def State.partDone (s : State) (err : Option SramErr) (n part : Nat) : Nat × State :=
  match err with
  | none => (n, s)
  | some _ => let w := s.draw; (min n (w.1.toNat % (n / part + 1) * part), w.2)

/-- A descriptor of the data engine that met an uncorrectable SRAM read. -/
def State.dataUe (s : State) (b : BayId) : Option SramErr → State
  | some e => s.sramUe b .data e
  | none => s

def State.convertRun (s : State) (b : BayId) (d : Desc) (x : ConvertD) (fs fd : Fmt) (e : UnitEnv) : State :=
  let es := s.sramErrs b e.sram
  let k := es.1.partDone es.2 x.count (if fd.scaled then blockSize x.dblk else 1)
  let s := k.2
  let r := x.result (s.sramByte b) fs fd (dRmode d) (dSat d) k.1 (s.dataGen b)
  let u := x.undef fs fd
  let s := (s.setDataGen b r.2.2.2).sramPut b x.dst r.2.1 u
  let s := s.sramPut b x.dscl r.1 u
  let o := s.flagsOr u r.2.2.1
  (o.2.runFlags b .data o.1).dataUe b es.2

/-- CONVERT starts. -/
def execConvert (b : BayId) (e : UnitEnv) (s : State) : Out :=
  .next (match s.headReady b .data 0x20 with
    | none => s
    | some q =>
      let x := convertOf q.d
      match x.fs, x.fd with
      | some fs, some fd => (s.startHead b .data q).convertRun b q.d x fs fd e
      | _, _ => s)

/-- One element of a REDUCE: its sources' patterns, the rounding draw, and the result with its flags. -/
def reduceElem (op : Nat) (fs fd : Fmt) (rm : RMode) (sat : Bool) (ps : List Nat) (u : Nat) : Nat × Flags :=
  if op = 0 then sumVals (ps.map (decodeVal fs)) fs fd rm sat u
  else
    let ws := ps.map (widenElem fs)
    let r := (ws.drop 1).foldl (fun a w => lanePick (op == 1) a w) (ws.getD 0 0)
    let nan := ws.any (fun w => (laneVal w).isNan)
    roundVal fd rm sat u (if nan then laneVal canonNan else laneVal r)

/-- The first n elements of a REDUCE. -/
def ReduceD.result (x : ReduceD) (rd : Nat → Byte) (fs fd : Fmt) (rm : RMode) (sat : Bool) (n : Nat) (g : W32) :
    List Nat × Flags × W32 :=
  (List.range n).foldl (fun acc j =>
    let u := srDraw rm acc.2.2
    let r := reduceElem x.op fs fd rm sat (x.srcs.map (fun a => elemAt rd fs a j)) u.1
    (acc.1 ++ [r.1], acc.2.1 ||| r.2, u.2)) ([], 0, g)

def State.reduceRun (s : State) (b : BayId) (d : Desc) (x : ReduceD) (fs fd : Fmt) (e : UnitEnv) : State :=
  let es := s.sramErrs b e.sram
  let k := es.1.partDone es.2 x.count 1
  let s := k.2
  let r := x.result (s.sramByte b) fs fd (dRmode d) (dSat d) k.1 (s.dataGen b)
  let u := x.srcs.any (fun a => overlap x.dst (arrayBytes fd x.count) a (arrayBytes fs x.count))
  let s := (s.setDataGen b r.2.2).sramPut b x.dst (packElems fd r.1) u
  let o := s.flagsOr u r.2.1
  (o.2.runFlags b .data o.1).dataUe b es.2

/-- REDUCE starts. -/
def execReduce (b : BayId) (e : UnitEnv) (s : State) : Out :=
  .next (match s.headReady b .data 0x21 with
    | none => s
    | some q =>
      let x := reduceOf q.d
      match x.fs, x.fd with
      | some fs, some fd => (s.startHead b .data q).reduceRun b q.d x fs fd e
      | _, _ => s)

/-! ## The Larder (R176 to R181) -/

/-- The set of a line. -/
def larderSet (da : Nat) : Nat := (da / 2 ^ 8 % 2 ^ 15) ^^^ (da / 2 ^ 23 % 2 ^ 15) ^^^ (da / 2 ^ 38 % 2 ^ 10)

/-- The Larder that serves a LOAD of a bay from an address: its die's, in a READONLY region that is not OPEN. -/
def State.larderFor (s : State) (b : BayId) (da : Nat) : Option Nat :=
  match s.regionAt da with
  | none => none
  | some r =>
    if s.rgnBit r MEM_RGN_ATTR_READONLY && !s.rgnBit r MEM_RGN_ATTR_OPEN &&
        wbit (s.reg (LDR_CTRL (b.die.val / 3))) (b.die.val % 3) then some b.die.val else none

def State.larderWays (s : State) (die da : Nat) : List LarderLine :=
  sparseGet larderDefault s.larders (32768 * die + larderSet da)

def State.setLarderWays (s : State) (die da : Nat) (ls : List LarderLine) : State :=
  { s with larders := sparseSet larderDefault s.larders (32768 * die + larderSet da) ls }

/-- Look a line up: its bytes, now most recently used, and the hit or miss counted. -/
def State.larderGet (s : State) (die da : Nat) : State × Option (List Byte) :=
  let ls := s.larderWays die da
  match ls.find? (fun l => l.line == da / 256) with
  | some l => ((s.setLarderWays die da (ls.erase l ++ [l])).addf (LDR_HIT (die / 3) (die % 3)) LDR_HIT_COUNT 1, some l.data)
  | none => (s.addf (LDR_MISS (die / 3) (die % 3)) LDR_MISS_COUNT 1, none)

/-- Allocate a line, in place of the least recently used of sixteen. -/
def State.larderFill (s : State) (die da : Nat) (bs : List Byte) : State :=
  let ls := (s.larderWays die da).filter (fun l => l.line != da / 256)
  s.setLarderWays die da (ls.drop (ls.length - 15) ++ [{ line := da / 256, data := bs }])

/-- The Larders of a wing that no repair disables (Table 17-2, R504). -/
def State.larderAble (s : State) (w : Nat) : Nat :=
  ((List.range 3).map (fun i => if s.baseOff.contains (288 + 3 * w + i) then 0 else 2 ^ i)).sum

/-- LARDER_ENABLE: clearing an EN bit invalidates that Larder (Table 5-8). Hearth firmware writes it. -/
def State.larderEnable (s : State) (w : Nat) (en : Nat) : State :=
  let en := en &&& s.larderAble w
  let s := s.wf (LDR_CTRL w) LDR_CTRL_EN en
  { s with larders := s.larders.filter (fun e =>
      !(e.1 / 32768 / 3 == w && en / 2 ^ (e.1 / 32768 % 3) % 2 == 0)) }

def fromHearth (s : State) : Writer → Bool
  | .hearth e => decide (s.epoch ≤ e)
  | _ => false

def execLarderEnable (src : Writer) (w : Wing) (en : BitVec 3) (s : State) : Out :=
  .next (if fromHearth s src then s.larderEnable w.val en.toNat else s)

/-! ## Pieces of a row -/

/-- Cut [a, a + n) at multiples of `step`. fuel: pieces. -/
def piecesOf (step : Nat) : Nat → Nat → Nat → List (Nat × Nat)
  | 0, _, _ => []
  | k + 1, a, n =>
    if n = 0 then []
    else
      let m := min n (step - a % step)
      (a, m) :: piecesOf step k (a + m) (n - m)

def pieces (step a n : Nat) : List (Nat × Nat) := piecesOf step (n / step + 2) a n

/-- Where bytes that are read go: an SRAM offset with the formats of a conversion, or a part of a microprogram. -/
structure Landing where
  sram : Nat
  conv : Option (Nat × Nat)
  uprog : Option Nat
  undef : Bool
  deriving DecidableEq, Repr

/-- Convert bytes between two vector formats, element by element (R141). -/
def convBytes (m f : Fmt) (rm : RMode) (sat : Bool) (bs : List Byte) (g : W32) : List Byte × Flags × W32 :=
  let n := m.bits / 8
  let vs := (List.range (bs.length / n)).map (fun i => decodeVal m (bytesToNat ((bs.drop (n * i)).take n)))
  let r := roundArray f rm sat vs g
  (packElems f r.1, r.2.1, r.2.2)

/-- The descriptor the data engine of a bay runs. -/
def State.dataDesc (s : State) (b : BayId) : Desc := match (s.bay b).rData with | some r => r.d | none => []

/-- Bytes land in the bay. -/
def State.land (s : State) (b : BayId) (t : Landing) (bs : List Byte) : State :=
  match t.uprog, t.conv.bind (fun c => (bufFmt c.1).bind (fun m => (bufFmt c.2).map (fun f => (m, f)))) with
  | some _, _ => s.setBay b { s.bay b with parts := (s.bay b).parts ++ [(t.sram, bs)] }
  | none, some (m, f) =>
    let d := s.dataDesc b
    let r := convBytes m f (dRmode d) (dSat d) bs (s.dataGen b)
    ((s.setDataGen b r.2.2).sramPut b t.sram r.1 t.undef).runFlags b .data r.2.1
  | none, none => s.sramPut b t.sram bs t.undef

/-! ## Annex requests (R226 to R230) -/

/-- The link an Annex address goes by, and the package it relays to; none: neither it nor a relay is up. While requests to the
peer are out by relay, new ones follow them (R355). -/
def State.annexRoute (s : State) (da : Nat) : Option (Nat × Option Nat) :=
  let l := s.winLink da
  let p := s.winPeer (daWindow da)
  let relay := if s.rf (MEM_ANX_MAP (daWindow da)) MEM_ANX_MAP_RELAY_OK = 1 then
      (s.relayLink p).map (fun m => (m, some p)) else none
  let direct := s.linkUp l && decide (3 ≤ s.nvc l) && !s.isD1 l
  let out := s.annexReqs.any (fun r => s.winPeer (daWindow r.src) == p && s.linkPeer r.link != p)
  if direct && !(out && relay.isSome) then some (l, none) else relay

/-- A new request of a bay for [da, da + n) of a window, before its route is known. -/
def newReq (s : State) (b : Nat) (write : Bool) (da n : Nat) (data : List Byte) : AnnexReq :=
  { link := 0, seq := s.nextTag % 65536, bay := b, write := write, src := da, da := s.winRbase (daWindow da) + daOffset da, len := n,
    data := data, skip := 0, take := n, sram := 0, conv := none, uprog := none, fill := none, jrnl := none, undef := false }

/-- Send a request; the Bool says that a route was up. -/
def State.sendReq (s : State) (r : AnnexReq) : State × Bool :=
  match s.annexRoute r.src with
  | none => (s, false)
  | some (l, relay) =>
    let r := { r with link := l }
    let s := { s with annexReqs := s.annexReqs ++ [r], nextTag := (s.nextTag + 1) % 65536 }
    let s := s.linkPut l 1 (s.annexPacket l r relay) none 0 0
    (if r.bay < 144 then
      let b := bayOf r.bay
      s.setBay b { s.bay b with rData := (s.bay b).rData.map (fun x => { x with waiting := x.waiting + 1 }) }
    else s, true)

/-! ## Failures of the data engine -/

inductive DataErr where
  | addr (da : Nat)
  | readonly
  | ue (a : Nat) (known : Bool)
  | linkDown
  | journalFull
  deriving DecidableEq, Repr

/-- Mark the running descriptor of the data engine with a status. -/
def State.dataStatus (s : State) (b : BayId) (st : Nat) : State :=
  s.setBay b { s.bay b with rData := (s.bay b).rData.map (fun r => { r with status := st }) }

/-- The descriptor stops: its fault, and its bay stopped where no step fence covers it (R144, R152, R154, R166, R172, R183). -/
def State.dataError (s : State) (b : BayId) (e : DataErr) : State :=
  match e with
  | .addr da => s.unitFault b .data F_ADDR_FAULT (locBay b) (da / 256 % 2 ^ 32) false
  | .readonly => s.unitFault b .data F_READONLY_WRITE (locBay b) 0 false
  | .journalFull => s.unitFault b .data F_JOURNAL_FULL (locBay b) 0 false
  | .linkDown =>
    let s := (s.dataStatus b 4).fenceBays [bayIx b]
    if s.seqState b = seqRunning then s.stopBay b seqStopped 7 else s
  | .ue a known =>
    let s := (s.dataStatus b 5).memFault [bayIx b] a known
    if s.seqState b = seqRunning then s.stopBay b seqStopped 7 else s

/-! ## Reading for LOAD and SELECT -/

/-- How a piece was read. -/
inductive PieceRes where
  | done
  | bad (e : DataErr)
  deriving DecidableEq, Repr

/-- What an array read gives the data engine. -/
def State.landRes (s : State) (b : BayId) (t : Landing) (f : List Byte → List Byte) : MemRes → State × PieceRes
  | .data bs => (s.land b t (f bs), .done)
  | .addr a => (s, .bad (.addr a))
  | .ue a k => (s, .bad (.ue a k))

/-- Read a piece that lies in one 256-byte line, or in one 512-byte line where no Larder serves it. -/
def State.readPiece (s : State) (b : BayId) (es : List MemErr) (da n : Nat) (t : Landing) : State × PieceRes :=
  let remote := daWindow da != 0
  if remote && s.winBad da n false then (s, .bad (.addr da))
  else match s.larderFor b da with
    | some die =>
      let line := 256 * (da / 256)
      let g := s.larderGet die da
      match g.2 with
      | some bs => (g.1.land b t ((bs.drop (da - line)).take n), .done)
      | none =>
        if remote then
          let r := { newReq g.1 (bayIx b) false line 256 [] with skip := da - line, take := n, sram := t.sram, conv := t.conv, uprog := t.uprog, fill := some die, undef := t.undef }
          let o := g.1.sendReq r
          if o.2 then (o.1, .done) else (o.1, .bad .linkDown)
        else
          let o := g.1.arrayRead es line 256
          match o.2 with
          | .data bs => ((o.1.larderFill die line bs).land b t ((bs.drop (da - line)).take n), .done)
          | r => o.1.landRes b t id r
    | none =>
      if remote then
        let lo := da / 32 * 32
        let len := cdiv (da + n - lo) 32 * 32
        let r := { newReq s (bayIx b) false lo len [] with skip := da - lo, take := n, sram := t.sram, conv := t.conv, uprog := t.uprog, undef := t.undef }
        let o := s.sendReq r
        if o.2 then (o.1, .done) else (o.1, .bad .linkDown)
      else let o := s.arrayRead es da n; o.1.landRes b t id o.2

/-- SRAM offset of byte i of a converted row. -/
def convOffset (c : Option (Nat × Nat)) (i : Nat) : Nat :=
  match c.bind (fun c => (bufFmt c.1).bind (fun m => (bufFmt c.2).map (fun f => (m, f)))) with
  | some (m, f) => i / (m.bits / 8) * (f.bits / 8)
  | none => i

/-- Read pieces in order, until one fails or the bay has stopped. -/
def State.readPieces (b : BayId) (es : List MemErr) (t : Landing) (row : Nat) : List (Nat × Nat) → State → State × PieceRes
  | [], s => (s, .done)
  | (a, n) :: rest, s =>
    if (s.bay b).rData.isNone then (s, .done)
    else
      let r := s.readPiece b es a n { t with sram := t.sram + convOffset t.conv (a - row) }
      match r.2 with
      | .done => State.readPieces b es t row rest r.1
      | .bad e => (r.1, .bad e)

/-- Read one row or block. -/
def State.readRow (s : State) (b : BayId) (es : List MemErr) (da n : Nat) (t : Landing) : State × PieceRes :=
  State.readPieces b es t da (pieces (if (s.larderFor b da).isSome then 256 else 512) da n) s

/-- Read a list of rows (address, length, landing) in order. -/
def State.readRows (b : BayId) (es : List MemErr) : List (Nat × Nat × Landing) → State → State × PieceRes
  | [], s => (s, .done)
  | (a, n, t) :: rest, s =>
    let r := s.readRow b es a n t
    match r.2 with
    | .done => State.readRows b es rest r.1
    | .bad e => (r.1, .bad e)

/-- Stop the descriptor where its reading failed. -/
def State.settleRead (s : State) (b : BayId) : PieceRes → State
  | .done => s
  | .bad e => s.dataError b e

/-! ## LOAD (R141) -/

/-- The rows of a LOAD. -/
def MoveD.loadRows (x : MoveD) : List (Nat × Nat × Landing) :=
  (List.range x.rows).map (fun r => ((x.da + r * x.daPitch) % 2 ^ 48, x.rowBytes,
    { sram := x.sram + r * x.sramPitch, conv := if x.conv.isSome then some (x.memFmt, x.sramFmt) else none, uprog := none,
      undef := false }))

/-- LOAD starts. -/
def execLoad (b : BayId) (e : UnitEnv) (s : State) : Out :=
  .next (match s.headReady b .data 0x22 with
    | none => s
    | some q =>
      let x := moveOf q.d
      if x.uprog then s
      else
        let r := State.readRows b e.mem x.loadRows (s.startHead b .data q)
        r.1.settleRead b r.2)

/-! ## Microprogram LOAD (R147, R148) -/

/-- Nesting of LOOPs after each micro-op stays within 0 to 2 and ends at 0. -/
def loopsOk : Nat → List W32 → Bool
  | n, [] => n == 0
  | n, w :: ws =>
    let op := (microOf w).op
    if op = 0x2D then decide (n < 2) && loopsOk (n + 1) ws
    else if op = 0x2E then (match n with | 0 => false | k + 1 => loopsOk k ws)
    else loopsOk n ws

/-- One micro-op's own limits. -/
def microOk (w : W32) : Bool :=
  let m := microOf w
  decide (m.op ≤ 0x2F) && !((m.op == 0x29 || m.op == 0x2A || m.op == 0x2B) && decide (5 < m.a)) &&
    !(m.op == 0x28 && decide (3 < m.imm))

/-- The microprogram in a run of words: up to and including the first HALT; none: broken. -/
def microProgram (ws : List W32) : Option (List W32) :=
  match ws.findIdx? (fun w => (microOf w).op == 0x2F) with
  | none => none
  | some i =>
    let p := ws.take (i + 1)
    if p.length ≤ 64 ∧ p.all microOk ∧ loopsOk 0 p then some p else none

/-- The 32-bit words of a byte list. -/
def bytesToW32 (bs : List Byte) : List W32 :=
  (List.range (bs.length / 4)).map (fun i => BitVec.ofNat 32 (bytesToNat ((bs.drop (4 * i)).take 4)))

/-- The bytes read for a microprogram, by offset. -/
def Bay.program (x : Bay) (n : Nat) : List Byte :=
  (List.range n).map (fun i =>
    match x.parts.find? (fun p => decide (p.1 ≤ i) && decide (i < p.1 + p.2.length)) with
    | some p => p.2.getD (i - p.1) 0
    | none => 0)

/-- Check and place a microprogram whose bytes are all here; a broken one makes its LOAD malformed (R147). -/
def State.placeProgram (s : State) (b : BayId) : State :=
  match (s.bay b).rData with
  | none => s
  | some r =>
    let x := moveOf r.d
    if r.waiting ≠ 0 ∨ !x.uprog ∨ r.status ≠ 0 then s
    else
      let y := s.bay b
      match microProgram (bytesToW32 (y.program x.rowBytes)) with
      | some p =>
        (s.setBay b { y with uprog := sparseSet (fun _ => ([] : List W32)) y.uprog x.slot p, parts := [] }).wf (BAY_SEQ_UPROG b)
          { lo := x.slot, width := 1 } 1
      | none => (s.setBay b { y with rData := none, parts := [] }).malformedStop b r.idx r.d

/-- A LOAD with UPROG starts. -/
def execMicroprogramLoad (b : BayId) (e : UnitEnv) (s : State) : Out :=
  .next (match s.headReady b .data 0x22 with
    | none => s
    | some q =>
      let x := moveOf q.d
      if !x.uprog then s
      else
        let s := s.startHead b .data q
        let s := s.setBay b { s.bay b with parts := [] }
        let r := s.readRow b e.mem x.da x.rowBytes { sram := 0, conv := none, uprog := some x.slot, undef := false }
        match r.2 with
        | .done => r.1.placeProgram b
        | .bad err => r.1.dataError b err)

/-! ## STORE (R154, R172) -/

/-- Device address of row r of a STORE. -/
def MoveD.rowDa (x : MoveD) (r : Nat) : Nat := (x.da + r * x.daPitch) % 2 ^ 48

/-- The bytes of row r of a STORE, converted where it asks for it. -/
def State.storeBytes (s : State) (b : BayId) (d : Desc) (x : MoveD) (r : Nat) : State × List Byte :=
  let raw := s.sramRead b (x.sram + r * x.sramPitch) x.sramRow
  match x.conv with
  | some (m, f) =>
    let o := convBytes f m (dRmode d) (dSat d) raw (s.dataGen b)
    ((s.setDataGen b o.2.2).runFlags b .data o.2.1, o.1)
  | none => (s, raw)

/-- A pre-image record is in memory: RECORDS and NEXT of the segment header advance. -/
def State.jrnlCommit (s : State) (j : Word) (n : Nat) : State :=
  let h := jrnlBase j
  let w2 := memWord s.mem (h + 16)
  let w3 := memWord s.mem (h + 24)
  s.memStore (h + 16) (wordsToBytes [putField w2 (bits 63 32) (getField w2 (bits 63 32) + 1),
    putField w3 (bits 47 0) (getField w3 (bits 47 0) + 64 + n)])

/-- The header of a pre-image record (R154). -/
def preImageHead (da n id : Nat) : List Byte :=
  wordsToBytes [packFields [(bits 3 0, 1), (bits 63 16, da)], packFields [(bits 31 0, n)], packFields [(bits 15 0, id)], 0, 0, 0, 0, 0]

/-- Write one row: to local memory, or as MEM_WR packets through its window. -/
def State.writeRow (s : State) (b : BayId) (d : Desc) (x : MoveD) (r : Nat) : State × PieceRes :=
  let da := x.rowDa r
  let o := s.storeBytes b d x r
  if daWindow da = 0 then
    match o.1.localWrite da o.2 false with
    | .ok s' => (s', .done)
    | .error (.readonly _) => (o.1, .bad .readonly)
    | .error (.uncorrectable a) => (o.1, .bad (.ue a true))
    | .error _ => (o.1, .bad (.addr ((o.1.firstBad da o.2.length).getD da)))
  else if o.1.winBad da x.rowBytes true then (o.1, .bad (.addr da))
  else
    (pieces 512 da x.rowBytes).foldl (fun (acc : State × PieceRes) p =>
      match acc.2 with
      | .bad e => (acc.1, .bad e)
      | .done =>
        let q := acc.1.sendReq (newReq acc.1 (bayIx b) true p.1 p.2 ((o.2.drop (p.1 - da)).take p.2))
        if q.2 then (q.1, .done) else (q.1, .bad .linkDown)) (o.1, .done)

/-- Copy one row's pre-image into the journal; the Bool says that it is complete, and is false where it waits for a peer. -/
def State.preImage (s : State) (b : BayId) (es : List MemErr) (d : Desc) (x : MoveD) (r : Nat) : State × PieceRes × Bool :=
  let da := x.rowDa r
  let j := s.reg (BAY_SEQ_JRNL b)
  let next := getField (memWord s.mem (jrnlBase j + 24)) (bits 47 0)
  if jrnlBase j + jrnlSize j < next + 64 + x.rowBytes then (s, .bad .journalFull, false)
  else match s.engineWrite next (preImageHead da x.rowBytes (dId d)) with
    | .error (.uncorrectable a) => (s, .bad (.ue a true), false)
    | .error _ => (s, .bad (.addr ((s.firstBad next 64).getD next)), false)
    | .ok s =>
      if daWindow da = 0 then
        let o := s.arrayRead es da x.rowBytes
        match o.2 with
        | .addr a => (o.1, .bad (.addr a), false)
        | .ue a k => (o.1, .bad (.ue a k), false)
        | .data bs =>
          match o.1.engineWrite (next + 64) bs with
          | .ok s => (s.jrnlCommit j x.rowBytes, .done, true)
          | .error (.uncorrectable a) => (o.1, .bad (.ue a true), false)
          | .error _ => (o.1, .bad (.addr ((o.1.firstBad (next + 64) x.rowBytes).getD next)), false)
      else if s.winBad da x.rowBytes true then (s, .bad (.addr da), false)
      else
        let o := (pieces 512 da x.rowBytes).foldl (fun (acc : State × PieceRes) p =>
          match acc.2 with
          | .bad e => (acc.1, .bad e)
          | .done =>
            let q := acc.1.sendReq { newReq acc.1 (bayIx b) false p.1 p.2 [] with jrnl := some (next + 64 + (p.1 - da), r) }
            if q.2 then (q.1, .done) else (q.1, .bad .linkDown)) (s, .done)
        (o.1, o.2, x.rowBytes == 0)

/-- Store rows from row r on, until one fails, the bay stops, or a pre-image waits for its peer. fuel: rows left. -/
def State.storeRows (b : BayId) (es : List MemErr) (d : Desc) (x : MoveD) : Nat → Nat → State → State × PieceRes
  | 0, _, s => (s, .done)
  | k + 1, r, s =>
    if (s.bay b).rData.isNone then (s, .done)
    else
      let p := if x.jrnl then s.preImage b es d x r else (s, .done, true)
      match p.2.1, p.2.2 with
      | .bad e, _ => (p.1, .bad e)
      | .done, false => (p.1, .done)
      | .done, true =>
        let o := p.1.writeRow b d x r
        match o.2 with
        | .bad e => (o.1, .bad e)
        | .done => State.storeRows b es d x k (r + 1) o.1

/-- Whether a row of a STORE lies in a READONLY region: then it writes nothing (R172). -/
def State.storeReadonly (s : State) (x : MoveD) : Bool :=
  (List.range x.rows).any (fun r => (s.firstReadonly (x.rowDa r) x.rowBytes false).isSome)

/-- STORE starts. -/
def State.storeStart (s : State) (b : BayId) (q : Queued) (e : UnitEnv) : State :=
  let x := moveOf q.d
  let s := s.startHead b .data q
  if s.storeReadonly x then s.dataError b .readonly
  else
    let es := s.sramErrs b e.sram
    let k := es.1.partDone es.2 x.rows 1
    let r := State.storeRows b e.mem q.d x k.1 0 k.2
    match r.2 with
    | .done => r.1.dataUe b es.2
    | .bad err => r.1.dataError b err

def execStore (b : BayId) (e : UnitEnv) (s : State) : Out :=
  .next (match s.headReady b .data 0x23 with
    | none => s
    | some q => s.storeStart b q e)

/-! ## SELECT (R142) -/

/-- The candidates a SELECT selects, in order. -/
def SelectD.chosen (x : SelectD) (rd : Nat → Byte) : List Nat :=
  ((List.range x.ncand).filter (fun i => x.all || (rd (x.bitmap + i / 8)).getLsbD (i % 8))).take x.limit

/-- Device address of candidate i. -/
def SelectD.entry (x : SelectD) (rd : Nat → Byte) (i : Nat) : Nat :=
  bytesToNat ((List.range 8).map (fun j => rd (x.table + 8 * i + j))) % 2 ^ 48

/-- A SELECT's output meets its bitmap or table (R109). -/
def SelectD.undef (x : SelectD) : Bool :=
  let outs := [(x.dst, x.limit * x.blkBytes), (x.countOut, 4 + 2 * x.limit)]
  let ins := (x.table, 8 * x.ncand) :: (if x.all then [] else [(x.bitmap, cdiv x.ncand 8)])
  outs.any (fun o => ins.any (fun i => overlap o.1 o.2 i.1 i.2))

/-- The result list: the count and the indices. -/
def selectList (is : List Nat) : List Byte := natToBytes 4 is.length ++ is.flatMap (natToBytes 2)

def State.selectRun (s : State) (b : BayId) (x : SelectD) (e : UnitEnv) : State :=
  let rd := s.sramByte b
  let is := x.chosen rd
  let u := x.undef
  let es := s.sramErrs b e.sram
  let k := es.1.partDone es.2 is.length 1
  let rows := (is.take k.1).zipIdx.map (fun p =>
    (x.entry rd p.1, x.blkBytes, ({ sram := x.dst + p.2 * x.blkBytes, conv := none, uprog := none, undef := u } : Landing)))
  let r := State.readRows b e.mem rows k.2
  match r.2, es.2 with
  | .bad err, _ => r.1.dataError b err
  | .done, some ue => r.1.sramUe b .data ue
  | .done, none => r.1.sramPut b x.countOut (selectList is) u

/-- SELECT starts. -/
def execSelect (b : BayId) (e : UnitEnv) (s : State) : Out :=
  .next (match s.headReady b .data 0x24 with
    | none => s
    | some q => (s.startHead b .data q).selectRun b (selectOf q.d) e)

/-! ## Answers (R229, R230) -/

/-- The data engine's error of a completion status. -/
def cplError (status da : Nat) : DataErr :=
  match status with
  | 1 => .addr da
  | 2 => .readonly
  | 4 => .linkDown
  | _ => .ue da false

/-- An uncorrectable read at a peer is recorded here under this bay's own locator, and its step fenced; the line is handled
at the peer. -/
def State.remoteUe (s : State) (b : BayId) : State :=
  let s := (s.dataStatus b 5).report F_MEM_UE (locBay b) 0 [bayIx b] false false
  if s.seqState b = seqRunning then s.stopBay b seqStopped 7 else s

/-- The data of a read that its peer answered. -/
def State.readAnswer (s : State) (r : AnnexReq) (bs : List Byte) : State :=
  let b := bayOf r.bay
  let s := match r.fill with | some die => s.larderFill die r.src bs | none => s
  match r.jrnl with
  | none =>
    (s.land b { sram := r.sram, conv := r.conv, uprog := r.uprog, undef := r.undef } ((bs.drop r.skip).take r.take)).placeProgram b
  | some (a, row) =>
    match s.engineWrite a bs with
    | .error (.uncorrectable x) => s.dataError b (.ue x true)
    | .error _ => s.dataError b (.addr ((s.firstBad a bs.length).getD a))
    | .ok s =>
      if s.annexReqs.any (fun q => q.bay == r.bay && q.jrnl.isSome) then s
      else
        let d := s.dataDesc b
        let x := moveOf d
        let s := s.jrnlCommit (s.reg (BAY_SEQ_JRNL b)) x.rowBytes
        let o := s.writeRow b d x row
        let o := match o.2 with
          | .done => State.storeRows b [] d x (x.rows - (row + 1)) (row + 1) o.1
          | .bad e => (o.1, .bad e)
        o.1.settleRead b o.2

/-- A peer's answer to the request with a TAG: status of Table 11-3, and the bytes of a read. -/
def State.annexAnswer (s : State) (tag status : Nat) (bs : List Byte) : State :=
  match s.annexReqs.find? (fun r => r.seq == tag) with
  | none => s
  | some r =>
    let s := { s with annexReqs := s.annexReqs.filter (fun q => q != r) }
    let s := s.reqAnswer r 0
    if 144 ≤ r.bay then s
    else if status = 3 then s.remoteUe (bayOf r.bay)
    else if status ≠ 0 then s.dataError (bayOf r.bay) (cplError status r.src)
    else if r.write then s
    else s.readAnswer r bs

/-- Send the pre-images that a restore wrote back behind windows; one that finds no route waits (R156). -/
def State.sendRestores (s : State) : State :=
  let rs := s.restores
  rs.foldl (fun s r =>
    if s.winBad r.1 r.2.length true || (pieces 512 r.1 r.2.length).any (fun p => (s.annexRoute p.1).isNone) then
      { s with restores := s.restores ++ [r] }
    else (pieces 512 r.1 r.2.length).foldl (fun s p =>
      (s.sendReq (newReq s 144 true p.1 p.2 ((r.2.drop (p.1 - r.1)).take p.2))).1) s) { s with restores := [] }

end Sys2Proof.Machine
end

