-- ==== Sys2Proof/Machine/Bridge.lean ====
section
/-!
DEFINITION. Sys2Proof/Machine/Bridge.lean: the PCIe function, event rings, the Hatch and host DMA (R411 to R416, R426, R427, R434 to
R438), and the I3C data window (R536).
-/

set_option Elab.async false

namespace Sys2Proof.Machine

/-! ## Event queues (R426, R427, R441) -/

/-- A SIZE of 11 to 15 discards the write, as does a change of SIZE while EN is 1. -/
def State.sizeBad (s : State) (reg : Nat) (size en : Field) (v : Word) : Bool :=
  decide (11 ≤ getField v size) || (s.hf reg en == 1 && getField v size != s.hf reg size)

/-- Disable an event queue: HEAD and TAIL return to 0, and entries that were not written are lost (R424). -/
def State.evqOff (s : State) (q : Nat) : State :=
  let s := (s.whf (HB_EVQ_CFG q) HB_EVQ_CFG_EN 0).setHreg (HB_EVQ_PTR q) 0
  { s.dropQueue (1096 + q) with evqPass := sparseSet zeroDefault s.evqPass q 0 }

/-- Re-arm a queue: with unread entries in the ring it signals at once (R427). -/
def State.rearm (s : State) (q : Nat) : State :=
  if s.hf (HB_EVQ_PTR q) HB_EVQ_PTR_HEAD = s.hf (HB_EVQ_PTR q) HB_EVQ_PTR_TAIL then s.whf (HB_EVQ_CFG q) HB_EVQ_CFG_ARM 1
  else s.msix (s.hf (HB_EVQ_CFG q) HB_EVQ_CFG_VECTOR)

/-- Move entries into the ring, with the crossings of the level (R199). -/
def State.drainEvq (s : State) (q : Nat) : State :=
  let before := queueLevel (s.queue (1096 + q))
  (s.deliverAll q).noticeFrom (1096 + q) before

/-- A write of HB_EVQq_CFG. -/
def State.evqCfgWrite (s : State) (q : Nat) (v : Word) : State :=
  if !s.isBridge || s.sizeBad (HB_EVQ_CFG q) HB_EVQ_CFG_SIZE HB_EVQ_CFG_EN v then s
  else
    let s := (s.whf (HB_EVQ_CFG q) HB_EVQ_CFG_VECTOR (getField v HB_EVQ_CFG_VECTOR)).whf (HB_EVQ_CFG q) HB_EVQ_CFG_SIZE
      (getField v HB_EVQ_CFG_SIZE)
    let on := getField v HB_EVQ_CFG_EN == 1
    let s := if !on then s.evqOff q else (s.whf (HB_EVQ_CFG q) HB_EVQ_CFG_EN 1)
    let s := if getField v HB_EVQ_CFG_ARM = 1 then s.rearm q else s
    if on then s.drainEvq q else s

/-- EVENT_QUEUE_ENABLE: HB_EVQq_CFG is written. -/
def execEventQueueEnable (q : EvQueue) (v : Word) (s : State) : Out := .next (s.evqCfgWrite q.val v)

/-- ARM: HB_EVQq_CFG is written with ARM = 1. -/
def execArm (q : EvQueue) (v : Word) (s : State) : Out :=
  .next (if getField v HB_EVQ_CFG_ARM = 1 then s.evqCfgWrite q.val v else s)

/-- EVENT_QUEUE_HEAD_WRITE: host software has read entries. -/
def State.evqHead (s : State) (q : Nat) (v : Word) : State :=
  if s.isBridge then (s.whf (HB_EVQ_PTR q) HB_EVQ_PTR_HEAD (getField v HB_EVQ_PTR_HEAD)).drainEvq q else s

def execEventQueueHeadWrite (q : EvQueue) (v : Word) (s : State) : Out := .next (s.evqHead q.val v)

/-! ## Accesses by the host, the I3C window and memory operations -/

/-- How such an access fails: the status of Table 14-13 and the first failing address. -/
abbrev Fail := Nat × Nat

/-- Record a failed access: the fault collector's record of the address (R166, R172, R183). loc: the requester. -/
def State.recordFail (s : State) (loc : Nat) (f : Fail) (known : Bool) : State :=
  match f.1 with
  | 1 => s.raise F_ADDR_FAULT loc (f.2 / 256 % 2 ^ 32)
  | 2 => s.raise F_READONLY_WRITE loc 0
  | 3 => if daWindow f.2 = 0 then s.memFault [] f.2 known else s.raise F_MEM_UE loc 0
  | _ => s

/-- The bay number that marks requests of the Hatch, the DMA engine and memory operations, whose answers their rows bring. -/
def outsideReq : Nat := 145

/-- Send an access behind a window to its peer; the answer is what the row brings. -/
def State.peerAccess (s : State) (write : Bool) (da n : Nat) (data : List Byte) (peer : PeerReply) : State × Option Fail :=
  if s.winBad da n write then (s, some (1, da))
  else if (pieces 512 da n).any (fun p => (s.annexRoute p.1).isNone) then (s, some (4, da))
  else
    let s := (pieces 512 da n).foldl (fun s p =>
      (s.sendReq (newReq s outsideReq write p.1 p.2 ((data.drop (p.1 - da)).take p.2))).1) s
    (s, if peer.status.val = 0 then none else some (peer.status.val, da))

/-- A host write of bytes at a device address (R172, R434). -/
def State.hostWrite (s : State) (da : Nat) (bs : List Byte) (peer : PeerReply) : State × Option Fail :=
  if daWindow da ≠ 0 then s.peerAccess true da bs.length bs peer
  else match s.localWrite da bs true with
    | .ok s' => (s', none)
    | .error (.addrFault a) => (s, some (1, a))
    | .error (.readonly a) => (s, some (2, a))
    | .error (.uncorrectable a) => (s, some (3, a))
    | .error (.linkDown a) => (s, some (4, a))

/-- A host read; ue: a line that reads uncorrectable. Bytes, or the failure and whether its line was poisoned before. -/
def State.hostRead (s : State) (da n : Nat) (ue : Option Nat) (peer : PeerReply) : State × Except (Fail × Bool) (List Byte) :=
  if daWindow da ≠ 0 then
    let r := s.peerAccess false da n [] peer
    match r.2 with
    | some f => (r.1, .error (f, false))
    | none => (r.1, .ok ((List.range n).map (fun i => peer.data.getD i 0)))
  else
    let es := match ue with | some a => [({ da := a, corrected := false } : MemErr)] | none => []
    let r := s.arrayRead es da n
    match r.2 with
    | .data bs => (r.1, .ok bs)
    | .addr a => (r.1, .error ((1, a), false))
    | .ue a k => (r.1, .error ((3, a), k))

/-- The requester of PCIe accesses: the host PCIe endpoint. -/
def locPcie : Nat := locControl 4

/-! ## The Hatch (R434 to R436) -/

def State.hatchAddr (s : State) : Nat := s.hf HB_HATCH_ADDR HB_HATCH_ADDR_ADDR * 8

def State.hatchAdvance (s : State) (n : Nat) : State := s.whf HB_HATCH_ADDR HB_HATCH_ADDR_ADDR ((s.hatchAddr + n) / 8)

/-- Stop the Hatch with a cause and address (R436). -/
def State.hatchStop (s : State) (cause da : Nat) : State :=
  s.setHreg HB_HATCH_ERR (packFields [(HB_HATCH_ERR_ERR, 1), (HB_HATCH_ERR_CAUSE, cause), (HB_HATCH_ERR_DA, da)])

/-- A length that breaks R434. -/
def hatchLenBad (n : Nat) : Bool := n % 8 != 0 || n == 0 || decide (4096 < n)

/-- The function answers: this package is the bridge, S3 is complete, and PERST_N is not asserted (R529). -/
def State.functionUp (s : State) : Bool :=
  s.isBridge && s.hf HB_BRIDGE HB_BRIDGE_READY == 1 && s.rf PCH_PCIE PCH_PCIE_PERST == 0

def State.hatchWrite (s : State) (bs : List Byte) (allEnables : Bool) (peer : PeerReply) : State :=
  if !s.functionUp || s.hf HB_HATCH_ERR HB_HATCH_ERR_ERR == 1 then s
  else if hatchLenBad bs.length || !allEnables then s.hatchStop 5 s.hatchAddr
  else
    let r := s.hostWrite s.hatchAddr bs peer
    match r.2 with
    | none => r.1.hatchAdvance bs.length
    | some f => (r.1.recordFail locPcie f true).hatchStop f.1 f.2

/-- HATCH_WRITE: a memory write TLP to BAR2. -/
def execHatchWrite (bytes : List Byte) (allEnables : Bool) (peer : PeerReply) (s : State) : Out :=
  .next (s.hatchWrite bytes allEnables peer)

def State.hatchRead (s : State) (n : Nat) (ue : Option Nat) (peer : PeerReply) : State :=
  if !s.functionUp || s.hf HB_HATCH_ERR HB_HATCH_ERR_ERR == 1 then s
  else if hatchLenBad n then s.hatchStop 5 s.hatchAddr
  else
    let r := s.hostRead s.hatchAddr n ue peer
    match r.2 with
    | .ok _ => r.1.hatchAdvance n
    | .error f => (r.1.recordFail locPcie f.1 f.2).hatchStop f.1.1 f.1.2

/-- HATCH_READ: a memory read TLP of n bytes to BAR2; its completion leaves the package. -/
def execHatchRead (n : Nat) (ue : Option Nat) (peer : PeerReply) (s : State) : Out := .next (s.hatchRead n ue peer)

/-- HATCH_ERR_CLEAR: 1 is written to ERR; CAUSE and DA go with it (log entry). -/
def execHatchErrClear (s : State) : Out := .next (if s.isBridge then s.setHreg HB_HATCH_ERR 0 else s)

/-! ## Host DMA (R437, R438) -/

def State.dmaHead (s : State) (ch : Nat) : Nat := s.hf (HB_DMA_PTR ch) HB_DMA_PTR_HEAD
def State.dmaTail (s : State) (ch : Nat) : Nat := s.hf (HB_DMA_PTR ch) HB_DMA_PTR_TAIL
def State.dmaSize (s : State) (ch : Nat) : Nat := 2 ^ (s.hf (HB_DMA_CFG ch) HB_DMA_CFG_SIZE + 6)
def State.dmaOn (s : State) (ch : Nat) : Bool := s.hf (HB_DMA_CFG ch) HB_DMA_CFG_EN == 1

/-- Host address of a channel's descriptor at HEAD. -/
def State.dmaDesc (s : State) (ch : Nat) : Nat := 4096 * s.hf (HB_DMA_BASE ch) HB_DMA_BASE_BASE + s.dmaHead ch * 32

/-- STATE after the channel moves: RUN while descriptors wait. -/
def State.dmaState (s : State) (ch : Nat) : State :=
  s.whf (HB_DMA_CFG ch) HB_DMA_CFG_STATE (if s.dmaOn ch && s.dmaHead ch != s.dmaTail ch then 1 else 0)

/-- DMA_DOORBELL: TAIL is written. -/
def State.dmaDoorbell (s : State) (ch : Nat) (v : Word) : State :=
  if !s.isBridge then s
  else
    let s := s.whf (HB_DMA_PTR ch) HB_DMA_PTR_TAIL (getField v HB_DMA_PTR_TAIL)
    if s.hf (HB_DMA_CFG ch) HB_DMA_CFG_STATE = 2 then s else s.dmaState ch

def execDmaDoorbell (ch : DmaChan) (v : Word) (s : State) : Out := .next (s.dmaDoorbell ch.val v)

/-- A DMA descriptor (Table 14-13). -/
structure DmaD where
  host : Nat
  da : Nat
  len : Nat
  toHost : Bool
  irq : Bool
  bad : Bool
  deriving DecidableEq, Repr

def dmaOf (m : Memory) (a : Nat) : DmaD :=
  let w0 := memWord m a
  let w1 := memWord m (a + 8)
  let w2 := memWord m (a + 16)
  let len := getField w2 (bits 31 0)
  { host := w0.toNat, da := getField w1 (bits 47 0), len := len, toHost := wbit w2 32, irq := wbit w2 33,
    bad := getField w2 (bits 39 36) != 1 || len % 8 != 0 || len == 0 || w0.toNat % 8 != 0 || getField w1 (bits 47 0) % 8 != 0 }

/-- Write back W3. -/
def State.dmaW3 (s : State) (ch status moved : Nat) : State :=
  let w := packFields [(bits 3 0, status), (bit 4, 1), (bits 63 32, min moved 0xFFFFFFFF)]
  { s with hostMem := memPutWord s.hostMem (s.dmaDesc ch + 24) w }

/-- Move the first n bytes of a descriptor, none of which fails. -/
def State.dmaMove (s : State) (x : DmaD) (n : Nat) (ue : Option Nat) (peer : PeerReply) : State × Option (Fail × Bool) :=
  if n = 0 then (s, none)
  else if x.toHost then
    let r := s.hostRead x.da n ue peer
    match r.2 with
    | .ok bs => ({ r.1 with hostMem := memWrite r.1.hostMem x.host bs }, none)
    | .error f => (r.1, some f)
  else
    let r := s.hostWrite x.da (memRead s.hostMem x.host n) peer
    (r.1, r.2.map (fun f => (f, true)))

/-- The whole descriptor: status and bytes moved before an error. -/
def State.dmaRun (s : State) (x : DmaD) (hostErr : Bool) (ue : Option Nat) (peer : PeerReply) : State × Nat × Nat :=
  if x.bad then (s, 7, 0)
  else if hostErr then
    let w := s.draw
    let k := w.1.toNat % (x.len / 8) * 8
    let r := w.2.dmaMove x k none peer
    (r.1, 5, k)
  else
    let r := s.dmaMove x x.len ue peer
    match r.2 with
    | none => (r.1, 0, x.len)
    | some (f, known) =>
      let k := f.2 - x.da
      let p := r.1.dmaMove x k none peer
      (p.1.recordFail locPcie f known, f.1, k)

/-- DMA_DESCRIPTOR_COMPLETE: the descriptor at HEAD completes or stops its channel. While Bus Master Enable is 0 the channel
is paused (R416). -/
def State.dmaComplete (s : State) (ch : Nat) (hostErr : Bool) (ue : Option Nat) (peer : PeerReply) : State :=
  if !s.busMaster || !s.dmaOn ch || s.hf (HB_DMA_CFG ch) HB_DMA_CFG_STATE != 1 then s
  else
    let x := dmaOf s.hostMem (s.dmaDesc ch)
    let r := s.dmaRun x hostErr ue peer
    let s := r.1.dmaW3 ch r.2.1 r.2.2
    if r.2.1 = 0 then
      let s := (s.whf (HB_DMA_PTR ch) HB_DMA_PTR_HEAD ((s.dmaHead ch + 1) % s.dmaSize ch)).dmaState ch
      if x.irq then s.msix (s.hf (HB_DMA_CFG ch) HB_DMA_CFG_VECTOR) else s
    else s.whf (HB_DMA_CFG ch) HB_DMA_CFG_STATE 2

def execDmaDescriptorComplete (ch : DmaChan) (hostErr : Bool) (ue : Option Nat) (peer : PeerReply) (s : State) : Out :=
  .next (s.dmaComplete ch.val hostErr ue peer)

/-- RESUME: a stopped channel goes on with the next descriptor. -/
def State.dmaResume (s : State) (ch : Nat) : State :=
  if s.dmaOn ch && s.hf (HB_DMA_CFG ch) HB_DMA_CFG_STATE == 2 then
    (s.whf (HB_DMA_PTR ch) HB_DMA_PTR_HEAD ((s.dmaHead ch + 1) % s.dmaSize ch)).dmaState ch
  else s

def execResume (ch : DmaChan) (s : State) : Out := .next (s.dmaResume ch.val)

/-- DMA_CHANNEL_DISABLE: EN is cleared; the descriptor in progress stops at a 64-byte granule after `moved` bytes. -/
def State.dmaOff (s : State) (ch moved : Nat) : State :=
  if !s.dmaOn ch then s
  else
    let s := if s.hf (HB_DMA_CFG ch) HB_DMA_CFG_STATE = 1 then
        let x := dmaOf s.hostMem (s.dmaDesc ch)
        if x.bad then s.dmaW3 ch 6 0
        else
          let k := min x.len moved / 64 * 64
          let r := s.dmaMove x k none { status := 0, data := [] }
          r.1.dmaW3 ch 6 (if r.2.isSome then 0 else k)
      else s
    let s := (s.whf (HB_DMA_CFG ch) HB_DMA_CFG_EN 0).whf (HB_DMA_CFG ch) HB_DMA_CFG_STATE 0
    s.whf (HB_DMA_PTR ch) HB_DMA_PTR_HEAD (s.dmaTail ch)

def execDmaChannelDisable (ch : DmaChan) (moved : Nat) (s : State) : Out := .next (s.dmaOff ch.val moved)

/-! ## The function's resets and configuration space (R409, R412, R416) -/

/-- A channel stops as though EN were cleared: after an open number of bytes. -/
def State.dmaStop (s : State) (ch : Nat) : State :=
  let w := s.draw
  w.2.dmaOff ch w.1.toNat

/-- Rings, event queues and DMA channels are disabled, the Hatch registers return to reset; configuration space and the
MSI-X table return to their reset values as PCI Express has it (log entry). -/
def State.functionReset (s : State) : State :=
  let s := (List.range 16).foldl (fun s r => s.ringOff r) s
  let s := (List.range 16).foldl (fun s q => s.evqOff q) s
  let s := (List.range 8).foldl (fun s ch => if s.dmaOn ch then s.dmaStop ch else s) s
  let s := (s.setHreg HB_HATCH_ADDR 0).setHreg HB_HATCH_ERR 0
  { s with pci := [], msixPending := [], hb := s.hb.filter (fun e => !(decide (0x110000 ≤ e.1) && decide (e.1 < 0x112000))) }

/-- The PCIE lanes in force. -/
def State.pcieLanes (s : State) : List Nat := (List.range 32).filter (fun n => getField (s.reg PCH_CFG) (PCH_CFG_LANE n) == 3)

/-- The endpoint's link trains. Its rate and width, and with lane reversal the lanes of a narrower link, are open (R409). -/
def State.pcieTrain (s : State) : State :=
  if s.rf PCH_PCIE PCH_PCIE_CONFIGURED = 0 ∨ s.rf PCH_PCIE PCH_PCIE_PERST = 1 then s
  else
    let w := s.draw
    let lanes := s.pcieLanes
    let width := min lanes.length (2 ^ (w.1.toNat / 6 % 5))
    let s := w.2.wfs PCH_PCIE [(PCH_PCIE_LINK_UP, 1), (PCH_PCIE_SPEED, 1 + w.1.toNat % 6), (PCH_PCIE_WIDTH, width)]
    let up := if wbit w.1 63 then lanes.drop (lanes.length - width) else lanes.take width
    lanes.foldl (fun s n =>
      (s.satf (PCH_LANE n) PCH_LANE_TRAINS 1).setPorch n (if up.contains n then plUp else plTraining)) s

/-- PERST_N: the endpoint and its link reset. -/
def State.perst (s : State) (asserted : Bool) : State :=
  if asserted then
    let s := (if s.isBridge then s.functionReset else s).wfs PCH_PCIE [(PCH_PCIE_PERST, 1), (PCH_PCIE_LINK_UP, 0), (PCH_PCIE_SPEED, 0), (PCH_PCIE_WIDTH, 0)]
    s.pcieLanes.foldl (fun s n => s.setPorch n plTraining) s
  else (s.wf PCH_PCIE PCH_PCIE_PERST 0).pcieTrain

def execPerstN (asserted : Bool) (s : State) : Out := .next (s.perst asserted)

def execFunctionLevelReset (s : State) : Out := .next (if s.functionUp then s.functionReset else s)

/-- Bits of a configuration dword that software can write: Command, and the BARs of R413 (other registers: log entry). -/
def pciMask (dw : Nat) : BitVec 32 :=
  match dw with
  | 1 => 0x00000547
  | 4 => 0xFE000000
  | 5 => 0xFFFFFFFF
  | 6 => 0xFFF00000
  | 7 => 0xFFFFFFFF
  | _ => 0

/-- CONFIGURATION_REQUEST: Retry Status until S3 is complete, then the function's configuration space; setting Bus Master
Enable lets held events move (R416, R529). -/
def State.configRequest (s : State) (offset : Nat) (write : Option W32) : State :=
  match write with
  | none => s
  | some v =>
    if !s.functionUp then s
    else
      let s := { s with pci := sparseSet pciDefault s.pci (offset / 4) (v &&& pciMask (offset / 4)) }
      if s.busMaster then (List.range 16).foldl (fun s q => s.drainEvq q) s else s

def execConfigurationRequest (offset : Nat) (write : Option W32) (s : State) : Out := .next (s.configRequest offset write)

/-! ## The I3C data window (R536) -/

/-- I3C_DATA_ADDRESS_WRITE: offset 0x80. -/
def execI3cDataAddressWrite (da : Word) (s : State) : Out :=
  .next (if s.mode == .off || da.toNat % 8 != 0 then s else { s with i3cAddr := da.toNat % 2 ^ 48 })

/-- I3C_DATA_WRITE: offset 0x88, 8 to 256 bytes; before S5 is complete, or under a condition of R436, it is discarded. -/
def State.i3cWrite (s : State) (bs : List Byte) (peer : PeerReply) : State :=
  if s.mode == .off || s.mode == .initHold || s.mode == .safeHold || bs.length % 8 != 0 || bs.length == 0 || decide (256 < bs.length) then s
  else
    let r := s.hostWrite s.i3cAddr bs peer
    match r.2 with
    | none => { r.1 with i3cAddr := (s.i3cAddr + bs.length) % 2 ^ 48 }
    | some f => r.1.recordFail locPackage f true

def execI3cDataWrite (bytes : List Byte) (peer : PeerReply) (s : State) : Out := .next (s.i3cWrite bytes peer)

end Sys2Proof.Machine
end

