-- ==== Sys2Proof/Machine/Recovery.lean ====
section
/-!
DEFINITION. Sys2Proof/Machine/Recovery.lean: the fault-log commands, the fallback table, the replay base after a long lead, and
what commands write to memory (chapter 16).
-/

set_option Elab.async false

namespace Sys2Proof.Machine

/-- Bytes that a command writes at a device address; none: an address it cannot write. -/
def State.cmdWrite (s : State) (da : Nat) (bs : List Byte) : Option State :=
  let r := s.hostWrite da bs { status := 0, data := [] }
  if r.2.isSome then none else some r.1

/-- Answer with a result, or BAD_PARAM where it could not be written. -/
def State.replyWritten (s : State) (c : Cmd) (r : Option State) (body : List Word) : State :=
  match r with
  | some s' => s'.reply c stOk body
  | none => s.reply c stBadParam []

/-! ## The fault log (R472, R475) -/

/-- FAULT_READ: the uncleared records, oldest first. -/
def State.faultRead (s : State) (c : Cmd) : State :=
  let is := s.uncleared.take (c.pf 1 15 0)
  let bs := wordsToBytes (is.flatMap (fun i => (List.range 4).map (s.logWord i)))
  s.replyWritten c (if bs.isEmpty then some s else s.cmdWrite (c.pf 0 47 0) bs) [BitVec.ofNat 64 is.length]

def execFaultRead (c : Cmd) (s : State) : Out := .next (s.command c 0x601 (fun s => s.faultRead c))

/-- Clear the uncleared records of a code. -/
def State.clearCode (s : State) (code : Nat) : State :=
  let is := s.uncleared.filter (fun i => getField (s.logWord i 0) (bits 31 16) == code)
  ({ s with logCleared := s.logCleared ++ is } : State).refreshFlt

def State.faultClear (s : State) (c : Cmd) : State :=
  match faultSource (c.pf 0 15 0) with
  | none => s.reply c stBadParam []
  | some f => if f.severity = 2 then s.reply c stDenied [] else (s.clearCode f.code).reply c stOk []

def execFaultClear (c : Cmd) (s : State) : Out := .next (s.command c 0x602 (fun s => s.faultClear c))

/-- REACTION_SET: a mask that drops a forced bit is DENIED. -/
def State.reactionSet (s : State) (c : Cmd) : State :=
  match faultSource (c.pf 0 15 0) with
  | none => s.reply c stBadParam []
  | some f =>
    let mask := c.pf 0 20 16
    if mask &&& f.forced ≠ f.forced then s.reply c stDenied []
    else (s.wf (FLT_REACT f.code) FLT_REACT_MASK mask).reply c stOk []

def execReactionSet (c : Cmd) (s : State) : Out := .next (s.command c 0x610 (fun s => s.reactionSet c))

/-- BUDGET_OVERRUN: a recovery passes budget k and still completes (R490). -/
def execBudgetOverrun (k : Fin 10) (locator : W32) (s : State) : Out :=
  .next (if s.mode = .off then s
    else (s.satf (FLT_BUDGET k.val) FLT_BUDGET_OVERRUNS 1).note F_BUDGET_OVERRUN locator.toNat k.val)

/-! ## The fallback table (R483, R484) -/

/-- Whether [lo, lo + n) lies wholly inside one READONLY region that is not OPEN. -/
def State.inReadonly (s : State) (lo n : Nat) : Bool :=
  (List.range 64).any (fun r => s.rgnValid r && s.rgnBit r MEM_RGN_ATTR_READONLY && !s.rgnBit r MEM_RGN_ATTR_OPEN &&
    decide (s.rgnLo r ≤ lo) && decide (lo + n ≤ s.rgnHi r))

def planBytes (h : PlanHead) : Nat := 64 + 32 * h.nbay + 4160 * h.nslot + 32 * h.nreload

/-- KIND matches the class and level of LOCATOR. -/
def kindFits (kind l : Nat) : Bool :=
  locValid l && (match kind with
    | 0 => locClass l == 1 && locLevel l == 4 && locBits l 16 12 == 0
    | 1 => locClass l == 1 && locLevel l == 5
    | 2 => locClass l == 3 && locLevel l == 5
    | 3 => locClass l == 2 && locLevel l == 5
    | 4 => locClass l == 6 && decide (locBits l 24 22 < 4)
    | _ => false)

/-- Bay entries that break R484. here: the lost unit is this package's. -/
def planBaysBad (here : Bool) (l : Nat) (es : List PlanBay) : Bool :=
  es.any (fun e => !e.inRange || (here && locContains l (locBay (bayOf e.newBay)))) ||
  (es.zipIdx).any (fun a => (es.zipIdx).any (fun b => decide (a.2 < b.2) && (a.1.bay == b.1.bay ||
    (a.1.newBay == b.1.newBay && !(a.1.newStream == b.1.newStream && a.1.length == b.1.length && a.1.start == b.1.start)))))

/-- Reload records out of range. -/
def State.reloadsBad (s : State) (rs : List (Nat × Nat × Nat × Nat)) : Bool :=
  rs.any (fun r => r.1 % 4096 != 0 || r.2.2.2 % 4096 != 0 || r.2.2.2 == 0 || decide (2 ^ 40 < r.1 + r.2.2.2) ||
    decide (2 ^ 40 < r.2.2.1 + r.2.2.2) || !(s.inSpace r.1 && s.inSpace (r.1 + r.2.2.2 - 1)))

/-- The table entry whose LOST_PKG, LOCATOR and PLAN_ID are those of a plan. -/
def State.planMatch (s : State) (h : PlanHead) : Option Nat :=
  s.planTable.find? (fun p => let k := s.planHead (s.planDa p)
    k.lostPkg == h.lostPkg && k.loc == h.loc && k.id == h.id)

/-- Put a plan in table entry p. -/
def State.setPlan (s : State) (p : Nat) (h : PlanHead) (da : Nat) : State :=
  let s := s.setReg FLT_PLANVALID (s.reg FLT_PLANVALID ||| BitVec.ofNat 64 (2 ^ p))
  let s := s.setReg (FLT_PLAN_KEY p) (packFields [(FLT_PLAN_KEY_KIND, h.kind), (FLT_PLAN_KEY_LOST_PKG, h.lostPkg),
    (FLT_PLAN_KEY_LOCATOR, h.loc)])
  s.setReg (FLT_PLAN_DA p) (BitVec.ofNat 64 da)

/-- Take the plan out of table entry p. -/
def State.dropPlan (s : State) (p : Nat) : State :=
  let s := s.setReg FLT_PLANVALID (s.reg FLT_PLANVALID &&& ~~~ BitVec.ofNat 64 (2 ^ p))
  let s := s.setReg FLT_INFORCE (s.reg FLT_INFORCE &&& ~~~ BitVec.ofNat 64 (2 ^ p))
  (s.setReg (FLT_PLAN_KEY p) 0).setReg (FLT_PLAN_DA p) 0

/-- FALLBACK_LOAD. -/
def State.fallbackLoad (s : State) (c : Cmd) : State :=
  let da := c.pf 0 47 0
  let n := c.pf 1 31 0
  let h := s.planHead da
  let readable := match s.localRead da n with | .ok _ => true | .error _ => false
  if daWindow da ≠ 0 || decide (n < 64) || !s.inReadonly da n || !readable then s.reply c stBadParam []
  else if h.version ≠ 1 then s.reply c stBadVersion []
  else if n ≠ planBytes h || !kindFits h.kind h.loc || planBaysBad (h.lostPkg == 0 || h.lostPkg == s.pkg) h.loc (s.planBays da) ||
      s.reloadsBad (s.planReloads da) then s.reply c stBadParam []
  else if h.nbay = 0 ∧ h.nslot = 0 ∧ h.nreload = 0 then
    (match s.planMatch h with | some p => s.dropPlan p | none => s).reply c stOk []
  else match s.planMatch h with
    | some p => (s.setPlan p h da).reply c stOk []
    | none =>
      match (List.range 64).find? (fun p => !wbit (s.reg FLT_PLANVALID) p) with
      | some p => (s.setPlan p h da).reply c stOk []
      | none => s.reply c stCapacity []

def execFallbackLoad (c : Cmd) (s : State) : Out := .next (s.command c 0x620 (fun s => s.fallbackLoad c))

/-- Plans whose holding region is gone or open leave the table (R483). -/
def State.dropPlans (s : State) : State :=
  s.planTable.foldl (fun s p =>
    let da := s.planDa p
    if s.inReadonly da (planBytes (s.planHead da)) then s else s.dropPlan p) s

/-! ## The replay base (R480) -/

/-- STEP_RESUME of one step: its record sets the base. -/
def State.resumeStep (s : State) (t : Step) : State :=
  let lead := s.rf FLT_CFG FLT_CFG_REPLAY_LEAD / 64
  let s := s.noteStep F_STEP_RESUME locPackage 0 lead t.num
  let s := s.spread (faultRecord s F_STEP_RESUME locPackage 0 false lead t.num)
  { s with steps := s.steps.map (fun (x : Step) =>
      if x.num = t.num then { x with base := frameAdd s.frame (lead * 64), longLead := false } else x) }

/-- A retirement copies, or a reload runs. -/
def State.recovering (s : State) : Bool :=
  s.reloads.any (fun r => r.left != 0) ||
  (List.range 4).any (fun r => s.rf (MEM_RETIRE r) MEM_RETIRE_VALID == 1 && s.rf (MEM_RETIRE r) MEM_RETIRE_STATE == 0)

/-- Once the retirement and the reload are complete, every step with the long lead is resumed. -/
def State.stepResume (s : State) : State :=
  if s.recovering then s
  else (s.steps.filter (fun t => t.phase == .fenced && t.longLead)).foldl (fun s t => s.resumeStep t) s

/-- RETIREMENT_COPY_COMPLETE: the steps the retirement fenced are given their base. -/
def execRetirementCopyComplete (r : Fin 4) (s : State) : Out := .next (s.copyDone r.val).stepResume

end Sys2Proof.Machine
end

