-- ==== Sys2Proof/Machine/Steps.lean ====
section
/-!
DEFINITION. Sys2Proof/Machine/Steps.lean: steps from STEP_START to commit, replay or end, and HALT (R151 to R156, R208, R224, R431,
R433, R440, R478 to R486).
-/

set_option Elab.async false

namespace Sys2Proof.Machine

/-! ## STEP_START (R433) -/

/-- Bay entry i of a STEP_START. -/
def stepEntry (c : Cmd) (i : Nat) : StepBay :=
  let k := 3 + 4 * i
  { bay := c.pf k 3 0 * 12 + c.pf k 7 4, stream := c.pf k 63 16, length := c.pf (k + 1) 31 0, start := c.pf (k + 1) 63 32,
    cring := c.p (k + 2), jrnl := c.p (k + 3) }

def stepCount (c : Cmd) : Nat := c.pf 0 39 32 + 1

/-- The packet holds every entry, and every entry names a bay. -/
def stepShape (c : Cmd) : Bool :=
  decide (stepCount c ≤ 144) && decide (8 * (3 + 4 * stepCount c) ≤ c.len) &&
  (List.range (stepCount c)).all (fun i => decide (c.pf (3 + 4 * i) 3 0 < 12) && decide (c.pf (3 + 4 * i) 7 4 < 12))

/-- The entries after every plan in force has rewritten them (R486). -/
def State.plannedBays (s : State) (bs : List StepBay) : List StepBay :=
  (s.planTable.filter (fun p => wbit (s.reg FLT_INFORCE) p)).foldl (fun bs p =>
    let es := s.planBays (s.planDa p)
    if bs.any (fun b => es.any (fun e => e.bay == b.bay && e.stream == b.stream)) then applyPlanBays es bs else bs) bs

def noRepeat (xs : List Nat) : Bool := decide xs.Nodup

/-- [lo, lo + n) lies wholly in local memory outside every READONLY region. -/
def State.writable (s : State) (lo n : Nat) : Bool :=
  decide (daWindow lo = 0) && (granules lo n).all (fun g => s.inSpace g) &&
  (s.regionsIn lo (lo + n)).all (fun r => !s.rgnBit r MEM_RGN_ATTR_READONLY)

/-- [lo, lo + n) lies wholly inside one valid JOURNAL region. -/
def State.inJournal (s : State) (lo n : Nat) : Bool :=
  (List.range 64).any (fun r => s.rgnValid r && s.rgnBit r MEM_RGN_ATTR_JOURNAL && decide (s.rgnLo r ≤ lo) &&
    decide (lo + n ≤ s.rgnHi r))

/-- Bytes of a completion ring: 256 * 2^SIZE records of 16 bytes. -/
def cringBytes (v : Word) : Nat := 4096 * 2 ^ getField v BAY_SEQ_CRING_SIZE

/-- An entry that R433 refuses. -/
def State.entryBad (s : State) (b : StepBay) : Bool :=
  b.stream % 64 != 0 || daWindow b.stream != 0 || b.length == 0 || decide (b.length ≤ b.start) ||
  decide (12 ≤ getField b.cring BAY_SEQ_CRING_SIZE) ||
  !s.writable (4096 * getField b.cring BAY_SEQ_CRING_BASE) (cringBytes b.cring) ||
  decide (13 ≤ getField b.jrnl BAY_SEQ_JRNL_SIZE) || !s.inJournal (jrnlBase b.jrnl) (jrnlSize b.jrnl)

/-- The wing of a bay index. -/
def bayWing (i : Nat) : Nat := i / 36

/-- A region change is pending (R170); a flush is none. -/
def State.changePending (s : State) : Bool :=
  s.changes.any (fun c => match c.change with | .flush _ => false | _ => true)

/-- BASE_FRAME lies fewer than two frames ahead. -/
def State.tooSoon (s : State) (base : Nat) : Bool :=
  let d := (base + 2 ^ 48 - s.frame) % 2 ^ 48
  decide (d < 2) || decide (2 ^ 47 ≤ d)

/-- The status that refuses a STEP_START; none: it is accepted. -/
def State.stepStatus (s : State) (c : Cmd) (bs : List StepBay) : Option Nat :=
  let ix := bs.map (fun b => b.bay)
  if !stepShape c || !noRepeat ix || s.steps.any (fun t => t.num == c.pf 0 31 0) || bs.any s.entryBad ||
      daWindow (c.pf 2 47 0) != 0 then some stBadParam
  else if ix.any (fun i => s.rf HRT_WROLE (HRT_WROLE_ROLE (bayWing i)) == 3) then some stDenied
  else if ix.any (fun i => s.isFenced (locBay (bayOf i))) then some stFaulted
  else if s.steps.any (fun t => t.bays.any (fun b => ix.contains b.bay)) || decide (4 ≤ s.steps.length) ||
      s.tooSoon (c.pf 1 47 0) || s.changePending then some stBusy
  else none

def State.stepStart (s : State) (c : Cmd) : State :=
  let bs := s.plannedBays ((List.range (stepCount c)).map (stepEntry c))
  match s.stepStatus c bs with
  | some st => s.reply c st []
  | none =>
    let t : Step := { num := c.pf 0 31 0, base := c.pf 1 47 0, bays := bs, publish := c.pf 2 47 0, phase := .pending, replays := 0,
                      cause := 0, longLead := false, tag := c.tag, origin := originOf s c, ring := c.ringId, old := [],
                      frame := 0 }
    ({ s with steps := s.steps ++ [t] } : State).reply c stDeferred []

def execStepStart (c : Cmd) (s : State) : Out := .next (s.command c 0x210 (fun s => s.stepStart c))

/-! ## Launch, commit and replay -/

/-- Start one bay of a step: its segment is OPEN, its events are 0, its stream begins at STREAM_START (R153). -/
def State.launchBay (s : State) (t : Step) (b : StepBay) : State :=
  let y := bayOf b.bay
  let s := s.jrnlHeader b.jrnl 1 t.num t.base b.start 0 (jrnlBase b.jrnl + 64)
  let s := s.wf (BAY_SEQ_STREAM y) BAY_SEQ_STREAM_BASE (b.stream / 64)
  let s := s.wfs (BAY_SEQ_POS y) [(BAY_SEQ_POS_LENGTH, b.length), (BAY_SEQ_POS_INDEX, b.start)]
  let s := s.wf (BAY_SEQ_BASE y) BAY_SEQ_BASE_BASE_FRAME t.base
  let s := s.wfs (BAY_SEQ_CRING y) [(BAY_SEQ_CRING_BASE, getField b.cring BAY_SEQ_CRING_BASE),
    (BAY_SEQ_CRING_SIZE, getField b.cring BAY_SEQ_CRING_SIZE)]
  let s := s.wfs (BAY_SEQ_JRNL y) [(BAY_SEQ_JRNL_BASE, getField b.jrnl BAY_SEQ_JRNL_BASE),
    (BAY_SEQ_JRNL_SIZE, getField b.jrnl BAY_SEQ_JRNL_SIZE)]
  let s := s.clearEvts y
  let s := s.wf (BAY_SEQ_CTRL y) BAY_SEQ_CTRL_RUN 1
  let s := s.wf (BAY_SEQ_STATUS y) BAY_SEQ_STATUS_STATE seqRunning
  s.setBay y { s.bay y with discard := false, stepEnded := false, stall := 0, progress := false, prefetch := [] }

def State.setStep (s : State) (t : Step) : State :=
  { s with steps := s.steps.map (fun (x : Step) => if x.num = t.num then t else x) }

def State.launchStep (s : State) (t : Step) : State := t.bays.foldl (fun s b => s.launchBay t b) (s.setStep t)

def State.findStep (s : State) (n : Nat) : Option Step := s.steps.find? (fun t => t.num == n)

/-- OPEN regions close at the base frame of a step start (R178). -/
def State.closeRegions (s : State) : State := (List.range 64).foldl (fun s n => s.wf (MEM_RGN_ATTR n) MEM_RGN_ATTR_OPEN 0) s

/-- STEP_BASE_FRAME: the step begins, and its APPLIED event marks it. -/
def State.stepBegins (s : State) (n : Nat) : State :=
  match s.findStep n with
  | none => s
  | some t =>
    if t.phase = .pending ∧ frameReached s.frame t.base then
      (s.closeRegions.launchStep { t with phase := .running }).applied t.tag t.origin t.ring 0x210 stOk false
    else s

def execStepBaseFrame (step : Nat) (s : State) : Out := .next (s.stepBegins step)

/-- STEP_COMMIT: every bay has completed its STEP_END mark; segments are COMMITTED, and the publish list waits (R155, R224). -/
def State.stepCommits (s : State) (n : Nat) : State :=
  match s.findStep n with
  | none => s
  | some t =>
    if t.phase = .running ∧ t.bays.all (fun b => (s.bay (bayOf b.bay)).stepEnded) then
      let s := t.bays.foldl (fun s b => s.jrnlState b.jrnl 2) s
      let s := t.bays.foldl (fun s b => s.setBay (bayOf b.bay) { s.bay (bayOf b.bay) with faultLanes := [] }) s
      let s : State := { s with
        steps := s.steps.filter (fun x => x.num != n),
        publishes := if t.publish = 0 then s.publishes else s.publishes ++ [(n, t.publish)] }
      s.hostEvent 0x0010 [packFields [(bits 31 0, n)], packFields [(bits 47 0, s.frame)]]
    else s

def execStepCommit (step : Nat) (s : State) : Out := .next (s.stepCommits step)

/-- A step is ready for its replay: journals restored, and no SEND_DATA of the aborted attempt outstanding (R481). -/
def State.stepReady (s : State) (t : Step) : Bool :=
  s.restores.isEmpty && !s.annexReqs.any (fun r => r.bay == 144) &&
  !s.links.any (fun e => e.2.owners.any (fun o => t.old.contains o.1))

/-- STEP_REPLAY: at its base frame the fenced step starts again (R481, R486). -/
def State.stepReplays (s : State) (n : Nat) : State :=
  match s.findStep n with
  | none => s
  | some t =>
    if t.phase = .fenced ∧ frameReached s.frame t.base ∧ t.longLead = false ∧ s.stepReady t then
      (s.launchStep { t with phase := .running, replays := t.replays + 1 }).refreshFlt
    else s

def execStepReplay (step : Nat) (s : State) : Out := .next (s.stepReplays step)

/-- REPLAY_LATE: the step is not ready at its base frame, or its long lead expires; it ends everywhere (R480, R482). -/
def State.stepLate (s : State) (n : Nat) : State :=
  match s.findStep n with
  | none => s
  | some t =>
    if t.phase = .fenced ∧ frameReached s.frame t.base ∧ (t.longLead = true ∨ !s.stepReady t) then
      let s := s.noteStep F_REPLAY_LATE locPackage 0 0 n
      let s := s.spread (faultRecord s F_REPLAY_LATE locPackage 0 false 0 n)
      s.endStep t
    else s

def execReplayLate (step : Nat) (s : State) : Out := .next (s.stepLate step)

/-- STEP_ABORT: a step fence without replay. -/
def State.stepAbort (s : State) (c : Cmd) : State :=
  match s.findStep (c.pf 0 31 0) with
  | none => s.reply c stBadParam []
  | some t => (s.fenceStep { cause := 7, replay := false, frame := s.frame, lead := 0, lost := none } t).reply c stOk []

def execStepAbort (c : Cmd) (s : State) : Out := .next (s.command c 0x211 (fun s => s.stepAbort c))

/-! ## Reloads (R488) -/

/-- The bay number that marks reload requests. -/
def reloadReq : Nat := 146

/-- The reload record that a request serves: the one with bytes left at its address. -/
def Reload.next (r : Reload) : Nat := r.da + (r.bytes - r.left)

/-- Send the next MEM_RD of a reload record, by direct link or by relay. -/
def State.pumpReload (s : State) (r : Reload) : State :=
  if r.left = 0 || s.annexReqs.any (fun q => q.bay == reloadReq && q.src == r.next) then s
  else match s.routeTo r.srcPkg with
    | none => s
    | some (l, relay) =>
      let n := min 512 r.left
      let q : AnnexReq := { link := l, seq := s.nextTag % 65536, bay := reloadReq, write := false, src := r.next,
                            da := r.srcAddr + (r.bytes - r.left), len := n, data := [], skip := 0, take := n, sram := 0,
                            conv := none, uprog := none, fill := none, jrnl := none, undef := false }
      let s : State := { s with annexReqs := s.annexReqs ++ [q], nextTag := (s.nextTag + 1) % 65536 }
      s.linkPut l 1 (s.annexPacket l q relay) none 0 0

def State.pumpReloads (s : State) : State := s.reloads.foldl (fun s r => s.pumpReload r) s

/-- A peer's answer to a reload request. A failed read leaves the record as it is, so that it is asked again. -/
def State.reloadAnswer (s : State) (q : AnnexReq) (status : Nat) (bs : List Byte) : State :=
  if status ≠ 0 then s
  else
    let s := match s.engineWrite q.src bs with | .ok s' => s' | .error _ => s
    { s with reloads := s.reloads.map (fun r => if r.next = q.src then { r with left := r.left - q.len } else r) }

/-- RELOAD_COMPLETE: nothing is left to reload; every step with the long lead, the one named among them, is given its base. -/
def State.reloadsDone (s : State) : State :=
  if s.reloads.any (fun r => r.left != 0) then s else ({ s with reloads := [] } : State).stepResume

def execReloadComplete (_ : Nat) (s : State) : Out := .next s.reloadsDone

/-! ## Memory operations (Table 14-7) -/

/-- n open bytes. -/
def State.openBytes (s : State) (n : Nat) : List Byte × State :=
  ((List.range n).map (fun i => Config.freeByte (s.freeCtr + i)), { s with freeCtr := s.freeCtr + n })

/-- Bytes that the first n bytes of a MEM_FILL write. -/
def fillBytes (pattern : Word) (n : Nat) : List Byte :=
  let p := natToBytes 8 pattern.toNat
  (List.range n).map (fun i => p.getD (i % 8) 0)

/-- Write the first n bytes of an operation; a write that meets an error stops before its first failing address. -/
def State.opWrite (s : State) (m : MemOp) (bs : List Byte) (peer : PeerReply) : State × Nat :=
  let r := s.hostWrite m.dst bs peer
  match r.2 with
  | none => (r.1, 0)
  | some f =>
    let p := r.1.hostWrite m.dst (bs.take (f.2 - m.dst)) peer
    (p.1.recordFail locPackage f true, f.1)

/-- Source and destination of a copy overlap: what lands is open. -/
def MemOp.overlaps (m : MemOp) : Bool :=
  decide (m.src < m.dst + m.bytes) && decide (m.dst < m.src + m.bytes)

/-- The first n bytes of an operation; the status as a DMA write codes it (Table 14-13). -/
def State.opRun (s : State) (m : MemOp) (n : Nat) (ue : Option Nat) (peer : PeerReply) : State × Nat :=
  if n = 0 then (s, 0)
  else if m.opcode = 0x301 then s.opWrite m (fillBytes m.pattern n) peer
  else
    let r := s.hostRead m.src n ue peer
    match r.2 with
    | .ok bs =>
      let o := r.1.openBytes n
      if m.overlaps then o.2.opWrite m o.1 peer else r.1.opWrite m bs peer
    | .error (f, known) =>
      let k := f.2 - m.src
      let o := r.1.openBytes k
      let bs := if daWindow m.src = 0 && !m.overlaps then memRead r.1.mem m.src k else o.1
      let w := o.2.opWrite m bs peer
      (w.1.recordFail locPackage f known, f.1)

/-- Operation i of the list completes. -/
def State.opDone (s : State) (op i : Nat) (ue : Option Nat) (peer : PeerReply) : State :=
  match s.memOps[i]? with
  | none => s
  | some m =>
    if m.opcode ≠ op then s
    else
      let r := ({ s with memOps := s.memOps.eraseIdx i } : State).opRun m m.bytes ue peer
      r.1.applied m.tag m.origin m.ring m.opcode r.2 false

def execMemFillComplete (op : Nat) (s : State) : Out := .next (s.opDone 0x301 op none { status := 0, data := [] })

def execMemCopyComplete (op : Nat) (ue : Option Nat) (peer : PeerReply) (s : State) : Out := .next (s.opDone 0x302 op ue peer)

def State.addOp (s : State) (c : Cmd) (src dst bytes : Nat) (pattern : Word) : State :=
  if src % 64 ≠ 0 ∨ dst % 64 ≠ 0 ∨ bytes % 64 ≠ 0 then s.reply c stBadParam []
  else
    let m : MemOp := { opcode := c.opcode, src := src, dst := dst, bytes := bytes, pattern := pattern, tag := c.tag,
                       origin := originOf s c, ring := c.ringId }
    ({ s with memOps := s.memOps ++ [m] } : State).reply c stDeferred []

/-- MEM_FILL: DEFERRED until MEM_FILL_COMPLETE. -/
def execMemFill (c : Cmd) (s : State) : Out :=
  .next (s.command c 0x301 (fun s => s.addOp c 0 (c.pf 0 47 0) (c.pf 1 39 0) (c.p 2)))

def execMemCopy (c : Cmd) (s : State) : Out :=
  .next (s.command c 0x302 (fun s => s.addOp c (c.pf 0 47 0) (c.pf 1 47 0) (c.pf 2 39 0) 0))

/-! ## HALT (R151, R423, R431, R440, R482) -/

/-- Operations stop after an open number of 64-byte granules; APPLIED carries FAULTED. -/
def State.haltOps (s : State) : State :=
  s.memOps.foldl (fun s m =>
    let w := s.draw
    let k := w.1.toNat % (m.bytes / 64 + 1) * 64
    let s := (w.2.opRun m k none { status := 0, data := [] }).1
    s.applied m.tag m.origin m.ring m.opcode stFaulted false) { s with memOps := [] }

/-- Every Skylight engine abandons its job; VALID stays 1 (Table 12-7). -/
def State.abandonSky (s : State) : State :=
  (List.range 8).foldl (fun s c =>
    let x := sparseGet skyDefault s.sky c
    { s with sky := sparseSet skyDefault s.sky c { x with found := [], job := none, expired := false } }) s

/-- HALT at this package: every unit of every bay stops, and every step ends without replay. -/
def State.haltHere (s : State) : State :=
  let ts := s.steps
  let s := ts.foldl (fun s t => if t.phase = .running then s.quellStep t seqHalted 6 else s) s
  let s := (allBays.filter (fun b => s.rf (BAY_STATUS b) BAY_STATUS_POWER == 2 && s.seqState b != seqHalted)).foldl
    (fun s b => s.stopBay b seqHalted 6) s
  let s := ts.foldl (fun s t => s.endStep { t with cause := 6 }) s
  s.haltOps.abandonSky

/-- A broadcast HALT also goes to every package reached; its reply waits for theirs. -/
def State.haltAll (s : State) (c : Cmd) : State :=
  let ps := s.reached.map (fun p => p.1)
  let s := s.addActive c true
  let s := ps.foldl (fun s p => s.forwardTo c p) s
  let o := originOf s c
  let s : State := { s with active := s.active.map (fun (a : ActiveCmd) =>
    if a.tag = c.tag ∧ a.origin = o ∧ a.ring = c.ringId then { a with awaits := ps, reached := ps.length } else a) }
  if ps.isEmpty then
    match s.activeOf c.tag o c.ringId with
    | some a => s.haltReply a stOk
    | none => s
  else s

def State.halt (s : State) (c : Cmd) : State :=
  let s := s.haltHere
  if c.target = 0xFFF ∧ !isForwarded c then s.haltAll c else s.reply c stOk []

def execHalt (c : Cmd) (s : State) : Out := .next (s.command c 0x201 (fun s => s.halt c))

end Sys2Proof.Machine
end

