-- ==== Sys2Proof/Machine/Training.lean ====
section
/-!
DEFINITION. Sys2Proof/Machine/Training.lean: full training (R345, R346), re-training (R347 to R350), going down and coming back
(R351, R352), and the link commands (R359).
-/

set_option Elab.async false

namespace Sys2Proof.Machine

/-! ## LINK_TRAIN (Table 11-6) -/

def tcOffer : Nat := 1
def tcAccept : Nat := 2
def tcRetrainReq : Nat := 3
def tcRetrainAck : Nat := 4
def tcGoingDown : Nat := 5

def ptLinkTrain : Nat := 7

def trainOf (p : Packet) : TrainMsg :=
  let ws := bytesToWords p.payload
  { rtId := getField p.w2 (bits 15 8), w0 := ws.getD 0 0, w1 := ws.getD 1 0, w2 := ws.getD 2 0, w3 := ws.getD 3 0,
    w4 := ws.getD 4 0, w5 := ws.getD 5 0, w6 := ws.getD 6 0, w7 := ws.getD 7 0 }

namespace Train
def versions (m : TrainMsg) : Nat := getField m.w0 (bits 10 4)
def chosen (m : TrainMsg) : Nat := getField m.w0 (bits 14 11)
def pkg (m : TrainMsg) : Nat := getField m.w0 (bits 26 15)
def pod (m : TrainMsg) : Nat := getField m.w0 (bits 42 27)
def link (m : TrainMsg) : Nat := getField m.w0 (bits 50 43)
def pairs (m : TrainMsg) : Nat := getField m.w0 (bits 54 51)
def fec (m : TrainMsg) : Nat := getField m.w0 (bit 55)
def nvc (m : TrainMsg) : Nat := getField m.w0 (bits 58 56)
def pool (m : TrainMsg) : Nat := getField m.w2 (bits 15 0)
def res (m : TrainMsg) : Nat := getField m.w2 (bits 31 16)
def cap (m : TrainMsg) : Nat := getField m.w2 (bits 38 32)
def rxNext (m : TrainMsg) : Nat := getField m.w2 (bits 50 39)
def exclude (m : TrainMsg) : BitVec 18 := m.w3.setWidth 18
def txSerial (m : TrainMsg) : Nat := getField m.w3 (bits 25 18)
def txMap (m : TrainMsg) : List Nat :=
  let n := m.w4.toNat + 2 ^ 64 * (m.w5.toNat % 2 ^ 16)
  (List.range 16).map (fun i => n / 2 ^ (5 * i) % 32)
def occ (m : TrainMsg) : List Nat :=
  (List.range 8).map (fun v => (m.w6.toNat + 2 ^ 64 * m.w7.toNat) / 2 ^ (16 * v) % 2 ^ 16)
end Train

/-- The Dararn version a link offers: 1 on a settled engine, else 2; 0: none, by VERSION_MAX (R346). -/
def State.offered (s : State) (l : Nat) : Nat :=
  let v := if decide (l < 128) && s.settled (l / 16) (l % 16 / 2) then 1 else 2
  if s.rf (DRL_CFG l) DRL_CFG_VERSION_MAX < v then 0 else v

/-- FEC mode that a link's messages state: that asked for, else that of its homing pair. -/
def State.wantFec (s : State) (l : Nat) : Nat :=
  match (s.link l).ask with
  | some a => a.2
  | none => if l < 128 then s.rf (CSM_PAIR (l / 16) (l % 16)) CSM_PAIR_FEC else 0

def State.wantPairs (s : State) (l : Nat) : Nat :=
  match (s.link l).ask with
  | some a => a.1
  | none => s.rf (DRL_CFG l) DRL_CFG_PAIRS_M1

/-- The message that an end sends (Table 11-6); it goes in every burst of the link in copy mode (R344, R346, R348). -/
def State.trainMsg (s : State) (l code : Nat) : TrainMsg :=
  let full := code == tcOffer || code == tcAccept
  let re := code == tcRetrainReq || code == tcRetrainAck
  let only := fun (c : Bool) (n : Nat) => if c then n else 0
  let x := s.link l
  let map := mapBits (s.laneMap l 0)
  let occ := (x.snapOcc.zipIdx.map (fun p => p.1 * 2 ^ (16 * p.2))).sum
  { rtId := x.rtId,
    w0 := packFields [(bits 3 0, 1), (bits 10 4, only (code == tcOffer) (2 ^ s.offered l / 2)),
      (bits 14 11, only (code == tcAccept) (s.offered l)), (bits 26 15, s.pkg), (bits 42 27, s.rf HRT_PKGID HRT_PKGID_POD_ID),
      (bits 50 43, if s.offered l = 1 then l / 2 else l), (bits 54 51, only (full || re) (s.wantPairs l)),
      (bit 55, only (full || re) (s.wantFec l)), (bits 58 56, only full (s.rf (DRL_CFG l) DRL_CFG_NVC_M1))],
    w1 := if full then s.reg HRT_SERIAL else 0,
    w2 := packFields [(bits 15 0, only full (s.rf (DRL_POOL l) DRL_POOL_POOL)), (bits 31 16, only full (s.rf (DRL_POOL l) DRL_POOL_RES)),
      (bits 38 32, only full (s.rf (DRL_POOL l) DRL_POOL_CAP_PCT)), (bits 50 39, only re x.snapRx)],
    w3 := packFields [(bits 17 0, only re x.exclRx.toNat), (bits 25 18, only (full || re) (s.mapSerial l 0))],
    w4 := BitVec.ofNat 64 (only (full || re) (map % 2 ^ 64)), w5 := BitVec.ofNat 64 (only (full || re) (map / 2 ^ 64)),
    w6 := BitVec.ofNat 64 (only re (occ % 2 ^ 64)), w7 := BitVec.ofNat 64 (only re (occ / 2 ^ 64)) }

/-! ## Full training: preconditions (R345, R407, R251) -/

/-- The delay of pair f is beyond its mode: 160 ns in SHORT, more than 896 ns in LONG; D is in 25 ps. -/
def State.tooFar (s : State) (c f : Nat) : Bool :=
  let d := s.rf (STR_DELAY c f) STR_DELAY_D
  s.rf (STR_DELAY c f) STR_DELAY_VALID == 1 &&
    (if s.rf (CSM_PAIR c f) CSM_PAIR_FEC = 1 && !s.settled c (f / 2) then decide (6400 ≤ d) else decide (35840 < d))

/-- REACH_FAULT of a link's pairs follows their delays; a new one is reported (R251). -/
def State.reachCheck (s : State) (l : Nat) : State :=
  (s.linkPairs l).foldl (fun s f =>
    let c := l / 16
    let old := s.rf (CSM_PAIR c f) CSM_PAIR_REACH_FAULT
    let new := if s.tooFar c f then 1 else 0
    let s := s.wf (CSM_PAIR c f) CSM_PAIR_REACH_FAULT new
    if new = 1 ∧ old = 0 then s.note F_FIBRE_REACH (locCasement c) l else s) s

/-- Pair f lets its link train: enabled, held by nothing, its delay known. A settled engine makes no launch advance (R323). -/
def State.pairReady (s : State) (c f : Nat) : Bool :=
  s.pairOn c f && s.rf (STR_FERR c f) STR_FERR_PARITY == 0 && !s.beat.conflicts.contains (c, f) &&
    s.rf (CSM_PAIR c f) CSM_PAIR_REACH_FAULT == 0 && !s.quietPair c f &&
    (s.rf (STR_DELAY c f) STR_DELAY_VALID == 1 || s.settled c (f / 2))

/-- The rings of engine e of both directions are LOCKED; one in calibration holds its lock, one retired counts for nothing. -/
def State.ringsReady (s : State) (c e : Nat) : Bool :=
  [0, 1].all (fun d => s.engineUp c d e && (List.range 18).all (fun k =>
    let st := s.ring c (144 * d + 18 * e + k)
    st == rgLocked || st == rgCal || st == rgRetired))

/-- The preconditions of R345, and of R407 for a DARARN_E link. -/
def State.trainReady (s : State) (l : Nat) : Bool :=
  s.linkState l == lkDown && s.linkNamed l && s.pkg != 0 &&
  (if l < 128 then
    let c := l / 16
    (s.beatState == btAligned || s.beatState == btMaster) && s.rf (CSM_FA c) CSM_FA_DARK == 0 &&
      (s.linkPairs l).all (s.pairReady c) && s.ringsReady c (l % 16 / 2)
  else (s.porchLanes l).all (fun n => wbit (s.reg PCH_STATUS) n))

/-- LINK_TRAINING_START. The FEC mode of each pair takes effect (R249, R250). -/
def State.trainStart (s : State) (l : Nat) : State :=
  let s := if l < 128 ∧ s.linkState l = lkDown then s.reachCheck l else if s.linkState l = lkDown then s.porchRetrain l else s
  if !s.trainReady l then s
  else
    let s := s.setLinkState l lkTraining
    let s := s.setLink l { s.link l with rtId := 0, offer := none, accSent := false, accGot := none, answered := none }
    if 128 ≤ l then s
    else (s.linkPairs l).foldl (fun s f =>
      s.wf (CSM_PAIR (l / 16) f) CSM_PAIR_FEC_ACTIVE
        (if s.offered l = 1 then 0 else s.rf (CSM_PAIR (l / 16) f) CSM_PAIR_FEC)) s

def execLinkTrainingStart (l : LinkId) (s : State) : Out := .next (s.trainStart l.val)

/-! ## OFFER and ACCEPT (R346, Table 11-7) -/

/-- A LINK_TRAIN packet of a code passes its checks: its CRC, type, LEN and message version. -/
def trainPacket (code : Nat) (p : Packet) : Bool :=
  packetCrc p == BitVec.ofNat 32 (getField p.w3 (bits 63 32)) && Packet.type p == ptLinkTrain && Packet.len p == 3 &&
    Packet.vc p == 0 && p.payload.length == 96 && getField p.w2 (bits 7 0) == code &&
    getField (trainOf p).w0 (bits 3 0) == 1

/-- Count a LINK_TRAIN packet that fails them. -/
def State.trainDrop (s : State) (l : Nat) (p : Packet) : State :=
  if packetCrc p == BitVec.ofNat 32 (getField p.w3 (bits 63 32)) then s.satf (DRL_RXERR l) DRL_RXERR_DISCARD 1
  else s.satf (DRL_RXERR l) DRL_RXERR_CRC_FAIL 1

/-- PKG_ID of an OFFER is that of this package, or of another package's link that is UP (Table 11-7). -/
def State.dupPkg (s : State) (l : Nat) (m : TrainMsg) : Bool :=
  Train.pkg m == s.pkg ||
    allLinks.any (fun k => k != l && s.linkUp k && s.linkPeer k == Train.pkg m && (s.link k).peerSerial != m.w1)

/-- The link carries Dararn 1 toward a peer that offers nothing else on an odd pair (Table 10-7). -/
def oddD1 (l : Nat) (m : TrainMsg) : Bool := decide (l < 128) && l % 2 == 1 && Train.versions m == 1

/-- The versions offered at both ends include one in common, which has two channels where it is Dararn 1. -/
def State.common (s : State) (l : Nat) (m : TrainMsg) : Bool :=
  let v := s.offered l
  v != 0 && Train.versions m / 2 ^ (v - 1) % 2 == 1

def State.widthAgrees (s : State) (l : Nat) (m : TrainMsg) : Bool :=
  Train.pairs m == s.rf (DRL_CFG l) DRL_CFG_PAIRS_M1 && Train.nvc m == s.rf (DRL_CFG l) DRL_CFG_NVC_M1 &&
    !(s.offered l == 1 && s.nvc l != 2)

/-- EXCLUDE is asked for every channel of the receive map that this end cannot use (R283). -/
def State.askExclusions (s : State) (l : Nat) : State :=
  (List.range 18).foldl (fun s k =>
    if (s.link l).exclRx.getLsbD k && (s.laneMap l 1).contains k then s.askLane l lmExclude k else s) s

/-- The round-trip estimate at training, in ns: 2 × (D + 16.512 µs), or 1 µs on a DARARN_E link (R336). -/
def State.firstRtt (s : State) (l : Nat) : Nat :=
  if l < 128 then 2 * (s.rf (STR_DELAY (l / 16) (l % 16)) STR_DELAY_D / 40) + 33024 else 1000

/-- Both ACCEPTs are held: the link enters UP (R346). -/
def State.trained (s : State) (l : Nat) (m : TrainMsg) : State :=
  let s := s.setLinkState l lkUp
  let s := s.wfs (DRL_STATUS l) [(DRL_STATUS_PEER_PKG, Train.pkg m), (DRL_STATUS_PEER_LINK, Train.link m),
    (DRL_STATUS_VERSION, s.offered l)]
  let s := s.setReg (DRL_SEQ l) 0
  let s := (List.range 8).foldl (fun s v => s.setReg (DRL_CR l v) 0) s
  let r := s.firstRtt l
  let s := s.setReg (DRL_RTT l) (packFields [(DRL_RTT_RTT_EST, r), (DRL_RTT_TIMER, r + s.rf (DRL_CFG l) DRL_CFG_REPLAY_ADD)])
  let x := s.link l
  let s := s.setLink l { LinkSt.init with
    peerPool := Train.pool m, peerRes := Train.res m, peerCap := Train.cap m, peerSerial := m.w1, exclRx := x.exclRx,
    want := x.want, width := x.width }
  let s := if l < 128 then s.setLaneMap l 1 (Train.txMap m) (Train.txSerial m) else s
  let s := (if l < 128 then s.linkPairs l else []).foldl (fun s f => s.recheck (l / 16) f) s
  (s.askExclusions l).sendNeighbours

/-- Enter UP where both ACCEPTs are held. -/
def State.maybeUp (s : State) (l : Nat) : State :=
  let x := s.link l
  match x.accSent, x.accGot with
  | true, some m => s.trained l m
  | _, _ => s

/-- OFFER: the checks of Table 11-7 in its order; what passes is answered with ACCEPT, the exchanges being held since training began. -/
def State.offer (s : State) (l : Nat) (m : TrainMsg) : State :=
  if s.dupPkg l m then s.note F_DUP_PKG_ID (linkLoc l) l
  else if Train.pod m ≠ s.rf HRT_PKGID HRT_PKGID_POD_ID then s.wrongPeer l
  else if oddD1 l m then s.note F_D1_ODD_FIBRE (linkLoc l) l
  else if !s.widthAgrees l m then s.note F_LINK_CFG_MISMATCH (linkLoc l) l
  else if !s.common l m then s.note F_DARARN_VERSION (linkLoc l) l
  else (s.setLink l { s.link l with offer := some m, accSent := true }).maybeUp l

def execOffer (l : LinkId) (p : Packet) (s : State) : Out :=
  .next (if s.linkState l.val ≠ lkTraining then s
    else if trainPacket tcOffer p then s.offer l.val (trainOf p)
    else s.trainDrop l.val p)

/-- ACCEPT: of the peer whose OFFER passes, and of the version both choose. -/
def State.accept (s : State) (l : Nat) (m : TrainMsg) : State :=
  let same := match (s.link l).offer with | some o => Train.pkg o == Train.pkg m && o.w1 == m.w1 | none => true
  if Train.chosen m ≠ s.offered l ∨ !same ∨ s.dupPkg l m then s
  else (s.setLink l { s.link l with accGot := some m }).maybeUp l

def execAccept (l : LinkId) (p : Packet) (s : State) : Out :=
  .next (if s.linkState l.val ≠ lkTraining then s
    else if trainPacket tcAccept p then s.accept l.val (trainOf p)
    else s.trainDrop l.val p)

/-! ## Re-training (R348, R350) -/

/-- A LINK_TRAIN packet of a trained link: the checks of R331, then its ACK and credit fields. The Bool says that it passes. -/
def State.trainHeader (s : State) (l code : Nat) (p : Packet) : State × Bool :=
  match s.dropCause l ptLinkTrain p with
  | 1 => (s.satf (DRL_RXERR l) DRL_RXERR_CRC_FAIL 1, false)
  | 2 => (s.satf (DRL_RXERR l) DRL_RXERR_DISCARD 1, false)
  | 3 => (s.wrongPeer l, false)
  | _ => if trainPacket code p then (s.useHeader l p, true) else (s, false)

/-- Honour the peer's EXCLUDE: lanes of this end's map on an excluded channel move to a usable spare or go down. -/
def State.exclude (s : State) (l : Nat) (ex : BitVec 18) : State :=
  let s := s.setLink l { s.link l with exclTx := ex }
  if 128 ≤ l then s
  else (List.range 18).foldl (fun s k =>
    if ex.getLsbD k && (s.laneMap l 0).contains k then
      let r := if s.isD1 l then (0x1F, s) else s.takeSpare (l / 16) [l]
      r.2.setLaneMap l 0 (moveChan (r.2.laneMap l 0) k r.1) (r.2.mapSerial l 0)
    else s) s

/-- Adopt the peer's TX_MAP for reception. A calibration of a drop ring that it puts back in use is skipped. -/
def State.adopt (s : State) (l : Nat) (m : TrainMsg) : State :=
  if 128 ≤ l then s
  else
    let s := s.setLaneMap l 1 (Train.txMap m) (Train.txSerial m)
    let c := l / 16
    let r := s.rf (TUN_CAL c) TUN_CAL_RING
    if (s.csm c).calPhase = .cal ∧ ringKind r = 1 ∧ (Train.txMap m).contains (ringChan r) then s.skipCal c [] else s

/-- The pairs owned and the FEC mode change where both messages state one value; the configured mode takes effect (R250, R348). -/
def State.agree (s : State) (l : Nat) (m : TrainMsg) : State :=
  let pairs := s.wantPairs l
  let fec := s.wantFec l
  let samePairs := Train.pairs m == pairs
  let sameFec := Train.fec m == fec
  let s := if samePairs then s.wf (DRL_CFG l) DRL_CFG_PAIRS_M1 pairs else s
  let s := if sameFec && decide (l < 128) && !s.isD1 l then
      (s.linkPairs l).foldl (fun s f =>
        (s.wf (CSM_PAIR (l / 16) f) CSM_PAIR_FEC fec).wf (CSM_PAIR (l / 16) f) CSM_PAIR_FEC_ACTIVE fec) s
    else s
  if samePairs && sameFec then s.setLink l { s.link l with ask := none } else s

/-- What both ends do with the other's message: its EXCLUDE, TX_MAP, audit and widths, and the launch values (R348). -/
def State.takeTrain (s : State) (l : Nat) (m : TrainMsg) : State :=
  ((((s.exclude l (Train.exclude m)).adopt l m).audit l (Train.rxNext m) (Train.occ m)).agree l m).refix l

/-- RETRAIN_REQ: the first of a re-train is taken, and the link is ACKED; one already answered is answered again with the same
snapshot. Of two initiators the lower package ID stays the initiator (R350). -/
def State.retrainReq (s : State) (l : Nat) (m : TrainMsg) : State :=
  let st := s.linkState l
  if (s.link l).answered = some m.rtId ∧ st = lkAcked then s
  else if st = lkRetraining ∧ s.pkg < s.linkPeer l then s
  else if st = lkUp ∨ st = lkRetraining ∨ st = lkAcked then
    let s := if st = lkUp then s.snapshotLink l lkAcked else s.setLinkState l lkAcked
    let s := s.setLink l { s.link l with rtId := m.rtId, answered := some m.rtId }
    s.takeTrain l m
  else s

def execRetrainReq (l : LinkId) (p : Packet) (s : State) : Out :=
  .next (if s.isLive l.val then
      let r := s.trainHeader l.val tcRetrainReq p
      if r.2 then r.1.retrainReq l.val (trainOf p) else r.1
    else s)

/-- RETRAIN_ACK: the initiator enters UP and replays every outstanding packet. Where the EXCLUDE of the acknowledgement hits its own
map, the link re-trains once more with the map that honours it. -/
def State.retrainAck (s : State) (l : Nat) (m : TrainMsg) : State :=
  if s.linkState l ≠ lkRetraining ∨ m.rtId ≠ (s.link l).rtId then s
  else
    let map := s.laneMap l 0
    let s := s.takeTrain l m
    let s := s.setLinkState l lkUp
    let x := s.link l
    let s := x.waits.foldl (fun s w => s.applied w.2.1 w.2.2.1 w.2.2.2 w.1 stOk false) s
    let x := s.link l
    let s := s.setLink l { x with
      waits := [], again := false, replay := x.out.map (fun p => p.seq),
      out := x.out.map (fun p => { p with replayed := true }) }
    if s.laneMap l 0 = map then s else s.startRetrain l

def execRetrainAck (l : LinkId) (p : Packet) (s : State) : Out :=
  .next (if s.linkState l.val = lkRetraining then
      let r := s.trainHeader l.val tcRetrainAck p
      if r.2 then r.1.retrainAck l.val (trainOf p) else r.1
    else s)

/-! ## Going down (R349 to R352) -/

def execGoingDown (l : LinkId) (p : Packet) (s : State) : Out :=
  .next (if s.isLive l.val then
      let r := s.trainHeader l.val tcGoingDown p
      if r.2 then r.1.goDown l.val 8 else r.1
    else s)

/-- RETRAIN_TIMEOUT: not out of RETRAINING within RETRAIN_FRAMES frames. -/
def execRetrainTimeout (l : LinkId) (s : State) : Out :=
  .next (if s.linkState l.val = lkRetraining ∧ s.rf (DRL_CFG l.val) DRL_CFG_RETRAIN_FRAMES ≤ (s.link l.val).frames
    then s.goDown l.val 2 else s)

/-- LOSS_OF_LIGHT: no light in every expected burst for LOL_FRAMES frames; 0 counts as 1. -/
def execLossOfLight (l : LinkId) (s : State) : Out :=
  .next (if s.isLive l.val ∧ max 1 (s.rf (DRL_CFG l.val) DRL_CFG_LOL_FRAMES) ≤ (s.link l.val).dark
    then s.goDown l.val 3 else s)

/-- DOWN_HOLD_EXPIRY: HELD ends in DOWN, or in DISABLED where EN is 0. -/
def execDownHoldExpiry (l : LinkId) (s : State) : Out :=
  .next (if s.linkState l.val = lkHeld ∧ s.rf (DRL_CFG l.val) DRL_CFG_DOWN_HOLD ≤ (s.link l.val).frames then
      s.setLinkState l.val (if s.rf (DRL_CFG l.val) DRL_CFG_EN = 1 then lkDown else lkDisabled)
    else s)

/-! ## Timers (R334, R336 to R338) -/

/-- REPLAY_TIMER: every outstanding packet is due for replay; the firings bring a re-train or take the link down. -/
def State.replayTimer (s : State) (l : Nat) : State :=
  if !s.linkUp l || s.rf (DRL_SEQ l) DRL_SEQ_OUTSTANDING == 0 then s
  else
    let lim := max 1 (s.rf (DRL_CFG l) DRL_CFG_REPLAY_LIMIT)
    let x := s.link l
    let n := x.firings + 1
    let s := (s.satf (DRL_EVENTS l) DRL_EVENTS_REPLAYS 1).satf (DRL_RTT l) DRL_RTT_REPLAYS_NOW 1
    let s := s.setLink l { x with firings := n, replay := x.out.map (fun p => p.seq) }
    if 2 * lim ≤ n then s.goDown l 1
    else if n = lim then s.startRetrain l
    else s

def execReplayTimer (l : LinkId) (s : State) : Out := .next (s.replayTimer l.val)

/-- ACK_IDLE_TIMER: one ACK_ONLY is due at the next launch. -/
def execAckIdleTimer (l : LinkId) (s : State) : Out :=
  .next (if s.isLive l.val then s.setLink l.val { s.link l.val with ackDue := true } else s)

/-! ## Packets of an UP link (R229, R333, R335, R353, R354) -/

/-- ACK_ONLY: its payload returns units of every channel (R334). -/
def State.ackOnly (s : State) (l : Nat) (p : Packet) : State :=
  if !s.isLive l then s
  else match s.dropCause l ptAckOnly p with
    | 1 => s.satf (DRL_RXERR l) DRL_RXERR_CRC_FAIL 1
    | 2 => s.satf (DRL_RXERR l) DRL_RXERR_DISCARD 1
    | 3 => s.wrongPeer l
    | _ =>
      let s := (s.resume l).useHeader l p
      if !s.linkUp l then s
      else (List.range (s.nvc l)).foldl (fun s v => s.creditReturn l v (bytesToNat ((p.payload.drop (2 * v)).take 2))) s

def execAckOnly (l : LinkId) (p : Packet) (s : State) : Out := .next (s.ackOnly l.val p)

/-- Take a sequenced packet; act on an accepted one. -/
def State.accepted (s : State) (l type : Nat) (p : Packet) (act : State → State) : State :=
  let r := s.receive l type p
  if r.2 then act r.1 else r.1

/-- SEND_DATA: to its bay; a bay that does not exist takes nothing. -/
def State.sendData (s : State) (l : Nat) (p : Packet) : State :=
  let die := getField p.w2 (bits 19 16)
  let bay := getField p.w2 (bits 23 20)
  if 12 ≤ die ∨ 12 ≤ bay then s.freePool l (Packet.vc p) (Packet.units p)
  else s.arriveBay (bayOf (die * 12 + bay)) l (Packet.vc p) (getField p.w2 (bits 15 0)) (Packet.units p) p.payload
    (if wbit p.w2 30 && wbit p.w2 24 then some (getField p.w2 (bits 29 25)) else none)

def execSendData (l : LinkId) (p : Packet) (s : State) : Out :=
  .next (s.accepted l.val ptSendData p (fun s => s.sendData l.val p))

/-- A packet for END_PKG goes on; one for this package is acted on. -/
def State.orRelay (s : State) (l : Nat) (p : Packet) (act : State → State) : State :=
  if Packet.relay p && Packet.endPkg p != s.pkg then s.passOn l p else act s

/-- A request's failure here is recorded against the link (R229). -/
def State.peerFail (s : State) (l : Nat) : MemFail → State
  | .addrFault da => s.note F_ADDR_FAULT (linkLoc l) (da / 256)
  | .readonly da => s.note F_READONLY_WRITE (linkLoc l) (da / 256)
  | .uncorrectable da => s.memFault [] da true
  | .linkDown _ => s

/-- MEM_RD: served from local memory; ue: the array finds it uncorrectable. -/
def State.memRd (s : State) (l : Nat) (p : Packet) (ue : Bool) : State :=
  let a := getField p.w2 (bits 39 0)
  let n := 32 * (getField p.w2 (bits 59 56) + 1)
  let r := s.arrayRead (if ue then [{ da := a, corrected := false }] else []) a n
  match r.2 with
  | .data bs => r.1.answer l p 0 bs
  | .addr x => (r.1.peerFail l (.addrFault x)).answer l p 1 []
  | .ue x k => (r.1.memFault [] x k).answer l p 3 []

def execMemRd (l : LinkId) (p : Packet) (ue : Bool) (s : State) : Out :=
  .next (s.accepted l.val ptMemRd p (fun s => s.orRelay l.val p (fun s => s.memRd l.val p ue)))

/-- MEM_WR: applied as a host write. -/
def State.memWr (s : State) (l : Nat) (p : Packet) : State :=
  match s.localWrite (getField p.w2 (bits 39 0)) p.payload true with
  | .ok s' => s'.answer l p 0 []
  | .error (.readonly x) => (s.peerFail l (.readonly x)).answer l p 2 []
  | .error (.uncorrectable x) => (s.peerFail l (.uncorrectable x)).answer l p 3 []
  | .error e => (s.peerFail l e).answer l p 1 []

def execMemWr (l : LinkId) (p : Packet) (s : State) : Out :=
  .next (s.accepted l.val ptMemWr p (fun s => s.orRelay l.val p (fun s => s.memWr l.val p)))

/-- MEM_CPL: to its requester, a bay's data engine or a reload. -/
def State.memCpl (s : State) (l : Nat) (p : Packet) : State :=
  let tag := getField p.w2 (bits 15 0)
  let st := getField p.w2 (bits 19 16)
  let s := match s.annexReqs.find? (fun r => r.seq == tag && r.bay == reloadReq) with
    | some q => ({ s with annexReqs := s.annexReqs.filter (fun x => x != q) } : State).reloadAnswer q st p.payload
    | none => s.annexAnswer tag st p.payload
  s.freePool l 2 (Packet.units p)

def execMemCpl (l : LinkId) (p : Packet) (s : State) : Out :=
  .next (s.accepted l.val ptMemCpl p (fun s => s.orRelay l.val p (fun s => s.memCpl l.val p)))

/-- NEIGHBOURS: the packages that the peer reaches. -/
def State.takeNeighbours (s : State) (l : Nat) (p : Packet) : State :=
  let v := bytesToNat p.payload
  let s := s.freePool l 0 (Packet.units p)
  if v % 16 ≠ 1 then s
  else (s.setLink l { s.link l with
    neighbours := (List.range (min 136 (v / 256 % 256))).map (fun i => v / 2 ^ (16 + 12 * i) % 4096) }).showRelay

def execNeighbours (l : LinkId) (p : Packet) (s : State) : Out :=
  .next (if getField p.w2 (bits 7 0) = 2 then s.accepted l.val ptLinkCtl p (fun s => s.takeNeighbours l.val p) else s)

/-! ## Link commands (Table 11-12) -/

/-- A LINK_SET value that R340 or Table 11-15 shuts out, or whose pairs another link owns. -/
def State.linkSetBad (s : State) (l : Nat) (cfg pool : Word) : Bool :=
  let n := getField cfg DRL_CFG_NVC_M1
  let pairs := getField cfg DRL_CFG_PAIRS_M1
  let p := getField pool DRL_POOL_POOL
  let en := getField cfg DRL_CFG_EN == 1
  decide (136 ≤ l) || n == 0 || p % 2048 != 0 || p == 0 || decide (32768 < p) ||
    decide (p ≤ (n + 1) * getField pool DRL_POOL_RES) ||
    getField pool DRL_POOL_CAP_PCT == 0 || decide (100 < getField pool DRL_POOL_CAP_PCT) ||
    (if l < 128 then decide (16 < l % 16 + pairs + 1) || (en && (csmLinks (l / 16)).any (fun k => k != l && s.linkNamed k &&
        (s.linkPairs k).any (fun f => decide (l % 16 ≤ f) && decide (f ≤ l % 16 + pairs))))
     else pairs != 0)

/-- The settings that may change while a link is not DISABLED. -/
def limitFields : List Field := [DRL_CFG_REPLAY_LIMIT, DRL_CFG_REPLAY_ADD]

def cfgFields : List Field :=
  [DRL_CFG_DOWN_HOLD, DRL_CFG_RETRAIN_FRAMES, DRL_CFG_LOL_FRAMES, DRL_CFG_VERSION_MAX, DRL_CFG_NVC_M1, DRL_CFG_PAIRS_M1,
   DRL_CFG_RELAY_FWD, DRL_CFG_EN]

def poolFields : List Field := [DRL_POOL_CAP_PCT, DRL_POOL_RES, DRL_POOL_POOL]

/-- LINK_SET. -/
def State.linkSet (s : State) (c : Cmd) : State :=
  let l := c.pf 0 7 0
  if s.linkSetBad l (c.p 1) (c.p 2) then s.reply c stBadParam []
  else if s.linkState l ≠ lkDisabled then
    if cfgFields.any (fun f => getField (c.p 1) f != s.rf (DRL_CFG l) f) ||
        poolFields.any (fun f => getField (c.p 2) f != s.rf (DRL_POOL l) f) then s.reply c stBusy []
    else (s.wfs (DRL_CFG l) (limitFields.map (fun f => (f, getField (c.p 1) f)))).reply c stOk []
  else
    let s := s.setReg (DRL_CFG l) (packFields ((limitFields ++ cfgFields).map (fun f => (f, getField (c.p 1) f))))
    let s := s.setReg (DRL_POOL l) (packFields (poolFields.map (fun f => (f, getField (c.p 2) f))))
    (if s.rf (DRL_CFG l) DRL_CFG_EN = 1 then s.setLinkState l lkDown else s).reply c stOk []

def execLinkSet (c : Cmd) (s : State) : Out := .next (s.command c 0x410 (fun s => s.linkSet c))

/-- A plan entry, now or pending, names a pair of a list for the link. -/
def State.planNames (s : State) (c link : Nat) (fs : List Nat) : Bool :=
  let later := Plan.after c (s.plans.flatMap (fun p => p.entries)) (s.planNow c)
  (List.range 1024).any (fun i => [s.planNow c i, later i].any (fun x =>
    entKind x != 0 && entPair x == link % 16 && fs.contains (entFibre x)))

/-- LINK_WIDTH: BUSY where a plan names a pair released, or a pair added has no delay. -/
def State.linkWidth (s : State) (c : Cmd) : State :=
  let l := c.pf 0 7 0
  let pairs := c.pf 0 10 8
  let fec := c.pf 0 11 11
  let now := s.rf (DRL_CFG l) DRL_CFG_PAIRS_M1
  let gone := (List.range (now - pairs)).map (fun i => l % 16 + pairs + 1 + i)
  let new := (List.range (pairs - now)).map (fun i => l % 16 + now + 1 + i)
  let taken := (csmLinks (l / 16)).any (fun k => k != l && s.linkNamed k && (s.linkPairs k).any (fun f => new.contains f))
  if 128 ≤ l ∨ !s.linkNamed l ∨ 16 < l % 16 + pairs + 1 ∨ taken then s.reply c stBadParam []
  else if s.planNames (l / 16) l gone ||
      new.any (fun f => s.pairOn (l / 16) f && s.rf (STR_DELAY (l / 16) f) STR_DELAY_VALID == 0) then s.reply c stBusy []
  else
    let s := match (s.link l).width with
      | some w => s.applied w.2.2.1 w.2.2.2.1 w.2.2.2.2 0x411 stOk true
      | none => s
    (s.setLink l { s.link l with width := some (pairs, fec, c.tag, originOf s c, c.ringId) }).reply c stDeferred []

def execLinkWidth (c : Cmd) (s : State) : Out := .next (s.command c 0x411 (fun s => s.linkWidth c))

/-- LINK_RETRAIN: BUSY unless the link is UP. -/
def State.linkRetrain (s : State) (c : Cmd) : State :=
  let l := c.pf 0 7 0
  if 136 ≤ l ∨ !s.linkUp l then s.reply c stBusy []
  else
    let x := s.link l
    ((s.setLink l { x with waits := x.waits ++ [(0x412, c.tag, originOf s c, c.ringId)] }).startRetrain l).reply c stDeferred []

def execLinkRetrain (c : Cmd) (s : State) : Out := .next (s.command c 0x412 (fun s => s.linkRetrain c))

/-- LINK_STATE: a request that asks for what is so changes nothing; another waits for the boundary, the last one winning. -/
def State.linkStateSet (s : State) (c : Cmd) : State :=
  let l := c.pf 0 7 0
  let on := c.pf 0 8 8 == 1
  if 136 ≤ l then s.reply c stBadParam []
  else
    let x := s.link l
    let s := match x.want with
      | some w => (s.setLink l { x with want := none }).applied w.2.1 w.2.2.1 w.2.2.2 0x413 stOk true
      | none => s
    if (s.rf (DRL_CFG l) DRL_CFG_EN == 1) == on && s.linkState l != lkHeld then s.reply c stOk []
    else (s.setLink l { s.link l with want := some (on, c.tag, originOf s c, c.ringId) }).reply c stDeferred []

def execLinkState (c : Cmd) (s : State) : Out := .next (s.command c 0x413 (fun s => s.linkStateSet c))

/-! ## At a frame boundary -/

/-- LINK_STATE takes effect: an enabled link waits in DOWN, after HELD; a disabled one goes down and ends in DISABLED. -/
def State.applyWant (s : State) (l : Nat) : State :=
  match (s.link l).want with
  | none => s
  | some (on, tag, origin, ring) =>
    let s := s.setLink l { s.link l with want := none }
    let s := s.wf (DRL_CFG l) DRL_CFG_EN (if on then 1 else 0)
    let s := if on then (if s.linkState l = lkDisabled then s.setLinkState l lkDown else s)
      else if s.linkState l = lkDown then s.setLinkState l lkDisabled
      else s.goDown l 7
    s.applied tag origin ring 0x413 stOk false

/-- LINK_WIDTH takes effect: by a re-train of an UP link, at once on another. -/
def State.applyWidth (s : State) (l : Nat) : State :=
  match (s.link l).width with
  | none => s
  | some (pairs, fec, tag, origin, ring) =>
    let x := s.link l
    if s.linkUp l then
      (s.setLink l { x with width := none, ask := some (pairs, fec), waits := x.waits ++ [(0x411, tag, origin, ring)] }).startRetrain l
    else if s.isLive l then s
    else
      let s := s.setLink l { x with width := none }
      let s := s.wf (DRL_CFG l) DRL_CFG_PAIRS_M1 pairs
      let s := (s.linkPairs l).foldl (fun s f => s.wf (CSM_PAIR (l / 16) f) CSM_PAIR_FEC fec) s
      s.applied tag origin ring 0x411 stOk false

/-- The frame counts of a link (R349, R351, R352). -/
def State.linkFrame (s : State) (l : Nat) : State :=
  let x := s.link l
  let dark := if x.lit then 0 else if x.expected || x.dark != 0 then x.dark + 1 else 0
  let s := if s.linkState l = lkDisabled then s
    else s.setLink l { x with frames := x.frames + 1, dark := dark, lit := false, expected := false }
  (s.applyWant l).applyWidth l

end Sys2Proof.Machine
end

