-- ==== Sys2Proof/Machine/Optics.lean ====
section
/-!
DEFINITION. Sys2Proof/Machine/Optics.lean: lasers, fade, Attic swaps and remaps (R261 to R276, R291, R292), ring loops (R281 to
R285), mesh elements (R286), rotating calibration (R287 to R289) and the fibre array's presence (R244).
-/

set_option Elab.async false

namespace Sys2Proof.Machine

/-! ## Attic lasers (Table 9-13) -/

def atIdle : Nat := 0
def atWaking : Nat := 1
def atTuning : Nat := 2
def atVerified : Nat := 3
def atServing : Nat := 4
def atGating : Nat := 5
def atFenced : Nat := 6

def State.attic (s : State) (c a : Nat) : Nat := s.rf (LSR_ATTIC c a) LSR_ATTIC_STATE

/-- LSR_STATUS follows the Attic lasers and the swaps (Table 9-11). -/
def State.atticShow (s : State) (c : Nat) : State :=
  let mask := fun (p : Nat → Bool) => (List.range 4).foldl (fun m a => if p (s.attic c a) then m + 2 ^ a else m) 0
  s.wfs (LSR_STATUS c) [(LSR_STATUS_ATTIC_BUSY, mask (fun x => x != atIdle)), (LSR_STATUS_ATTIC_FENCED, mask (fun x => x == atFenced)),
    (LSR_STATUS_PEND_CH, match (s.csm c).swaps with | w :: _ => w.chan | [] => 0x1F)]

def State.setAttic (s : State) (c a st : Nat) : State := (s.wf (LSR_ATTIC c a) LSR_ATTIC_STATE st).atticShow c

/-- The lowest Attic laser in IDLE that is not disabled; none also where ATTIC_EN is 0. -/
def State.freeAttic (s : State) (c : Nat) : Option Nat :=
  if s.rf (LSR_CFG c) LSR_CFG_ATTIC_EN = 0 then none
  else (List.range 4).find? (fun a => s.attic c a == atIdle && !(s.csm c).atticOff.contains a)

/-- The laser that serves channel k: 0 to 17 a grid laser, 18 to 21 an Attic laser. -/
def State.serving (s : State) (c k : Nat) : Nat :=
  let src := s.rf (LSR_GRID c k) LSR_GRID_SOURCE
  if src < 4 then k else 18 + (src - 4)

/-! ## SWAP (R269, R275) -/

/-- The spare-channel remap of channel k (R275). -/
def State.spareRemap (s : State) (c k : Nat) : State :=
  if s.rf (LSR_CFG c) LSR_CFG_SPARE_EN = 0 then s
  else match s.spareFor c with
    | none => s
    | some j =>
      let epoch := frameAdd s.frame (s.epochLead c)
      let s := s.setChan c k chPending
      ((csmLinks c).foldl (fun s l => s.planMap l (moveChan (s.nextMap l 0) k j) epoch) s).remapsDone c

/-- Bring up Attic laser a for channel k (R269 step 1). -/
def State.wakeAttic (s : State) (c k a : Nat) : State :=
  let s := s.setCsm c { s.csm c with swaps := (s.csm c).swaps ++ [{ chan := k, attic := a, stage := 0 }] }
  (s.wfs (LSR_ATTIC c a) [(LSR_ATTIC_CHANNEL, k), (LSR_ATTIC_VERIFY_FAILS, 0)]).setAttic c a atWaking

/-- What a SWAP crossing does: an Attic swap, else the remap. -/
def State.swapAction (s : State) (c k : Nat) : State :=
  if s.chan c k ≠ chLit ∧ s.chan c k ≠ chAttic then s
  else match s.freeAttic c with
    | some a => (s.setChan c k chPending).wakeAttic c k a
    | none => s.spareRemap c k

/-- The swap of a channel goes on with the next Attic laser, or else with the remap (R270). -/
def State.nextAttic (s : State) (c k : Nat) : State :=
  match s.freeAttic c with
  | some a => s.wakeAttic c k a
  | none => if s.chan c k = chPending then
      (s.setChan c k (if s.rf (LSR_GRID c k) LSR_GRID_SOURCE < 4 then chLit else chAttic)).spareRemap c k
    else s

/-- The swap with Attic laser a leaves the list. -/
def State.endSwap (s : State) (c a : Nat) : State :=
  s.setCsm c { s.csm c with swaps := (s.csm c).swaps.filter (fun w => w.attic != a) }

def State.swapOf (s : State) (c a : Nat) : Option Swap := (s.csm c).swaps.find? (fun w => w.attic == a)

def State.setStage (s : State) (c a n : Nat) : State :=
  s.setCsm c { s.csm c with swaps := (s.csm c).swaps.map (fun w => if w.attic = a then { w with stage := n } else w) }

/-! ## FLOOR (R276) -/

/-- Attic laser a is out of use for good. -/
def State.fenceAttic (s : State) (c a : Nat) : State :=
  let fs := s.nv.atticsFenced
  ({ s with nv := { s.nv with atticsFenced := if fs.contains (c, a) then fs else fs ++ [(c, a)] } } : State).setAttic c a atFenced

/-- What a FLOOR crossing does: the laser is off at once and every lane on the channel is lost. -/
def State.floorAction (s : State) (c k : Nat) : State :=
  if !s.chanLit c k then s
  else
    let n := s.serving c k
    let s := s.setChan c k chDown
    let s := if n < 18 then s else s.fenceAttic c (n - 18)
    (s.note F_LASER_FLOOR (laserLoc c k) k).failTx c k

/-! ## Fade (R266 to R268) -/

/-- The thresholds of a Casement: WARN, SWAP, FLOOR. -/
def State.fadeLimits (s : State) (c : Nat) : List Int :=
  [s.rfs (LSR_CFG c) LSR_CFG_WARN_DB, s.rfs (LSR_CFG c) LSR_CFG_SWAP_DB, s.rfs (LSR_CFG c) LSR_CFG_FLOOR_DB]

/-- A crossing of threshold i on channel k: its sticky bit and notice, then its action. -/
def State.fadeCross (s : State) (c k i : Nat) : State :=
  let f := match i with | 0 => LSR_GRID_WARN_X | 1 => LSR_GRID_SWAP_X | _ => LSR_GRID_FLOOR_X
  let s := if s.rf (LSR_GRID c k) f = 0 then
      (s.wf (LSR_GRID c k) f 1).hostEvent 0x0060 [packFields [(bits 2 0, c), (bits 7 3, k), (bits 9 8, i)]]
    else s
  match i with
  | 0 => s
  | 1 => s.swapAction c k
  | _ => s.floorAction c k

/-- Thresholds of channel k that are crossed now and were not with an earlier fade and earlier thresholds. -/
def State.crossed (s : State) (c k : Nat) (fade : Int) (old : List Int) : List Nat :=
  (List.range 3).filter (fun i =>
    decide (s.rfs (LSR_GRID c k) LSR_GRID_FADE ≤ (s.fadeLimits c).getD i 0) && !decide (fade ≤ old.getD i 0))

/-- Commissioned output that laser n is held to: an Attic laser that serves channel k is set to that of grid laser k. -/
def State.commOf (s : State) (c n : Nat) : Nat :=
  if 18 ≤ n ∧ n < 22 ∧ s.attic c (n - 18) = atServing then
    s.rf (LSR_COMM c (s.rf (LSR_ATTIC c (n - 18)) LSR_ATTIC_CHANNEL)) LSR_COMM_COMM_PWR
  else s.rf (LSR_COMM c n) LSR_COMM_COMM_PWR

/-- FADE of a reading; open where the laser was never commissioned. -/
def State.fadeOf (s : State) (c : Nat) (r : LaserReading) : Int × State :=
  if !r.atLimit then (0, s)
  else
    let comm := s.commOf c r.laser.val
    if comm = 0x8000 then
      let (w, s) := s.draw
      (getSigned w (bits 15 0), s)
    else (r.output - (if comm < 0x8000 then (comm : Int) else (comm : Int) - 0x10000), s)

/-- Note a reading in the registers of its laser, and of the channel it serves. -/
def State.noteReading (s : State) (c : Nat) (r : LaserReading) : State :=
  let n := r.laser.val
  let p := s.fadeOf c r
  let s := p.2
  let f := toCode 16 p.1
  let o := toCode 16 r.output
  let x := s.csm c
  let s := s.setCsm c { x with
    atLimit := x.atLimit.filter (fun y => y != n) ++ (if r.atLimit then [n] else []) }
  let chan := fun (s : State) (k : Nat) => s.wfs (LSR_GRID c k) [(LSR_GRID_FADE, f), (LSR_GRID_OUT_PWR, o), (LSR_GRID_BIAS, r.bias)]
  if n < 18 then (if s.chanLit c n && s.serving c n == n then chan s n else s)
  else if n < 22 then
    let k := s.rf (LSR_ATTIC c (n - 18)) LSR_ATTIC_CHANNEL
    let s := s.wfs (LSR_ATTIC c (n - 18)) [(LSR_ATTIC_FADE, f), (LSR_ATTIC_OUT_PWR, o)]
    if k < 18 && s.chanLit c k && s.serving c k == n then chan s k else s
  else s.wfs (LSR_CARRIER c (n - 22)) [(LSR_CARRIER_FADE, f), (LSR_CARRIER_OUT_PWR, o)]

/-! ## Carriers (Table 9-14, R381) -/

def crOff : Nat := 0
def crStandby : Nat := 1
def crActive : Nat := 2
def crGating : Nat := 3
def crFenced : Nat := 4

def State.carrier (s : State) (c i : Nat) : Nat := s.rf (LSR_CARRIER c i) LSR_CARRIER_STATE
def State.setCarrier (s : State) (c i st : Nat) : State := s.wf (LSR_CARRIER c i) LSR_CARRIER_STATE st

/-- The active carrier is past SWAP: the spare one turns on (R381). -/
def State.wakeSpareCarrier (s : State) (c i : Nat) : State :=
  let j := 1 - i
  if s.carrier c i = crActive ∧ s.rfs (LSR_CARRIER c i) LSR_CARRIER_FADE ≤ s.rfs (LSR_CFG c) LSR_CFG_SWAP_DB ∧
      s.carrier c j = crOff ∧ (s.powerJob (laserLoc c (22 + j))).isNone then
    s.setJob (runJob (laserLoc c (22 + j)) true)
  else s

/-- FADE_MEASUREMENT: at a boundary whose frame counter is a multiple of 250, every lit laser is measured; then the channels
are compared, the lowest first. -/
def State.fadeMeasure (s : State) (c : Nat) (rs : List LaserReading) : State :=
  if s.mode = .off ∨ s.frame % 250 ≠ 0 then s
  else
    let old := (List.range 18).map (fun k => s.rfs (LSR_GRID c k) LSR_GRID_FADE)
    let lims := s.fadeLimits c
    let s := rs.foldl (fun s r => s.noteReading c r) s
    let s := (List.range 18).foldl (fun s k =>
      if s.chanLit c k then (s.crossed c k (old.getD k 0) lims).foldl (fun s i => s.fadeCross c k i) s else s) s
    (s.wakeSpareCarrier c 0).wakeSpareCarrier c 1

def execFadeMeasurement (c : Casement) (rs : List LaserReading) (s : State) : Out := .next (s.fadeMeasure c.val rs)

/-! ## The steps of a swap (R269 to R274) -/

/-- ATTIC_AT_OUTPUT: step 1 ends and the sweep starts. -/
def execAtticAtOutput (c : Casement) (a : Fin 4) (s : State) : Out :=
  .next (match s.swapOf c.val a.val with
    | some w => if w.stage = 0 then (s.setStage c.val a.val 1).setAttic c.val a.val atTuning else s
    | none => s)

/-- ATTIC_SWEEP_STOP: locker ring k drops the probe tone; the verification window starts. -/
def execAtticSweepStop (c : Casement) (a : Fin 4) (s : State) : Out :=
  .next (match s.swapOf c.val a.val with
    | some w => if w.stage = 1 then s.setStage c.val a.val 2 else s
    | none => s)

/-- ATTIC_VERIFY_END: the probe tones that locker ring k reports; it passes with that of this laser alone. -/
def State.atticVerify (s : State) (c a : Nat) (tones : List Nat) : State :=
  match s.swapOf c a with
  | none => s
  | some w =>
    if w.stage ≠ 2 then s
    else if tones != [] && tones.all (fun t => t == a) then
      ((s.setStage c a 3).wf (LSR_ATTIC c a) LSR_ATTIC_VERIFY_FAILS 0).setAttic c a atVerified
    else
      let n := s.rf (LSR_ATTIC c a) LSR_ATTIC_VERIFY_FAILS + 1
      let s := s.wf (LSR_ATTIC c a) LSR_ATTIC_VERIFY_FAILS n
      if n < 3 then s.setStage c a 1
      else (((s.endSwap c a).fenceAttic c a).raise F_ATTIC_VERIFY (laserLoc c (18 + a)) 0).nextAttic c w.chan

def execAtticVerifyEnd (c : Casement) (a : Fin 4) (tones : List (Fin 4)) (s : State) : Out :=
  .next (s.atticVerify c.val a.val (tones.map (fun t => t.val)))

/-- ATTIC_MATCHED: step 4 ends; the swap awaits the next hall slot. -/
def execAtticMatched (c : Casement) (a : Fin 4) (s : State) : Out :=
  .next (match s.swapOf c.val a.val with
    | some w => if w.stage = 3 then
        (s.setStage c.val a.val 4).wf (LSR_ATTIC c.val a.val) LSR_ATTIC_OUT_PWR (s.rf (LSR_COMM c.val w.chan) LSR_COMM_COMM_PWR)
      else s
    | none => s)

/-- The swap of the lowest channel that is ready. -/
def lowestReady (ws : List Swap) : Option Swap :=
  (ws.filter (fun w => w.stage == 4)).foldl (fun acc w => match acc with
    | none => some w
    | some v => if w.chan < v.chan then some w else some v) none

/-- Grid laser k is retired and Attic laser a assigned to its channel, in the NV store (R273). -/
def State.retireGrid (s : State) (c k a : Nat) : State :=
  let s := if s.nv.grids.contains (c, k) then s else s.recordRetired 4 (laserLoc c k) F_ATTIC_VERIFY
  { s with nv := { s.nv with
      grids := if s.nv.grids.contains (c, k) then s.nv.grids else s.nv.grids ++ [(c, k)],
      attics := s.nv.attics.filter (fun e => !(e.1 == c && e.2.1 == k)) ++ [(c, k, a)] } }

/-- The lanes of a channel that was down come back by a width change (R276). -/
def State.relight (s : State) (c k : Nat) : State :=
  (csmLinks c).foldl (fun s l =>
    if (s.link l).exclTx.getLsbD k then s else s.changeMap l (restoreMap (s.laneMap l 0) k)) s

/-- ATTIC_SWITCH_IN: in the guard of a hall slot one swap takes effect. -/
def State.switchIn (s : State) (c : Nat) : State :=
  match lowestReady (s.csm c).swaps with
  | none => s
  | some w =>
    let k := w.chan
    let was := s.chan c k
    let n := s.serving c k
    let s := s.endSwap c w.attic
    let s := s.wfs (LSR_GRID c k) [(LSR_GRID_SOURCE, 4 + w.attic), (LSR_GRID_STATE, chAttic), (LSR_GRID_FADE, 0),
      (LSR_GRID_OUT_PWR, s.rf (LSR_ATTIC c w.attic) LSR_ATTIC_OUT_PWR)]
    let s := (s.wfs (LSR_ATTIC c w.attic) [(LSR_ATTIC_CHANNEL, k), (LSR_ATTIC_FADE, 0)]).setAttic c w.attic atServing
    let s := s.satf (LSR_STATUS c) LSR_STATUS_SWAP_COUNT 1
    if was = chDown then (s.retireGrid c k w.attic).relight c k
    else
      let s := s.setCsm c { s.csm c with dark := some k }
      if n < 18 then s.rampDown c k
      else ((s.retireGrid c k w.attic).setAttic c (n - 18) atGating).rampDown c n

def execAtticSwitchIn (c : Casement) (s : State) : Out := .next (s.switchIn c.val)

/-! ## Switching lasers (R291, R292, R463) -/

/-- Laser n gives light now. -/
def State.laserOn (s : State) (c n : Nat) : Bool :=
  if n < 18 then s.chanLit c n && s.serving c n == n
  else if n < 22 then !(s.csm c).atticOff.contains (n - 18)
  else s.carrier c (n - 22) == crStandby || s.carrier c (n - 22) == crActive

/-- An Attic laser in the middle of a swap is taken out of it. -/
def State.dropAttic (s : State) (c a : Nat) : State :=
  match s.swapOf c a with
  | some w => ((s.endSwap c a).setAttic c a atGating).nextAttic c w.chan
  | none => s

/-- Begin to switch laser n; cmd: the command whose APPLIED follows. The Bool says that it takes time. -/
def State.beginLaser (s : State) (c n : Nat) (on : Bool) (cmd : Option (Nat × Nat × Nat × Nat)) : State × Bool :=
  let job := fun (s : State) => s.setJob { runJob (laserLoc c n) on with cmd := cmd }
  if 18 ≤ n ∧ n < 22 then
    let a := n - 18
    let x := s.csm c
    if on then (s.setCsm c { x with atticOff := x.atticOff.filter (fun y => y != a) }, false)
    else
      let s := s.setCsm c { x with atticOff := x.atticOff ++ [a] }
      if (s.swapOf c a).isSome then (job (s.dropAttic c a), true) else (s, false)
  else if on then (job s, true)
  else if n < 18 then (job ((s.setChan c n chOff).failTx c n), true)
  else (job (s.setCarrier c (n - 22) crGating), true)

/-- Answer the APPLIED of a command that a change completes or replaces. -/
def State.appliedTo (s : State) (cmd : Option (Nat × Nat × Nat × Nat)) (superseded : Bool) : State :=
  match cmd with
  | some (op, tag, origin, ring) => s.applied tag origin ring op stOk superseded
  | none => s

/-- A request that arrives while the change of a unit runs: it replaces the one that waits, and runs after it. -/
def State.deferJob (s : State) (j : PowerJob) (on : Bool) (cmd : Option (Nat × Nat × Nat × Nat)) : State :=
  (s.appliedTo j.nextCmd true).setJob { j with next := some on, nextCmd := cmd }

/-- A request to switch laser n; the Bool says that its effect comes later. -/
def State.laserReq (s : State) (c n : Nat) (on : Bool) (cmd : Option (Nat × Nat × Nat × Nat)) : State × Bool :=
  match s.powerJob (laserLoc c n) with
  | some j => (s.deferJob j on cmd, true)
  | none => if s.laserOn c n == on then (s, false) else s.beginLaser c n on cmd

/-- A laser's change has completed: APPLIED, then the request that came meanwhile. -/
def State.endLaser (s : State) (c n : Nat) (j : PowerJob) : State :=
  let s := (s.dropJob j.unit).appliedTo j.cmd false
  match j.next with
  | none => s
  | some on =>
    if on = j.on then s.appliedTo j.nextCmd false
    else
      let r := s.beginLaser c n on j.nextCmd
      if r.2 then r.1 else r.1.appliedTo j.nextCmd false

/-- LASER_RAMP_DOWN_COMPLETE: a replaced laser is dark and recorded as retired; one switched off by a command may come back. -/
def State.rampEnd (s : State) (c n : Nat) : State :=
  match s.powerJob (laserLoc c n) with
  | none => s
  | some j =>
    if j.on then s
    else
      let s :=
        if n < 18 then (if 4 ≤ s.rf (LSR_GRID c n) LSR_GRID_SOURCE then s.retireGrid c n (s.serving c n - 18) else s)
        else if n < 22 then
          let s := s.wf (LSR_ATTIC c (n - 18)) LSR_ATTIC_CHANNEL 0x1F
          if j.cmd.isSome then s.setAttic c (n - 18) atIdle else s.fenceAttic c (n - 18)
        else if j.cmd.isSome then s.setCarrier c (n - 22) crOff
        else ({ s with nv := { s.nv with grids := s.nv.grids ++ [(c, n)] } } : State).setCarrier c (n - 22) crFenced
      s.endLaser c n j

def execLaserRampDownComplete (c : Casement) (n : Laser) (s : State) : Out := .next (s.rampEnd c.val n.val)

/-- LASER_TURN_ON_COMPLETE: 200 ms after its enable a grid laser or a carrier is lit and locked. -/
def State.turnOnEnd (s : State) (c n : Nat) : State :=
  match s.powerJob (laserLoc c n) with
  | none => s
  | some j =>
    if !j.on then s
    else
      let s := if n < 18 then (if s.chan c n = chOff then (s.setChan c n chLit).returnTx c n else s)
        else if 22 ≤ n then s.setCarrier c (n - 22) crStandby
        else s
      s.endLaser c n j

def execLaserTurnOnComplete (c : Casement) (n : Laser) (s : State) : Out := .next (s.turnOnEnd c.val n.val)

/-! ## Ring loops (R281 to R285) -/

/-- A spare channel, or none, takes the lanes of channel k at one epoch (R283). -/
def State.vacateTx (s : State) (c k : Nat) : State :=
  let j := (s.spareFor c).getD 0x1F
  (csmLinks c).foldl (fun s l => if (s.nextMap l 0).contains k then s.planSoon l (moveChan (s.nextMap l 0) k j) else s) s

/-- The authors are asked to leave channel k for good. -/
def State.excludeRx (s : State) (c k : Nat) : State :=
  (csmLinks c).foldl (fun s l =>
    let x := s.link l
    (s.setLink l { x with exclRx := x.exclRx ||| BitVec.ofNat 18 (2 ^ k) }).askLane l lmExclude k) s

/-- A ring is retired (R283). -/
def State.retireRing (s : State) (c r : Nat) : State :=
  let s := s.wfs (ringReg c r) [(TUN_RING_STATE, rgRetired), (TUN_RING_ATTEMPT, 0), (TUN_RING_HEATER, 0)]
  let s := ({ s with nv := { s.nv with rings := s.nv.rings ++ [(c, r)] } } : State).recordRetired 5 (ringLoc c r) F_RING_RETIRED
  let s := s.raise F_RING_RETIRED (ringLoc c r) 0
  if ringKind r = 0 then s.vacateTx c (ringChan r)
  else if ringKind r = 1 then s.excludeRx c (ringChan r)
  else s.floorAction c (ringChan r)

/-- A MISLOCK: XCOUNT is corrected by d, and the ring sweeps again, or is retired at the third in a row (R282). -/
def State.mislock (s : State) (c r : Nat) (d : Int) : State :=
  let a := ringReg c r
  let n := s.rf a TUN_RING_ATTEMPT + 1
  let s := s.satf a TUN_RING_MISLOCKS 1
  let s := s.wfs a [(TUN_RING_XCOUNT, toCode 8 ((s.rf a TUN_RING_XCOUNT : Int) + d)), (TUN_RING_STATE, rgCold), (TUN_RING_HEATER, 0)]
  if 3 ≤ n then s.retireRing c r else s.wf a TUN_RING_ATTEMPT n

/-- RING_COLD_END. -/
def execRingColdEnd (c : Casement) (r : RingLoop) (s : State) : Out :=
  .next (if s.ring c.val r.val = rgCold then s.setRing c.val r.val rgSweep else s)

/-- RING_SWEEP_CAPTURE: the resonance at crossing XCOUNT is captured, or the heater limit comes first. -/
def execRingSweepCapture (c : Casement) (r : RingLoop) (captured : Bool) (heater : BitVec 16) (s : State) : Out :=
  .next (if s.ring c.val r.val ≠ rgSweep then s
    else if captured then (s.wf (ringReg c.val r.val) TUN_RING_HEATER heater.toNat).setRing c.val r.val rgVerify
    else s.mislock c.val r.val 1)

/-- Channel k of a direction is usable: no ring of it is out of lock. -/
def State.ringsHold (s : State) (c dir k : Nat) : Bool :=
  (List.range 8).all (fun e => let st := s.ring c (144 * dir + 18 * e + k); st == rgLocked || st == rgCal || !s.engineUp c dir e)

/-- A verified lock: its crossing count is kept, and its channel comes back into use (R284). -/
def State.locked (s : State) (c r : Nat) : State :=
  let a := ringReg c r
  let k := ringChan r
  let s := s.wfs a [(TUN_RING_STATE, rgLocked), (TUN_RING_ATTEMPT, 0)]
  let s := { s with nv := { s.nv with
    xcounts := sparseSet (fun _ => (0 : BitVec 8)) s.nv.xcounts (512 * c + r) (BitVec.ofNat 8 (s.rf a TUN_RING_XCOUNT)) } }
  if ringKind r = 0 ∧ s.ringsHold c 0 k then s.returnTx c k
  else if ringKind r = 1 ∧ s.ringsHold c 1 k then s.returnRx c k
  else s

/-- RING_VERIFY_END: the tone found in the window. -/
def State.ringVerify (s : State) (c r : Nat) (tone : Option Nat) : State :=
  if s.ring c r ≠ rgVerify then s
  else
    let s := match tone with | some j => s.wf (ringReg c r) TUN_RING_TONE_CH j | none => s
    match tone with
    | none => s.mislock c r 1
    | some j => if j = ringChan r then s.locked c r else s.mislock c r ((j : Int) - ringChan r)

def execRingVerifyEnd (c : Casement) (r : RingLoop) (tone : Option Channel) (s : State) : Out :=
  .next (s.ringVerify c.val r.val (tone.map (fun t => t.val)))

/-- A lane failure by a ring out of lock: the lane leaves its channel by a width change, and the ring starts from COLD. A locker ring
carries no lane. -/
def State.loseLock (s : State) (c r : Nat) : State :=
  let s := (s.setRing c r rgCold).note F_LANE_LOCK_LOSS (ringLoc c r) 0
  if ringKind r = 0 then s.failTx c (ringChan r)
  else if ringKind r = 1 then s.failRx c (ringChan r)
  else s

/-- LOSS_OF_LOCK: ten corrections outside the limit. -/
def execLossOfLock (c : Casement) (r : RingLoop) (s : State) : Out :=
  .next (if s.ring c.val r.val = rgLocked then s.loseLock c.val r.val else s)

/-- The next LOCKED ring at or after position p, in ring order. -/
def State.auditNext (s : State) (c p : Nat) : Option Nat :=
  ((List.range 306).map (fun i => (p + i) % 306)).find? (fun r => s.ring c r == rgLocked)

/-- TONE_AUDIT: at the end of a tone window one LOCKED ring has its tone checked. -/
def State.toneAudit (s : State) (c : Nat) (tone : Option Nat) : State :=
  if s.frame % 250 ≠ 0 then s
  else match s.auditNext c (s.csm c).auditRing with
    | none => s
    | some r =>
      let s := s.setCsm c { s.csm c with auditRing := (r + 1) % 306 }
      let s := match tone with | some j => s.wf (ringReg c r) TUN_RING_TONE_CH j | none => s
      if tone = some (ringChan r) then s else s.loseLock c r

def execToneAudit (c : Casement) (tone : Option Channel) (s : State) : Out := .next (s.toneAudit c.val (tone.map (fun t => t.val)))

/-! ## Mesh elements (R246, R286, Table 8-4) -/

/-- What the tree of mesh element m serves: an engine or a fibre, and its number. -/
def meshServes (rx : Bool) (m : Nat) : Bool × Nat :=
  if rx then (if m < 112 then (false, m / 7) else (true, (m - 112) / 15))
  else if m < 120 then (true, m / 15) else (false, (m - 120) / 7)

/-- Every engine of a Casement is fenced: it is lost (Table 16-4). -/
def State.casementCheck (s : State) (c : Nat) : State :=
  if 16 ≤ (s.csm c).meshEng.length ∧ !s.fences.any (fun f => f.1 == locCasement c) then s.raise F_CASEMENT_LOST (locCasement c) 0 else s

/-- MESH_FAULT: an element enters FAULT; its engine or its fibre is fenced in that direction. -/
def State.meshFail (s : State) (c : Nat) (rx : Bool) (m : Nat) : State :=
  let dir := if rx then 1 else 0
  let reg := if rx then TUN_RXMESH c m else TUN_TXMESH c m
  if s.rf reg TUN_TXMESH_STATE = 3 then s
  else
    let s := s.wf reg TUN_TXMESH_STATE 3
    let t := meshServes rx m
    let x := s.csm c
    if t.1 then
      let i := 8 * dir + t.2
      if x.meshEng.contains i then s
      else
        let s := s.setCsm c { x with meshEng := x.meshEng ++ [i] }
        let s := s.wf (CSM_STATUS c) { lo := 8 + i, width := 1 } 0
        (s.raise F_MESH_FAULT (locOptical c 4 dir t.2 0 0) 0).casementCheck c
    else
      let i := 16 * dir + t.2
      let s := s.setCsm c { x with meshFib := if x.meshFib.contains i then x.meshFib else x.meshFib ++ [i] }
      s.raise F_MESH_FAULT (locOptical c 1 dir 0x10 0 m) ((s.pairLink c t.2).getD (16 * c + t.2))

def execMeshFault (c : Casement) (rx : Bool) (m : Fin 232) (s : State) : Out := .next (s.meshFail c.val rx m.val)

/-! ## Rotating calibration (R287 to R289) -/

/-- The rotation runs: CAL_EN, and no link of the Casement speaks Dararn 1 (R280). -/
def State.calRuns (s : State) (c : Nat) : Bool :=
  s.rf (TUN_CFG c) TUN_CFG_CAL_EN == 1 && !(csmLinks c).any (fun l => s.linkNamed l && s.isD1 l)

/-- The ring that is due, and the rotation after it: one moved to the front, else the next in order. -/
def State.calNext (s : State) (c : Nat) : Nat × State :=
  let x := s.csm c
  match x.calFirst with
  | r :: rest => (r, s.setCsm c { x with calFirst := rest })
  | [] =>
    let s := s.setCsm c { x with calPos := (x.calPos + 1) % 288 }
    (x.calPos, if x.calPos = 287 then s.addf (TUN_CAL c) TUN_CAL_ROTATIONS 1 else s)

/-- The lanes of live links that use channel k in a direction: link and lane. -/
def State.lanesOn (s : State) (c dir k : Nat) : List (Nat × Nat) :=
  (csmLinks c).filterMap (fun l =>
    if s.isLive l then ((s.nextMap l dir).findIdx? (fun x => x == k)).map (fun i => (l, i)) else none)

/-- Start the calibration of ring r (R287, R288). -/
def State.calBegin (s : State) (c r : Nat) : State :=
  let dir := ringKind r
  let k := ringChan r
  let skip := fun (s : State) => s.satf (TUN_CAL c) TUN_CAL_SKIPPED 1
  let set := fun (s : State) (ph : CalPhase) (mv : List (Nat × Nat)) =>
    (s.setCsm c { s.csm c with calPhase := ph, moved := mv }).wf (TUN_CAL c) TUN_CAL_BUSY 1
  if !s.engineUp c dir (ringEngine r) || s.ring c r != rgLocked then skip s
  else if !s.chanUsed c dir k then (set s .cal []).setRing c r rgCal
  else
    let lanes := s.lanesOn c dir k
    if dir = 0 then
      match s.spareFor c with
      | none => skip s
      | some j =>
        let epoch := frameAdd s.frame (s.epochLead c)
        set (lanes.foldl (fun s p => s.planMap p.1 (moveChan (s.nextMap p.1 0) k j) epoch) s) (.vacating s.frame) lanes
    else set (lanes.foldl (fun s p => s.askLane p.1 lmVacate k) s) (.vacating s.frame) lanes

/-- CAL_START. -/
def State.calStart (s : State) (c : Nat) : State :=
  let x := s.csm c
  if !s.calRuns c || x.calPhase != .idle || !frameReached s.frame x.calDue then s
  else
    let s := s.setCsm c { x with calDue := frameAdd s.frame (s.rf (TUN_CFG c) TUN_CFG_CAL_INTERVAL) }
    let p := s.calNext c
    (p.2.wf (TUN_CAL c) TUN_CAL_RING p.1).calBegin c p.1

def execCalStart (c : Casement) (s : State) : Out := .next (s.calStart c.val)

/-- DEGRADED of the lanes that a drop ring carries ends with its calibration. -/
def State.undegrade (s : State) (c r : Nat) : State :=
  let e := ringEngine r
  let k := ringChan r
  if ringKind r ≠ 1 then s
  else
    let ls := [2 * e, 2 * e + 1].filterMap (s.pairLink c)
    (List.range 16).foldl (fun s i =>
      if i = k ∨ ls.any (fun l => (s.laneMap l 1).getD i 0x1F == k) then s.wf (CSM_RXLANE c (e * 16 + i)) CSM_RXLANE_DEGRADED 0 else s) s

/-- The lanes that left ring r's channel go back, from the next frame boundary on (R288). -/
def State.calReturn (s : State) (c r : Nat) : State :=
  let epoch := frameAdd (frameAdd s.frame 1) (s.epochLead c)
  let k := ringChan r
  let s := (s.csm c).moved.foldl (fun s p =>
    if ringKind r = 1 then s.askLane p.1 lmRestore k
    else s.planMap p.1 ((s.nextMap p.1 0).set p.2 k) epoch) s
  s.setCsm c { s.csm c with moved := [] }

/-- CAL_DONE: within 50 µs; a ring that does not reach its targets has lost its lock. -/
def State.calDone (s : State) (c : Nat) (onTarget : Bool) : State :=
  if (s.csm c).calPhase ≠ .cal then s
  else
    let r := s.rf (TUN_CAL c) TUN_CAL_RING
    let s := (s.setCsm c { s.csm c with calPhase := .idle }).wf (TUN_CAL c) TUN_CAL_BUSY 0
    if onTarget then ((s.setRing c r rgLocked).undegrade c r).calReturn c r
    else (s.setCsm c { s.csm c with moved := [] }).loseLock c r

def execCalDone (c : Casement) (onTarget : Bool) (s : State) : Out := .next (s.calDone c.val onTarget)

/-- CAL_TIMEOUT: an author's notice has not come in time. -/
def State.calTimeout (s : State) (c : Nat) : State :=
  match (s.csm c).calPhase with
  | .vacating since => if s.framesSince since < s.rf (TUN_CFG c) TUN_CFG_CAL_TIMEOUT then s else s.skipCal c []
  | _ => s

def execCalTimeout (c : Casement) (s : State) : Out := .next (s.calTimeout c.val)

/-! ## The fibre array (R244) -/

/-- FA_PRESENCE_OPEN: the lanes go dark and the links go down; a further opening before the array is stable is the same removal. -/
def State.faOpen (s : State) (c : Nat) : State :=
  let s := (s.wf (CSM_FA c) CSM_FA_PRESENT 0).wf (CSM_STATUS c) CSM_STATUS_FA_PRESENT 0
  let s := s.setCsm c { s.csm c with faStable := false }
  if s.rf (CSM_FA c) CSM_FA_DARK = 1 then s
  else
    let s := (s.wf (CSM_FA c) CSM_FA_DARK 1).satf (CSM_FA c) CSM_FA_REMOVALS 1
    let s := s.note F_FA_REMOVED (locCasement c) 0
    (csmLinks c).foldl (fun s l => s.goDown l 4) s

def execFaPresenceOpen (c : Casement) (s : State) : Out := .next (if s.mode = .off then s else s.faOpen c.val)

/-- FA_PRESENCE_STABLE: the contact has been closed for 1 s; DARK clears at the next boundary. -/
def execFaPresenceStable (c : Casement) (s : State) : Out :=
  .next (if s.mode = .off then s else
    ((s.wf (CSM_FA c.val) CSM_FA_PRESENT 1).wf (CSM_STATUS c.val) CSM_STATUS_FA_PRESENT 1).setCsm c.val
      { s.csm c.val with faStable := true })

/-- At a frame boundary an array that is stable carries light again. -/
def State.faFrame (s : State) (c : Nat) : State :=
  if (s.csm c).faStable then (s.wf (CSM_FA c) CSM_FA_DARK 0).setCsm c { s.csm c with faStable := false } else s

/-! ## Laser and calibration commands (Table 9-8) -/

def optCsm (c : Cmd) : Nat := c.pf 0 2 0
def optLaser (c : Cmd) : Nat := c.pf 0 12 8

/-- A command as a change keeps it for its APPLIED. -/
def cmdKey (s : State) (c : Cmd) : Option (Nat × Nat × Nat × Nat) := some (c.opcode, c.tag, originOf s c, c.ringId)

/-- LASER_SET. -/
def State.laserSet (s : State) (c : Cmd) : State :=
  let m := optCsm c
  let n := optLaser c
  let on := c.pf 0 13 13 == 1
  if n < 18 ∨ 24 ≤ n then s.reply c stBadParam []
  else
    let used := if n < 22 then s.attic m (n - 18) == atServing else s.carrier m (n - 22) == crActive
    let gone := if n < 22 then s.attic m (n - 18) == atFenced else s.carrier m (n - 22) == crFenced
    if gone then s.reply c stBadParam []
    else if used then s.reply c stBusy []
    else
      let r := s.laserReq m n on (cmdKey s c)
      r.1.reply c (if r.2 then stDeferred else stOk) []

def execLaserSet (c : Cmd) (s : State) : Out := .next (s.command c 0x420 (fun s => s.laserSet c))

/-- LASER_SWAP: as though SWAP had been crossed. -/
def State.laserSwap (s : State) (c : Cmd) : State :=
  let m := optCsm c
  let k := optLaser c
  if 18 ≤ k then s.reply c stBadParam []
  else
    let lit := s.chan m k == chLit || s.chan m k == chAttic
    let spare := s.rf (LSR_CFG m) LSR_CFG_SPARE_EN == 1 && (match s.spareFor m with | some j => j != k | none => false)
    if !lit || !((s.freeAttic m).isSome || spare) then s.reply c stBusy []
    else (s.fadeCross m k 1).reply c stOk []

def execLaserSwap (c : Cmd) (s : State) : Out := .next (s.command c 0x421 (fun s => s.laserSwap c))

/-- Record an output as commissioned. -/
def State.setComm (s : State) (c n v : Nat) : State :=
  ({ s with nv := { s.nv with comm := sparseSet (fun _ => (0x8000 : BitVec 16)) s.nv.comm (32 * c + n) (BitVec.ofNat 16 v) } } : State).wf
    (LSR_COMM c n) LSR_COMM_COMM_PWR v

/-- LASER_COMMISSION; BUSY while a swap is in progress. -/
def State.laserCommission (s : State) (c : Cmd) : State :=
  let m := optCsm c
  if (s.csm m).swaps != [] then s.reply c stBusy []
  else
    let ok := fun (s : State) (n : Nat) => !(s.csm m).atLimit.contains n
    let s := (List.range 18).foldl (fun s k =>
      let n := s.serving m k
      if s.chanLit m k && ok s n then s.setComm m n (s.rf (LSR_GRID m k) LSR_GRID_OUT_PWR) else s) s
    let s := [0, 1].foldl (fun s i =>
      if s.laserOn m (22 + i) && ok s (22 + i) then s.setComm m (22 + i) (s.rf (LSR_CARRIER m i) LSR_CARRIER_OUT_PWR) else s) s
    s.reply c stOk []

def execLaserCommission (c : Cmd) (s : State) : Out := .next (s.command c 0x422 (fun s => s.laserCommission c))

/-- FLOOR < SWAP < WARN ≤ 0 (R267). -/
def threshOk (w : Word) : Bool :=
  decide (getSigned w LSR_CFG_FLOOR_DB < getSigned w LSR_CFG_SWAP_DB) && decide (getSigned w LSR_CFG_SWAP_DB < getSigned w LSR_CFG_WARN_DB) &&
    decide (getSigned w LSR_CFG_WARN_DB ≤ 0)

/-- LASER_THRESH_SET: the fades held are compared with the new thresholds. -/
def State.threshSet (s : State) (c : Cmd) : State :=
  let m := optCsm c
  if !threshOk (c.p 1) then s.reply c stBadParam []
  else
    let old := s.fadeLimits m
    let s := s.wfs (LSR_CFG m) ([LSR_CFG_WARN_DB, LSR_CFG_SWAP_DB, LSR_CFG_FLOOR_DB].map (fun f => (f, getField (c.p 1) f)))
    let s := (List.range 18).foldl (fun s k =>
      if s.chanLit m k then
        (s.crossed m k (s.rfs (LSR_GRID m k) LSR_GRID_FADE) old).foldl (fun s i => s.fadeCross m k i) s
      else s) s
    s.reply c stOk []

def execLaserThreshSet (c : Cmd) (s : State) : Out := .next (s.command c 0x423 (fun s => s.threshSet c))

/-- CAL_SET. An interval of 0 is no interval. -/
def State.calSet (s : State) (c : Cmd) : State :=
  let m := optCsm c
  if getField (c.p 1) TUN_CFG_CAL_INTERVAL = 0 then s.reply c stBadParam []
  else
    let s := s.wfs (TUN_CFG m) ([TUN_CFG_CAL_INTERVAL, TUN_CFG_EPOCH_LEAD, TUN_CFG_CAL_TIMEOUT, TUN_CFG_CAL_EN].map
      (fun f => (f, getField (c.p 1) f)))
    (s.setCsm m { s.csm m with calDue := frameAdd s.frame (s.rf (TUN_CFG m) TUN_CFG_CAL_INTERVAL) }).reply c stOk []

def execCalSet (c : Cmd) (s : State) : Out := .next (s.command c 0x424 (fun s => s.calSet c))

end Sys2Proof.Machine
end

