-- ==== Sys2Proof/Machine/Power.lean ====
section
/-!
DEFINITION. Sys2Proof/Machine/Power.lean: planned power changes and the units that switch (R36, R100, R101, R462, R463), wing roles
(R205 to R209), operating points and the power cap (R457 to R461), undervoltage of a die (R456), and the Chimney (R464 to R467).
-/

set_option Elab.async false

namespace Sys2Proof.Machine

abbrev CmdKey := Option (Nat × Nat × Nat × Nat)

/-- Answer the APPLIED of a command with a status. -/
def State.appliedAs (s : State) (cmd : CmdKey) (status : Nat) : State :=
  match cmd with
  | some (op, tag, origin, ring) => s.applied tag origin ring op status false
  | none => s

/-! ## Units of Table 15-5 -/

def pwrLoc : PwrUnit → Nat
  | .bay b => locBay b
  | .die d => locDie d.val
  | .wing w => locWing w.val
  | .casement c => locCasement c.val
  | .tx c e => locOptical c.val 4 0 e.val 0 0
  | .rx c e => locOptical c.val 4 1 e.val 0 0
  | .sky c => locOptical c.val 4 2 0 0 0
  | .laser c n => laserLoc c.val n.val
  | .site g => locSite g.val

/-- The unit a locator of Table 15-5 names. -/
def unitAt (l : Nat) : Option PwrUnit :=
  if !locValid l then none
  else
    let c : Casement := Fin.ofNat 8 (locBits l 24 22)
    let i := locBits l 18 14
    match locClass l, locLevel l with
    | 1, 5 => some (.die (Fin.ofNat 12 (locBits l 24 21)))
    | 1, 4 => if locBits l 16 12 = 0 then some (.bay (bayOf (locBayIx l))) else none
    | 6, 6 => if locBits l 24 22 < 4 then some (.wing (Fin.ofNat 4 (locBits l 24 22))) else none
    | 3, 5 => some (.casement c)
    | 3, 4 => match locBits l 21 19 with
      | 0 => some (.tx c (Fin.ofNat 8 i))
      | 1 => some (.rx c (Fin.ofNat 8 i))
      | _ => some (.sky c)
    | 3, 3 => match locBits l 21 19 with
      | 3 => some (.laser c (Fin.ofNat 24 i))
      | 4 => some (.laser c (Fin.ofNat 24 (18 + i)))
      | _ => some (.laser c (Fin.ofNat 24 (22 + i)))
    | 4, _ => some (.site (Fin.ofNat 4 (locBits l 24 23)))
    | _, _ => none

def State.isCache (s : State) (w : Nat) : Bool := s.rf HRT_WROLE (HRT_WROLE_ROLE w) == 3

def State.sitePopulated (s : State) (g : Nat) : Bool := s.fuse.guestMask / 2 ^ g % 2 == 1

def wingDies (w : Nat) : List Nat := [3 * w, 3 * w + 1, 3 * w + 2]

/-- The compute dies a unit is or has. -/
def unitDies : PwrUnit → List Nat
  | .die d => [d.val]
  | .wing w => wingDies w.val
  | _ => []

def dieBays (d : Nat) : List BayId := (List.range 12).map (fun i => bayOf (12 * d + i))

/-- The unit is on. -/
def State.unitOn (s : State) : PwrUnit → Bool
  | .bay b => s.rf (BAY_STATUS b) BAY_STATUS_POWER == 2
  | .die d => s.rf (PWR_DIE d.val) PWR_DIE_STATE == 2
  | .wing w => (wingDies w.val).all (fun d => s.rf (PWR_DIE d) PWR_DIE_STATE == 2)
  | .casement c => s.rf (CSM_STATUS c.val) CSM_STATUS_POWER == 2
  | .laser c n => s.laserOn c.val n.val
  | .site g => s.rf (GST_STATUS g.val) GST_STATUS_STATE != 0
  | u => !s.enginesOff.contains (pwrLoc u)

/-- The unit is off; of a wing, every die. -/
def State.unitOff (s : State) : PwrUnit → Bool
  | .wing w => (wingDies w.val).all (fun d => s.rf (PWR_DIE d) PWR_DIE_STATE == 0)
  | u => !s.unitOn u

/-- No descriptor of the bay is in flight (R100), and no slice of Table 17-5 runs. -/
def State.bayIdle (s : State) (b : BayId) : Bool :=
  let x := s.bay b
  x.rMat.isNone && x.rVec.isNone && x.rData.isNone && x.rXchg.isNone && x.acking.isEmpty && x.sliceTile.isNone

/-- Whether a step in flight uses a bay of a unit (R462). -/
def State.stepUses (s : State) (l : Nat) : Bool :=
  s.steps.any (fun t => t.bays.any (fun e => locContains l (locBay (bayOf e.bay))))

/-! ## Requests (R462, R463) -/

/-- A request to switch a unit; the Bool says that its effect comes later. Where it replaces a request that waits, that one's
APPLIED carries SUPERSEDED. -/
def State.unitReq (s : State) (u : PwrUnit) (on : Bool) (cmd : CmdKey) : State × Bool :=
  match u with
  | .laser c n => s.laserReq c.val n.val on cmd
  | _ =>
    let put := fun (s : State) =>
      if (if on then s.unitOn u else s.unitOff u) then (s, false)
      else (s.setJob { unit := pwrLoc u, on := on, busy := false, frames := 0, next := none, cmd := cmd, nextCmd := none }, true)
    match s.powerJob (pwrLoc u) with
    | none => put s
    | some j => if j.busy then (s.deferJob j on cmd, true) else put ((s.dropJob j.unit).appliedTo j.cmd true)

/-- The status UNIT_POWER gives before it acts (R3, R462). -/
def State.unitStatus (s : State) (u : PwrUnit) (on : Bool) : Option Nat :=
  let cache := match u with
    | .bay b => s.isCache (b.die.val / 3)
    | .die d => s.isCache (d.val / 3)
    | .wing w => s.isCache w.val
    | _ => false
  let absent := match u with | .site g => !s.sitePopulated g.val | _ => false
  let steps := match u with | .bay _ | .die _ | .wing _ => s.stepUses (pwrLoc u) | _ => false
  if cache || absent then some stBadParam
  else if on && s.isFenced (pwrLoc u) then some stFaulted
  else if !on && steps then some stBusy
  else none

/-- UNIT_POWER. -/
def State.unitPower (s : State) (c : Cmd) : State :=
  let on := c.pf 0 32 32 == 1
  match unitAt (c.pf 0 31 0) with
  | none => s.reply c stBadParam []
  | some u =>
    match s.unitStatus u on with
    | some st => s.reply c st []
    | none =>
      let r := s.unitReq u on (cmdKey s c)
      r.1.reply c (if r.2 then stDeferred else stOk) []

def execUnitPower (c : Cmd) (s : State) : Out := .next (s.command c 0x510 (fun s => s.unitPower c))

/-- BAY_POWER_REQ: BAY_CTRL.POWER_REQ is written. -/
def State.bayPowerReq (s : State) (b : BayId) (on : Bool) : State :=
  ((s.wf (BAY_CTRL b) BAY_CTRL_POWER_REQ (if on then 1 else 0)).unitReq (.bay b) on none).1

def execBayPowerReq (src : Writer) (b : BayId) (on : Bool) (s : State) : Out :=
  .next (if fromHearth s src then s.bayPowerReq b on else s)

/-- CSM_POWER_REQ: CSM_CTRL.POWER_REQ is written. -/
def State.csmPowerReq (s : State) (c : Casement) (on : Bool) : State :=
  ((s.wf (CSM_CTRL c.val) CSM_CTRL_POWER_REQ (if on then 1 else 0)).unitReq (.casement c) on none).1

def execCsmPowerReq (src : Writer) (c : Casement) (on : Bool) (s : State) : Out :=
  .next (if fromHearth s src then s.csmPowerReq c on else s)

/-! ## What switching does -/

/-- A bay loses its contents: SRAM, vector registers, sticky flags, and what its units held (R100). Repairs stay. -/
def State.wipeBay (s : State) (b : BayId) : State :=
  let x := s.bay b
  let lo := 2 ^ 24 * bayIx b
  let s := { s with sram := s.sram.filter (fun e => !(decide (lo ≤ e.1) && decide (e.1 < lo + 2 ^ 24))) }
  let s := s.setBay b { Bay.init with remaps := x.remaps, bistRow := none, slicePos := x.slicePos }
  (List.range 17).foldl (fun s t => s.setReg (TIL_FLAGS b t) 0) (s.setReg (BAY_VFLAGS b) 0)

/-- A bay loads its generators from the entropy source (R67, R101). -/
def State.seedBay (s : State) (b : BayId) : State :=
  let s := (List.range 17).foldl (fun s t => let w := s.drawSr; w.2.wf (TIL_SR_STATE b t) TIL_SR_STATE_STATE w.1) s
  let w := s.drawSr
  let s := w.2.wf (BAY_VSR_STATE b) BAY_VSR_STATE_STATE w.1
  let w := s.drawSr
  w.2.wf (BAY_DSR_STATE b) BAY_DSR_STATE_STATE w.1

def State.setBayPower (s : State) (b : BayId) (n : Nat) : State := s.wf (BAY_STATUS b) BAY_STATUS_POWER n

/-- A bay is dark. -/
def State.bayOff (s : State) (b : BayId) : State := (s.wipeBay b).setBayPower b 0

/-- A bay accepts descriptors: its SRAM is zero and its generators are loaded. -/
def State.bayOn (s : State) (b : BayId) : State := ((s.wipeBay b).seedBay b).setBayPower b 2

def State.setDie (s : State) (d n : Nat) : State :=
  (dieBays d).foldl (fun s b => s.setBayPower b n) (s.wf (PWR_DIE d) PWR_DIE_STATE n)

def State.dieOff (s : State) (d : Nat) : State := (dieBays d).foldl (fun s b => s.bayOff b) (s.wf (PWR_DIE d) PWR_DIE_STATE 0)

/-- A compute die that wakes brings its bays with it. -/
def State.dieOn (s : State) (d : Nat) : State := (dieBays d).foldl (fun s b => s.bayOn b) (s.wf (PWR_DIE d) PWR_DIE_STATE 2)

def State.sky1 (s : State) (c : Nat) : SkySt := sparseGet skyDefault s.sky c
def State.setSky (s : State) (c : Nat) (x : SkySt) : State := { s with sky := sparseSet skyDefault s.sky c x }

/-- A carrier of the engine is ACTIVE and above FLOOR (R381). -/
def State.carrierGood (s : State) (c : Nat) : Bool :=
  let i := s.rf (SKY_STATUS c) SKY_STATUS_CARRIER
  s.carrier c i == crActive && decide (s.rfs (LSR_CARRIER c i) LSR_CARRIER_FADE > s.rfs (LSR_CFG c) LSR_CFG_FLOOR_DB)

def skyLoc (c : Nat) : Nat := locOptical c 4 2 0 0 0

/-- SKY_STATUS.STATE follows the engine's condition (R381, Table 12-11). -/
def State.skyShow (s : State) (c : Nat) : State :=
  let x := s.sky1 c
  s.wf (SKY_STATUS c) SKY_STATUS_STATE
    (if s.isFenced (skyLoc c) then 4
     else if s.enginesOff.contains (skyLoc c) || s.rf (CSM_STATUS c) CSM_STATUS_POWER != 2 then 0
     else if x.cal.isSome then 1
     else if s.carrierGood c && x.tuned then 2 else 3)

/-- Every slot of a Skylight engine is EMPTY and its weight buffer zero. -/
def State.skyWipe (s : State) (c : Nat) : State :=
  (List.range 64).foldl (fun s i => s.setReg (SKY_SLOT c i) 0) (s.setSky c { s.sky1 c with mats := [] })

/-- The engines a Casement can bring into service: enabled, not switched off and not fenced. -/
def State.showEngines (s : State) (c : Nat) : State :=
  let up := fun (dir e : Nat) =>
    s.rf (CSM_STATUS c) CSM_STATUS_POWER == 2 && wbit (s.reg (CSM_CTRL c)) ((if dir = 0 then 8 else 16) + e) &&
      !s.enginesOff.contains (locOptical c 4 dir e 0 0) && !(s.csm c).meshEng.contains (8 * dir + e) &&
      !s.isFenced (locOptical c 4 dir e 0 0)
  let mask := fun (dir : Nat) => ((List.range 8).map (fun e => if up dir e then 2 ^ e else 0)).sum
  s.wfs (CSM_STATUS c) [(CSM_STATUS_TE_UP, mask 0), (CSM_STATUS_RE_UP, mask 1)]

/-- A Casement begins to shut down: its links go down and its lasers ramp (Table 15-5). -/
def State.csmDown (s : State) (c : Nat) : State :=
  let s := s.wf (CSM_STATUS c) CSM_STATUS_POWER 3
  let s := (csmLinks c).foldl (fun s l => s.goDown l 7) s
  let s := (List.range 24).foldl (fun s n => if s.laserOn c n && !(18 ≤ n && n < 22) then s.rampDown c n else s) s
  s.showEngines c

def State.csmAttach (s : State) (a : Nat) : AttachSt := sparseGet attachDefault s.attach a
def State.setAttach (s : State) (a : Nat) (x : AttachSt) : State := { s with attach := sparseSet attachDefault s.attach a x }

/-- A Casement is dark: modules down, rings cold and off, Skylight slots EMPTY. -/
def State.csmDark (s : State) (c : Nat) : State :=
  let s := ((s.wf (CSM_STATUS c) CSM_STATUS_POWER 0).wf (CSM_ATTACH c) CSM_ATTACH_MOD_UP 0).setAttach c AttachSt.init
  let s := (List.range 306).foldl (fun s r => if s.ring c r = rgRetired then s else s.setRing c r rgOff) s
  let s := (List.range 18).foldl (fun s k => if s.chanLit c k then s.setChan c k chOff else s) s
  ((s.skyWipe c).skyShow c).showEngines c

/-- A Casement wakes: its rings start from COLD and its lasers turn on. -/
def State.csmWake (s : State) (c : Nat) : State :=
  let s := s.wf (CSM_STATUS c) CSM_STATUS_POWER 1
  let s := (List.range 306).foldl (fun s r => if s.ring c r = rgOff then s.setRing c r rgCold else s) s
  let s := (List.range 18).foldl (fun s k => if s.chan c k = chOff then (s.beginLaser c k true none).1 else s) s
  if s.carrier c 0 = crOff ∧ s.carrier c 1 = crOff then (s.beginLaser c 22 true none).1 else s

/-- The shut-down or wake-up of a unit begins at its boundary. -/
def State.beginUnit (s : State) (u : PwrUnit) (on : Bool) : State :=
  match u with
  | .bay b => s.setBayPower b (if on then 1 else 3)
  | .die d => s.setDie d.val (if on then 1 else 3)
  | .wing w => (wingDies w.val).foldl (fun s d =>
      if s.rf (PWR_DIE d) PWR_DIE_STATE = (if on then 0 else 2) then s.setDie d (if on then 1 else 3) else s) s
  | .casement c => if on then s.csmWake c.val else s.csmDown c.val
  | .site g => if on then s.wf (GST_STATUS g.val) GST_STATUS_STATE 1 else s.wf (GST_STATUS g.val) GST_STATUS_MOD_UP 0
  | .laser _ _ => s
  | .tx c _ | .rx c _ =>
    if on then s else ({ s with enginesOff := s.enginesOff ++ [pwrLoc u] } : State).showEngines c.val
  | .sky c => if on then s else ({ s with enginesOff := s.enginesOff ++ [pwrLoc u] } : State).skyShow c.val

/-- A unit reaches the state its change leads to. -/
def State.finishUnit (s : State) (u : PwrUnit) (on : Bool) : State :=
  match u with
  | .bay b => if on then s.bayOn b else s.bayOff b
  | .die d => if on then s.dieOn d.val else s.dieOff d.val
  | .wing w => (wingDies w.val).foldl (fun s d =>
      if s.rf (PWR_DIE d) PWR_DIE_STATE = (if on then 1 else 3) then (if on then s.dieOn d else s.dieOff d) else s) s
  | .casement c =>
    if on then ((s.wf (CSM_STATUS c.val) CSM_STATUS_POWER 2).showEngines c.val).skyShow c.val else s.csmDark c.val
  | .site g => if on then s else (s.wf (GST_STATUS g.val) GST_STATUS_STATE 0).setAttach (8 + g.val) AttachSt.init
  | .laser _ _ => s
  | .tx c _ | .rx c _ =>
    if on then ({ s with enginesOff := s.enginesOff.filter (fun l => l != pwrLoc u) } : State).showEngines c.val else s
  | .sky c =>
    if on then
      let x := s.sky1 c.val
      let s := { s with enginesOff := s.enginesOff.filter (fun l => l != pwrLoc u) }
      (s.setSky c.val { x with tuned := false, due := if x.due.contains 3 then x.due else x.due ++ [3] }).skyShow c.val
    else s

/-- The boundary condition of a change (Table 15-5, R100). -/
def State.mayBegin (s : State) (u : PwrUnit) (on : Bool) : Bool :=
  match u with
  | .bay b => if on then s.rf (PWR_DIE b.die.val) PWR_DIE_STATE == 2 else s.bayIdle b
  | .die _ | .wing _ => on || (!s.stepUses (pwrLoc u) && ((unitDies u).flatMap dieBays).all (fun b =>
      s.bayIdle b && !(match s.powerJob (locBay b) with | some j => j.busy | none => false)))
  | .sky c => on || (s.sky1 c.val).job.isNone
  | _ => true

/-- PLANNED_POWER_CHANGE: a change that waits begins at a frame boundary where its condition holds. One that asks for the state
the unit has reached does nothing more; one to switch on a unit that has been fenced is answered FAULTED. -/
def State.plannedChange (s : State) (u : PwrUnit) : State :=
  match s.powerJob (pwrLoc u) with
  | none => s
  | some j =>
    if j.busy then s
    else if (if j.on then s.unitOn u else s.unitOff u) then (s.dropJob j.unit).appliedTo j.cmd false
    else if j.on && j.cmd.isSome && s.isFenced j.unit then (s.dropJob j.unit).appliedAs j.cmd stFaulted
    else if s.mayBegin u j.on then (s.beginUnit u j.on).setJob { j with busy := true, frames := 0 }
    else s

def execPlannedPowerChange (u : PwrUnit) (s : State) : Out := .next (s.plannedChange u)

/-- Frame boundaries a change takes where Table 15-5 states frames. -/
def leastFrames (u : PwrUnit) (on : Bool) : Nat :=
  match u with
  | .bay _ => if on then 2 else 0
  | .die _ | .wing _ => if on then 3 else 1
  | .tx _ _ | .rx _ _ => if on then 1 else 0
  | _ => 0

/-- POWER_CHANGE_COMPLETE: APPLIED, then the request that came meanwhile. A site is on once it is admitted; a bay wakes once its
generators can be loaded (R505). -/
def State.changeDone (s : State) (u : PwrUnit) : State :=
  match u with
  | .laser c n => if (match s.powerJob (pwrLoc u) with | some j => j.on | none => true) then s.turnOnEnd c.val n.val else s.rampEnd c.val n.val
  | _ =>
    match s.powerJob (pwrLoc u) with
    | none => s
    | some j =>
      let wait := match u with
        | .site g => j.on && decide (s.rf (GST_STATUS g.val) GST_STATUS_STATE ≠ 3)
        | .bay _ | .die _ | .wing _ => j.on && (s.rf SEC_STATUS SEC_STATUS_ENTROPY_FAIL == 1)
        | _ => false
      if !j.busy || decide (j.frames < leastFrames u j.on) || wait then s
      else
        let s := ((s.finishUnit u j.on).dropJob j.unit).appliedTo j.cmd false
        match j.next with
        | none => s
        | some on =>
          if on = j.on then s.appliedTo j.nextCmd false
          else s.setJob { unit := j.unit, on := on, busy := false, frames := 0, next := none, cmd := j.nextCmd, nextCmd := none }

def execPowerChangeComplete (u : PwrUnit) (s : State) : Out := .next (s.changeDone u)

/-! ## BLOCK_RESET (Table 16-3) -/

/-- The smallest power domain of Table 1-12 that holds a unit. -/
def resetDomain (l : Nat) : Option PwrUnit :=
  let c : Casement := Fin.ofNat 8 (locBits l 24 22)
  match locClass l with
  | 1 => if locLevel l = 5 then unitAt l else some (.bay (bayOf (locBayIx l)))
  | 3 => if locLevel l = 5 ∨ locLevel l = 3 then unitAt l
    else match locBits l 21 19 with
      | 0 => if locBits l 18 14 < 8 then some (.tx c (Fin.ofNat 8 (locBits l 18 14))) else some (.casement c)
      | 1 => if locBits l 18 14 < 8 then some (.rx c (Fin.ofNat 8 (locBits l 18 14))) else some (.casement c)
      | _ => some (.sky c)
  | 4 => unitAt l
  | _ => none

/-- BLOCK_RESET of a unit: off, then on. An optical lane's domain is its ring, which starts again from COLD. -/
def State.blockReset (s : State) (l : Nat) : State :=
  if locClass l = 3 ∧ locLevel l = 2 ∧ locBits l 21 19 ≤ 1 then
    let r := 144 * locBits l 21 19 + 18 * locBits l 18 14 + locBits l 13 9
    if s.ring (locBits l 24 22) r = rgRetired then s
    else
      let s := s.setRing (locBits l 24 22) r rgCold
      if locBits l 21 19 = 0 then s.failTx (locBits l 24 22) (locBits l 13 9) else s.failRx (locBits l 24 22) (locBits l 13 9)
  else match resetDomain l with
    | none => s
    | some u =>
      if s.unitOff u then s
      else
        let s := (s.unitReq u false none).1
        match s.powerJob (pwrLoc u) with
        | some j => if j.on then s else s.setJob { j with next := some true, nextCmd := none }
        | none => s

/-- Run the BLOCK_RESET reactions that are due. -/
def State.blockResetsDue (s : State) : State :=
  s.blockResets.foldl (fun s l => s.blockReset l) { s with blockResets := [] }

/-! ## Operating points (R457, R458) -/

def State.wingOp (s : State) (w : Nat) : Nat := s.rf (PWR_WING w) PWR_WING_OP

def State.pointOf (s : State) (w : Nat) : Option PointChange := s.points.find? (fun p => p.wing == w)

/-- Drop a wing's pending point change. -/
def State.dropPoint (s : State) (w : Nat) : State :=
  ({ s with points := s.points.filter (fun p => p.wing != w) } : State).wfs (PWR_WING w) [(PWR_WING_PEND, 0), (PWR_WING_TARGET, 0)]

/-- A request for a point; the one it replaces is answered with SUPERSEDED. The Bool says that it is pending. -/
def State.pointReq (s : State) (w n : Nat) (cmd : CmdKey) : State × Bool :=
  let s := match s.pointOf w with
    | some p => (s.dropPoint w).appliedTo p.cmd true
    | none => s
  if s.wingOp w = n then (s, false)
  else
    (({ s with points := s.points ++ [{ wing := w, target := n, frames := 0, cmd := cmd }] } : State).wfs (PWR_WING w)
      [(PWR_WING_PEND, 1), (PWR_WING_TARGET, n)], true)

def State.pointSet (s : State) (c : Cmd) : State :=
  let w := c.pf 0 1 0
  if s.isCache w then s.reply c stBadParam []
  else
    let r := s.pointReq w (c.pf 0 9 8) (cmdKey s c)
    r.1.reply c (if r.2 then stDeferred else stOk) []

def execPowerPointSet (c : Cmd) (s : State) : Out := .next (s.command c 0x501 (fun s => s.pointSet c))

/-- OPERATING_POINT_CHANGE_COMPLETE: the clock has changed at a frame boundary. -/
def State.pointDone (s : State) (w : Nat) : State :=
  match s.pointOf w with
  | none => s
  | some p => if p.frames = 0 then s else ((s.dropPoint w).wf (PWR_WING w) PWR_WING_OP p.target).appliedTo p.cmd false

def execOperatingPointChangeComplete (w : Wing) (s : State) : Out := .next (s.pointDone w.val)

/-! ## Wing roles (R205 to R209) -/

/-- The point a wing starts at (Table 7-1). -/
def roleOp (r : Nat) : Nat := if r = 3 then 0 else if r = 2 then 2 else 3

def State.wingBusy (s : State) (w : Nat) : Bool := s.steps.any (fun t => t.bays.any (fun e => bayWing e.bay == w))

/-- WING_ROLE_SET: OK where the next boundary applies it. -/
def State.roleSet (s : State) (c : Cmd) : State :=
  let w := c.pf 0 1 0
  let s := match s.roles.find? (fun r => r.wing == w) with
    | some r =>
      let s := { s with roles := s.roles.filter (fun r => r.wing != w) }
      if r.deferred then s.applied r.tag r.origin r.ring 0x120 stOk true else s
    | none => s
  let deferred := s.wingBusy w
  let s := ({ s with roles := s.roles ++ [{ wing := w, role := c.pf 0 9 8, tag := c.tag, origin := originOf s c, ring := c.ringId,
                                            deferred := deferred }] } : State).wf HRT_WROLE (HRT_WROLE_PEND w) 1
  s.reply c (if deferred then stDeferred else stOk) []

def execWingRoleSet (c : Cmd) (s : State) : Out := .next (s.command c 0x120 (fun s => s.roleSet c))

/-- The compute dies and the point of a wing follow its role (R207, R209). -/
def State.enterRole (s : State) (w old new : Nat) : State :=
  let dies := (List.finRange 12).filter (fun d => d.val / 3 == w)
  if new = 3 then
    let s := match s.pointOf w with | some p => (s.dropPoint w).appliedTo p.cmd true | none => s
    let s := s.wf (PWR_WING w) PWR_WING_OP 0
    let s := { s with larders := s.larders.filter (fun e => e.1 / 32768 / 3 != w) }
    dies.foldl (fun s d => (s.unitReq (.die d) false none).1) s
  else if old = 3 then
    dies.foldl (fun s d => (s.unitReq (.die d) true none).1) (s.wf (PWR_WING w) PWR_WING_OP (roleOp new))
  else s

/-- WING_ROLE_CHANGE: at the first boundary with no step in flight on the wing. -/
def State.roleChange (s : State) (w : Nat) : State :=
  match s.roles.find? (fun r => r.wing == w) with
  | none => s
  | some r =>
    if s.wingBusy w then s
    else
      let old := s.rf HRT_WROLE (HRT_WROLE_ROLE w)
      let s := { s with roles := s.roles.filter (fun r => r.wing != w) }
      let s := (s.wf HRT_WROLE (HRT_WROLE_PEND w) 0).wf HRT_WROLE (HRT_WROLE_ROLE w) r.role
      let s := s.enterRole w old r.role
      if r.deferred then s.applied r.tag r.origin r.ring 0x120 stOk false else s

def execWingRoleChange (w : Wing) (s : State) : Out := .next (s.roleChange w.val)

/-! ## The cap (R459 to R461) -/

def State.tdp (s : State) : Nat := if s.fuse.grade = 2 then 9800 else 11500

def State.capSet (s : State) (c : Cmd) : State :=
  let w := c.pf 0 15 0
  if w < 3000 ∨ s.tdp < w then s.reply c stBadParam [] else (s.wf PWR_CFG PWR_CFG_CAP_W w).reply c stOk []

def execPowerCapSet (c : Cmd) (s : State) : Out := .next (s.command c 0x502 (fun s => s.capSet c))

/-- A register field in which 0 is taken as 1 (Tables 15-13 and 15-19). -/
def oneAtLeast (n : Nat) : Nat := max 1 n

/-- The cap step after a frame that drew mw (R460). -/
def State.capFrame (s : State) (mw : Nat) : State :=
  let cap := 1000 * s.rf PWR_CFG PWR_CFG_CAP_W
  let step := s.rf PWR_STATUS PWR_STATUS_CAP_STEP
  let above := decide (cap ≤ mw)
  let s := { s with capHigh := if above && step == 8 then s.capHigh + 1 else 0 }
  let next := if above then min 8 (step + 1)
    else if 100 * mw ≤ cap * (100 - oneAtLeast (s.rf PWR_CFG PWR_CFG_HYST_PCT)) then step - 1 else step
  s.wfs PWR_STATUS [(PWR_STATUS_CAP_STEP, next), (PWR_STATUS_P_LAST, mw / 1000)]

/-- CAP_OP_DROP: after CAP_FRAMES frames at step 8 over the cap. -/
def State.capDrop (s : State) : State :=
  if s.capHigh < oneAtLeast (s.rf PWR_CFG PWR_CFG_CAP_FRAMES) then s
  else
    let s := ({ s with capHigh := 0 } : State).wf PWR_STATUS PWR_STATUS_CAP_DROP 1
    (List.range 4).foldl (fun s w =>
      if s.isCache w || s.wingOp w == 0 then s
      else ((s.pointReq w (s.wingOp w - 1) none).1).raise F_CAP_OP_DROP (locWing w) 0) s

def execCapOpDrop (s : State) : Out := .next s.capDrop

/-! ## Undervoltage of a compute die (R456) -/

/-- The voltage of an operating point, mV (Table 15-4). -/
def opMv (grade op : Nat) : Nat :=
  if grade = 2 then [580, 650, 720, 800].getD op 0 else [600, 680, 760, 850].getD op 0

/-- A compute die that a fault fences is clamped: its domain is off at once (R36, R456). -/
def State.clampDie (s : State) (d : Nat) : State :=
  let inside := fun (j : PowerJob) => locContains (locDie d) j.unit
  let s := (s.power.filter inside).foldl (fun s (j : PowerJob) => (s.appliedAs j.cmd stFaulted).appliedAs j.nextCmd stFaulted) s
  ({ s with power := s.power.filter (fun (j : PowerJob) => !inside j) } : State).dieOff d

/-- DIE_UNDERVOLTAGE: below 92.5% for 50 ns. -/
def State.dieUv (s : State) (d mv ns : Nat) : State :=
  if s.mode = .off ∨ ns < 50 ∨ 925 * opMv s.fuse.grade (s.wingOp (d / 3)) ≤ 1000 * mv ∨ s.rf (PWR_DIE d) PWR_DIE_STATE ≠ 2 ∨
      s.isFenced (locDie d) then s
  else (s.raise F_DIE_UV (locDie d) 0).clampDie d

def execDieUndervoltage (d : Die) (mv ns : Nat) (s : State) : Out := .next (s.dieUv d.val mv ns)

/-! ## The Chimney (R464 to R466) -/

/-- The locator of CHM unit u. -/
def chmLoc (u : Nat) : Nat :=
  if u < 12 then locDie u else if u < 16 then locWing (u - 12) else if u < 24 then locCasement (u - 16) else locStack (u - 24)

def chmWing (u : Nat) : Nat :=
  if u < 12 then u / 3 else if u < 16 then u - 12 else if u < 24 then (u - 16) / 2 else (u - 24) / 3

/-- Sensors a unit has (R464). -/
def chmSensors (u : Nat) : Nat := if u < 12 then 48 else if u < 16 then 16 else if u < 24 then 6 else 1

/-- A sensor is excluded and counted; a compute die with 8 of them is fenced (R465). -/
def State.excludeSensor (s : State) (u i : Nat) : State :=
  if s.excluded.contains (u, i) || decide (chmSensors u ≤ i) then s
  else
    let s := { s with excluded := s.excluded ++ [(u, i)] }
    let s := (s.satf (CHM_UNIT u) CHM_UNIT_EXCLUDED 1).satf (CHM_WING (chmWing u)) CHM_WING_EXCLUDED 1
    let s := (s.satf CHM_PKG CHM_PKG_EXCLUDED 1).raise F_SENSOR_EXCLUDED (chmLoc u) i
    if u < 12 ∧ 8 ≤ s.rf (CHM_UNIT u) CHM_UNIT_EXCLUDED ∧ !s.isFenced (locDie u) then
      (s.raise F_DIE_SENSORS (locDie u) 0).clampDie u
    else s

/-- SENSOR_UNCHANGED: no change for 1,024 frames. -/
def execSensorUnchanged (u : Fin 36) (sensor : Nat) (s : State) : Out :=
  .next (if s.mode = .off then s else s.excludeSensor u.val sensor)

/-- The highest of the readings kept: unit, sensor, temperature. -/
def hottest (rs : List (Nat × Nat × Int)) : Option (Nat × Nat × Int) :=
  rs.foldl (fun m r => match m with | none => some r | some x => if x.2.2 < r.2.2 then some r else m) none

/-- Whether unit u has a reading at or above a level, and whether all its readings are at or below one. -/
def atOrAbove (rs : List (Nat × Nat × Int)) (u : Nat) (t : Int) : Bool := rs.any (fun r => r.1 == u && decide (t ≤ r.2.2))
def allBelow (rs : List (Nat × Nat × Int)) (u : Nat) (t : Int) : Bool := rs.all (fun r => r.1 != u || decide (r.2.2 ≤ t))

/-- The units whose sensors govern a die's throttling, with their levels in 0.1 degrees C (Table 15-6). -/
def State.governs (s : State) (d : Nat) : List (Nat × Int) :=
  let t : Int := 10 * s.rf CHM_CFG CHM_CFG_THROTTLE
  [(d, t), (12 + d / 3, t)] ++ (wingDies (d / 3)).map (fun k => (24 + k, 950))

/-- The thermal step of a die after a frame (R466), and the step in force (R459). -/
def State.thermalStep (s : State) (rs : List (Nat × Nat × Int)) (d : Nat) : State :=
  let hyst : Int := 10 * oneAtLeast (s.rf CHM_CFG CHM_CFG_HYST)
  let th := s.rf (PWR_DIE d) PWR_DIE_TH_STEP
  let gs := s.governs d
  let next := if gs.any (fun g => atOrAbove rs g.1 g.2) then min 8 (th + 1)
    else if gs.all (fun g => allBelow rs g.1 (g.2 - hyst)) then th - 1 else th
  s.wfs (PWR_DIE d) [(PWR_DIE_TH_STEP, next), (PWR_DIE_STEP, max next (s.rf PWR_STATUS PWR_STATUS_CAP_STEP))]

/-- Publish the maximum of a unit. -/
def State.chmUnit (s : State) (rs : List (Nat × Nat × Int)) (u : Nat) : State :=
  match hottest (rs.filter (fun r => r.1 == u)) with
  | none => s
  | some m =>
    let lim : Int := if 24 ≤ u then 950 else 10 * s.rf CHM_CFG CHM_CFG_THROTTLE
    s.wfs (CHM_UNIT u) [(CHM_UNIT_MAX, toCode 16 m.2.2), (CHM_UNIT_SENSOR, m.2.1),
      (CHM_UNIT_THROTTLE, if (u < 16 ∨ 24 ≤ u) ∧ lim ≤ m.2.2 then 1 else 0)]

/-- Publish a maximum in CHM_PKG or CHM_WINGw. -/
def State.chmMax (s : State) (a : Nat) (rs : List (Nat × Nat × Int)) : State :=
  match hottest rs with
  | none => s
  | some m => s.wfs a [(CHM_PKG_MAX, toCode 16 m.2.2), (CHM_PKG_UNIT, m.1), (CHM_PKG_SENSOR, m.2.1)]

/-- The limit of a Casement sensor: 0-1 EIC, 2-3 PIC, 4-5 laser bank. -/
def csmLimit (i : Nat) : Int := if i < 2 then 1050 else if i < 4 then 850 else 750

/-- A Casement at a limit is fenced and gated (Table 15-6). -/
def State.csmThermal (s : State) (c : Casement) : State :=
  if s.isFenced (locCasement c.val) then s
  else
    let s := (s.wf (CHM_UNIT (16 + c.val)) CHM_UNIT_LIMIT 1).raise F_CSM_THERMAL (locCasement c.val) 0
    ((s.unitReq (.casement c) false none).1.plannedChange (.casement c)).showEngines c.val

/-- The Chimney's work at a frame boundary. -/
def State.chimney (s : State) (es : List SensorReading) : State :=
  let s := es.foldl (fun s e =>
    if e.temp < -400 ∨ 1500 < e.temp then s.excludeSensor e.unit.val e.sensor else s) s
  let rs := (es.filter (fun e => !s.excluded.contains (e.unit.val, e.sensor) && decide (e.sensor < chmSensors e.unit.val))).map
    (fun e => (e.unit.val, e.sensor, e.temp))
  let s := (List.range 36).foldl (fun s u => s.chmUnit rs u) s
  let s := (List.range 4).foldl (fun s w => s.chmMax (CHM_WING w) (rs.filter (fun r => chmWing r.1 == w))) s
  let s := s.chmMax CHM_PKG rs
  let s := (List.range 12).foldl (fun s d => s.thermalStep rs d) s
  (List.finRange 8).foldl (fun s c =>
    if rs.any (fun r => r.1 == 16 + c.val && decide (csmLimit r.2.1 ≤ r.2.2)) then s.csmThermal c else s) s

/-! ## Thermal trip (R467) -/

/-- The limit that trips the package; none: the unit has none. -/
def tripLimit (u : Nat) : Option Int := if u < 16 then some 1150 else if 24 ≤ u then some 1050 else none

/-- Show the trip record in CHM_TRIP. -/
def State.showTrip (s : State) : State :=
  let w0 := s.nv.trip.getD 0 0
  s.setReg CHM_TRIP (packFields [(CHM_TRIP_TEMP, getField w0 (bits 47 32)), (CHM_TRIP_UNIT, getField w0 (bits 10 5)),
    (CHM_TRIP_SENSOR, getField w0 (bits 16 11)),
    (CHM_TRIP_ACK_PEND, if s.nv.trip.isEmpty || wbit w0 4 then 0 else 1), (CHM_TRIP_COUNT, s.nv.trips)])

/-- The clamp: every IVR, VIN_OPT load and laser is off at once. -/
def State.clamp (s : State) : State :=
  let s := (List.range 12).foldl (fun s d => s.dieOff d) s
  let s := (List.range 8).foldl (fun s c =>
    let s := (List.range 18).foldl (fun s k => if s.chanLit c k then s.setChan c k chOff else s) s
    let s := ((s.setCarrier c 0 crOff).setCarrier c 1 crOff).wf (CSM_STATUS c) CSM_STATUS_POWER 0
    s.showEngines c) s
  { s with clamped := true, power := [], csms := s.csms.map (fun e => (e.1, { e.2 with swaps := [] })) }

/-- THERMAL_TRIP: the comparator acts without a Hearth; a Hearth that runs writes the record and stops. -/
def State.trip (s : State) (u sensor : Nat) (temp : Int) : State :=
  match tripLimit u with
  | none => s
  | some lim =>
    if temp < lim ∨ s.clamped ∨ chmSensors u ≤ sensor then s
    else
      let s := s.wf (CHM_UNIT u) CHM_UNIT_LIMIT 1
      if s.mode = .off then s.clamp
      else
        let s := (s.raise F_THERMTRIP locPackage 0).clamp
        let n := s.nv.trips + 1
        let rec' := [packFields [(bits 3 0, 1), (bits 10 5, u), (bits 16 11, sensor), (bits 47 32, toCode 16 temp)],
          packFields [(bits 47 0, s.frame)], packFields [(bits 31 0, s.epoch)], packFields [(bits 31 0, n)]]
        ({ s with nv := { s.nv with trip := rec', trips := n }, mode := .off } : State).showTrip

def execThermalTrip (u : Fin 36) (sensor : Nat) (temp : Int) (s : State) : Out := .next (s.trip u.val sensor temp)

/-- The power and thermal work of a frame boundary. -/
def State.powerFrame (s : State) (e : FrameEnv) : State :=
  let s := (List.range 5).foldl (fun s r =>
    s.wfs (PWR_RAIL r) [(PWR_RAIL_MV, e.railMv.getD r 0), (PWR_RAIL_MW, e.railMw.getD r 0)]) s
  let s := (List.range 4).foldl (fun s w => s.wf (PWR_WING w) PWR_WING_POWER (e.wingW.getD w 0)) s
  let s := (List.range 12).foldl (fun s d =>
    s.wfs (PWR_DIE d) [(PWR_DIE_POWER, e.dieW.getD d 0), (PWR_DIE_MV, e.dieMv.getD d 0)]) s
  let s := (s.capFrame e.railMw.sum).chimney e.sensors
  { s with power := s.power.map (fun (j : PowerJob) => if j.busy then { j with frames := j.frames + 1 } else j),
           points := s.points.map (fun p => { p with frames := p.frames + 1 }) }

end Sys2Proof.Machine
end

