-- ==== Sys2Proof/Machine/Hearths.lean ====
section
/-!
DEFINITION. Sys2Proof/Machine/Hearths.lean: the Hearth pair: heartbeats, digests, the self-check, takeover and resynchronisation
(R443 to R453).
-/

set_option Elab.async false

namespace Sys2Proof.Machine

def hsOff : Nat := 0
def hsBoot : Nat := 1
def hsActive : Nat := 2
def hsStandby : Nat := 3
def hsCheck : Nat := 4
def hsResync : Nat := 5
def hsFenced : Nat := 6

def hearthField (hb : Bool) : Field := if hb then HRT_HSTATUS_HB_STATE else HRT_HSTATUS_HA_STATE

/-- State of a Hearth: false HA, true HB. -/
def State.hearth (s : State) (hb : Bool) : Nat := s.rf HRT_HSTATUS (hearthField hb)
def State.setHearth (s : State) (hb : Bool) (n : Nat) : State := s.wf HRT_HSTATUS (hearthField hb) n

/-- The active Hearth is HB. -/
def State.activeHb (s : State) : Bool := s.rf HRT_HSTATUS HRT_HSTATUS_ACTIVE == 1
def State.paired (s : State) : Bool := s.rf HRT_HSTATUS HRT_HSTATUS_PAIRED == 1

def hearthLoc (hb : Bool) : Nat := locControl (if hb then 1 else 0)

/-- A Hearth is lost: recorded and fenced (R449, Table 15-1). -/
def State.loseHearth (s : State) (hb : Bool) : State :=
  (((s.raise F_HEARTH_LOST (hearthLoc hb) 0).setHearth hb hsFenced).wf HRT_HSTATUS HRT_HSTATUS_PAIRED 0)

/-- Loss of both Hearths (R453). -/
def State.loseHearths (s : State) : State :=
  (((s.setHearth false hsFenced).setHearth true hsFenced).wf HRT_HSTATUS HRT_HSTATUS_PAIRED 0).raise F_HEARTH_BOTH locPackage 0

/-- The SEC_ window shows the security block of a Hearth that becomes active. -/
def State.secSwap (s : State) (hb : Bool) : State :=
  let other := s.reg SEC_ENTROPY
  ({ s with entropyOther := other } : State).setReg SEC_ENTROPY s.entropyOther |>.wfs SEC_STATUS
    [(SEC_STATUS_BLOCK, if hb then 1 else 0), (SEC_STATUS_ENTROPY_FAIL, if (if hb then s.drbgB else s.drbgA) then 1 else 0)]

/-- The other Hearth takes over: the epoch rises by one and is recorded (R447, R449). -/
def State.takeover (s : State) : State :=
  let old := s.activeHb
  let e := (s.epoch + 1) % 2 ^ 32
  let s := s.wf HRT_EPOCH HRT_EPOCH_EPOCH e
  let s := { s with nv := { s.nv with epoch := e }, pair := { silent := 0, heard := false, stale := true } }
  let s := (s.wf HRT_HSTATUS HRT_HSTATUS_ACTIVE (if old then 0 else 1)).satf HRT_HSTATUS HRT_HSTATUS_TAKEOVERS 1
  let s := s.secSwap (!old)
  let s := s.setHearth (!old) hsActive
  s.loseHearth old

/-- HEARTBEAT: of the active Hearth, it is noted for R449, and a replaced Hearth that still runs learns the epoch; of a replaced
Hearth, it shows that it runs: it stops emitting and enters SELFCHECK (R450, R451). -/
def State.heartbeat (s : State) (fromHb : Bool) (epoch : Nat) : State :=
  if s.mode = .off then s
  else if fromHb = s.activeHb then
    if epoch = s.epoch then { s with pair := { s.pair with silent := 0, heard := true } } else s
  else if s.pair.stale && decide (epoch < s.epoch) then
    (({ s with pair := { s.pair with stale := false } } : State).unfence (hearthLoc fromHb)).setHearth fromHb hsCheck
  else s

def execHeartbeat (fromHb : Bool) (epoch : Nat) (_ : Nat) (s : State) : Out := .next (s.heartbeat fromHb epoch)

/-- A mismatch: both Hearths enter SELFCHECK (R446). -/
def State.mismatch (s : State) : State := (s.setHearth false hsCheck).setHearth true hsCheck

/-- DIGEST_COMPARE: while the pair compares, a digest that differs from the standby's is a mismatch. -/
def execDigestCompare (outSeq : Nat) (digest : Word) (s : State) : Out :=
  .next (if s.mode != .off && s.paired && s.hearth (!s.activeHb) == hsStandby && digest != Config.outDigest s.epoch outSeq
    then s.mismatch else s)

/-- DIGEST_TIMEOUT: no matching output of the standby within 2 frames. -/
def execDigestTimeout (_ : Nat) (s : State) : Out :=
  .next (if s.mode != .off && s.paired && s.hearth (!s.activeHb) == hsStandby then s.mismatch else s)

/-- SELFCHECK: the outcome of Table 15-1, or of R451 where only the standby checks itself. -/
def State.selfcheck (s : State) (activePass standbyPass : Bool) : State :=
  let a := s.activeHb
  if s.mode = .off ∨ s.hearth (!a) ≠ hsCheck then s
  else if s.hearth a ≠ hsCheck then
    (if standbyPass then s.setHearth (!a) hsResync else s.loseHearth (!a))
  else match activePass, standbyPass with
    | true, true =>
      let s := ((s.setHearth a hsActive).setHearth (!a) hsResync).wf HRT_HSTATUS HRT_HSTATUS_PAIRED 0
      (s.satf HRT_HSTATUS HRT_HSTATUS_DIVERGES 1).raise F_DIVERGE locPackage 0
    | true, false => (s.setHearth a hsActive).loseHearth (!a)
    | false, true =>
      let t := s.takeover
      { t with pair := { t.pair with stale := false } }
    | false, false => s.loseHearths

def execSelfcheck (activePass standbyPass : Bool) (s : State) : Out := .next (s.selfcheck activePass standbyPass)

/-- HEARTBEAT_MISSING: two silent frames have ended: the standby takes over; a Hearth that ran alone leaves none. -/
def State.heartbeatMissing (s : State) : State :=
  if s.mode = .off ∨ s.pair.silent < 2 then s
  else if s.hearth (!s.activeHb) = hsStandby ∨ s.hearth (!s.activeHb) = hsCheck then s.takeover
  else s.loseHearths

def execHeartbeatMissing (s : State) : Out := .next s.heartbeatMissing

/-- RESYNC_COMPLETE: the Hearth is the standby again and digests are compared. -/
def execResyncComplete (hb : Bool) (s : State) : Out :=
  .next (if s.mode != .off && s.hearth hb == hsResync then (s.setHearth hb hsStandby).wf HRT_HSTATUS HRT_HSTATUS_PAIRED 1 else s)

/-- At a frame boundary: whether a heartbeat arrived in the frame that ended. -/
def State.pairFrame (s : State) : State :=
  { s with pair := { s.pair with silent := if s.pair.heard then 0 else s.pair.silent + 1, heard := false } }

end Sys2Proof.Machine
end

