-- ==== Sys2Proof/Machine/Attach.lean ====
section
/-!
DEFINITION. Sys2Proof/Machine/Attach.lean: die-to-die attachments, guest sites, Porch lanes and seams (R174, R384 to R410).
Attachments 0 to 7 are the Casements, 8 to 11 the guest sites. Packets of optical links cross a Casement's attachment with the
rows of their link; of its flits the model holds the sequence and the acknowledgements.
-/

set_option Elab.async false

namespace Sys2Proof.Machine

/-! ## Modules (R385, R391) -/

def isGuest (a : Nat) : Bool := decide (8 ≤ a)

def attLoc (a : Nat) : Nat := if a < 8 then locCasement a else locSite (a - 8)

/-- Modules in service and modules running x32. -/
def State.modUp (s : State) (a : Nat) : Nat :=
  if a < 8 then s.rf (CSM_ATTACH a) CSM_ATTACH_MOD_UP else s.rf (GST_STATUS (a - 8)) GST_STATUS_MOD_UP
def State.modX32 (s : State) (a : Nat) : Nat :=
  if a < 8 then s.rf (CSM_D2D a) CSM_D2D_X32 else s.rf (GST_STATUS (a - 8)) GST_STATUS_X32

def State.setMods (s : State) (a m x : Nat) : State :=
  if a < 8 then (s.wf (CSM_ATTACH a) CSM_ATTACH_MOD_UP m).wf (CSM_D2D a) CSM_D2D_X32 x
  else s.wfs (GST_STATUS (a - 8)) [(GST_STATUS_MOD_UP, m), (GST_STATUS_X32, x)]

def State.siteState (s : State) (g n : Nat) : State := s.wf (GST_STATUS g) GST_STATUS_STATE n

def gsOff : Nat := 0
def gsDiscovery : Nat := 1
def gsTraining : Nat := 2
def gsReady : Nat := 3
def gsResetting : Nat := 5

/-- The level of the die at an attachment's other end; levels above 2 act as 2 (R396). -/
def State.attLevel (s : State) (a : Nat) : Nat :=
  min 2 (if a < 8 then ((s.fuse.csmId.getD a (0, 0, 0)).2.2) else s.rf (GST_STATUS (a - 8)) GST_STATUS_FEATURE_LEVEL)

/-- Count a discarded flit, and a width disagreement. -/
def State.flitCrc (s : State) (a : Nat) : State :=
  if a < 8 then s.satf (CSM_D2D a) CSM_D2D_FLIT_CRC 1 else s.satf (GST_ERR (a - 8)) GST_ERR_FLIT_CRC 1
def State.widthCount (s : State) (a : Nat) : State :=
  if a < 8 then s.satf (CSM_D2D a) CSM_D2D_MISMATCHES 1 else s.satf (GST_ERR (a - 8)) GST_ERR_MISMATCHES 1

/-! ## Guest sites going off (R399, R403) -/

/-- What the base die holds from or for a guest is discarded; replies of its commands are dropped (R403). -/
def State.guestDrop (s : State) (g : Nat) : State :=
  let x := s.csmAttach (8 + g)
  let s := s.setAttach (8 + g) { AttachSt.init with fullReset := x.fullReset }
  { s with locals := sparseSet localsDefault s.locals (16 + g) [],
           active := s.active.map (fun a => if a.ring = 16 + g ∧ a.origin = s.pkg then { a with dead := true } else a) }

/-- The level of FRAME_PUSH in force (R396). -/
def State.framePush (s : State) : State :=
  let ls := ((List.range 4).filter (fun g => decide (2 ≤ s.rf (GST_STATUS g) GST_STATUS_STATE) && !s.isFenced (locSite g))).map
    (fun g => s.rf (GST_STATUS g) GST_STATUS_FEATURE_LEVEL)
  s.wf HRT_FEATURE HRT_FEATURE_FRAME_PUSH (ls.foldl min 2)

/-- A site is powered down until the next package reset; a command that switched it on is answered FAULTED. -/
def State.siteDown (s : State) (g lastFault : Nat) : State :=
  let s := (s.guestDrop g).wfs (GST_STATUS g) [(GST_STATUS_LAST_FAULT, lastFault), (GST_STATUS_STATE, gsOff), (GST_STATUS_MOD_UP, 0),
    (GST_STATUS_X32, 0)]
  (match s.powerJob (locSite g) with
   | some j => (s.dropJob j.unit).appliedAs j.cmd stFaulted
   | none => s).framePush

/-- An admission fails (Table 13-6): the site is fenced. -/
def State.siteFail (s : State) (g code lastFault : Nat) : State := (s.raise code (locSite g) 0).siteDown g lastFault

/-! ## Admission (R398, R399) -/

/-- The highest rate both ends support; none: no common rate. -/
def commonRate (rates level : Nat) : Option Nat :=
  ((List.range (if 2 ≤ level then 6 else 4)).filter (fun r => rates / 2 ^ r % 2 == 1)).getLast?

/-- Why a capability structure fails: fault code and LAST_FAULT. -/
def State.capFault (s : State) (cap : GuestCap) : Option (Nat × Nat) :=
  let w := cap.w0
  let v := cap.w1
  let level := getField w (bits 63 56)
  if getField w (bits 3 0) ≠ 1 ∨ !wbit v 12 then some (F_GUEST_VERSION, 2)
  else if 60 < getField v (bits 23 16) then some (F_GUEST_POWER, 3)
  else if level < s.rf HRT_FEATURE HRT_FEATURE_MIN_LEVEL then some (F_D2D_LEVEL, 4)
  else if (commonRate (getField v (bits 9 4)) level).isNone ∨ getField v (bits 3 0) = 0 ∨ getField v (bits 26 24) < 2 then
    some (F_GUEST_CAP, 5)
  else none

/-- The Hearth reads the capability structure, checks it, and writes the negotiated values; the modules then train. -/
def State.admitSite (s : State) (g : Nat) (cap : GuestCap) : State :=
  let level := getField cap.w0 (bits 63 56)
  let mods := getField cap.w1 (bits 3 0)
  let s := ((s.setReg (GST_CAP g 0) cap.w0).setReg (GST_CAP g 1) cap.w1).wf (GST_STATUS g) GST_STATUS_FEATURE_LEVEL level
  match s.capFault cap with
  | some (code, lf) => s.siteFail g code lf
  | none =>
    let rate := (commonRate (getField cap.w1 (bits 9 4)) level).getD 0
    let s := s.setReg (GST_NEG g) (packFields [(GST_NEG_NVC_M1, getField cap.w1 (bits 26 24)), (GST_NEG_FLIT, 1), (GST_NEG_RATE, rate),
      (GST_NEG_MODULES, mods), (GST_NEG_X32, if 2 ≤ level ∧ wbit cap.w1 10 then mods else 0)])
    ((s.wf (GST_STATUS g) GST_STATUS_RATE rate).siteState g gsTraining).framePush

/-- A populated site that waits in discovery. -/
def State.siteWaits (s : State) (g : Nat) : Bool :=
  s.mode != .off && s.sitePopulated g && s.rf (GST_STATUS g) GST_STATUS_STATE == gsDiscovery && !s.isFenced (locSite g)

def execGuestAdmission (g : Site) (cap : GuestCap) (s : State) : Out :=
  .next (if s.siteWaits g.val then s.admitSite g.val cap else s)

def execGuestAbsent (g : Site) (s : State) : Out := .next (if s.siteWaits g.val then s.siteFail g.val F_GUEST_ABSENT 1 else s)

/-- A guest resets, or its attachment has lost every module: it is admitted again. -/
def State.guestReset (s : State) (g : Nat) : State :=
  ((s.guestDrop g).wfs (GST_STATUS g) [(GST_STATUS_MOD_UP, 0), (GST_STATUS_X32, 0)]).siteState g gsDiscovery

def execGuestReset (g : Site) (s : State) : Out :=
  .next (if s.rf (GST_STATUS g.val) GST_STATUS_STATE = gsTraining ∨ s.rf (GST_STATUS g.val) GST_STATUS_STATE = gsReady then
    s.guestReset g.val else s)

/-! ## Sending flits (R386 to R389) -/

/-- Channels of an attachment: a guest's as negotiated, a Casement's all eight. -/
def State.attNvc (s : State) (a : Nat) : Nat := if a < 8 then 8 else s.rf (GST_NEG (a - 8)) GST_NEG_NVC_M1 + 1

/-- Whether channel v may send u units: POOL 4,096, RES 256, CAP_PCT 75 (R341, R389). -/
def attCredit (nvc : Nat) (used : List Nat) (v u : Nat) : Bool :=
  let shared := fun (n : Nat) => n - 256
  let total := (used.map shared).sum
  let mine := used.getD v 0
  let more := shared (mine + u) - shared mine
  decide (total + more ≤ 4096 - 256 * nvc) && decide (shared (mine + u) ≤ (4096 - 256 * nvc) * 75 / 100)

/-- Up to n units that may leave next, with the flags that a packet begins in them. -/
def takeUnits (nvc : Nat) : Nat → AttachSt → List (Bool × List Byte) × AttachSt
  | 0, x => ([], x)
  | n + 1, x =>
    match x.out with
    | [] => ([], x)
    | (v, first, u) :: rest =>
      let need := if first then 1 + getField ((bytesToWords (u.take 8)).getD 0 0) (bits 15 11) else 0
      if first && !attCredit nvc x.used v need then ([], x)
      else
        let r := takeUnits nvc n { x with out := rest, used := x.used.set v (x.used.getD v 0 + need) }
        ((first, u) :: r.1, r.2)

/-- A flit (Table 13-2); credit returns leave in IDLE flits. -/
def mkFlit (x : AttachSt) (kind : Nat) (us : List (Bool × List Byte)) : List Word :=
  let start := (us.zipIdx.map (fun p => if p.1.1 then 2 ^ p.2 else 0)).sum
  let w0 := packFields [(bits 3 0, 1), (bits 5 4, kind), (bits 15 6, x.txNext), (bits 25 16, (x.rxNext + 1023) % 1024),
    (bit 26, if x.rxAny then 1 else 0), (bits 33 27, start)]
  let units := us.flatMap (fun u => bytesToWords (u.2 ++ List.replicate (32 - u.2.length) 0))
  let ws := ([w0, 0] ++ units ++ List.replicate 28 0).take 30 ++ [0]
  let crc := (crc32c (wordsToBytes (ws ++ [0]))).toNat
  ws ++ [packFields [(bits 63 32, crc)]]

/-- Send one sequenced flit. -/
def sendFlit (x : AttachSt) (kind : Nat) (us : List (Bool × List Byte)) : AttachSt :=
  { x with unacked := x.unacked ++ [(x.txNext, mkFlit x kind us)], txNext := (x.txNext + 1) % 1024 }

/-- Send what waits while the window and the credits allow: a FRAME flit first (R387, R388). fuel: flits. -/
def State.pumpAttach : Nat → State → Nat → State
  | 0, s, _ => s
  | n + 1, s, a =>
    let x := s.csmAttach a
    if !x.live || decide (480 ≤ x.unacked.length) then s
    else if x.frameDue then
      State.pumpAttach n (s.setAttach a (sendFlit { x with frameDue := false } 2 [(false, natToBytes 6 s.frame)])) a
    else match takeUnits (s.attNvc a) 7 x with
      | ([], _) => s
      | (us, y) => State.pumpAttach n (s.setAttach a (sendFlit y 0 us)) a

def State.pump (s : State) (a : Nat) : State := s.pumpAttach ((s.csmAttach a).out.length + 2) a

/-- Queue a packet for a guest. -/
def State.guestSend (s : State) (g v : Nat) (bytes : List Byte) : State :=
  let x := s.csmAttach (8 + g)
  let us := (List.range (bytes.length / 32)).map (fun i => (v, i == 0, (bytes.drop (32 * i)).take 32))
  (s.setAttach (8 + g) { x with out := x.out ++ us }).pump (8 + g)

/-- The bytes of a packet to a guest: SEQ, ACK_VALID and RELAY are 0 (R389). -/
def State.guestPacket (s : State) (type v : Nat) (w2 : Word) (payload : List Byte) : List Byte :=
  let len := cdiv payload.length 32
  let bs := payload ++ List.replicate (32 * len - payload.length) 0
  let p : Packet := { w0 := packFields [(bits 3 0, 2), (bits 7 4, type), (bits 10 8, v), (bits 15 11, len)],
                      w1 := packFields [(bits 27 16, s.pkg)], w2 := w2, w3 := 0, payload := bs }
  wordsToBytes [p.w0, p.w1, p.w2, packFields [(bits 63 32, (packetCrc p).toNat)]] ++ bs

/-- Replies that wait for a guest leave as HEARTH messages (R401). -/
def State.guestReplies (s : State) (g : Nat) : State :=
  let es := sparseGet localsDefault s.locals (16 + g)
  if !(s.csmAttach (8 + g)).live || es.isEmpty then s
  else
    es.foldl (fun s e =>
      let m : OutMsg := { dst := 0, kind := 1, tag := getField (e.getD 0 0) (bits 63 48), origin := s.pkg, ring := 16 + g, body := e }
      s.guestSend g 0 (s.guestPacket ptHearth 0 (BitVec.ofNat 64 (hearthW2 m 0 1)) (wordsToBytes e)))
      ({ s with locals := sparseSet localsDefault s.locals (16 + g) [] } : State)

/-! ## Receiving flits (R388) -/

/-- FACK: flits up to it are acknowledged. A Casement's txNext follows its FACK. -/
def ackFlits (a : Nat) (x : AttachSt) (w0 : Word) : AttachSt :=
  let k := getField w0 (bits 25 16)
  if !wbit w0 26 then x
  else if a < 8 then (if x.txNext = (k + 1) % 1024 then x else { x with txNext := (k + 1) % 1024, replays := 0 })
  else
    let i := x.unacked.findIdx (fun f => f.1 == k)
    if i < x.unacked.length then { x with unacked := x.unacked.drop (i + 1), replays := 0 } else x

/-- A credit return. -/
def creditFlits (x : AttachSt) (w0 : Word) : AttachSt :=
  let v := getField w0 (bits 36 34)
  { x with used := x.used.set v (x.used.getD v 0 - getField w0 (bits 49 37)) }

/-- A flit's header checks: none: discarded. -/
def State.flitHead (s : State) (a kind : Nat) (f : Flit) : State × Option Word :=
  let w0 := f.words.getD 0 0
  let ws := f.words.take 31 ++ [putField (f.words.getD 31 0) (bits 63 32) 0]
  if !(s.csmAttach a).live then (s, none)
  else if f.words.length ≠ 32 ∨ (crc32c (wordsToBytes ws)).toNat ≠ getField (f.words.getD 31 0) (bits 63 32) then (s.flitCrc a, none)
  else if getField w0 (bits 3 0) ≠ 1 ∨ getField w0 (bits 5 4) ≠ kind then (s, none)
  else (s, some w0)

/-- Use FACK and CR of a flit, and send what they allow. -/
def State.flitAck (s : State) (a : Nat) (w0 : Word) : State :=
  (s.setAttach a (creditFlits (ackFlits a (s.csmAttach a) w0) w0)).pump a

/-- A sequenced flit is accepted where its FSEQ is the next one expected. -/
def State.flitSeq (s : State) (a kind : Nat) (f : Flit) : State × Bool :=
  let r := s.flitHead a kind f
  match r.2 with
  | none => (r.1, false)
  | some w0 =>
    let x := r.1.csmAttach a
    if getField w0 (bits 15 6) ≠ x.rxNext then (r.1, false)
    else ((r.1.setAttach a { x with rxNext := (x.rxNext + 1) % 1024, rxAny := true }).flitAck a w0, true)

/-! ## Packets of a guest (R400, R401) -/

/-- Answer a guest's request. -/
def State.guestCpl (s : State) (g : Nat) (p : Packet) (status : Nat) (bs : List Byte) : State :=
  s.guestSend g 2 (s.guestPacket ptMemCpl 2 (BitVec.ofNat 64 (getField p.w2 (bits 55 40) + 2 ^ 16 * status)) bs)

/-- A guest's request fails: recorded with its site. -/
def State.guestBad (s : State) (g code da : Nat) : State := s.note code (locSite g) (da / 256)

def State.guestRd (s : State) (g : Nat) (p : Packet) : State :=
  let r := s.arrayRead [] (getField p.w2 (bits 39 0)) (32 * (getField p.w2 (bits 59 56) + 1))
  match r.2 with
  | .data bs => r.1.guestCpl g p 0 bs
  | .addr a => (r.1.guestBad g F_ADDR_FAULT a).guestCpl g p 1 []
  | .ue a k => (r.1.memFault [] a k).guestCpl g p 3 []

def State.guestWr (s : State) (g : Nat) (p : Packet) : State :=
  match s.localWrite (getField p.w2 (bits 39 0)) p.payload true with
  | .ok s' => s'.guestCpl g p 0 []
  | .error (.readonly a) => (s.guestBad g F_READONLY_WRITE a).guestCpl g p 2 []
  | .error (.uncorrectable a) => (s.memFault [] a true).guestCpl g p 3 []
  | .error (.addrFault a) => (s.guestBad g F_ADDR_FAULT a).guestCpl g p 1 []
  | .error (.linkDown _) => s.guestCpl g p 4 []

/-- A HEARTH packet of a guest: a command, complete with its last segment. -/
def State.guestHearth (s : State) (g : Nat) (p : Packet) : State :=
  if getField p.w2 (bits 3 0) ≠ 1 ∨ getField p.w2 (bits 7 4) ≠ mkCommand then s
  else
    let x := s.csmAttach (8 + g)
    let seg := getField p.w2 (bits 15 8)
    let got := if seg = 0 then [] else x.msg
    let ws := got ++ bytesToWords p.payload
    if 64 * seg ≠ got.length then s.setAttach (8 + g) { x with msg := [] }
    else if seg = getField p.w2 (bits 23 16) then
      let s := s.setAttach (8 + g) { x with msg := [] }
      s.takeCmd { via := .guest ⟨g % 4, Nat.mod_lt _ (by decide)⟩, w0 := ws.getD 0 0, w1 := ws.getD 1 0, w2 := ws.getD 2 0,
                  w3 := ws.getD 3 0, params := (ws.drop 4).take (getField (ws.getD 0 0) (bits 63 48) / 8) }
    else s.setAttach (8 + g) { x with msg := ws }

/-- A packet of a guest has arrived whole; a type that no guest may send is dropped. -/
def State.guestPkt (s : State) (g : Nat) (bs : List Byte) : State :=
  let w := bytesToWords (bs.take 32)
  let p : Packet := { w0 := w.getD 0 0, w1 := w.getD 1 0, w2 := w.getD 2 0, w3 := w.getD 3 0, payload := bs.drop 32 }
  let t := Packet.type p
  if t = ptMemRd then s.guestRd g p
  else if t = ptMemWr then s.guestWr g p
  else if t = ptHearth then s.guestHearth g p
  else s

/-- One unit of a DATA flit of a guest. -/
def State.guestUnit (s : State) (g : Nat) (first : Bool) (u : List Byte) : State :=
  let x := s.csmAttach (8 + g)
  let part := if first then u else if x.part.isEmpty then [] else x.part ++ u
  let len := getField ((bytesToWords (part.take 8)).getD 0 0) (bits 15 11)
  if part.isEmpty then s
  else if part.length = 32 * (1 + len) then (s.setAttach (8 + g) { x with part := [] }).guestPkt g part
  else s.setAttach (8 + g) { x with part := part }

/-- DATA_FLIT: the packets it completes are delivered. -/
def State.dataFlit (s : State) (a : Nat) (f : Flit) : State :=
  let r := s.flitSeq a 0 f
  if !r.2 || !isGuest a then r.1
  else
    let bs := wordsToBytes ((f.words.drop 2).take 28)
    let w0 := f.words.getD 0 0
    ((List.range 7).foldl (fun s u => s.guestUnit (a - 8) (wbit w0 (27 + u)) ((bs.drop (32 * u)).take 32)) r.1).guestReplies (a - 8)

def execDataFlit (a : Attach) (f : Flit) (s : State) : Out := .next (s.dataFlit a.val f)

/-- IDLE_FLIT. -/
def execIdleFlit (a : Attach) (f : Flit) (s : State) : Out :=
  .next (let r := s.flitHead a.val 1 f
    match r.2 with
    | some w0 => r.1.flitAck a.val w0
    | none => r.1)

/-- FRAME_FLIT: sequenced like a DATA flit; the counter it carries is the sender's, which this end already has. -/
def execFrameFlit (a : Attach) (f : Flit) (s : State) : Out := .next (s.flitSeq a.val 2 f).1

/-- A frame has begun: a FRAME flit is due to every guest at level 2 (R387), and replies that wait leave. -/
def State.attachFrame (s : State) : State :=
  (List.range 4).foldl (fun s g =>
    let x := s.csmAttach (8 + g)
    if !x.live then s
    else
      let s := if s.rf HRT_FEATURE HRT_FEATURE_FRAME_PUSH = 2 then (s.setAttach (8 + g) { x with frameDue := true }).pump (8 + g) else s
      s.guestReplies g) s

/-! ## Training and widths (R391 to R394) -/

/-- An attachment trains again: after its one re-train of R393 where re is true. -/
def State.attRetrain (s : State) (a : Nat) (re : Bool) : State :=
  let x := s.csmAttach a
  let s := s.setAttach a { x with live := false, mine := none, peer := none, retrained := re, replays := 0 }
  if a < 8 then s else (s.satf (GST_ERR (a - 8)) GST_ERR_RETRAINS 1).siteState (a - 8) gsTraining

/-- FLIT_REPLAY: the unacknowledged flits go again; the eighth replay of one re-trains the attachment. -/
def State.flitReplay (s : State) (a : Nat) : State :=
  let x := s.csmAttach a
  if !x.live || (isGuest a && x.unacked.isEmpty) then s
  else
    let s := if a < 8 then s else s.satf (GST_ERR (a - 8)) GST_ERR_REPLAYS x.unacked.length
    if x.replays + 1 < 8 then s.setAttach a { x with replays := x.replays + 1 } else s.attRetrain a false

def execFlitReplay (a : Attach) (s : State) : Out := .next (s.flitReplay a.val)

/-- Traffic runs again. -/
def State.attUp (s : State) (a : Nat) : State :=
  let x := s.csmAttach a
  let s := s.setAttach a { x with live := true, retrained := false, replays := 0 }
  if a < 8 then s else ((s.siteState (a - 8) gsReady).framePush).pump a

/-- The reports still differ: full reset, or a fence where the mismatch recurs (R393, R394). -/
def State.widthFail (s : State) (a : Nat) : State :=
  let x := s.csmAttach a
  let s := (s.raise F_D2D_WIDTH_MISMATCH (attLoc a) 0).setMods a 0 0
  if x.fullReset then
    (if a < 8 then (s.setAttach a { x with live := false }).raise F_CASEMENT_LOST (locCasement a) 0
     else (s.fence (locSite (a - 8)) F_D2D_WIDTH_MISMATCH).siteDown (a - 8) 6)
  else
    let s := s.setAttach a { AttachSt.init with fullReset := true, resetting := true }
    if a < 8 then s else (s.wf (GST_STATUS (a - 8)) GST_STATUS_LAST_FAULT 6).siteState (a - 8) gsResetting

/-- Reports that differ: the one re-train at the smaller width, or the failure. -/
def State.widthDiffers (s : State) (a m x : Nat) : State :=
  let s := s.widthCount a
  if (s.csmAttach a).retrained || m == 0 then s.widthFail a
  else (s.setMods a m x).attRetrain a true

/-- Compare both reports, where both are held. -/
def State.widthCompare (s : State) (a : Nat) : State :=
  match (s.csmAttach a).mine, (s.csmAttach a).peer with
  | some (m, x), some (_, pm, px, _) =>
    if m = pm ∧ x = px then
      (if m ≠ 0 then s.attUp a else if a < 8 then s else s.guestReset (a - 8))
    else s.widthDiffers a (m &&& pm) (x ||| px)
  | _, _ => s

/-- Whether an attachment may train now. -/
def State.attTrains (s : State) (a : Nat) : Bool :=
  let x := s.csmAttach a
  s.mode != .off && !x.live && !x.resetting && x.mine.isNone && !s.isFenced (attLoc a) &&
    (if a < 8 then s.rf (CSM_STATUS a) CSM_STATUS_POWER == 1 || s.rf (CSM_STATUS a) CSM_STATUS_POWER == 2
     else s.rf (GST_STATUS (a - 8)) GST_STATUS_STATE == gsTraining)

/-- Modules and x32 modules that training leaves in service: those negotiated, and after a re-train of R393 the smaller width. -/
def State.trainedMods (s : State) (a mods x32 : Nat) : Nat × Nat :=
  let re := (s.csmAttach a).retrained
  let pool := if a < 8 then 0xFFFF else s.rf (GST_NEG (a - 8)) GST_NEG_MODULES
  let may := if s.attLevel a < 2 then 0 else if a < 8 then 0xFFFF else s.rf (GST_NEG (a - 8)) GST_NEG_X32
  let want := if re then x32 ||| s.modX32 a else x32
  let m := (if re then mods &&& s.modUp a else mods) &&& pool
  let m := m &&& (0xFFFF - (want &&& (0xFFFF - may)))
  (m, want &&& m)

/-- MODULE_TRAINING_COMPLETE: the features of the attachment are settled, and this end reports (R391, R396). -/
def State.attTrained (s : State) (a mods x32 : Nat) : State :=
  let r := s.trainedMods a mods x32
  let x := s.csmAttach a
  let n := (x.serial + 1) % 16
  let s := (s.setAttach a { x with mine := some r, serial := n }).setMods a r.1 r.2
  let s :=
    if a < 8 then
      let l2 := s.attLevel a == 2
      s.wfs (CSM_D2D a) [(CSM_D2D_RATE, if l2 then 5 else 3), (CSM_D2D_X32_LEVEL, if l2 then 1 else 0)]
    else s.wfs (GST_WIDTH (a - 8)) [(GST_WIDTH_LOCAL_MODS, r.1), (GST_WIDTH_LOCAL_X32, r.2), (GST_WIDTH_LOCAL_SERIAL, n)]
  s.widthCompare a

def execModuleTrainingComplete (a : Attach) (mods x32 : BitVec 16) (s : State) : Out :=
  .next (if s.attTrains a.val then s.attTrained a.val mods.toNat x32.toNat else s)

/-- WIDTH_REPORT: the newest is kept (R392). -/
def State.widthReport (s : State) (a : Nat) (w : Word) : State :=
  let x := s.csmAttach a
  let n := getField w (bits 7 4)
  let mods := if a < 8 then getField w (bits 23 8) else getField w (bits 11 8)
  let x32 := if a < 8 then getField w (bits 39 24) else getField w (bits 27 24)
  let newer := match x.peerSerial with | none => true | some h => let d := (n + 16 - h) % 16; decide (1 ≤ d) && decide (d ≤ 7)
  if s.mode = .off ∨ getField w (bits 3 0) ≠ 1 ∨ !newer ∨ x.resetting ∨ x.live ∨ s.isFenced (attLoc a) then s
  else
    let s := s.setAttach a { x with peer := some (n, mods, x32, wbit w 40), peerSerial := some n }
    let s := if a < 8 then s
      else s.wfs (GST_WIDTH (a - 8)) [(GST_WIDTH_PEER_MODS, mods), (GST_WIDTH_PEER_X32, x32), (GST_WIDTH_PEER_SERIAL, n)]
    s.widthCompare a

def execWidthReport (a : Attach) (w : Word) (s : State) : Out := .next (s.widthReport a.val w)

/-- WIDTH_REPORT_TIMEOUT: this end's own width is the smaller one it knows. -/
def execWidthReportTimeout (a : Attach) (s : State) : Out :=
  .next (match (s.csmAttach a.val).mine, (s.csmAttach a.val).peer with
    | some (m, x), none => if (s.csmAttach a.val).live then s else s.widthDiffers a.val m x
    | _, _ => s)

/-- UCIE_MODULE_DOWN: without a module a Casement's attachment carries nothing, and a guest is reset (R385, R390). -/
def State.moduleDown (s : State) (a m : Nat) : State :=
  let up := s.modUp a
  if up / 2 ^ m % 2 = 0 then s
  else
    let s := s.setMods a (up - 2 ^ m) (s.modX32 a &&& (0xFFFF - 2 ^ m))
    if up - 2 ^ m ≠ 0 then s
    else if a < 8 then s.setAttach a { s.csmAttach a with live := false, mine := none, peer := none }
    else s.guestReset (a - 8)

def execUcieModuleDown (a : Attach) (m : Fin 16) (s : State) : Out := .next (s.moduleDown a.val m.val)

/-- D2D_FULL_RESET_END: discovery again; cap: what a guest die answers. -/
def State.fullResetEnd (s : State) (a : Nat) (cap : Option GuestCap) : State :=
  let x := s.csmAttach a
  if !x.resetting then s
  else
    let s := s.setAttach a { x with resetting := false }
    if a < 8 then s
    else
      let s := s.siteState (a - 8) gsDiscovery
      match cap with
      | some c => s.admitSite (a - 8) c
      | none => s.siteFail (a - 8) F_GUEST_ABSENT 1

def execD2dFullResetEnd (a : Attach) (cap : Option GuestCap) (s : State) : Out := .next (s.fullResetEnd a.val cap)

/-! ## The guest-die window (R402) -/

/-- GUEST_WINDOW_ACCESS: one sideband access; answer: what the guest answers a read, none where nothing answers within 10 us. -/
def State.guestAccess (s : State) (g offset : Nat) (write : Option Word) (answer : Option Word) : State :=
  let addr := 0x800000 + siteBase g + offset
  let off := s.rf (GST_STATUS g) GST_STATUS_STATE == gsOff || (match s.powerJob (locSite g) with | some j => j.busy | none => false)
  let zero : State := { s with guestAnswer := 0 }
  if off then zero.mgmtError (locSite g) addr
  else if 4096 * s.rf (GST_CAP g 1) (bits 47 32) ≤ offset then (if write.isSome then s else zero)
  else match answer with
    | none => (if write.isSome then s else zero).satf (GST_ERR g) GST_ERR_SB_TIMEOUTS 1
    | some v => if write.isSome then s else { s with guestAnswer := v }

def execGuestWindowAccess (g : Site) (offset : Nat) (write : Option Word) (answer : Option Word) (s : State) : Out :=
  .next (s.guestAccess g.val offset write answer)

/-! ## Porch lanes (R408) -/

/-- The DARARN_E link whose group holds a lane; none: the lane is OFF or PCIE. -/
def State.porchLink (s : State) (n : Nat) : Option Nat :=
  match getField (s.reg PCH_CFG) (PCH_CFG_LANE n) with
  | 1 => some (128 + n / 4)
  | 2 => some (128 + n / 8 * 2)
  | _ => none

/-- PORCH_LANE_FAILURE: through a re-train, or the link goes down where fewer than half its lanes are up. -/
def State.porchFail (s : State) (n : Nat) : State :=
  match s.porchLink n with
  | none => s
  | some l =>
    if s.rf (PCH_LANE n) PCH_LANE_STATE ≠ plUp then s
    else
      let lanes := s.porchLanes l
      let up := (lanes.filter (fun m => m != n && wbit (s.reg PCH_STATUS) m)).length
      if 2 * up < lanes.length then (s.setPorch n plDown).goDown l 9
      else (s.startRetrain l).setPorch n plDown

def execPorchLaneFailure (n : Fin 32) (s : State) : Out := .next (s.porchFail n.val)

/-! ## Seams (R174) -/

/-- The wings of a seam (R14), and the port of each wing that it is on. -/
def seamEnds (h : Nat) : Nat × Nat := match h with | 0 => (0, 1) | 1 => (2, 3) | 2 => (0, 2) | _ => (1, 3)

def seamPort (h : Nat) : Field := if h < 2 then HAL_STATUS_PORT0 else HAL_STATUS_PORT1

def State.seamUp (s : State) (h : Nat) : Bool := s.rf (HAL_STATUS (seamEnds h).1) (seamPort h) != 2

/-- Wings that a set of wings reaches over seams that are up, lost wings apart. -/
def State.wingStep (s : State) (ws : List Nat) : List Nat :=
  (List.range 4).filter (fun w => !s.wingLost w && (ws.contains w || (List.range 4).any (fun h => s.seamUp h &&
    ((seamEnds h).1 == w && ws.contains (seamEnds h).2 || (seamEnds h).2 == w && ws.contains (seamEnds h).1))))

def State.wingGroup (s : State) (w : Nat) : List Nat := s.wingStep (s.wingStep (s.wingStep [w]))

/-- The group of wings that the package keeps: the largest, of equal ones that of the active Hearth (HA in W0, HB in W3). -/
def State.keptWings (s : State) : List Nat :=
  let gs := ((List.range 4).filter (fun w => !s.wingLost w)).map s.wingGroup
  let most := (gs.map List.length).foldl max 0
  let best := gs.filter (fun g => g.length == most)
  let home := if s.activeHb then 3 else 0
  (best.find? (fun g => g.contains home)).getD (best.headD [])

/-- A seam is down: its state, then the wings cut off. -/
def State.seamDown (s : State) (h : Nat) : State :=
  let s := (s.wf (HAL_STATUS (seamEnds h).1) (seamPort h) 2).wf (HAL_STATUS (seamEnds h).2) (seamPort h) 2
  let s := s.raise F_SEAM_DOWN (locSeam h) 0
  let kept := s.keptWings
  ((List.range 4).filter (fun w => !s.wingLost w && !kept.contains w)).foldl (fun s w => s.raise F_WING_LOST (locWing w) 0) s

def execSeamDown (h : Seam) (s : State) : Out := .next (if s.mode != .off && s.seamUp h.val then s.seamDown h.val else s)

end Sys2Proof.Machine
end

