-- ==== Sys2Proof/Machine/Cellar.lean ====
section
/-!
DEFINITION. Sys2Proof/Machine/Cellar.lean: the refill of a queue from the Cellar with its error checks, and the writes of the
watermark registers (R191 to R204, Table 6-1).
-/

set_option Elab.async false

namespace Sys2Proof.Machine

/-! ## Checking a line (R192, R193) -/

/-- The word with bit k inverted. -/
def flipBit (w : Word) (k : Nat) : Word := w ^^^ BitVec.ofNat 64 (2 ^ k)

/-- How one (72,64) codeword of a line reads. -/
inductive CodeRead where
  | clean
  | corrected (w : Word)
  | uncorrectable
  deriving DecidableEq, Repr

/-- Read a data word with its check byte: one inverted bit of the 72 is corrected. -/
def readCode (w : Word) (chk : BitVec 8) : CodeRead :=
  if Config.secded w = chk then .clean
  else if (List.range 8).any (fun k => Config.secded w == chk ^^^ BitVec.ofNat 8 (2 ^ k)) then .corrected w
  else match (List.range 64).find? (fun k => Config.secded (flipBit w k) == chk) with
    | some k => .corrected (flipBit w k)
    | none => .uncorrectable

/-- The codewords 0 to 6 of a line, read. -/
def lineCodes (line : CellarLine) : List (Word × CodeRead) :=
  (List.range 7).map (fun k =>
    let w := line.words.getD k 0
    (w, readCode w (BitVec.ofNat 8 (getField (line.words.getD 7 0) (bits (8 * k + 7) (8 * k))))))

/-- Corrected words of a line. -/
def lineCorrected (line : CellarLine) : Nat :=
  ((lineCodes line).filter (fun c => match c.2 with | .corrected _ => true | _ => false)).length

/-- The 56 bytes of a line, corrected. -/
def lineBytes (line : CellarLine) : List Byte :=
  wordsToBytes ((lineCodes line).map (fun c => match c.2 with | .corrected w => w | _ => c.1))

/-- CAUSE of CEL_LASTUE for an uncorrectable line: 2 a report of the stack, 0 a word, 1 the sequence number. -/
def lineCause (line : CellarLine) (seq : Nat) : Option Nat :=
  if line.stackUe then some 2
  else if (lineCodes line).any (fun c => c.2 == .uncorrectable) then some 0
  else if getField (line.words.getD 7 0) (bits 63 56) ≠ seq % 256 then some 1
  else none

/-! ## The middle of a queue -/

/-- The oldest line has left the middle: its segment goes back to the pool with its last line (R195). base: first byte of the
CELLAR region. The number is of segments returned. -/
def popMid (base : Nat) (q : Queue) : Queue × Nat :=
  let mid := q.mid.drop 1
  let holds := fun (g : Nat) => mid.any (fun e => (e.1 - base) / 65536 == g)
  let segs := q.segs.filter holds
  let tail := if mid.isEmpty then q.tail.drop q.skip else q.tail
  ({ q with mid := mid, segs := segs, used := if segs.isEmpty then 0 else q.used, tail := tail,
            skip := if mid.isEmpty then 0 else q.skip }, q.segs.length - segs.length)

/-- Take the oldest line into the head; bytes of an entry dropped before do not join. -/
def refillHead (base : Nat) (q : Queue) (bs : List Byte) : Queue × Nat :=
  let k := min q.skip bs.length
  popMid base { q with head := q.head ++ bs.drop k, skip := q.skip - k }

/-- An entry of a queue as its first byte and its length, counted from the head's first byte. -/
def entrySpans : Nat → List Nat → List (Nat × Nat)
  | _, [] => []
  | off, n :: rest => (off, n) :: entrySpans (off + n) rest

/-- Drop every entry with a byte in the oldest line; the number is of entries dropped (Table 6-1). -/
def dropLine (base : Nat) (q : Queue) : Queue × Nat × Nat :=
  let lo := q.head.length
  let hi := lo + (56 - min q.skip 56)
  let hit := fun (e : Nat × Nat) => decide (e.1 < hi) && decide (lo < e.1 + e.2)
  let spans := entrySpans 0 q.lens
  let gone := spans.filter hit
  let cut := match gone with | e :: _ => e.1 | [] => lo
  let stop := match gone.getLast? with | some e => e.1 + e.2 | none => hi
  let r := popMid base { q with head := q.head.take cut, lens := (spans.filter (fun e => !hit e)).map (fun e => e.2),
                                skip := (q.skip - 56) + (stop - hi) }
  (r.1, r.2, gone.length)

/-- Return segments to the pool. -/
def State.freeSegs (s : State) (k : Nat) : State :=
  if k = 0 then s else s.wf CEL_STATUS CEL_STATUS_SEG_FREE (s.rf CEL_STATUS CEL_STATUS_SEG_FREE + k)

/-- First byte of the CELLAR region. -/
def State.cellarBase (s : State) : Nat := match s.cellarRegion with | some r => s.rgnLo r | none => 0

/-- What becomes of a queue whose oldest line is uncorrectable (Table 6-1). -/
def State.lineLost (s : State) (n : Nat) : State :=
  if n < 1088 then s.goDown (n / 8) 6
  else if n < 1090 then s.dropQueue n
  else
    let before := queueLevel (s.queue n)
    let r := dropLine s.cellarBase (s.queue n)
    let s := ((s.setQueue n (passToHead n r.1)).freeSegs r.2.1).satf (CEL_QLEVEL n) CEL_QLEVEL_DROPPED r.2.2
    s.noticeFrom n before

/-- Record an uncorrectable line (R193, R194). -/
def State.cellarUe (s : State) (n cause a : Nat) : State :=
  let s := s.satf (CEL_QECC n) CEL_QECC_UE_COUNT 1
  let s := s.setReg CEL_LASTUE (packFields [(CEL_LASTUE_VALID, 1), (CEL_LASTUE_CAUSE, cause), (CEL_LASTUE_QUEUE, n),
    (CEL_LASTUE_DA, a)])
  let s := s.raise F_CELLAR_UE (locControl 5) n
  let s := if cause = 2 then
      (match s.home a with
        | some h => let u := s.memUe h a; if u.2 then u.1.nominate h.stack h.channel else u.1
        | none => s)
    else s
  s.lineLost n

/-- What a refill that went well lets go on: stalled packets, entries of an event queue. -/
def State.refilled (s : State) (n : Nat) : State :=
  if n < 1088 then s.linkRefill (s.link (n / 8)).stalled.length (n / 8) (n % 8)
  else if 1096 ≤ n ∧ n < 1112 then s.drainEvq (n - 1096)
  else s

/-- QUEUE_REFILL: the head has fallen to half full, and the middle holds a line (R191). -/
def State.queueRefill (s : State) (n : Nat) (line : CellarLine) : State :=
  let q := s.queue n
  match q.mid with
  | [] => s
  | (a, seq) :: _ =>
    if queueCap n < 2 * q.head.length then s
    else
      let ce := lineCorrected line
      let s := (s.satf (CEL_QECC n) CEL_QECC_CE_COUNT ce).satf CEL_CE_TOTAL CEL_CE_TOTAL_COUNT ce
      match lineCause line seq with
      | some cause => s.cellarUe n cause a
      | none =>
        let r := refillHead s.cellarBase q (lineBytes line)
        ((s.setQueue n (passToHead n r.1)).freeSegs r.2).refilled n

def execQueueRefill (q : QueueIdx) (line : CellarLine) (s : State) : Out := .next (s.queueRefill q.val line)

/-! ## CEL_QWM and CEL_QMARK (R199 to R204) -/

/-- CEL_QWM is written: a HIGH that is not above LOW is ignored and recorded; else both comparisons are evaluated. -/
def State.celQwm (s : State) (n : Nat) (v : Word) : State :=
  if getField v CEL_QWM_HIGH ≤ getField v CEL_QWM_LOW then s.mgmtError (locControl 5) (CEL_QWM n)
  else
    let level := queueLevel (s.queue n)
    let hi := s.highAt n level
    let lo := s.lowAt n level
    let r := (s.setReg (CEL_QWM n) v).crossingsW n hi lo
    r.1.notices n r.2.1 r.2.2

/-- CEL_QWM_WRITE. A reserved queue has no registers in use. -/
def execCelQwmWrite (q : QueueIdx) (v : Word) (s : State) : Out := .next (if queueUsed q.val then s.celQwm q.val v else s)

/-- 1 is written to CROSSED_H (h) or CROSSED_L (l): the notice is re-armed. -/
def State.crossedClear (s : State) (n : Nat) (h l : Bool) : State :=
  let s := if h then s.wf (CEL_QMARK n) CEL_QMARK_CROSSED_H 0 else s
  if l then s.wf (CEL_QMARK n) CEL_QMARK_CROSSED_L 0 else s

def execCrossedClear (q : QueueIdx) (h l : Bool) (s : State) : Out := .next (s.crossedClear q.val h l)

/-- 1 is written to CNT_CLR. -/
def State.celCntClear (s : State) (n : Nat) : State :=
  s.wfs (CEL_QMARK n) [(CEL_QMARK_COUNT_H, 0), (CEL_QMARK_COUNT_L, 0)]

def execCelCntClr (q : QueueIdx) (s : State) : Out := .next (s.celCntClear q.val)

end Sys2Proof.Machine
end

