-- ==== Sys2Proof/Machine/Pantry.lean ====
section
/-!
DEFINITION. Sys2Proof/Machine/Pantry.lean: the KV block directory: publish, resolve, release, evict, the age sweep, leases, and
publish lists applied after a step commits (R210 to R225).
-/

set_option Elab.async false

namespace Sys2Proof.Machine

/-- A wing's Pantry is gone: its wing is lost (R225), or a repair disables it (Table 17-2). -/
def State.pantryGone (s : State) (w : Nat) : Bool := s.wingLost w || s.baseOff.contains (300 + w)

/-! ## Keys and entries (R210 to R213) -/

/-- A key as one number: SEQ + BLOCK * 2^32, as W1[47:0] holds it. -/
abbrev PKey := Nat

/-- The key hash: CRC-32C over SEQ, then BLOCK, little-endian. -/
def keyHash (k : PKey) : Nat := (crc32c (natToBytes 6 k)).toNat

/-- The wing of a key. -/
def keyWing (k : PKey) : Nat := keyHash k % 4

/-- The set of a key. -/
def keySet (k : PKey) : Nat := keyHash k / 4 % 16384

/-- The place of way v of a set of a wing. -/
def slotOf (wing set v : Nat) : Nat := 131072 * wing + set * 8 + v

/-- The places of a key's set, by way. -/
def keySlots (k : PKey) : List Nat := (List.range 8).map (slotOf (keyWing k) (keySet k))

def stEmpty : Nat := 0
def stReady : Nat := 1
def stEvicting : Nat := 2
def stLost : Nat := 3

def PantryEntry.state (e : PantryEntry) : Nat := getField e.w0 (bits 5 4)
def PantryEntry.key (e : PantryEntry) : PKey := getField e.w1 (bits 47 0)
def PantryEntry.pins (e : PantryEntry) : Nat := getField e.w2 (bits 15 0)
def PantryEntry.pkg (e : PantryEntry) : Nat := getField e.w0 (bits 19 8)
def PantryEntry.addr (e : PantryEntry) : Nat := getField e.w0 (bits 63 24)
/-- Bytes of the block. -/
def PantryEntry.len (e : PantryEntry) : Nat := (getField e.w2 (bits 63 48) + 1) * 64

def State.entry (s : State) (i : Nat) : PantryEntry := sparseGet pantryDefault s.pantry i

/-- Put an entry in its place, with its CHECK; an EMPTY one leaves nothing. -/
def State.setEntry (s : State) (i : Nat) (e : PantryEntry) : State :=
  { s with pantry := sparseSet pantryDefault s.pantry i (if e.state = stEmpty then pantryDefault i else sealEntry e) }

/-- An entry read from the array: a CHECK mismatch empties it, is counted and told to host software (R213). -/
def State.checkEntry (s : State) (i : Nat) : State :=
  let e := s.entry i
  if e.state = stEmpty ∨ getField e.w3 (bits 63 32) = entryCheck { e with w3 := 0 } then s
  else
    let w := i / 131072
    let s := s.setEntry i (pantryDefault i)
    let s := (s.satf (PNT_ECC w) PNT_ECC_DROP_COUNT 1).wfs (PNT_ECC w)
      [(PNT_ECC_SET, i / 8 % 16384), (PNT_ECC_WAY, i % 8), (PNT_ECC_LAST_VALID, 1)]
    s.hostEvent 0x0032 [packFields [(bits 1 0, w), (bits 15 2, i / 8 % 16384), (bits 18 16, i % 8)]]

/-- Read the set of a key. -/
def State.readSet (s : State) (k : PKey) : State := (keySlots k).foldl (fun s i => s.checkEntry i) s

/-- The place that holds a key. -/
def State.findKey (s : State) (k : PKey) : Option Nat :=
  (keySlots k).find? (fun i => (s.entry i).state != stEmpty && (s.entry i).key == k)

/-- NOW of R216: frame counter bits [25:10]. -/
def State.ageNow (s : State) : Nat := s.frame / 1024 % 65536

/-- The age of an entry, a STALE one above all others. -/
def State.ageOf (s : State) (e : PantryEntry) : Nat :=
  (s.ageNow + 65536 - getField e.w1 (bits 63 48)) % 65536 + (if wbit e.w0 6 then 65536 else 0)

/-- AGE is set and STALE cleared. -/
def State.touch (s : State) (e : PantryEntry) : PantryEntry :=
  { e with w0 := putField e.w0 (bit 6) 0, w1 := putField e.w1 (bits 63 48) s.ageNow }

/-! ## Freeing (R218) -/

/-- The PANTRY_FREED event of an entry that is freed. -/
def State.freedEvent (s : State) (e : PantryEntry) : State := s.hostEvent 0x0030 [e.w0, e.w1, e.w2, e.w3]

/-- APPLIED for the evictions that waited for the last pin of a place's key. -/
def State.evictDone (s : State) (i : Nat) (k : PKey) (status : Nat) : State :=
  let mine := fun (e : Nat × Nat × Nat × Nat × Nat) => e.1 == i && e.2.1 == k
  (s.evicts.filter mine).foldl (fun s e => s.applied e.2.2.1 e.2.2.2.1 e.2.2.2.2 0x333 status false)
    { s with evicts := s.evicts.filter (fun e => !mine e) }

/-- Take one pin off the entry at a place, where it still holds the key; with the last pin an EVICTING entry is freed. -/
def State.unpin (s : State) (i : Nat) (k : PKey) : State :=
  let s := s.checkEntry i
  let e := s.entry i
  if e.state = stEmpty ∨ e.key ≠ k then s.evictDone i k stFaulted
  else
    let e' := { e with w2 := putField e.w2 (bits 15 0) (e.pins - 1) }
    let s := if e.state = stEvicting ∧ e'.pins = 0 then (s.setEntry i (pantryDefault i)).freedEvent (sealEntry e')
      else s.setEntry i e'
    if e'.pins = 0 then s.evictDone i k stOk else s

/-! ## Publishing (R215, R217) -/

def prOk : Nat := 0
def prCapacity : Nat := 1
def prBusy : Nat := 2
def prFaulted : Nat := 3
def prLinkDown : Nat := 4
def prBadParam : Nat := 5

/-- The READY entry that a list entry places: location and key from the list, GEN and PINS as given. -/
def State.newEntry (s : State) (e : PantryEntry) (gen pins : Nat) : PantryEntry :=
  { w0 := packFields [(bits 3 0, 1), (bits 5 4, stReady), (bits 19 8, e.pkg), (bits 21 20, getField e.w0 (bits 21 20)),
      (bits 63 24, e.addr)],
    w1 := packFields [(bits 47 0, e.key), (bits 63 48, s.ageNow)],
    w2 := packFields [(bits 15 0, pins), (bits 47 32, gen), (bits 63 48, getField e.w2 (bits 63 48))], w3 := 0 }

/-- A list entry out of form: its VERSION, STATE, alignment, or an end past local memory's addresses. -/
def entryMalformed (e : PantryEntry) : Bool :=
  getField e.w0 (bits 3 0) != 1 || e.state != stReady || e.addr % 64 != 0 || decide (2 ^ 40 < e.addr + e.len)

/-- The oldest evictable way of a set, ties to the lowest. -/
def State.victim (s : State) (k : PKey) : Option Nat :=
  ((keySlots k).filter (fun i => (s.entry i).state == stReady && (s.entry i).pins == 0)).foldl (fun acc i =>
    match acc with
    | none => some i
    | some j => if s.ageOf (s.entry j) < s.ageOf (s.entry i) then some i else some j) none

/-- Place a key that the set does not hold: an EMPTY way, else a LOST one, else the victim's. -/
def State.insertKey (s : State) (k : PKey) (e : PantryEntry) : State × Nat :=
  let fresh := s.newEntry e 0 0
  let way := fun (st : Nat) => (keySlots k).find? (fun i => (s.entry i).state == st)
  match way stEmpty, way stLost, s.victim k with
  | some i, _, _ => (s.setEntry i fresh, prOk)
  | none, some i, _ => (s.setEntry i fresh, prOk)
  | none, none, some i => ((s.freedEvent (s.entry i)).setEntry i fresh, prOk)
  | none, none, none => (s, prCapacity)

/-- Publish one entry: the result of Table 7-4. -/
def State.publishOne (s : State) (e : PantryEntry) : State × Nat :=
  let k := e.key
  if entryMalformed e then (s, prBadParam)
  else if s.pantryGone (keyWing k) then (s, prFaulted)
  else
    let s := s.readSet k
    match s.findKey k with
    | none => s.insertKey k e
    | some i =>
      let old := s.entry i
      let next := s.newEntry e (getField old.w2 (bits 47 32) + 1) old.pins
      if old.state = stLost then (s.setEntry i next, prOk)
      else if old.state = stReady ∧ old.pins = 0 then ((s.freedEvent old).setEntry i next, prOk)
      else (s, prBusy)

/-! ## Publish lists (R223, R224) -/

/-- Entry i of a publish list in local memory. -/
def State.listEntry (s : State) (da i : Nat) : PantryEntry :=
  let a := da + 64 + 32 * i
  { w0 := memWord s.mem a, w1 := memWord s.mem (a + 8), w2 := memWord s.mem (a + 16), w3 := memWord s.mem (a + 24) }

/-- Write an entry's result into W3[3:0] of its list entry. -/
def State.putResult (s : State) (da i r : Nat) : State :=
  let a := da + 64 + 32 * i + 24
  match s.engineWrite a (wordsToBytes [putField (memWord s.mem a) (bits 3 0) r]) with
  | .ok s' => s'
  | .error _ => s

/-- Apply n entries of a list by `one`, their results written; counts by result. -/
def State.applyList (s : State) (da n : Nat) (one : State → PantryEntry → State × Nat) : State × List Nat :=
  (List.range n).foldl (fun acc i =>
    let r := one acc.1 (acc.1.listEntry da i)
    (r.1.putResult da i r.2, acc.2.modify r.2 (fun c => c + 1))) (s, [0, 0, 0, 0, 0, 0])

/-- W2 and W3 of the counts of results. -/
def countWords (cs : List Nat) : List Word :=
  [packFields [(bits 15 0, cs.getD prOk 0), (bits 31 16, cs.getD prCapacity 0), (bits 47 32, cs.getD prBusy 0),
     (bits 63 48, cs.getD prFaulted 0)],
   packFields [(bits 15 0, cs.getD prLinkDown 0), (bits 31 16, cs.getD prBadParam 0)]]

/-- The header of a list: VERSION, COUNT, TARGET. -/
def State.listHead (s : State) (da : Nat) : Nat × Nat × Nat :=
  let w := memWord s.mem da
  (getField w (bits 3 0), getField w (bits 31 16), getField w (bits 43 32))

/-- The list lies in readable local memory, of as many entries as its header says. -/
def State.listReadable (s : State) (da : Nat) : Bool :=
  daWindow da == 0 && (match s.localRead da (64 + 32 * (s.listHead da).2.1) with | .ok _ => true | .error _ => false)

/-- PANTRY_PUBLISH. -/
def State.pantryPublish (s : State) (c : Cmd) : State :=
  let da := c.pf 0 47 0
  let h := s.listHead da
  if !s.listReadable da then s.reply c stBadParam []
  else if h.1 ≠ 1 then s.reply c stBadVersion []
  else if h.2.1 = 0 then s.reply c stBadParam []
  else
    let r := s.applyList da h.2.1 (fun s e => s.publishOne e)
    r.1.reply c stOk (countWords r.2)

def execPantryPublish (c : Cmd) (s : State) : Out := .next (s.command c 0x330 (fun s => s.pantryPublish c))

/-- What the Pantry of another package answers for one entry of a commit's list: LINK_DOWN where no link reaches it, else open. -/
def State.publishAway (s : State) (p : Nat) : State × Nat :=
  if (s.routeTo p).isNone then (s, prLinkDown)
  else
    let w := s.draw
    (w.2, [prOk, prCapacity, prBusy, prFaulted, prBadParam].getD (w.1.toNat % 5) 0)

/-- Apply the publish list of a committed step, and send PUBLISH_DONE. A list that cannot be read has no entry (log entry). -/
def State.applyPublish (s : State) (da : Nat) : State :=
  let h := s.listHead da
  if !s.listReadable da || h.1 != 1 then s.hostEvent 0x0031 (countWords [])
  else
    let r := s.applyList da h.2.1 (fun s e => if s.isSelf h.2.2 then s.publishOne e else s.publishAway h.2.2)
    r.1.hostEvent 0x0031 (countWords r.2)

/-- PUBLISH_LIST_APPLY: the list of a step that has committed, whose STOREs are therefore written (R149, R224). -/
def State.publishStep (s : State) (n : Nat) : State :=
  match s.publishes.find? (fun p => p.1 == n) with
  | none => s
  | some p => ({ s with publishes := s.publishes.erase p } : State).applyPublish p.2

def execPublishListApply (step : Nat) (s : State) : Out := .next (s.publishStep step)

/-! ## Resolving (R220 to R222) -/

def rsLocal : Nat := 0
def rsAnnex : Nat := 1
def rsMiss : Nat := 2
def rsLost : Nat := 3
def rsNoPath : Nat := 4
def rsPinFull : Nat := 5

/-- The lowest window of this package that covers a block of package p: the block's device address through it. -/
def State.windowTo (s : State) (p addr len : Nat) : Option Nat :=
  ((List.range 255).map (fun k => k + 1)).findSome? (fun k =>
    if s.winValid k && s.winPeer k == p && decide (s.winRbase k ≤ addr) && decide (addr + len ≤ s.winRbase k + s.winSize k) then
      some (2 ^ 40 * k + (addr - s.winRbase k)) else none)

/-- The path of a requester to a block: RESULT and DA. Which windows another package has is open. -/
def State.blockPath (s : State) (req : Nat) (e : PantryEntry) : State × Nat × Nat :=
  if e.pkg = req then (s, rsLocal, e.addr)
  else if req = s.pkg then
    match s.windowTo e.pkg e.addr e.len with
    | some da => (s, rsAnnex, da)
    | none => (s, rsNoPath, 0)
  else
    let w := s.draw
    (w.2, if wbit w.1 0 then rsAnnex else rsNoPath, w.1.toNat / 2 % 2 ^ 48)

/-- What resolving one key gives: state, table entry and the place pinned. -/
structure Resolved where
  s : State
  word : Word
  pin : Option Nat

/-- A table entry (Table 7-5). -/
def tableWord (result da pkg : Nat) : Word := packFields [(bits 47 0, da), (bits 50 48, result), (bits 62 51, pkg)]

/-- Count a lookup in PNT_HIT or PNT_MISS. -/
def State.countLookup (s : State) (k : PKey) (hit : Bool) : State :=
  if hit then s.addf (PNT_HIT (keyWing k)) PNT_HIT_COUNT 1 else s.addf (PNT_MISS (keyWing k)) PNT_MISS_COUNT 1

/-- A READY entry with a pin to give. -/
def State.resolveReady (s : State) (req : Nat) (k : PKey) (i : Nat) (e : PantryEntry) : Resolved :=
  let e' := s.touch e
  let r := s.blockPath req e
  if r.2.1 = rsNoPath then
    { s := (r.1.setEntry i e').countLookup k false, word := tableWord rsNoPath 0 e.pkg, pin := none }
  else
    { s := (r.1.setEntry i { e' with w2 := putField e'.w2 (bits 15 0) (e.pins + 1) }).countLookup k true,
      word := tableWord r.2.1 r.2.2 e.pkg, pin := some i }

/-- Resolve one key (R221). A key of a lost wing is a MISS (R225). -/
def State.resolveKey (s : State) (req : Nat) (k : PKey) : Resolved :=
  if s.pantryGone (keyWing k) then { s := s, word := tableWord rsMiss 0 0, pin := none }
  else
    let s := s.readSet k
    let no := fun (r p : Nat) => ({ s := s.countLookup k false, word := tableWord r 0 p, pin := none } : Resolved)
    match s.findKey k with
    | none => no rsMiss 0
    | some i =>
      let e := s.entry i
      if e.state = stEvicting then no rsMiss 0
      else if e.state = stLost then no rsLost e.pkg
      else if e.pins = 0xFFFF then no rsPinFull e.pkg
      else s.resolveReady req k i e

/-- Resolve keys in order: state, table words, pins taken. -/
def State.resolveKeys (s : State) (req : Nat) (ks : List PKey) : State × List Word × List (Nat × PKey) :=
  ks.foldl (fun acc k =>
    let r := acc.1.resolveKey req k
    (r.s, acc.2.1 ++ [r.word], acc.2.2 ++ (match r.pin with | some i => [(i, k)] | none => []))) (s, [], [])

/-- The bitmap of table words: bit i is 1 exactly when RESULT i is LOCAL or ANNEX. -/
def bitmapBytes (ws : List Word) : List Byte :=
  let n := (ws.zipIdx.map (fun x => if getField x.1 (bits 50 48) ≤ rsAnnex then 2 ^ x.2 else 0)).sum
  natToBytes ((ws.length + 7) / 8) n

/-- A handle that no lease holds and that is not 0xFFFF, from an open value on (R222 gives no rule for it). -/
def State.newHandle (s : State) : Nat × State :=
  let w := s.draw
  let from' := w.1.toNat % 65536
  let ok := fun (h : Nat) => h != 0xFFFF && !s.leases.any (fun l => l.handle == h)
  (((List.range 4098).map (fun i => (from' + i) % 65536)).find? ok |>.getD 0, w.2)

/-- PNT_CFG.LEASE_FRAMES; 0 is treated as 1. -/
def State.leaseFrames (s : State) : Nat := max 1 (s.rf (PNT_CFG 0) PNT_CFG_LEASE_FRAMES)

/-- Grant a lease over pins. -/
def State.addLease (s : State) (pins : List (Nat × PKey)) : Nat × State :=
  let h := s.newHandle
  (h.1, { h.2 with leases := h.2.leases ++ [{ handle := h.1, ends := frameAdd s.frame s.leaseFrames, pins := pins }] })

/-- Keys of a PANTRY_RESOLVE. -/
def resolveKeysOf (c : Cmd) : List PKey := (List.range (c.pf 0 11 0 + 1)).map (fun i => c.pf (3 + i) 47 0)

/-- The package that asks: P0[23:12], 0x000 the target. -/
def State.requester (s : State) (c : Cmd) : Nat := if c.pf 0 23 12 = 0 then s.pkg else c.pf 0 23 12

/-- Table and bitmap addresses that cannot be written: not in this package's writable memory, where it is the requester. -/
def State.resolveBad (s : State) (c : Cmd) : Bool :=
  let n := c.pf 0 11 0 + 1
  let t := c.pf 1 47 0
  let b := c.pf 2 47 0
  decide (c.len < 8 * (3 + n)) || daWindow t != 0 || daWindow b != 0 ||
  (s.requester c == s.pkg && ((s.cmdWrite t (List.replicate (8 * n) 0)).isNone ||
    (s.cmdWrite b (List.replicate ((n + 7) / 8) 0)).isNone))

/-- Write table and bitmap where this package is the requester; another package's Hearth writes its own. -/
def State.writeTable (s : State) (c : Cmd) (ws : List Word) : State :=
  if s.requester c ≠ s.pkg then s
  else
    let s := (s.cmdWrite (c.pf 1 47 0) (wordsToBytes ws)).getD s
    (s.cmdWrite (c.pf 2 47 0) (bitmapBytes ws)).getD s

/-- PANTRY_RESOLVE; a lease's handle waits for the DRBG while a reseed waits (R505). -/
def State.pantryResolve (s : State) (c : Cmd) : State :=
  if s.resolveBad c then s.reply c stBadParam []
  else if s.requester c ≠ s.pkg ∧ (s.routeTo (s.requester c)).isNone then s.reply c stLinkDown []
  else if 4096 ≤ s.leases.length then s.reply c stBusy []
  else if s.rf SEC_STATUS SEC_STATUS_ENTROPY_FAIL = 1 ∧ !(s.resolveKeys (s.requester c) (resolveKeysOf c)).2.2.isEmpty then
    (if s.drbgWait.contains c then s else { s with drbgWait := s.drbgWait ++ [c] })
  else
    let r := s.resolveKeys (s.requester c) (resolveKeysOf c)
    let s := r.1.writeTable c r.2.1
    if r.2.2.isEmpty then s.reply c stOk [0xFFFF]
    else
      let l := s.addLease r.2.2
      l.2.reply c stOk [BitVec.ofNat 64 l.1]

def execPantryResolve (c : Cmd) (s : State) : Out := .next (s.command c 0x331 (fun s => s.pantryResolve c))

/-- End a lease: every pin it took is released. -/
def State.endLease (s : State) (l : Lease) : State :=
  l.pins.foldl (fun s p => s.unpin p.1 p.2) { s with leases := s.leases.erase l }

/-- PANTRY_RELEASE. -/
def State.pantryRelease (s : State) (c : Cmd) : State :=
  match s.leases.find? (fun l => l.handle == c.pf 0 15 0) with
  | none => s.reply c stBadParam []
  | some l => (s.endLease l).reply c stOk []

def execPantryRelease (c : Cmd) (s : State) : Out := .next (s.command c 0x332 (fun s => s.pantryRelease c))

/-- LEASE_EXPIRY. -/
def State.leaseExpires (s : State) (h : Nat) : State :=
  match s.leases.find? (fun l => l.handle == h) with
  | none => s
  | some l => if frameReached s.frame l.ends then s.endLease l else s

def execLeaseExpiry (h : BitVec 16) (s : State) : Out := .next (s.leaseExpires h.toNat)

/-! ## Eviction and ages (R216, R219) -/

/-- PANTRY_EVICT: its OK reply stands for the PANTRY_FREED event (R218). -/
def State.pantryEvict (s : State) (c : Cmd) : State :=
  let k := c.pf 0 47 0
  let s := s.readSet k
  match s.findKey k with
  | none => s.reply c stBadParam []
  | some i =>
    let e := s.entry i
    if e.pins = 0 then (s.setEntry i (pantryDefault i)).reply c stOk []
    else
      let s := s.setEntry i { e with w0 := putField e.w0 (bits 5 4) stEvicting }
      ({ s with evicts := s.evicts ++ [(i, k, c.tag, originOf s c, c.ringId)] } : State).reply c stDeferred []

def execPantryEvict (c : Cmd) (s : State) : Out := .next (s.command c 0x333 (fun s => s.pantryEvict c))

/-- The sweep marks one entry. -/
def State.sweepOne (s : State) (i : Nat) : State :=
  let s := s.checkEntry i
  let e := s.entry i
  if e.state ≠ stEmpty ∧ 2 ^ 15 ≤ (s.ageNow + 65536 - getField e.w1 (bits 63 48)) % 65536 then
    s.setEntry i { e with w0 := putField e.w0 (bit 6) 1 }
  else s

/-- PANTRY_AGE_SWEEP of a wing. -/
def State.ageSweep (s : State) (w : Nat) : State :=
  ((s.pantry.map (fun e => e.1)).filter (fun i => i / 131072 == w)).foldl (fun s i => s.sweepOne i) s

def execPantryAgeSweep (w : Wing) (s : State) : Out := .next (s.ageSweep w.val)

end Sys2Proof.Machine
end

