-- ==== Sys2Proof/Machine/Security.lean ====
section
/-!
DEFINITION. Sys2Proof/Machine/Security.lean: entropy, roles and authentication, lifecycle, signed images, attestation and the
audit log (R505 to R522).
-/

set_option Elab.async false

namespace Sys2Proof.Machine

/-! ## SEC_ registers kept in the NV store (Tables 17-20, 17-21 and 17-24) -/

/-- Leaves of the identity key. -/
def leaves : Nat := 2 ^ 20

/-- Leaves left. -/
def State.leavesLeft (s : State) : Nat := leaves - s.nv.nextQ

/-- KEY_LOW (R519). -/
def State.keyLow (s : State) : Bool := decide (s.leavesLeft ≤ 10485)

/-- Show what the NV store and the key store say. -/
def State.showSec (s : State) : State :=
  let s := s.wfs SEC_STATUS [(SEC_STATUS_LIFECYCLE, s.nv.lifecycle), (SEC_STATUS_KEYS, s.nv.keys),
    (SEC_STATUS_CFG_BOUND, if s.nv.signer.isSome then 1 else 0), (SEC_STATUS_KEY_LOW, if s.keyLow then 1 else 0)]
  let s := s.setReg SEC_KEYBUDGET (packFields [(SEC_KEYBUDGET_REMAINING, s.leavesLeft), (SEC_KEYBUDGET_NEXT_Q, s.nv.nextQ)])
  s.wf SEC_SVN SEC_SVN_SVN_MIN s.nv.svnFw

/-! ## The entropy source (R505) -/

/-- A reseed of the active Hearth's DRBG waits: requests wait with it. -/
def State.entropyFail (s : State) : Bool := s.rf SEC_STATUS SEC_STATUS_ENTROPY_FAIL == 1

/-- Set whether a reseed waits in a Hearth's security block; SEC_STATUS shows the active one's. -/
def State.setEntropy (s : State) (hb wait : Bool) : State :=
  let s : State := if hb then { s with drbgB := wait } else { s with drbgA := wait }
  if hb = s.activeHb then s.wf SEC_STATUS SEC_STATUS_ENTROPY_FAIL (if wait then 1 else 0) else s

/-- Add 1 to a health count of a Hearth's block: SEC_ENTROPY is the active one's (R505). -/
def State.entropyCount (s : State) (hb : Bool) (f : Field) (saturates : Bool) : State :=
  let step := fun (v : Word) => putField v f (if saturates then satAdd f.width (getField v f) 1 else getField v f + 1)
  if hb = s.activeHb then s.setReg SEC_ENTROPY (step (s.reg SEC_ENTROPY))
  else { s with entropyOther := step s.entropyOther }

/-- A command whose DRBG request waits (R505). -/
def State.waitDrbg (s : State) (c : Cmd) : State :=
  if s.drbgWait.contains c then s else { s with drbgWait := s.drbgWait ++ [c] }

/-! ## Roles (R508 to R510) -/

/-- The key of a role. -/
def State.roleKey (s : State) (role : Nat) : BitVec 256 :=
  (match role with | 1 => s.nv.kOp | 2 => s.nv.kInst | _ => s.nv.kMaker).getD (Config.makerKey role)

/-- The bytes that a correct response authenticates (R509). -/
def State.authMsg (s : State) (x : Challenge) : Bytes :=
  wordsToBytes x.nonce ++ natToBytes 8 (s.reg HRT_SERIAL).toNat ++ natToBytes 1 x.ring ++ natToBytes 1 x.role

/-- Frames a challenge stands, and frames of a lockout. -/
def authFrames : Nat := 122070
def lockFrames : Nat := 2 ^ 23

/-- Draw the words of a nonce. -/
def State.drawWords (s : State) : Nat → List Word × State
  | 0 => ([], s)
  | n + 1 =>
    let w := s.draw
    let r := w.2.drawWords n
    (w.1 :: r.1, r.2)

/-- AUTH_CHALLENGE; a new challenge replaces an open one of its ring. -/
def State.authChallenge (s : State) (c : Cmd) : State :=
  if c.pf 0 1 0 = 0 ∨ isForwarded c then s.reply c stBadParam []
  else if s.lockout.isSome then s.reply c stBusy []
  else if s.entropyFail then s.waitDrbg c
  else
    let r := s.drawWords 4
    let s := r.2.dropChallenges c.ringId
    let s : State := { s with challenges := s.challenges ++ [{ ring := c.ringId, role := c.pf 0 1 0, nonce := r.1, frame := s.frame }] }
    s.reply c stOk r.1

def execAuthChallenge (c : Cmd) (s : State) : Out := .next (s.command c 0x701 (fun s => s.authChallenge c))

/-- The role of the channel a command arrived on is set; a guest site's rights are GST_CFG's. -/
def State.setRole (s : State) (c : Cmd) (role : Nat) : State :=
  match c.via with
  | .ring r => s.whf (HB_CRING_CFG r.val) HB_CRING_CFG_ROLE role
  | .i3c => { s with i3cRole := role }
  | _ => s

/-- A DENIED response: counted, and the eighth in a row starts a lockout (R510). -/
def State.authDenied (s : State) (c : Cmd) : State :=
  let s := s.satf SEC_AUTH SEC_AUTH_FAILS_TOTAL 1
  let s := s.reply c stDenied []
  if s.lockout.isSome then s
  else
    let n := s.denials + 1
    let s := ({ s with denials := n } : State).wf SEC_AUTH SEC_AUTH_FAILS_NOW n
    if n < 8 then s
    else (({ s with lockout := some (frameAdd s.frame lockFrames) } : State).wf SEC_STATUS SEC_STATUS_LOCKOUT 1).auditRec
      4 0 0 0 s.pkg c.ringId 0 0 0 0

/-- Whether a response is correct and in time. -/
def State.responseOk (s : State) (c : Cmd) (x : Challenge) : Bool :=
  decide (s.framesSince x.frame < authFrames) && s.nv.lifecycle != 4 &&
    hmac (natToBytes 32 (s.roleKey x.role).toNat) (s.authMsg x) == wordsToBytes [c.p 0, c.p 1, c.p 2, c.p 3]

/-- AUTH_RESPONSE. -/
def State.authResponse (s : State) (c : Cmd) : State :=
  if isForwarded c then s.reply c stBadParam []
  else
    let x := s.challenges.find? (fun x => x.ring == c.ringId)
    let t := s.dropChallenges c.ringId
    match x with
    | none => t.authDenied c
    | some x =>
      if s.responseOk c x && (match c.via with | .guest _ => false | _ => true) then
        let t := (t.setRole c x.role).wf SEC_AUTH SEC_AUTH_FAILS_NOW 0
        let t := ({ t with denials := 0 } : State).auditRec 1 x.role 0 0 t.pkg c.ringId 0 0 (c.p 0) (c.p 1)
        t.reply c stOk []
      else t.authDenied c

def execAuthResponse (c : Cmd) (s : State) : Out := .next (s.command c 0x702 (fun s => s.authResponse c))

/-- AUTH_DROP. -/
def State.authDrop (s : State) (c : Cmd) : State :=
  if isForwarded c then s.reply c stBadParam []
  else
    let s := s.auditRec 2 (s.chanRole c) 0 0 s.pkg c.ringId 0 0 0 0
    (s.setRole c 0).reply c stOk []

def execAuthDrop (c : Cmd) (s : State) : Out := .next (s.command c 0x703 (fun s => s.authDrop c))

/-- LOCKOUT_END; the count of denials starts again. -/
def execLockoutEnd (s : State) : Out :=
  .next (match s.lockout with
    | none => s
    | some f =>
      if frameReached s.frame f then
        (({ s with lockout := none, denials := 0 } : State).wf SEC_STATUS SEC_STATUS_LOCKOUT 0).wf SEC_AUTH SEC_AUTH_FAILS_NOW 0
      else s)

/-! ## Lifecycle (R512 to R515) -/

/-- Whether Table 17-9 allows a transition to a role, its condition included. -/
def State.mayMove (s : State) (new role : Nat) : Bool :=
  let old := s.nv.lifecycle
  match new with
  | 0 => decide (1 ≤ old) && decide (old ≤ 3) && decide (3 ≤ role)
  | 1 => old == 0 && decide (3 ≤ role) && s.nv.keys == 1
  | 2 => decide (2 ≤ role) && (old == 3 || (old == 1 && s.nv.signer.isSome && s.nv.cfg != .erased && s.nv.cfg != .praond))
  | 3 => old == 2 && decide (2 ≤ role)
  | 4 => decide (old ≤ 3) && decide (2 ≤ role)
  | _ => false

/-- What a transition changes beyond the standard wipe (Table 17-9). -/
def lifeChange (new : Nat) (v : NvStore) : NvStore :=
  match new with
  | 0 => { v with lifecycle := 0, cfg := .erased, signer := none, kOp := some 0, kInst := some 0, keys := 0 }
  | 1 => { v with lifecycle := 1, history := [] }
  | 4 => { v with lifecycle := 4, cfg := .erased, kOp := some 0, kInst := some 0, kMaker := some 0, keys := 2 }
  | n => { v with lifecycle := n }

/-- Record a transition and its state; the reset follows. -/
def State.moveLife (s : State) (new role origin ring : Nat) : State :=
  let s := s.auditRec 5 role 0 0 origin ring s.nv.lifecycle new 0 0
  let s := if new = 1 then ({ s with logCleared := s.logOrder } : State).refreshFlt else s
  ({ s with nv := lifeChange new s.nv, lifePend := none, resetPend := true } : State).showSec

/-- APPLIED with SUPERSEDED for a LIFECYCLE_SET that a later one replaces. -/
def State.dropLife (s : State) : State :=
  match s.lifePend with
  | none => s
  | some (_, tag, origin, ring) => ({ s with lifePend := none } : State).applied tag origin ring 0x720 stOk true

/-- LIFECYCLE_SET. -/
def State.lifecycleSet (s : State) (c : Cmd) : State :=
  let new := c.pf 0 2 0
  if 5 ≤ new then s.reply c stBadParam []
  else if new = s.nv.lifecycle then s.dropLife.reply c stOk []
  else if !s.mayMove new c.role then s.reply c stDenied []
  else if s.steps.isEmpty then (s.dropLife.reply c stOk []).moveLife new c.role (originOf s c) c.ringId
  else
    let t := s.dropLife
    ({ t with lifePend := some (new, c.tag, originOf s c, c.ringId) } : State).reply c stDeferred []

def execLifecycleSet (c : Cmd) (s : State) : Out := .next (s.command c 0x720 (fun s => s.lifecycleSet c))

/-- LIFECYCLE_TRANSITION: a deferred change, once no step is in flight. -/
def execLifecycleTransition (s : State) : Out :=
  .next (match s.lifePend with
    | none => s
    | some (new, tag, origin, ring) =>
      if s.steps.isEmpty then
        (s.applied tag origin ring 0x720 stOk false).moveLife new (if new ≤ 1 then 3 else 2) origin ring
      else s)

/-! ## Signed images (R516 to R518) -/

/-- Word i of an image. -/
def imageWord (bs : Bytes) (i : Nat) : Word := hashWord bs i

def imageSvn (bs : Bytes) : Nat := getField (imageWord bs 0) (bits 63 32)
def imageBody (bs : Bytes) : Bytes := (bs.drop 4096).take (getField (imageWord bs 1) (bits 31 0))

/-- SHA-256 of PUBKEY. -/
def imageSigner (bs : Bytes) : Bytes := sha256 ((bs.drop 64).take 60)

/-- The checks of R517 that no key or SVN_MIN decides: header, body and signature. -/
def imageSound (kind : Nat) (bs : Bytes) : Bool :=
  decide (4096 + getField (imageWord bs 1) (bits 31 0) ≤ bs.length) &&
  getField (imageWord bs 0) (bits 3 0) == 1 && getField (imageWord bs 0) (bits 7 4) == kind &&
  sha256 (imageBody bs) == (bs.drop 32).take 32 && hssVerify ((bs.drop 64).take 60) ((bs.drop 128).take 3284) (bs.take 128)

/-- An image as a command names it: read from memory; none: the read fails. Bytes behind a window are open. -/
def State.readImage (s : State) (da n : Nat) : Option (Bytes × State) :=
  if daWindow da ≠ 0 then
    (if s.winBad da n false then none else some (s.openBytes n))
  else match s.localRead da n with
    | .ok bs => some (bs, s)
    | .error _ => none

/-- FW_INSTALL; other failures than a low SVN answer first. -/
def State.fwInstall (s : State) (c : Cmd) : State :=
  if s.nv.lifecycle = 2 ∧ !s.steps.isEmpty then s.reply c stBusy []
  else match s.readImage (c.pf 0 47 0) (c.pf 1 31 0) with
    | none => s.reply c stBadParam []
    | some (bs, s) =>
      if !(imageSound 0 bs && imageSigner bs == Config.fwRoot) then s.reply c stBadParam []
      else if imageSvn bs < s.nv.svnFw then s.reply c stBadVersion []
      else
        let bs := bs.take (4096 + (imageBody bs).length)
        let x : FwImage := { verdict := 1, svn := imageSvn bs, version := imageWord bs 2, digest := sha256 bs }
        let s := if c.pf 2 0 0 = 0 then { s with nv := { s.nv with fwA := x } } else { s with nv := { s.nv with fwB := x } }
        s.replyWith c stOk [] (imageWord bs 4) (imageWord bs 5)

def execFwInstall (c : Cmd) (s : State) : Out := .next (s.command c 0x710 (fun s => s.fwInstall c))

/-- What a configuration body gives a register; none: it does not name it. -/
def cfgReg (body : Bytes) (a : Nat) : Option Word := ((Config.cfgRegs body).find? (fun p => p.1 == a)).map (fun p => p.2)

/-- WING_PART of a configuration body is at most 56. -/
def cfgSound (body : Bytes) : Bool :=
  match cfgReg body MEM_LAYOUT with | some v => decide (getField v MEM_LAYOUT_WING_PART ≤ 56) | none => true

/-- The key an image must be signed under (R518). -/
def State.signerOk (s : State) (bs : Bytes) : Bool :=
  match s.nv.signer with
  | some k => imageSigner bs == k
  | none => decide (s.nv.lifecycle ≤ 1)

/-- CONFIG_WRITE: verify, store, bind its signer, and write the boot record (R518, R528). -/
def State.configWrite (s : State) (c : Cmd) : State :=
  match s.readImage (c.pf 0 47 0) (c.pf 1 31 0) with
  | none => s.reply c stBadParam []
  | some (bs, s) =>
    let body := imageBody bs
    if !(imageSound 1 bs && s.signerOk bs && decide (s.nv.svnCfg ≤ imageSvn bs) && cfgSound body) then s.reply c stBadParam []
    else
      let bs := bs.take (4096 + body.length)
      let v := { s.nv with cfg := .image bs, signer := some (imageSigner bs), bootRoles := (cfgReg body PCH_CFG).getD 0,
                           bootBridge := getField ((cfgReg body HRT_PKGID).getD 0) HRT_PKGID_BRIDGE == 1 }
      ({ s with nv := v } : State).showSec.replyWith c stOk [] (imageWord bs 4) (imageWord bs 5)

def execConfigWrite (c : Cmd) (s : State) : Out := .next (s.command c 0x110 (fun s => s.configWrite c))

/-- The bytes of a configuration image; an erased one leaves Praond's defaults in force. -/
def cfgBytes : CfgImage → Bytes
  | .image bs => bs
  | _ => Config.praondImage

/-- CONFIG_READ. -/
def State.configRead (s : State) (c : Cmd) : State :=
  let bs := cfgBytes s.cfgNow
  if c.pf 1 31 0 < bs.length then s.reply c stCapacity []
  else s.replyWritten c (s.cmdWrite (c.pf 0 47 0) bs) []

def execConfigRead (c : Cmd) (s : State) : Out := .next (s.command c 0x111 (fun s => s.configRead c))

/-! ## Attestation (R519, R520) -/

/-- The first n bytes of a string, zeros after its end. -/
def fitBytes (n : Nat) (bs : Bytes) : Bytes := (bs ++ List.replicate (n - bs.length) 0).take n

/-- End of the space that holds a device address; none: no space does. -/
def State.spaceEnd (s : State) (da : Nat) : Option Nat :=
  if daWindow da ≠ 0 then
    (if s.winValid (daWindow da) && decide (daOffset da < s.winSize (daWindow da)) then
      some (da - daOffset da + s.winSize (daWindow da)) else none)
  else if da < s.pkgTop then some s.pkgTop
  else (s.wingOf da).map (fun w => s.wingBot + (w + 1) * (GiB * (3 * s.wingPart)))

/-- The firmware image in use. -/
def State.fwNow (s : State) : FwImage := if s.rf HRT_START HRT_START_IMAGE = 1 then s.nv.fwB else s.nv.fwA

def repairBytes (rs : List (Word × Word)) : Bytes := rs.flatMap (fun r => wordsToBytes [r.1, r.2])

/-- The newest audit record's digest. -/
def State.auditDigest (s : State) : Bytes :=
  match s.nv.audit.getLast? with | some r => sha256 (wordsToBytes r) | none => List.replicate 32 0

/-- Bytes [0, 320) of the report (Table 17-11); q: the leaf it uses. -/
def State.report320 (s : State) (q : Nat) (nonce : List Word) : Bytes :=
  wordsToBytes
    ([packFields [(bits 3 0, 1), (bits 6 4, s.nv.lifecycle), (bit 7, if s.keyLow then 1 else 0),
        (bit 8, s.rf HRT_START HRT_START_IMAGE), (bits 10 9, s.rf HRT_ID HRT_ID_SPEED_GRADE), (bits 27 16, s.pkg), (bits 63 32, s.epoch)],
      s.reg HRT_SERIAL, packFields [(bits 31 0, q), (bits 63 32, s.leavesLeft)],
      packFields [(bits 47 0, s.frame), (bits 63 48, s.rf HRT_PKGID HRT_PKGID_POD_ID)]] ++ nonce) ++
  fitBytes 32 s.fwNow.digest ++ sha256 (cfgBytes s.cfgNow) ++ sha256 (repairBytes s.nv.repairs) ++
  sha256 (wordsToBytes [s.reg HRT_ID, s.reg HRT_SERIAL] ++ fitBytes 32 Config.fwRoot ++ natToBytes 1 (s.rf HRT_FEATURE HRT_FEATURE_FLOOR)) ++
  s.auditDigest ++
  wordsToBytes [packFields [(bits 31 0, s.fwNow.svn), (bits 63 32, s.nv.svnFw)], s.fwNow.version,
    BitVec.ofNat 64 (s.nv.auditSeq - 1), packFields [(bits 31 0, s.nv.trips)]] ++
  fitBytes 60 Config.idPub ++ [0, 0, 0, 0]

/-- The HSS signature of one level over a message under leaf q (R519). -/
def idSign (q : Nat) (msg : Bytes) : Bytes :=
  let body := fitBytes 1760 (Config.lmsSign q msg)
  beBytes 4 0 ++ beBytes 4 q ++ beBytes 4 4 ++ body.take 1120 ++ beBytes 4 8 ++ body.drop 1120

/-- A leaf is used: the counter rises first, and KEY_LOW is recorded where it sets. -/
def State.useLeaf (s : State) : State :=
  let t := ({ s with nv := { s.nv with nextQ := s.nv.nextQ + 1 } } : State).showSec
  if t.keyLow && !s.keyLow then t.auditRec 8 0 0 0 0 0 0 0 0 0 else t

/-- ATTEST; a report that cannot be written uses no leaf. -/
def State.attest (s : State) (c : Cmd) : State :=
  let da := c.pf 4 47 0
  match s.spaceEnd da with
  | none => s.reply c stBadParam []
  | some e =>
    if e < da + 2096 then s.reply c stCapacity []
    else if (s.cmdWrite da (List.replicate 2096 0)).isNone then s.reply c stBadParam []
    else if s.leavesLeft = 0 ∨ s.nv.lifecycle = 4 then s.reply c stDenied []
    else if s.entropyFail then s.waitDrbg c
    else
      let q := s.nv.nextQ
      let t := s.useLeaf
      let r := t.report320 q [c.p 0, c.p 1, c.p 2, c.p 3]
      t.replyWritten c (t.cmdWrite da (r ++ idSign q r)) [BitVec.ofNat 64 t.leavesLeft]

def execAttest (c : Cmd) (s : State) : Out := .next (s.command c 0x730 (fun s => s.attest c))

/-- AUDIT_READ. -/
def State.auditRead (s : State) (c : Cmd) : State :=
  let n := if c.pf 1 11 0 = 0 then 4096 else c.pf 1 11 0
  let rs := s.nv.audit.drop (s.nv.audit.length - n)
  let bs := rs.flatMap wordsToBytes
  s.replyWritten c (if bs.isEmpty then some s else s.cmdWrite (c.pf 0 47 0) bs) [BitVec.ofNat 64 rs.length]

def execAuditRead (c : Cmd) (s : State) : Out := .next (s.command c 0x740 (fun s => s.auditRead c))

/-! ## Reseeds (R505) -/

/-- A command that waited for the DRBG goes on. -/
def State.drbgServe (s : State) (c : Cmd) : State :=
  if c.opcode = 0x701 then s.authChallenge c
  else if c.opcode = 0x331 then s.pantryResolve c
  else s.attest c

/-- A reseed completes: requests that waited proceed. -/
def State.reseeded (s : State) (hb : Bool) : State :=
  let s := (s.setEntropy hb false).entropyCount hb SEC_ENTROPY_RESEEDS false
  if s.entropyFail then s
  else s.drbgWait.foldl (fun s c => s.drbgServe c) ({ s with drbgWait := [] } : State)

/-- DRBG_RESEED: a sample that fails is discarded and counted under one of the two tests, and the reseed waits. -/
def State.drbgReseed (s : State) (hb pass : Bool) : State :=
  if s.mode = .off then s
  else if pass then s.reseeded hb
  else
    let w := s.draw
    (w.2.setEntropy hb true).entropyCount hb (if wbit w.1 0 then SEC_ENTROPY_APT_FAILS else SEC_ENTROPY_RCT_FAILS) true

def execDrbgReseed (hb : Bool) (pass : Bool) (s : State) : Out := .next (s.drbgReseed hb pass)

/-- ENTROPY_SAMPLE_PASS. -/
def execEntropySamplePass (hb : Bool) (s : State) : Out :=
  .next (if s.mode != .off && (if hb then s.drbgB else s.drbgA) then s.reseeded hb else s)

/-! ## Maker test (R432) -/

def isMakerTest (op : Nat) : Bool := decide (0x800 ≤ op) && decide (op ≤ 0x8FF)

/-- A maker-test command would act here: it is new, passes the checks, and the package is in MAKER. -/
def State.makerActs (s : State) (c : Cmd) : Bool :=
  isMakerTest c.opcode && s.canTake c && s.runsHere c && s.nv.lifecycle == 0 && (s.precheck c).isNone &&
    !s.dups.any (fun d => d.tag == c.tag && d.origin == originOf s c && d.ring == c.ringId) &&
    !(match s.activeOf c.tag (originOf s c) c.ringId with | some a => a.sent && !a.dead | none => false)

/-- MAKER_TEST: what its opcodes do in MAKER is not part of the manual. -/
def execMakerTest (c : Cmd) (s : State) : Out :=
  if s.makerActs c then .refused .makerTestUnspecified else .next (s.runCmd c isMakerTest id)

end Sys2Proof.Machine
end

