-- ==== Sys2Proof/Machine/Skylight.lean ====
section
/-!
DEFINITION. Sys2Proof/Machine/Skylight.lean: the Skylight engines: mailbox jobs, selection, exact fallback, calibration and
carriers (R361 to R383). Analog scores are open (R364, R378).
-/

set_option Elab.async false

namespace Sys2Proof.Machine

/-! ## Job records (Table 12-2) -/

structure SkyJob where
  version : Nat
  kind : Nat
  all : Bool
  sig : Bool
  slot : Nat
  fold : Nat
  fmt : Nat
  blk : Bool
  candDa : Nat
  ncand : Nat
  maskDa : Nat
  id : Nat
  resultDa : Nat
  k : Nat
  keyOfs : Nat
  tokens : Nat
  sclOfs : Nat
  timeout : Nat
  pitch : Nat
  head : Nat
  tail : Nat
  rows : Nat
  indices : Bool
  scores : Bool
  deriving DecidableEq, Repr

def skyJobOf (ws : List Word) : SkyJob :=
  let f := fun (i hi lo : Nat) => getField (ws.getD i 0) (bits hi lo)
  { version := f 0 3 0, kind := f 0 5 4, all := f 0 6 6 == 1, sig := f 0 7 7 == 1, slot := f 0 13 8, fold := f 0 15 14,
    fmt := f 0 22 19, blk := f 0 23 23 == 1, candDa := f 1 47 0, ncand := f 1 59 48 + 1, maskDa := f 2 47 0, id := f 2 63 48,
    resultDa := f 3 47 0, k := f 3 59 48 + 1, keyOfs := f 4 23 0, tokens := f 4 31 24 + 1, sclOfs := f 4 55 32,
    timeout := f 4 63 56, pitch := f 5 15 0, head := f 5 23 16, tail := f 5 31 24, rows := f 6 63 0,
    indices := f 0 17 17 == 1, scores := f 0 18 18 == 1 }

/-- Folds of a key, and queries of the matrix (R367). -/
def SkyJob.f (x : SkyJob) : Nat := 2 ^ x.fold
def SkyJob.q (x : SkyJob) : Nat := 64 / x.f

/-- Whether an address lies in a READONLY region. -/
def State.skyReadonly (s : State) (da : Nat) : Bool :=
  match s.regionAt da with | some r => s.rgnBit r MEM_RGN_ATTR_READONLY | none => false

/-- R370; the checks of a SCORE job's fields are not made for a LOAD_MATRIX. -/
def State.skyBad (s : State) (x : SkyJob) : Bool :=
  x.version != 1 || decide (1 < x.kind) ||
  (x.kind == 1 &&
    (x.fold == 3 || x.fmt == 0 || decide (7 < x.fmt) || x.rows == 0 || decide (2 ^ x.q ≤ x.rows) ||
     x.resultDa % 32 != 0 || x.candDa % 8 != 0 || s.skyReadonly x.resultDa || s.skyReadonly x.candDa ||
     (x.maskDa != 0 && s.skyReadonly x.maskDa)))

/-! ## The mailbox (R368) -/

def State.mboxAddr (s : State) (c i : Nat) : Nat := 4096 * s.rf (SKY_MBOX c) SKY_MBOX_BASE + 64 * i

/-- The record at a mailbox index; none: it cannot be read or is not VALID. -/
def State.mboxRecord (s : State) (c i : Nat) : Option (List Word) :=
  if daWindow (s.mboxAddr c i) ≠ 0 then none
  else match s.localRead (s.mboxAddr c i) 64 with
    | .ok bs => if wbit ((bytesToWords bs).getD 0 0) 63 then some (bytesToWords bs) else none
    | .error _ => none

/-- The engine, or the Hearth in its place, answers jobs: the package runs and the engine is enabled. -/
def State.skyRuns (s : State) (c : Nat) : Bool := s.mode == .ready && s.rf (SKY_CFG c) SKY_CFG_EN == 1

/-- Start the first job found: its record is read once. -/
def State.skyStart (s : State) (c : Nat) : State :=
  let x := s.sky1 c
  match x.found, x.job with
  | i :: rest, none =>
    match s.mboxRecord c i with
    | some ws => (s.setSky c { x with job := some (ws, s.frame), expired := false }).wf (SKY_STATUS c) SKY_STATUS_MBOX_IDX i
    | none => s.setSky c { x with found := rest }
  | _, _ => s

/-- SKY_MAILBOX_SCAN: a record found while a job runs waits for the next scan. -/
def State.skyScan (s : State) (c : Nat) : State :=
  let x := s.sky1 c
  if !s.skyRuns c || x.job.isSome then s
  else
    let is := (List.range 64).filter (fun i => (s.mboxRecord c i).isSome)
    (s.setSky c { x with found := is }).skyStart c

def execSkyMailboxScan (c : Casement) (s : State) : Out := .next (s.skyScan c.val)

/-! ## Completing a job (R368, R375) -/

/-- Increment a bay's event for a SKY signal; a fenced or gated bay takes none (R126, R375). -/
def State.skySignal (s : State) (die bay evt : Nat) : State :=
  if 12 ≤ die ∨ 12 ≤ bay then s
  else
    let t := bayOf (die * 12 + bay)
    if s.isFenced (locBay t) ∨ s.rf (BAY_STATUS t) BAY_STATUS_POWER ≠ 2 then s.note F_SIGNAL_DROPPED (locBay t) 0
    else s.bumpEvt t evt 1

/-- Signal a job's completion: here, or as SKY_DONE to another package where a path is up. -/
def State.skyNotify (s : State) (ws : List Word) : State :=
  let w := ws.getD 0 0
  let p := getField w (bits 35 24)
  let die := getField w (bits 39 36)
  let bay := getField w (bits 43 40)
  let evt := getField w (bits 48 44)
  if p = 0 ∨ p = s.pkg then s.skySignal die bay evt
  else if (s.routeTo p).isNone then s
  else s.sendHearth { dst := p, kind := mkSkyDone, tag := 0, origin := 0, ring := 0,
                      body := [packFields [(bits 15 0, (skyJobOf ws).id), (bits 19 16, die), (bits 23 20, bay), (bits 28 24, evt)]] }

/-- The job leaves the engine: its first word goes back with VALID 0. -/
def State.skyEnd (s : State) (c : Nat) (ws : List Word) : State :=
  let x := s.sky1 c
  let i := x.found.headD 0
  let s := s.memStore (s.mboxAddr c i) (wordsToBytes [putField (ws.getD 0 0) (bit 63) 0])
  s.setSky c { s.sky1 c with found := x.found.drop 1, job := none, expired := false }

/-- A job has completed; accepted: its result could be written. fallback, timeout: how (Table 12-13). -/
def State.skyDone1 (s : State) (c : Nat) (ws : List Word) (accepted fallback timeout : Bool) : State :=
  let s := s.skyEnd c ws
  let s := s.satf (SKY_JOBS c) SKY_JOBS_DONE 1
  let s := if fallback then s.satf (SKY_JOBS c) SKY_JOBS_FALLBACKS 1 else s
  let s := if timeout then s.satf (SKY_JOBS c) SKY_JOBS_TIMEOUTS 1 else s
  if accepted && (skyJobOf ws).sig then s.skyNotify ws else s

/-- A malformed job (R370). -/
def State.skyReject (s : State) (c : Nat) (ws : List Word) : State :=
  let i := (s.sky1 c).found.headD 0
  ((s.skyEnd c ws).satf (SKY_JOBS c) SKY_JOBS_BAD_JOBS 1).raise F_SKY_BAD_JOB (skyLoc c) i

/-! ## Reading (R369) -/

/-- Read for an engine; none: the read fails. Bytes behind a window are open: their requests leave on VC1. -/
def State.skyRead (s : State) (da n : Nat) : Option (Bytes × State) :=
  if daWindow da ≠ 0 then
    let r := s.peerAccess false da n [] { status := 0, data := [] }
    if r.2.isSome then none else some (r.1.openBytes n)
  else match s.localRead da n with
    | .ok bs => some (bs, s)
    | .error _ => none

/-- Bytes of a table or a matrix; where they cannot be read they are open (no rule names an outcome). -/
def State.skyBytes (s : State) (da n : Nat) : Bytes × State := (s.skyRead da n).getD (s.openBytes n)

/-- Candidates whose mask bit is 1. -/
def State.skyValid (s : State) (x : SkyJob) : List Nat × State :=
  if x.maskDa = 0 then (List.range x.ncand, s)
  else
    let r := s.skyBytes x.maskDa ((x.ncand + 7) / 8)
    ((List.range x.ncand).filter (fun n => (r.1.getD (n / 8) 0).getLsbD (n % 8)), r.2)

/-- Elements of a key of a format, and bytes of its scales. -/
def SkyJob.dim (x : SkyJob) : Nat := 64 * x.f
def SkyJob.scales (x : SkyJob) : Nat := cdiv x.dim (blockSize x.blk)
def SkyJob.format (x : SkyJob) : Fmt := (fmtOfCode x.fmt).getD .bf16

/-- A key's scores are NaN (R371). -/
def SkyJob.keyNan (x : SkyJob) (key scl : Bytes) : Bool :=
  (List.range x.dim).any (fun j => let v := valAt (fun a => key.getD a 0) x.format 0 j; v.isNan || v.isInf) ||
    (x.format.scaled && scl.any (fun b => b == 0xFF))

/-- Read a block's keys from a token on; none: a read fails, else whether one of them is NaN. fuel: tokens. -/
def SkyJob.readKeys (x : SkyJob) : Nat → State → Nat → Nat → Option Bool × State
  | 0, s, _, _ => (some false, s)
  | n + 1, s, blk, t =>
    match s.skyRead (blk + x.keyOfs + t * x.pitch) (arrayBytes x.format x.dim) with
    | none => (none, s)
    | some (key, s) =>
      match (if x.format.scaled then s.skyRead (blk + x.sclOfs + t * x.scales) x.scales else some ([], s)) with
      | none => (none, s)
      | some (scl, s) =>
        let r := x.readKeys n s blk (t + 1)
        (r.1.map (fun b => b || x.keyNan key scl), r.2)

/-- A row that the aggregate reads has scale 0xFF (R365). -/
def SkyJob.rowNan (x : SkyJob) (mat : Bytes) : Bool :=
  (List.range x.q).any (fun i => x.rows / 2 ^ i % 2 == 1 &&
    (List.range x.f).any (fun h => mat.getD (4096 + h * x.q + i) 0 == 0xFF))

/-- A candidate's aggregate as a BF16 pattern, and whether its read failed (R372, R374). -/
structure Scored where
  n : Nat
  score : Nat
  failed : Bool
  deriving DecidableEq, Repr

def nanBf16 : Nat := 0x7FC0

/-- Score candidate n, whose block begins at blk. -/
def State.skyScore (s : State) (x : SkyJob) (e : ScoreEnv) (mat : Bytes) (n blk : Nat) : Scored × State :=
  let r := x.readKeys x.tokens s blk 0
  let s := r.2
  match r.1 with
  | none => ({ n := n, score := nanBf16, failed := true }, s)
  | some nan =>
    if e.failed.contains n then ({ n := n, score := nanBf16, failed := true }, s)
    else if nan || x.rowNan mat then ({ n := n, score := nanBf16, failed := false }, s)
    else ({ n := n, score := (Config.freeScore s.freeCtr n % 65536).toNat, failed := false }, { s with freeCtr := s.freeCtr + 1 })

/-- Score the valid candidates in order. -/
def State.skyScores (s : State) (x : SkyJob) (e : ScoreEnv) (mat table : Bytes) : List Nat → List Scored × State
  | [] => ([], s)
  | n :: ns =>
    let r := s.skyScore x e mat n (bytesToNat ((table.drop (8 * n)).take 6))
    let q := r.2.skyScores x e mat table ns
    (r.1 :: q.1, q.2)

/-! ## Selection (R373, R374) -/

/-- a ranks above b: a NaN above every number, then the larger aggregate, then the lower index. -/
def Scored.above (a b : Scored) : Bool :=
  let x := decodeVal .bf16 a.score
  let y := decodeVal .bf16 b.score
  if x.isNan || y.isNan then x.isNan && (!y.isNan || decide (a.n < b.n))
  else valLt y x || (valEq x y && decide (a.n < b.n))

def rankIn (a : Scored) : List Scored → List Scored
  | [] => [a]
  | b :: bs => if a.above b then a :: b :: bs else b :: rankIn a bs

def ranked (xs : List Scored) : List Scored := xs.foldr rankIn []

/-- Forced candidates among the valid ones. -/
def SkyJob.forced (x : SkyJob) (valid : List Nat) : List Nat :=
  valid.filter (fun n => decide (n < x.head) || decide (x.ncand ≤ n + x.tail))

/-- Candidates selected by score, in selection order; one whose read failed is always selected. -/
def SkyJob.byScore (x : SkyJob) (forced : List Nat) (xs : List Scored) : List Scored :=
  let rest := ranked (xs.filter (fun a => !forced.contains a.n))
  let k := x.k - forced.length
  rest.take k ++ (rest.drop k).filter (fun a => a.failed)

/-! ## The selection record (R376) -/

/-- Bytes padded with zeros to 32. -/
def pad32 (bs : Bytes) : Bytes := bs ++ List.replicate (cdiv bs.length 32 * 32 - bs.length) 0

def skyBitmap (n : Nat) (sel : List Nat) : Bytes := natToBytes ((n + 7) / 8) (sel.map (fun i => 2 ^ i)).sum

/-- The record. status: 0 SCORED, 1 FALLBACK, 2 TIMEOUT. -/
def SkyJob.record (x : SkyJob) (status frame : Nat) (clipped drift : Bool) (sel : List Nat) (scores : List (Nat × Nat))
    (top cut nfailed : Nat) : Bytes :=
  let score := fun (n : Nat) => match scores.find? (fun p => p.1 == n) with | some p => p.2 | none => 0
  pad32 (wordsToBytes
    [packFields [(bits 3 0, 1), (bits 7 4, status), (bit 8, if clipped then 1 else 0), (bit 9, if drift then 1 else 0),
       (bits 31 16, x.id), (bits 44 32, x.ncand), (bits 60 48, sel.length)],
     packFields [(bits 47 0, frame)], packFields [(bits 15 0, top), (bits 31 16, cut), (bits 44 32, nfailed)], 0, 0, 0, 0, 0]) ++
  pad32 (skyBitmap x.ncand sel) ++
  (if x.indices then pad32 (sel.flatMap (natToBytes 2)) else []) ++
  (if x.scores then pad32 ((List.range x.ncand).flatMap (fun n => natToBytes 2 (score n))) else [])

/-- Write the record; the Bool says that it was accepted. -/
def State.skyWrite (s : State) (x : SkyJob) (bs : Bytes) : State × Bool :=
  let r := s.hostWrite x.resultDa bs { status := 0, data := [] }
  (r.1, r.2.isNone)

/-- Complete a job in exact fallback (R377, R382); a LOAD_MATRIX leaves its slot EMPTY. -/
def State.skyFallback (s : State) (c : Nat) (ws : List Word) (frame : Nat) (timeout : Bool) : State :=
  let x := skyJobOf ws
  if x.kind = 0 then (s.wf (SKY_SLOT c x.slot) SKY_SLOT_STATE 0).skyDone1 c ws true true timeout
  else
    let v := s.skyValid x
    let r := v.2.skyWrite x (x.record (if timeout then 2 else 1) frame false false v.1 [] 0 0 0)
    r.1.skyDone1 c ws r.2 true timeout

/-- TOP and CUT: the aggregates of the first and the last selected by score; open where none was. -/
def State.skyEnds (s : State) (xs : List Scored) : Nat × Nat × State :=
  match xs with
  | [] => let w := s.draw; (w.1.toNat % 65536, w.1.toNat / 65536 % 65536, w.2)
  | a :: as => (a.score, (as.getLast?.getD a).score, s)

/-- A scored job: the record, the counts and the drift check (R373 to R376, R380). -/
def State.skySelect (s : State) (c : Nat) (ws : List Word) (frame : Nat) (e : ScoreEnv) : State :=
  let x := skyJobOf ws
  let v := s.skyValid x
  let t := v.2.skyBytes x.candDa (8 * x.ncand)
  let mat := sparseGet (fun _ => ([] : List Byte)) (t.2.sky1 c).mats x.slot
  let r := t.2.skyScores x e mat t.1 v.1
  let s := r.2
  let forced := x.forced v.1
  let by' := x.byScore forced r.1
  let ends := s.skyEnds by'
  let s := ends.2.2
  let drift := s.rf (SKY_CFG c) SKY_CFG_DRIFT_EN == 1 && decide (s.rf (SKY_CFG c) SKY_CFG_DRIFT_LIMIT < e.probeRms)
  let nfailed := (r.1.filter (fun a => a.failed)).length
  let o := s.skyWrite x (x.record 0 frame e.clipped drift (forced ++ by'.map (fun a => a.n)) (r.1.map (fun a => (a.n, a.score)))
    ends.1 ends.2.1 nfailed)
  let s := o.1.wf (SKY_ERR c) SKY_ERR_RMS_NOW (min e.probeRms 0xFFFF)
  let s := if e.clipped then s.satf (SKY_ERR c) SKY_ERR_CLIPS 1 else s
  let s := s.satf (SKY_ERR c) SKY_ERR_READ_FAILS nfailed
  let s := if drift then s.setSky c { s.sky1 c with due := (s.sky1 c).due ++ [2] } else s
  s.skyDone1 c ws o.2 false false

/-! ## Running jobs -/

/-- The job's TIMEOUT has passed. -/
def State.skyLate (s : State) (ws : List Word) (frame : Nat) : Bool :=
  (skyJobOf ws).timeout != 0 && decide ((skyJobOf ws).timeout ≤ s.framesSince frame)

/-- Run the head of the records found where it is the one named: as its row's kind, or as malformed. -/
def State.skyRun (s : State) (c idx kind : Nat) (run : State → List Word → Nat → State) : State :=
  let s := if (s.sky1 c).found.head? = some idx then s.skyStart c else s
  match (s.sky1 c).found.head?, (s.sky1 c).job with
  | some i, some (ws, f) =>
    if i ≠ idx ∨ !s.skyRuns c then s
    else if s.skyBad (skyJobOf ws) then s.skyReject c ws
    else if (skyJobOf ws).kind ≠ kind ∨ (s.sky1 c).cal.isSome then s
    else run (s.skyShow c) ws f
  | _, _ => s

/-- The engine answers in exact fallback (R377). -/
def State.skyExact (s : State) (c : Nat) : Bool :=
  s.rf (SKY_STATUS c) SKY_STATUS_STATE != 2 || s.rf (SKY_CFG c) SKY_CFG_FORCE_EXACT == 1

/-- LOAD_MATRIX (R365). -/
def State.skyLoad (s : State) (c : Nat) (ws : List Word) (f : Nat) : State :=
  let x := skyJobOf ws
  if s.skyLate ws f then s.skyFallback c ws f true
  else if s.skyExact c || x.all then s.skyFallback c ws f false
  else
    let r := s.skyBytes x.candDa 4160
    let y := r.2.sky1 c
    let s := r.2.setSky c { y with mats := sparseSet (fun _ => ([] : List Byte)) y.mats x.slot r.1 }
    (s.setReg (SKY_SLOT c x.slot) (packFields [(SKY_SLOT_JOB_ID, x.id), (SKY_SLOT_STATE, 1)])).skyDone1 c ws true false false

def execLoadMatrix (c : Casement) (idx : Fin 64) (s : State) : Out :=
  .next (s.skyRun c.val idx.val 0 (fun s ws f => s.skyLoad c.val ws f))

/-- SLOT_READY. -/
def execSlotReady (c : Casement) (slot : Fin 64) (s : State) : Out :=
  .next (if s.rf (SKY_SLOT c.val slot.val) SKY_SLOT_STATE = 1 then s.wf (SKY_SLOT c.val slot.val) SKY_SLOT_STATE 2 else s)

/-- SCORE: a job whose slot is not READY waits; an internal uncorrectable error fences the engine (R366, R381). -/
def State.skyScoreJob (s : State) (c : Nat) (e : ScoreEnv) (ws : List Word) (f : Nat) : State :=
  let x := skyJobOf ws
  if s.skyLate ws f then s.skyFallback c ws f true
  else if s.skyExact c || x.all then s.skyFallback c ws f false
  else if s.rf (SKY_SLOT c x.slot) SKY_SLOT_STATE ≠ 2 then s
  else if e.internalUe then ((s.raise F_SKY_FAULT (skyLoc c) 0).skyShow c).skyFallback c ws f false
  else s.skySelect c ws f e

def execScore (c : Casement) (idx : Fin 64) (e : ScoreEnv) (s : State) : Out :=
  .next (s.skyRun c.val idx.val 1 (fun s ws f => s.skyScoreJob c.val e ws f))

/-- SKY_JOB_TIMEOUT: at once, or once a calibration ends (Table 12-7). -/
def execSkyJobTimeout (c : Casement) (s : State) : Out :=
  .next (match (s.sky1 c.val).job with
    | none => s
    | some (ws, f) =>
      if !s.skyRuns c.val || !s.skyLate ws f || s.skyBad (skyJobOf ws) then s
      else if (s.sky1 c.val).cal.isSome then s.setSky c.val { s.sky1 c.val with expired := true }
      else s.skyFallback c.val ws f true)

/-! ## Calibration and carriers (R380, R381) -/

/-- The periodic calibrations that fall due in the frame that has begun. -/
def State.skyDue (s : State) (c : Nat) : State :=
  let p := s.rf (SKY_CFG c) SKY_CFG_CAL_PERIOD
  if p ≠ 0 ∧ (s.frame + 2 ^ 48 - c * p / 8) % 2 ^ 48 % p = 0 ∧ !(s.sky1 c).due.contains 1 then
    s.setSky c { s.sky1 c with due := (s.sky1 c).due ++ [1] }
  else s

/-- The engine is powered and not fenced. -/
def State.skyUp (s : State) (c : Nat) : Bool :=
  !s.isFenced (skyLoc c) && !s.enginesOff.contains (skyLoc c) && s.rf (CSM_STATUS c) CSM_STATUS_POWER == 2

/-- SKY_CALIBRATION: at a job boundary, for the cause that fell due first. -/
def State.skyCalibrate (s : State) (c : Nat) : State :=
  let x := s.sky1 c
  match x.due with
  | [] => s
  | k :: _ =>
    if x.job.isSome || x.cal.isSome || !s.skyUp c || !s.carrierGood c then s
    else (s.setSky c { x with due := [], cal := some k }).skyShow c

def execSkyCalibration (c : Casement) (s : State) : Out := .next (s.skyCalibrate c.val)

/-- SKY_CALIBRATION_COMPLETE: APPLIED for the commands that asked, then a job whose TIMEOUT passed meanwhile completes. -/
def State.skyCalibrated (s : State) (c rms : Nat) : State :=
  let x := s.sky1 c
  match x.cal with
  | none => s
  | some k =>
    let s := s.setSky c { x with cal := none, cmds := [], tuned := true }
    let s := (s.satf (SKY_STATUS c) SKY_STATUS_CAL_COUNT 1).wf (SKY_STATUS c) SKY_STATUS_LAST_CAL k
    let s := s.wf (SKY_ERR c) SKY_ERR_RMS_CAL (min rms 0xFFFF)
    let s := x.cmds.foldl (fun s q => s.applied q.1 q.2.1 q.2.2 0x441 stOk false) (s.skyShow c)
    match x.job with
    | some (ws, f) => if x.expired then s.skyFallback c ws f true else s
    | none => s

def execSkyCalibrationComplete (c : Casement) (rms : Nat) (s : State) : Out := .next (s.skyCalibrated c.val rms)

/-- CARRIER_HANDOVER: at a job boundary a lit spare carrier replaces one that is not ACTIVE or past SWAP. -/
def State.skyHandover (s : State) (c : Nat) : State :=
  let x := s.sky1 c
  let old := s.rf (SKY_STATUS c) SKY_STATUS_CARRIER
  let worn := s.carrier c old != crActive ||
    decide (s.rfs (LSR_CARRIER c old) LSR_CARRIER_FADE ≤ s.rfs (LSR_CFG c) LSR_CFG_SWAP_DB)
  match (List.range 2).find? (fun i => s.carrier c i == crStandby) with
  | none => s
  | some i =>
    if x.job.isSome || x.cal.isSome || !worn then s
    else
      let s := if i ≠ old ∧ s.carrier c old = crActive then s.rampDown c (22 + old) else s
      let s := (s.setCarrier c i crActive).wf (SKY_STATUS c) SKY_STATUS_CARRIER i
      (s.setSky c { x with tuned := false, due := x.due ++ [3] }).skyShow c

def execCarrierHandover (c : Casement) (s : State) : Out := .next (s.skyHandover c.val)

/-! ## Commands and messages -/

/-- A mailbox base that SKY_SET refuses. -/
def State.mboxBad (s : State) (v : Word) : Bool :=
  let da := v.toNat % 2 ^ 48
  da % 4096 != 0 || daWindow da != 0 ||
  (match s.regionAt da with
   | some r => s.rgnBit r MEM_RGN_ATTR_READONLY || s.rgnBit r MEM_RGN_ATTR_ANNEX_BACKED
   | none => false)

/-- SKY_SET. -/
def State.skySet (s : State) (x : Cmd) : State :=
  let c := x.pf 0 2 0
  if s.mboxBad (x.p 2) then s.reply x stBadParam []
  else
    let s := s.wfs (SKY_CFG c) ([SKY_CFG_CAL_PERIOD, SKY_CFG_DRIFT_LIMIT, SKY_CFG_FORCE_EXACT, SKY_CFG_DRIFT_EN, SKY_CFG_EN].map
      (fun f => (f, getField (x.p 1) f)))
    let s := if getField (x.p 1) SKY_CFG_CNT_CLR = 1 then (s.setReg (SKY_JOBS c) 0).setReg (SKY_ERR c) 0 else s
    (s.wf (SKY_MBOX c) SKY_MBOX_BASE (getField (x.p 2) SKY_MBOX_BASE)).reply x stOk []

def execSkySet (c : Cmd) (s : State) : Out := .next (s.command c 0x440 (fun s => s.skySet c))

/-- SKY_CAL. -/
def State.skyCalCmd (s : State) (x : Cmd) : State :=
  let c := x.pf 0 2 0
  let y := s.sky1 c
  if !s.skyUp c || y.cal.isSome then s.reply x stBusy []
  else
    (s.setSky c { y with due := y.due ++ [4], cmds := y.cmds ++ [(x.tag, originOf s x, x.ringId)] }).reply x stDeferred []

def execSkyCal (c : Cmd) (s : State) : Out := .next (s.command c 0x441 (fun s => s.skyCalCmd c))

/-- SKY_DONE: the MEM_WRs before it have been accepted, since packets of a link are taken in order. -/
def State.takeSkyDone (s : State) (m : HearthMsg) : State :=
  let w := m.body.getD 0 0
  s.skySignal (getField w (bits 19 16)) (getField w (bits 23 20)) (getField w (bits 28 24))

def execSkyDone (l : LinkId) (p : Packet) (s : State) : Out :=
  .next (s.hearthPacket l.val mkSkyDone p (fun s m => s.takeSkyDone m))

end Sys2Proof.Machine
end

