-- ==== Sys2Proof/Machine/Manage.lean ====
section
/-!
DEFINITION. Sys2Proof/Machine/Manage.lean: reads and writes of management space and of BAR0 (R5 to R8, R26 to R31, R413 to R415,
R441), the counter-clear bits, and the discovery opcodes (R432).
-/

set_option Elab.async false

namespace Sys2Proof.Machine

/-! ## Units of management space (R29 to R31) -/

/-- The unit that a block's registers belong to. -/
def blockLoc (b : Block) (i : Nat) : Nat :=
  match b with
  | .bay => locBay (bayOf i)
  | .til => locTile (bayOf (i / 17)) (i % 17)
  | .csm | .lsr | .tun | .str | .sky => locCasement i
  | .drl => if i < 8 then locCasement i else locPackage
  | .gst => locSite i
  | .hal | .ldr | .pnt | .mem => locWing i
  | .cel => locControl 5
  | .chm => locControl 3
  | _ => locPackage

/-- The unit whose registers read 0 because it is off, or because its power changes and the access is not the Hearth's own
(R29, R30); none: the registers answer. A guest die's registers are its window's; GST_ lies in the base die. -/
def State.darkUnit (s : State) (own : Bool) (b : Block) (i : Nat) : Option Nat :=
  let dark := fun (p : Nat) => p == 0 || (p != 2 && !own)
  let bay := fun (x : BayId) =>
    if dark (s.rf (PWR_DIE x.die.val) PWR_DIE_STATE) then some (locDie x.die.val)
    else if dark (s.rf (BAY_STATUS x) BAY_STATUS_POWER) then some (locBay x) else none
  match b with
  | .bay => bay (bayOf i)
  | .til => bay (bayOf (i / 17))
  | .csm | .lsr | .tun | .str | .drl | .sky =>
    if i < 8 then (if dark (s.rf (CSM_STATUS i) CSM_STATUS_POWER) then some (locCasement i) else none) else none
  | _ => none

/-! ## Reading -/

/-- Entries of a wing's Pantry in a state. -/
def State.pantryCount (s : State) (w st : Nat) : Nat :=
  (s.pantry.filter (fun e => e.1 / 131072 == w && e.2.state == st)).length

/-- Registers of which no command of this block changes what they count or measure: traffic, corrected errors of the base-die SRAMs,
and the receivers of Porch lanes. What they read is open (log entry). -/
def openReg (b : Block) (o : Nat) : Word :=
  match b with
  | .hal => if o = 8 ∨ o = 16 then 0xFFFFFFFFFFFFFFFF else 0
  | .ldr => if 0x20 ≤ o ∧ o < 0x58 ∧ (o - 0x20) % 0x18 = 0 then 0xFFFFFFFFFFFF0000 else 0
  | .pnt => if o = 0x20 then 0xFFFF000000000000 else 0
  | .pch => if 0x100 ≤ o ∧ o < 0x200 then 0xFFFF0000FFFFFFFF else 0
  | _ => 0

/-- Fields that follow other state: levels, counts of entries, frames left; generator states read 0 outside MAKER. -/
def State.shown (s : State) (b : Block) (i o : Nat) (v : Word) : Word :=
  match b with
  | .cel =>
    let n := (o - 0x10000) / 0x40
    let level := queueLevel (s.queue n)
    if o < 0x10000 ∨ 0x10000 + 1116 * 0x40 ≤ o then v
    else if (o - 0x10000) % 0x40 = 8 then putField v CEL_QLEVEL_LEVEL level
    else if (o - 0x10000) % 0x40 = 0x18 then
      putField (putField v CEL_QMARK_HIGH_NOW (if s.highAt n level then 1 else 0)) CEL_QMARK_LOW_NOW (if s.lowAt n level then 1 else 0)
    else v
  | .pnt =>
    if o = 8 then packFields [(PNT_STATUS_LOST_CNT, s.pantryCount i stLost), (PNT_STATUS_EVICTING_CNT, s.pantryCount i stEvicting),
      (PNT_STATUS_READY_CNT, s.pantryCount i stReady)] else v
  | .sec =>
    if o = 0x10 then putField v SEC_AUTH_LOCK_FRAMES
      (match s.lockout with | some f => (f + 2 ^ 48 - s.frame) % 2 ^ 48 | none => 0) else v
  | .bay => if (o = 0x28 ∨ o = 0x30) ∧ s.nv.lifecycle ≠ 0 then 0 else v
  | .til => if o = 0x10 ∧ s.nv.lifecycle ≠ 0 then 0 else v
  | _ => v

/-- Put an open word where a mask says. -/
def State.mixOpen (s : State) (v m : Word) : Word × State :=
  if m = 0 then (v, s)
  else
    let w := s.draw
    ((v &&& ~~~ m) ||| (w.1 &&& m), w.2)

/-- Read a register that answers. -/
def State.regRead (s : State) (a : Nat) (b : Block) (i o : Nat) : Word × State :=
  match findSpec (blockSpecs b) o with
  | none => (0, s)
  | some _ => s.mixOpen (s.shown b i o (s.reg (canonAddr a))) (openReg b o)

/-- A 64-bit read of a management address from a source other than Hearth firmware (R5, R7, R27, R29, R30). -/
def State.mgmtRead (s : State) (a : Nat) : Word × State :=
  if a % 8 ≠ 0 then (0, s.mgmtError locPackage a)
  else match locate a with
  | .outside => (0, s.mgmtError locPackage a)
  | .empty => (0, s)
  | .guestWindow g o =>
    let k := s.draw
    let w := k.2.draw
    let t := w.2.guestAccess g o none (if wbit k.1 0 then some w.1 else none)
    (t.guestAnswer, t)
  | .reg b i o =>
    match s.darkUnit false b i with
    | some l => (0, s.mgmtError l a)
    | none => s.regRead a b i o

/-! ## Writing registers -/

/-- A pool that R360 refuses. -/
def poolBad (nvcM1 : Nat) (pool : Word) : Bool :=
  let p := getField pool DRL_POOL_POOL
  decide (p < 2048) || decide (32768 < p) || p % 2048 != 0 || decide (p ≤ (nvcM1 + 1) * getField pool DRL_POOL_RES) ||
    getField pool DRL_POOL_CAP_PCT == 0 || decide (100 < getField pool DRL_POOL_CAP_PCT)

/-- ECC_CLR: the bay's error counts and last location are cleared. -/
def State.eccClear (s : State) (b : BayId) : State := s.setReg (BAY_ECC b) 0

/-- CSM_CTRL.CNT_CLR. -/
def State.csmClear (s : State) (c : Nat) : State :=
  let s := (List.range 16).foldl (fun s f =>
    (((s.setReg (CSM_RXCW c f) 0).setReg (CSM_RXCORR c f) 0).setReg (CSM_RXSYM c f) 0).setReg (CSM_RXUNC c f) 0) s
  (List.range 128).foldl (fun s i => s.wf (CSM_RXLANE c i) CSM_RXLANE_SYM_ERR 0) s

/-- STR_CFG.CNT_CLR: STR_CFG is one register in all eight windows. -/
def State.strClear (s : State) : State :=
  (List.range 8).foldl (fun s c =>
    let s := (List.range 16).foldl (fun s f => s.wfs (STR_FERR c f) [(STR_FERR_WRONG_PEER, 0), (STR_FERR_NO_LIGHT, 0), (STR_FERR_LATE, 0)]) s
    s.wf (STR_PLANSTAT c) STR_PLANSTAT_SKIPPED 0) s

/-- DRL_CTRL.CNT_CLR: every link of the Casement. -/
def State.drlClear (s : State) (c : Nat) : State :=
  (csmLinks c).foldl (fun s l => (s.setReg (DRL_RXERR l) 0).setReg (DRL_EVENTS l) 0) s

/-- SKY_CFG.CNT_CLR. -/
def State.skyClear (s : State) (c : Nat) : State :=
  (s.setReg (SKY_JOBS c) 0).wfs (SKY_ERR c) [(SKY_ERR_CLIPS, 0), (SKY_ERR_READ_FAILS, 0)]

/-- Write the fields that software may write, as their access codes say. -/
def State.regPut (s : State) (sp : RegSpec) (a : Nat) (v : Word) : State := s.setReg a (softwareWrite sp (s.reg a) v)

/-- Engine enables of CSM_CTRL ask for planned changes of the engines (R462). -/
def State.engineEnables (s : State) (c : Casement) (old v : Word) : State :=
  let s := (List.finRange 8).foldl (fun s e =>
    let s := if wbit old (8 + e.val) == wbit v (8 + e.val) then s else (s.unitReq (.tx c e) (wbit v (8 + e.val)) none).1
    if wbit old (16 + e.val) == wbit v (16 + e.val) then s else (s.unitReq (.rx c e) (wbit v (16 + e.val)) none).1) s
  s.showEngines c.val

/-- A write of DRL_CFG: a change of EN takes the link to DOWN, or takes it down. -/
def State.drlCfg (s : State) (sp : RegSpec) (a l : Nat) (v : Word) : State :=
  let was := getField (s.reg a) DRL_CFG_EN
  let s := s.regPut sp a v
  let now := getField v DRL_CFG_EN
  if was = now then s
  else if now = 1 then (if s.linkState l = lkDisabled then s.setLinkState l lkDown else s)
  else if s.linkState l = lkDown then s.setLinkState l lkDisabled
  else s.goDown l 7

/-- The link whose registers lie at a management address. -/
def linkAt (i a : Nat) : Nat := if i < 8 then 16 * i + (a - (csmBase i + 0x801000)) / 0x100 else 128 + (a - 0x0410801000) / 0x100

/-- BAY_ and TIL_ generator states: only in MAKER, and 0 is stored as 1. -/
def State.setSr (s : State) (a : Nat) (v : Word) : State :=
  if s.nv.lifecycle ≠ 0 then s
  else
    let n := getField v BAY_VSR_STATE_STATE
    s.wf a BAY_VSR_STATE_STATE (if n = 0 then 1 else n)

/-- What an accepted write of a bay register does. -/
def State.bayWrite (s : State) (sp : RegSpec) (fw : Bool) (b : BayId) (o a : Nat) (v : Word) : State :=
  if o = 0x10 then
    let s := (s.regPut sp a v).bayPowerReq b (getField v BAY_CTRL_POWER_REQ == 1)
    if getField v BAY_CTRL_ECC_CLR = 1 then s.eccClear b else s
  else if o = 0x28 ∨ o = 0x30 then s.setSr a v
  else if o = 0x100 then
    let s := s.regPut sp a v
    if getField v BAY_SEQ_CTRL_RUN = 1 ∧ fw then s.runSequencer (.hearth s.epoch) b else s
  else s.regPut sp a v

/-- What an accepted write of a Casement register does, by block. -/
def State.csmWrite (s : State) (sp : RegSpec) (b : Block) (c : Casement) (o a : Nat) (v : Word) : State :=
  match b with
  | .csm =>
    if o = 0x10 then
      let old := s.reg a
      let s := ((s.regPut sp a v).csmPowerReq c (getField v CSM_CTRL_POWER_REQ == 1)).engineEnables c old v
      if getField v CSM_CTRL_CNT_CLR = 1 then s.csmClear c.val else s
    else s.regPut sp a v
  | .lsr => if o = 0 ∧ threshOk v = false then s.mgmtError locPackage a else s.regPut sp a v
  | .str =>
    let s := s.regPut sp a v
    if o = 0 ∧ getField v STR_CFG_CNT_CLR = 1 then s.strClear else s
  | .sky =>
    let s := s.regPut sp a v
    if o = 0 ∧ getField v SKY_CFG_CNT_CLR = 1 then s.skyClear c.val else s
  | _ => s.regPut sp a v

/-- What an accepted write of a DRL_ register does. -/
def State.drlWrite (s : State) (sp : RegSpec) (i o a : Nat) (v : Word) : State :=
  if o = 0 then (if getField v DRL_CTRL_CNT_CLR = 1 ∧ i < 8 then s.drlClear i else s)
  else if o = 0x1000 then s.drlCfg sp a (linkAt i a) v
  else if o = 0x1008 then
    (if poolBad (s.rf (a - 8) DRL_CFG_NVC_M1) v then s.mgmtError locPackage a else s.regPut sp a v)
  else s.regPut sp a v

/-- What an accepted write of a CEL_ register does. -/
def State.celWrite (s : State) (sp : RegSpec) (o a : Nat) (v : Word) : State :=
  let n := (o - 0x10000) / 0x40
  if o < 0x10000 then s.regPut sp a v
  else if !queueUsed n then s
  else if (o - 0x10000) % 0x40 = 0x10 then s.celQwm n v
  else if (o - 0x10000) % 0x40 = 0x18 then
    let s := s.crossedClear n (getField v CEL_QMARK_CROSSED_H == 1) (getField v CEL_QMARK_CROSSED_L == 1)
    if getField v CEL_QMARK_CNT_CLR = 1 then s.celCntClear n else s
  else s.regPut sp a v

/-- An accepted write to a register (R6), with what its fields do. fw: from Hearth firmware. -/
def State.regWrite (s : State) (fw : Bool) (b : Block) (i o addr : Nat) (v : Word) : State :=
  match findSpec (blockSpecs b) o with
  | none => s
  | some (sp, _) =>
    let a := canonAddr addr
    match b with
    | .bay => s.bayWrite sp fw (bayOf i) o a v
    | .til => if o = 0x10 then s.setSr a v else s.regPut sp a v
    | .ldr => if o = 0 then s.larderEnable i (getField v LDR_CTRL_EN) else s.regPut sp a v
    | .csm | .lsr | .tun | .str | .sky => s.csmWrite sp b (Fin.ofNat 8 i) o a v
    | .drl => s.drlWrite sp i o a v
    | .cel => s.celWrite sp o a v
    | .gst =>
      if o = 0 then
        ((s.wf a GST_CFG_POWER_REQ (getField v GST_CFG_POWER_REQ)).unitReq (.site (Fin.ofNat 4 i))
          (getField v GST_CFG_POWER_REQ == 1) none).1
      else s.regPut sp a v
    | .hrt => if o = 0x28 then s.wf a HRT_START_DEADLINE_MS (max 2000 (getField v HRT_START_DEADLINE_MS)) else s.regPut sp a v
    | .chm =>
      let t := getField v CHM_CFG_THROTTLE
      if o = 0 then (s.wf a CHM_CFG_HYST (getField v CHM_CFG_HYST)).wf a CHM_CFG_THROTTLE
        (if 85 ≤ t ∧ t ≤ 100 then t else s.rf a CHM_CFG_THROTTLE)
      else s.regPut sp a v
    | _ => s.regPut sp a v

/-- Registers that sources other than Hearth firmware may write: the chapters that own the other blocks say they are ignored. -/
def hostMay (b : Block) (o : Nat) : Bool :=
  match b with
  | .bay => decide (o < 0x100) && o != 0x10
  | .til => true
  | .cel => decide (0x10000 ≤ o) && ((o - 0x10000) % 0x40 == 0x10 || (o - 0x10000) % 0x40 == 0x18)
  | .lsr => decide (0x100 ≤ o) && decide (o < 0x200)
  | _ => false

/-- The power request of a unit that is off or changing: the one write to it that acts (R100, R462). -/
def State.powerWrite (s : State) (b : Block) (i o : Nat) (v : Word) : State :=
  match b with
  | .bay => if o = 0x10 then s.bayPowerReq (bayOf i) (getField v BAY_CTRL_POWER_REQ == 1) else s
  | .csm => if o = 0x10 then s.csmPowerReq (Fin.ofNat 8 i) (getField v CSM_CTRL_POWER_REQ == 1) else s
  | _ => s

/-- A 64-bit write of a management address. fw: as Hearth firmware writes; own: Hearth firmware itself, which sequences power
changes (R30). -/
def State.mgmtWrite (s : State) (fw own : Bool) (a : Nat) (v : Word) : State :=
  match locate a with
  | .outside => s.mgmtError locPackage a
  | .empty => s
  | .guestWindow g o =>
    let k := s.draw
    k.2.guestAccess g o (some v) (if wbit k.1 0 then some v else none)
  | .reg b i o =>
    match s.darkUnit own b i with
    | some l => let t := s.mgmtError l a
                if fw then t.powerWrite b i o v else t
    | none =>
      if fw then s.regWrite true b i o a v
      else if hostMay b o && !s.isFenced (blockLoc b i) then s.regWrite false b i o a v
      else s

/-- A write of some width: only aligned 64-bit accesses are performed (R5). -/
def State.mgmtAccess (s : State) (fw own : Bool) (a width : Nat) (v : Word) : State :=
  if width ≠ 8 ∨ a % 8 ≠ 0 then s.mgmtError locPackage a else s.mgmtWrite fw own a v

/-! ## BAR0 (R413 to R415, R441) -/

/-- A write of a DMA channel's HB_DMAc_CFG. -/
def State.dmaCfg (s : State) (ch : Nat) (v : Word) : State :=
  if s.sizeBad (HB_DMA_CFG ch) HB_DMA_CFG_SIZE HB_DMA_CFG_EN v then s
  else
    let s := (s.whf (HB_DMA_CFG ch) HB_DMA_CFG_VECTOR (getField v HB_DMA_CFG_VECTOR)).whf (HB_DMA_CFG ch) HB_DMA_CFG_SIZE
      (getField v HB_DMA_CFG_SIZE)
    let s := if getField v HB_DMA_CFG_EN = 0 then s.dmaStop ch
      else if s.dmaOn ch then s
      else (s.whf (HB_DMA_CFG ch) HB_DMA_CFG_EN 1).dmaState ch
    if getField v HB_DMA_CFG_RESUME = 1 then s.dmaResume ch else s

/-- A write of a ring's base: discarded while its EN is 1. -/
def State.baseWrite (s : State) (reg cfg : Nat) (en : Field) (v : Word) : State :=
  if s.hf cfg en = 1 ∧ getField v HB_EVQ_BASE_BASE ≠ s.hf reg HB_EVQ_BASE_BASE then s
  else s.whf reg HB_EVQ_BASE_BASE (getField v HB_EVQ_BASE_BASE)

/-- A write of a bridge register at offset o of BAR0 (Tables 14-16 to 14-25). -/
def State.bridgeWrite (s : State) (o : Nat) (v : Word) : State :=
  let k := (o - 0x100000) / 0x10
  let q := o % 0x1000 / 0x20
  if o < 0x100100 then (if o % 0x10 = 0 then s.ringCfg k v else s.doorbell (Fin.ofNat 16 k) v)
  else if 0x101000 ≤ o ∧ o < 0x101200 then
    match o % 0x20 with
    | 0 => s.baseWrite (HB_EVQ_BASE q) (HB_EVQ_CFG q) HB_EVQ_CFG_EN v
    | 8 => s.evqCfgWrite q v
    | 16 => s.evqHead q v
    | _ => s
  else if o = HB_HATCH_ADDR then s.whf HB_HATCH_ADDR HB_HATCH_ADDR_ADDR (getField v HB_HATCH_ADDR_ADDR)
  else if o = HB_HATCH_ERR then (if getField v HB_HATCH_ERR_ERR = 1 then s.setHreg HB_HATCH_ERR 0 else s)
  else if 0x103000 ≤ o ∧ o < 0x103100 then
    match o % 0x20 with
    | 0 => s.baseWrite (HB_DMA_BASE q) (HB_DMA_CFG q) HB_DMA_CFG_EN v
    | 8 => s.dmaCfg q v
    | 16 => s.dmaDoorbell q v
    | _ => s
  else if o = HB_BRIDGE then s.whf HB_BRIDGE HB_BRIDGE_PAGE (getField v HB_BRIDGE_PAGE)
  else s

/-- A write of the MSI-X table; a vector that is unmasked while it is pending signals (PRESUMED: PCI Express). -/
def State.msixWrite (s : State) (o width : Nat) (v : Word) : State :=
  let a := o / 8 * 8
  let old := s.hreg a
  let raw := if width = 8 then v
    else if o % 8 = 4 then putField old (bits 63 32) (v.toNat % 2 ^ 32) else putField old (bits 31 0) (v.toNat % 2 ^ 32)
  if !((width = 8 ∧ o % 8 = 0) ∨ (width = 4 ∧ o % 4 = 0)) then s
  else if a % 16 = 0 then s.setHreg a (raw &&& 0xFFFFFFFFFFFFFFFC)
  else
    let s := s.setHreg a (raw &&& 0x00000001FFFFFFFF)
    let n := (a - 0x110000) / 16
    if !wbit raw 32 && s.msixPending.contains n then
      ({ s with msixPending := s.msixPending.filter (fun x => x != n) } : State).msix n
    else s

/-- A memory write TLP to BAR0. -/
def State.bar0Write (s : State) (o width : Nat) (v : Word) : State :=
  if !s.functionUp then s
  else if o < 0x100000 then
    if width % 8 = 0 ∧ o % 8 = 0 ∧ o + width ≤ 0x100000 then { s with ringMem := memWrite s.ringMem o (natToBytes width v.toNat) } else s
  else if o < 0x110000 then (if width ≠ 8 ∨ o % 8 ≠ 0 then s.mgmtError locPcie o else s.bridgeWrite o v)
  else if o < 0x111000 then s.msixWrite o width v
  else if o < 0x1000000 ∨ 0x2000000 ≤ o then s
  else s.mgmtAccess false false (0x1000000 * s.hf HB_BRIDGE HB_BRIDGE_PAGE + (o - 0x1000000)) width v

/-- REGISTER_WRITE: from Hearth firmware with an epoch that is not stale (R448), or from another source; BAR0 is the host's. -/
def State.registerWrite (s : State) (src : Writer) (sp : Space) (addr width : Nat) (v : Word) : State :=
  if s.mode = .off then s
  else match sp with
  | .bar0 => if src = .host then s.bar0Write addr width v else s
  | .mgmt =>
    match src with
    | .hearth _ => if fromHearth s src then s.mgmtAccess true true addr width v else s
    | _ => s.mgmtAccess false false addr width v

def execRegisterWrite (src : Writer) (sp : Space) (addr width : Nat) (value : Word) (s : State) : Out :=
  .next (s.registerWrite src sp addr width value)

/-! ## Counter clears -/

def execEccClr (src : Writer) (b : BayId) (s : State) : Out := .next (if fromHearth s src then s.eccClear b else s)
def execCsmCntClr (src : Writer) (c : Casement) (s : State) : Out := .next (if fromHearth s src then s.csmClear c.val else s)
def execStrCntClr (src : Writer) (s : State) : Out := .next (if fromHearth s src then s.strClear else s)
def execDrlCntClr (src : Writer) (c : Casement) (s : State) : Out := .next (if fromHearth s src then s.drlClear c.val else s)
def execSkyCntClr (src : Writer) (c : Casement) (s : State) : Out := .next (if fromHearth s src then s.skyClear c.val else s)

/-! ## Discovery opcodes (Table 14-6) -/

/-- IDENTIFY. -/
def State.identify (s : State) (c : Cmd) : State :=
  s.reply c stOk [s.reg HRT_ID, s.reg HRT_SERIAL, s.reg HRT_PKGID, s.reg HRT_FEATURE,
    packFields [(bits 3 0, s.nv.lifecycle), (bit 4, s.rf HRT_START HRT_START_IMAGE)], s.fwNow.version]

def execIdentify (c : Cmd) (s : State) : Out := .next (s.command c 0x001 (fun s => s.identify c))

/-- POD_LIST: the packages reached, this one apart. -/
def State.podList (s : State) (c : Cmd) : State :=
  let ps := s.reached
  let bs := natToBytes 2 ps.length ++ ps.flatMap (fun p => natToBytes 2 (p.1 % 4096 + if p.2 then 0x8000 else 0))
  if daWindow (c.pf 0 47 0) ≠ 0 then s.reply c stBadParam [] else s.replyWritten c (s.cmdWrite (c.pf 0 47 0) bs) []

def execPodList (c : Cmd) (s : State) : Out := .next (s.command c 0x002 (fun s => s.podList c))

/-- Read n words from a management address on. -/
def State.mgmtReads (s : State) (a : Nat) : Nat → List Word × State
  | 0 => ([], s)
  | n + 1 =>
    let r := s.mgmtRead a
    let rest := r.2.mgmtReads (a + 8) n
    (r.1 :: rest.1, rest.2)

/-- A command on a pod management address (R28): run here for this package, or package 0; sent on to another (log entry). -/
def State.podCmd (s : State) (c : Cmd) (body : State → State) : State :=
  let p := c.pf 0 51 40
  if p = 0xFFF then s.reply c stBadParam []
  else if p = 0 ∨ p = s.pkg then body s
  else if isForwarded c then s.reply c stBadParam []
  else if (s.routeTo p).isSome then (s.addActive c true).forwardTo c p
  else s.reply c stLinkDown []

/-- MGMT_READ: one to six words. -/
def State.mgmtReadCmd (s : State) (c : Cmd) : State :=
  let n := c.pf 0 54 52 + 1
  if 6 < n then s.reply c stBadParam []
  else s.podCmd c (fun s =>
    let r := s.mgmtReads (c.pf 0 39 0) n
    r.2.reply c stOk r.1)

def execMgmtRead (c : Cmd) (s : State) : Out := .next (s.command c 0x003 (fun s => s.mgmtReadCmd c))

/-- MGMT_WRITE: as Hearth firmware writes; a unit whose power changes is not reached (R30). -/
def State.mgmtWriteCmd (s : State) (c : Cmd) : State :=
  s.podCmd c (fun s => (s.mgmtAccess true false (c.pf 0 39 0) 8 (c.p 1)).reply c stOk [])

def execMgmtWrite (c : Cmd) (s : State) : Out := .next (s.command c 0x101 (fun s => s.mgmtWriteCmd c))

end Sys2Proof.Machine
end

