-- ==== Sys2Proof/Machine/Selftest.lean ====
section
/-!
DEFINITION. Sys2Proof/Machine/Selftest.lean: spare rotation (R84 to R90), runtime BIST slices and the repair of failed rows
(R499 to R504), and the bay scrubber (R96).
-/

set_option Elab.async false

namespace Sys2Proof.Machine

/-! ## Slices (R499, R500) -/

/-- An interval has passed since the last slice of a kind on a unit. -/
def State.sliceDue (s : State) (ix interval : Nat) : Bool :=
  decide (interval ≤ s.framesSince (sparseGet zeroDefault s.sliceAt ix))

/-- A slice ran in the present frame. -/
def State.sliceRan (s : State) (ix : Nat) : State :=
  ({ s with sliceAt := sparseSet zeroDefault s.sliceAt ix s.frame } : State).satf BST_COUNT BST_COUNT_SLICES 1

def State.sliceSkipped (s : State) : State := s.satf BST_COUNT BST_COUNT_SKIPPED 1

/-- A slice failed: BST_LAST names the failure (R501, R502). -/
def State.sliceFailed (s : State) (loc bank row word bitNo : Nat) : State :=
  (s.satf BST_COUNT BST_COUNT_FAILED 1).setReg BST_LAST (packFields [(BST_LAST_LOCATOR, loc), (BST_LAST_BANK, bank),
    (BST_LAST_ROW, row), (BST_LAST_WORD, word), (BST_LAST_BIT, bitNo), (BST_LAST_VALID, 1)])

/-- The clock of a compute die stands at a point of Table 15-4 (R500). -/
def State.pointSteady (s : State) (d : Nat) : Bool :=
  s.rf (PWR_DIE d) PWR_DIE_STEP == 0 && !s.points.any (fun p => p.wing == d / 3)

/-- A bay runs slices: it is on and not fenced. -/
def State.bayTests (s : State) (b : BayId) : Bool :=
  s.rf (BAY_STATUS b) BAY_STATUS_POWER == 2 && !s.isFenced (locBay b)

/-! ## Tiles (R86, R87, R90, R501) -/

def State.tileWith (s : State) (b : BayId) (role : Nat) : Option Nat := (List.range 17).find? (fun t => s.tileRole b t == role)

/-- The next tile above t, cyclically, that is neither FENCED nor RETIRED. -/
def State.nextTile (s : State) (b : BayId) (t : Nat) : Option Nat :=
  ((List.range 16).map (fun i => (t + 1 + i) % 17)).find? (fun u => decide (s.tileRole b u < 3))

/-- ROTATION_STEP: the spare role moves on, and the new spare enters TEST. -/
def State.rotate (s : State) (b : BayId) : State :=
  let due := s.rf (BAY_CTRL b) BAY_CTRL_ROT_EN == 1 && s.rf BST_CFG BST_CFG_TILE_EN == 1 && s.bayTests b &&
    (s.bay b).rMat.isNone && s.sliceDue (bayIx b) (s.rf BST_CFG BST_CFG_TILE_INTERVAL)
  match due, s.tileWith b 1 with
  | true, some t => match s.nextTile b t with
    | some u =>
      let s := (s.wf (TIL_STATUS b t) TIL_STATUS_ROLE 0).wf (TIL_STATUS b u) TIL_STATUS_ROLE 2
      (s.setBay b { s.bay b with sliceTile := some u }).remapTiles b
    | none => s
  | _, _ => s

def execRotationStep (b : BayId) (s : State) : Out := .next (s.rotate b)

/-- The spare returns to SPARE. -/
def State.tilePasses (s : State) (b : BayId) (t : Nat) : State := (s.wf (TIL_STATUS b t) TIL_STATUS_ROLE 1).remapTiles b

/-- The spare fails its signature test at a cell (R90, R501). -/
def State.tileFails (s : State) (b : BayId) (t row col : Nat) : State :=
  let s := (s.wfs (TIL_STATUS b t) [(TIL_STATUS_ROLE, 3), (TIL_STATUS_LAST_FAULT, 5)]).remapTiles b
  let cell := locTile b t - 3 * 2 ^ 25 + 2 ^ 25 + row * 64 + col
  (s.sliceFailed cell 0 0 0 0).raise F_SPARE_FAIL (locTile b t) (row * 64 + col)

/-- TILE_SLICE. -/
def State.tileSlice (s : State) (b : BayId) (voltageOk : Bool) (cell : Option (Fin 64 × Fin 64)) : State :=
  match s.bayTests b, s.tileWith b 2 with
  | true, some t =>
    let s := s.setBay b { s.bay b with sliceTile := none }
    if !(voltageOk && s.pointSteady b.die.val) then s.sliceSkipped
    else
      let s := s.sliceRan (bayIx b)
      match cell with
      | none => s.tilePasses b t
      | some (row, col) => s.tileFails b t row.val col.val
  | _, _ => s

def execTileSlice (b : BayId) (voltageOk : Bool) (failCell : Option (Fin 64 × Fin 64)) (s : State) : Out :=
  .next (s.tileSlice b voltageOk failCell)

/-! ## Bay SRAM (R499, R502, R503) -/

/-- The row of a bank that the next slice tests: the oldest scrubber candidate of the bank, else the rotation's. -/
def State.rowDue (s : State) (b : BayId) (bank : Nat) : Nat :=
  match s.candidates.find? (fun c => c.1 == bayIx b && c.2.1 == bank) with
  | some c => c.2.2
  | none => (s.bay b).slicePos

/-- A slice takes the oldest candidate of every bank; the rotation moves on. -/
def State.rowsTested (s : State) (b : BayId) : State :=
  let mine := s.candidates.filter (fun c => c.1 == bayIx b)
  let gone := (List.range 64).filterMap (fun k => mine.find? (fun c => c.2.1 == k))
  ({ s with candidates := s.candidates.filter (fun c => !gone.contains c) } : State).setBay b
    { s.bay b with slicePos := ((s.bay b).slicePos + 1) % 4096 }

/-- SRAM_SLICE. A failing row is served from the BIST buffer, which holds what the row held. -/
def State.sramSlice (s : State) (b : BayId) (e : SliceEnv) : State :=
  let ix := 144 + bayIx b
  let bad := match e.fail with | some f => s.rowDue b f.bank != f.row || decide (64 ≤ f.bank) | none => false
  if !(s.rf BST_CFG BST_CFG_SRAM_EN == 1 && s.bayTests b && (s.bay b).bistRow.isNone &&
      s.sliceDue ix (s.rf BST_CFG BST_CFG_SRAM_INTERVAL)) || bad then s
  else if !(e.voltageOk && s.pointSteady b.die.val) then s.sliceSkipped
  else
    let s := (s.sliceRan ix).rowsTested b
    match e.fail with
    | none => s
    | some f =>
      let s := s.setBay b { s.bay b with bistRow := some (f.bank, f.row) }
      (s.sliceFailed (locBank b f.bank) f.bank f.row f.word f.bit).raise F_BIST_SLICE_FAIL (locBank b f.bank) 0

def execSramSlice (b : BayId) (e : SliceEnv) (s : State) : Out := .next (s.sramSlice b e)

/-! ## Base-die SRAMs -/

/-- A row of a base-die SRAM waits for its repair. -/
def State.baseWaits (s : State) (ix : Nat) : Bool := s.baseBist.any (fun e => e.1 == ix)

/-- A slice of one set of a base-die SRAM. -/
def State.baseSlice (s : State) (ix sets loc : Nat) (e : SliceEnv) (before : State → Nat → State) : State :=
  let pos := sparseGet zeroDefault s.slicePos ix
  if !(s.rf BST_CFG BST_CFG_BASE_EN == 1 && !s.baseWaits ix && s.sliceDue ix (s.rf BST_CFG BST_CFG_BASE_INTERVAL)) then s
  else if !e.voltageOk then s.sliceSkipped
  else
    let s := before (s.sliceRan ix) pos
    let s := { s with slicePos := sparseSet zeroDefault s.slicePos ix ((pos + 1) % sets) }
    match e.fail with
    | none => s
    | some f =>
      let s := { s with baseBist := s.baseBist ++ [(ix, f.bank, f.row)] }
      (s.sliceFailed loc f.bank f.row f.word f.bit).raise F_BIST_SLICE_FAIL loc 0

/-- LARDER_SLICE: the set under test is invalidated. -/
def execLarderSlice (d : Die) (e : SliceEnv) (s : State) : Out :=
  .next (if s.wingLost (d.val / 3) || s.baseOff.contains (288 + d.val) then s
    else s.baseSlice (288 + d.val) 32768 (locDie d.val) e (fun s set =>
      { s with larders := sparseSet larderDefault s.larders (32768 * d.val + set) [] }))

/-- PANTRY_SLICE: the set's entries are restored. -/
def execPantrySlice (w : Wing) (e : SliceEnv) (s : State) : Out :=
  .next (if s.pantryGone w.val then s else s.baseSlice (300 + w.val) 16384 (locWing w.val) e (fun s _ => s))

/-! ## Repair (R502) -/

/-- No step runs on the bays that p names: they are in none, or at its fence. -/
def State.atFence (s : State) (p : Nat → Bool) : Bool :=
  s.steps.all (fun t => t.phase == .fenced || !t.bays.any (fun e => p e.bay))

/-- A bay's failed row goes to a spare row, with what the buffer holds. -/
def State.repairBay (s : State) (b : BayId) : State :=
  match (s.bay b).bistRow with
  | none => s
  | some (bank, row) =>
    if s.atFence (fun i => i == bayIx b) then
      let last := s.reg BST_LAST
      let mine := getField last BST_LAST_LOCATOR == locBank b bank && getField last BST_LAST_ROW == row
      let f := fun (x : Field) => if mine then getField last x else 0
      (s.setBay b { s.bay b with bistRow := none }).retireRow b bank row (f BST_LAST_WORD) (f BST_LAST_BIT) false
    else s

/-- A Larder without a spare row is disabled. -/
def State.larderOff (s : State) (d : Nat) : State :=
  let s := (s.addRepair 2 0 (locDie d) 0 0 0 0).1
  let s := { s with baseOff := s.baseOff ++ [288 + d] }
  s.larderEnable (d / 3) (s.rf (LDR_CTRL (d / 3)) LDR_CTRL_EN &&& (7 - 2 ^ (d % 3)))

/-- A Pantry without a spare row is disabled: its entries are gone. -/
def State.pantryOff (s : State) (w : Nat) : State :=
  let s := (s.addRepair 3 0 (locWing w) 0 0 0 0).1
  ({ s with baseOff := s.baseOff ++ [300 + w], pantry := s.pantry.filter (fun e => e.1 / 131072 != w) } : State).note F_PANTRY_DROP (locWing w) 0

/-- Spare rows left in a bank of a base-die SRAM, by its remaps. -/
def State.baseSpare (s : State) (ix bank : Nat) : Nat :=
  (s.baseRemaps.filter (fun e => e.1 == ix && e.2.1 == bank)).length

/-- A failed row of a base-die SRAM is remapped; off: what no spare row left, or no room for the record, does to the unit. -/
def State.repairBase (s : State) (ix loc : Nat) (off : State → State) : State :=
  match s.baseBist.find? (fun e => e.1 == ix) with
  | none => s
  | some (_, bank, row) =>
    if s.atFence (fun _ => true) then
      let used := s.baseSpare ix bank
      let s := { s with baseBist := s.baseBist.filter (fun e => e.1 != ix) }
      let r := s.addRepair 1 used loc bank row 0 0
      if 16 ≤ used ∨ r.2 = false then off s
      else { r.1 with baseRemaps := r.1.baseRemaps ++ [(ix, bank, row)] }
    else s

/-- BIST_ROW_REPAIR. -/
def execBistRowRepair (t : RepairTarget) (s : State) : Out :=
  .next (match t with
    | .bay b => s.repairBay b
    | .larder d => s.repairBase (288 + d.val) (locDie d.val) (fun s => s.larderOff d.val)
    | .pantry w => s.repairBase (300 + w.val) (locWing w.val) (fun s => s.pantryOff w.val))

/-! ## The scrubber (R96) -/

/-- A corrected error of the scrubber: a second one of its row in consecutive passes makes the row a repair candidate. -/
def State.scrubCe (s : State) (b : BayId) (e : SramErr) : State :=
  let key := 4096 * e.bank.val + e.row.val
  let x := s.bay b
  let cand := (bayIx b, e.bank.val, e.row.val)
  let s := (s.sramEcc b e).setBay b { x with scrubThis := if x.scrubThis.contains key then x.scrubThis else x.scrubThis ++ [key] }
  if x.scrubPrev.contains key && !s.candidates.contains cand then { s with candidates := s.candidates ++ [cand] } else s

/-- An uncorrectable error of the scrubber: as a descriptor's read under R95. -/
def State.scrubUe (s : State) (b : BayId) (e : SramErr) : State :=
  ((s.sramEcc b e).raise F_SRAM_UE (locBay b) 0).retireRow b e.bank.val e.row.val e.word.val 0x7F true

/-- SCRUB: one row of every bank. -/
def State.scrub (s : State) (b : BayId) (errs : List SramErr) : State :=
  if s.rf (BAY_STATUS b) BAY_STATUS_POWER = 2 ∧ s.rf (BAY_CTRL b) BAY_CTRL_SCRUB_EN = 1 then
    let row := (s.bay b).scrubRow
    let s := (errs.filter (fun e => e.row.val == row)).foldl (fun s e =>
      if e.bit.isSome then s.scrubCe b e else s.scrubUe b e) s
    let x := s.bay b
    s.setBay b (if row + 1 < 4096 then { x with scrubRow := row + 1 }
      else { x with scrubRow := 0, scrubPrev := x.scrubThis, scrubThis := [] })
  else s

def execScrub (b : BayId) (errs : List SramErr) (s : State) : Out := .next (s.scrub b errs)

end Sys2Proof.Machine
end

