-- ==== Sys2Proof/Machine/Start.lean ====
section
/-!
DEFINITION. Sys2Proof/Machine/Start.lean: package resets (R456, R473, R514, R545) and the start-up stages S1 to S11 (R523 to R535,
R537, R538), with the outcome of power-up BIST (R495 to R498) and the INIT hold (R468).
-/

set_option Elab.async false

namespace Sys2Proof.Machine

/-! ## Package resets -/

/-- What a package reset leaves: fuses, the NV store, the trip clamp, the levels of lands, the JTAG port, the sideband's own
state; everything else is wiped (R514). Host memory is not the package's. -/
def State.wiped (s : State) : State :=
  let t : State := { State.reset with
    pending := s.pending, freeCtr := s.freeCtr, fuse := s.fuse, nv := s.nv, hostMem := s.hostMem, clamped := s.clamped,
    resetLow := s.resetLow, jtag := s.jtag, straps := s.straps, i3cDyn := s.i3cDyn, i3cBlock := s.i3cBlock }
  t.wf PCH_PCIE PCH_PCIE_PERST (s.rf PCH_PCIE PCH_PCIE_PERST)

/-- RESET_N: asserted for ns nanoseconds; t = 0 of the next start is its release (R523, R545). -/
def execResetN (ns : Nat) (s : State) : Out :=
  .next (if ns < 10000 then s else ({ s with resetLow := true } : State).wiped)

def execPwrgoodDeassert (ns : Nat) (s : State) : Out := .next (if ns < 1000 then s else s.wiped)

/-- PACKAGE_RESET: the reaction's reset, where one is due; the record is in the NV history already. -/
def execPackageReset (s : State) : Out := .next (if s.resetPend then s.wiped else s)

/-- Nominal voltage of an input rail, mV (Table 19-2). -/
def railNominal (r : Nat) : Nat := [1800, 1100, 1200, 3300, 1200].getD r 0

/-- RAIL_UNDERVOLTAGE: below 90% for 1 us; the rail is latched unless VAUX itself fell (R456). -/
def execRailUndervoltage (rail : Fin 5) (mv ns : Nat) (s : State) : Out :=
  .next (if ns < 1000 ∨ railNominal rail.val * 9 ≤ mv * 10 then s
    else ({ s with nv := { s.nv with uvRail := if rail.val = 4 then s.nv.uvRail else rail.val + 1 } } : State).wiped)

/-! ## Stages -/

/-- The I3C status block as a Hearth writes it (Table 17-3). -/
def State.i3cShow (s : State) (stage code loc : Nat) : State :=
  { s with i3cBlock := [packFields [(bits 3 0, 1), (bits 7 4, stage), (bits 10 8, s.nv.lifecycle), (bits 31 16, code),
      (bits 63 32, loc)], s.reg HRT_SERIAL] }

/-- Enter a stage of HRT_START. -/
def State.enterStage (s : State) (n : Nat) : State := s.wf HRT_START HRT_START_STAGE n

/-- Stage k completes at us microseconds. -/
def State.stageUs (s : State) (k us : Nat) : State := s.wf (HRT_STAGE_US k) HRT_STAGE_US_US us

/-! ## S1 (R405, R528) -/

/-- Role of lane n in a role word. -/
def laneRole (roles : Word) (n : Nat) : Nat := getField roles (PCH_CFG_LANE n)

/-- Lane n keeps its role under R405. -/
def laneKeeps (roles : Word) (bridge : Bool) (n : Nat) : Bool :=
  let group := fun (lo len r : Nat) => (List.range len).all (fun i => laneRole roles (lo + i) == r)
  match laneRole roles n with
  | 0 => true
  | 1 => group (n / 4 * 4) 4 1
  | 2 => group (n / 8 * 8) 8 2
  | _ => bridge && decide (n < 16) && group 0 8 3 && (decide (n < 8) || group 8 8 3)

/-- The lanes that R405 sets to OFF. -/
def State.brokenLanes (s : State) : List Nat :=
  (List.range 32).filter (fun n => !laneKeeps s.nv.bootRoles s.nv.bootBridge n)

/-- The ROM applies the boot record's lane roles, and the endpoint may train. -/
def State.applyRoles (s : State) : State :=
  let bad := s.brokenLanes
  let s := s.setReg PCH_CFG (bad.foldl (fun v n => putField v (PCH_CFG_LANE n) 0) s.nv.bootRoles)
  let s := bad.foldl (fun s n => s.wf PCH_STATUS (bit (32 + n)) 1) s
  (s.wf PCH_PCIE PCH_PCIE_CONFIGURED (if s.pcieLanes.isEmpty then 0 else 1)).pcieTrain

/-- S1: identity from fuses, lane roles from the boot record. -/
def State.stage1 (s : State) : State :=
  let f := s.fuse
  let s := s.wfs HRT_ID [(HRT_ID_PACKAGE_REV, f.rev), (HRT_ID_SPEED_GRADE, f.grade), (HRT_ID_GUEST_MASK, f.guestMask),
    (HRT_ID_GUEST_CODE, f.guestCode)]
  let s := s.setReg HRT_SERIAL f.serial
  let s := s.wfs HRT_FEATURE [(HRT_FEATURE_FLOOR, f.floor), (HRT_FEATURE_MIN_LEVEL, f.floor)]
  let s := (List.range 8).foldl (fun s c =>
    let x := f.csmId.getD c (0, 0, 0)
    s.wfs (CSM_ID c) [(CSM_ID_EIC_REV, x.1), (CSM_ID_PIC_REV, x.2.1), (CSM_ID_FEATURE_LEVEL, x.2.2)]) s
  let s := (s.setHearth false hsBoot).setHearth true hsBoot
  (s.applyRoles.i3cShow 0 0 0).enterStage 1

/-! ## S2 (R526, R527) -/

/-- What one Hearth finds of a stored image, coded as A_FAIL. -/
def State.imageCode (s : State) (read : Bool) (x : FwImage) : Nat :=
  if !read then 2 else if x.verdict ≠ 1 then x.verdict else if x.svn < s.nv.svnFw then 6 else 1

/-- The image and the Hearths that run it, those lost, and what A_FAIL and B_FAIL record. -/
structure FwPick where
  image : Nat
  run : List Bool
  lost : List Bool
  aFail : Nat
  bFail : Nat
  deriving DecidableEq, Repr

/-- A_FAIL or B_FAIL of the Hearths' findings. -/
def jointCode (cs : List Nat) : Nat :=
  if cs.isEmpty then 0 else if cs.all (fun c => c == 1) then 1 else if cs.contains 1 then 7 else cs.headD 0

/-- The choice of R526; run is empty where no image verifies. Where each Hearth verifies only what the other does not, image A
runs (log entry). -/
def State.pickFw (s : State) (e : StartEnv) : FwPick :=
  let parts := (if e.romOkA then [false] else []) ++ (if e.romOkB then [true] else [])
  let a := fun (hb : Bool) => s.imageCode (if hb then e.reads.hbA else e.reads.haA) s.nv.fwA
  let b := fun (hb : Bool) => s.imageCode (if hb then e.reads.hbB else e.reads.haB) s.nv.fwB
  let passA := parts.filter (fun h => a h == 1)
  let passB := parts.filter (fun h => b h == 1)
  if passA = parts then { image := 0, run := parts, lost := [], aFail := jointCode (parts.map a), bFail := 0 }
  else
    let lost := parts.filter (fun h => (passA != [] && !passA.contains h) || (passB != [] && !passB.contains h))
    let rest := parts.filter (fun h => !lost.contains h)
    let onB := rest != [] && rest.all (fun h => passB.contains h)
    let run := if onB then rest else passA
    { image := if onB then 1 else 0, run := run, lost := parts.filter (fun h => !run.contains h),
      aFail := jointCode (parts.map a), bFail := jointCode (parts.map b) }

/-- S2: the Hearths run the image; those lost are recorded once the fault log can take it (afterS3). -/
def State.stage2 (s : State) (p : FwPick) : State :=
  let s := s.wfs HRT_START [(HRT_START_A_FAIL, p.aFail), (HRT_START_B_FAIL, p.bFail), (HRT_START_IMAGE, p.image)]
  let active := !p.run.contains false
  let both := p.run.length == 2
  let s := s.wfs HRT_HSTATUS [(HRT_HSTATUS_ACTIVE, if active then 1 else 0), (HRT_HSTATUS_PAIRED, if both then 1 else 0)]
  let s := (s.setHearth active hsActive).setHearth (!active) (if both then hsStandby else hsFenced)
  let s := s.wf SEC_STATUS SEC_STATUS_BLOCK (if active then 1 else 0)
  s.wf SEC_SVN SEC_SVN_SVN (if p.image = 1 then s.nv.fwB.svn else s.nv.fwA.svn)

/-- No image verifies: the package stays in S2 (R527). -/
def State.fwHold (s : State) (p : FwPick) : State :=
  let s := s.wfs HRT_START [(HRT_START_A_FAIL, p.aFail), (HRT_START_B_FAIL, p.bFail), (HRT_START_STAGE, 2)]
  (s.wf FLT_STATUS FLT_STATUS_ERR_N 1).i3cShow 1 0 0

/-! ## S3 (R518, R529, R447, R473) -/

/-- The configuration image in the NV store verifies; an image of Praond's defaults as delivered does (R4). -/
def State.cfgVerifies (s : State) (e : StartEnv) : Bool :=
  e.cfgRead && match s.nv.cfg with
    | .erased => false
    | .praond => true
    | .image bs => imageSound 1 bs && s.signerOk bs && decide (s.nv.svnCfg ≤ imageSvn bs) && cfgSound (imageBody bs)

/-- What a configuration in force gives a register; Praond's defaults leave every register at its table's default (log entry). -/
def cfgValue (x : CfgImage) (a : Nat) : Option Word :=
  match x with
  | .image bs => cfgReg (imageBody bs) a
  | _ => none

/-- Load fields of a register from the configuration in force. -/
def State.load (s : State) (a : Nat) (fs : List Field) : State :=
  match cfgValue s.cfgNow a with
  | some v => s.wfs a (fs.map (fun f => (f, getField v f)))
  | none => s

/-- Load fields of a row of registers. -/
def State.loadRow (s : State) (n : Nat) (a : Nat → Nat) (fs : List Field) : State :=
  (List.range n).foldl (fun s i => s.load (a i) fs) s

/-- Load a link's pool; values that R360 refuses are refused here too. -/
def State.loadPool (s : State) (l : Nat) : State :=
  match cfgValue s.cfgNow (DRL_POOL l) with
  | some v =>
    if poolBad (s.rf (DRL_CFG l) DRL_CFG_NVC_M1) v then s.mgmtError locPackage (DRL_POOL l)
    else s.load (DRL_POOL l) [DRL_POOL_CAP_PCT, DRL_POOL_RES, DRL_POOL_POOL]
  | none => s

/-- The registers of the package that the configuration image sets (R19, R165, R205, R397, R404, R461, R494, R522, R538). -/
def State.loadPackage (s : State) : State :=
  let s := s.load HRT_PKGID [HRT_PKGID_POD_ID, HRT_PKGID_PKG_ID, HRT_PKGID_BRIDGE, HRT_PKGID_BEAT_CANDIDATE]
  let s := s.load HRT_WROLE ((List.range 4).map HRT_WROLE_ROLE)
  let s := s.load MEM_LAYOUT [MEM_LAYOUT_WING_PART]
  let s := s.wf MEM_LAYOUT MEM_LAYOUT_PKG_GIB s.pkgGib
  let s := s.load HRT_FEATURE [HRT_FEATURE_MIN_LEVEL]
  let s := s.wf HRT_FEATURE HRT_FEATURE_MIN_LEVEL (max (s.rf HRT_FEATURE HRT_FEATURE_MIN_LEVEL) s.fuse.floor)
  let s := (s.wf HRT_START HRT_START_DEADLINE_MS 5800).load HRT_START [HRT_START_DEADLINE_MS]
  let s := s.wf HRT_START HRT_START_DEADLINE_MS (max 2000 (s.rf HRT_START HRT_START_DEADLINE_MS))
  let s := (s.wf PWR_CFG PWR_CFG_CAP_W s.tdp).load PWR_CFG [PWR_CFG_CAP_W, PWR_CFG_HYST_PCT, PWR_CFG_CAP_FRAMES]
  let s := s.load BST_CFG [BST_CFG_TILE_INTERVAL, BST_CFG_SRAM_INTERVAL, BST_CFG_BASE_INTERVAL, BST_CFG_BASE_EN, BST_CFG_SRAM_EN,
    BST_CFG_TILE_EN]
  let s := s.load FLT_CFG [FLT_CFG_REPLAY_LEAD, FLT_CFG_PLAN_LEAD, FLT_CFG_REPLAY_MAX]
  let s := s.loadRow 10 FLT_BUDGET [FLT_BUDGET_LIMIT_NS]
  let s := s.loadRow 4 GST_CFG [GST_CFG_ROLE]
  let s := s.setHreg HB_BRIDGE (packFields [(HB_BRIDGE_CMD_TIMEOUT, match s.cfgNow with
    | .image bs => Config.cfgTimeout (imageBody bs) | _ => 0x1000), (HB_BRIDGE_READY, 1)])
  match s.cfgNow with
  | .image bs => match Config.cfgKeys (imageBody bs) (s.roleKey 2) with
    | some (op, inst) => { s with nv := { s.nv with kOp := some op, kInst := some inst } }
    | none => s
  | _ => s

/-- The registers of queues, fibre pairs, frames, links and Skylight that it sets (R204, R260, R326, R360, R383). -/
def State.loadUnits (s : State) : State :=
  let s := ((List.range 1116).filter queueUsed).foldl (fun s n =>
    s.load (CEL_QCFG n) [CEL_QCFG_LIMIT, CEL_QCFG_NOTIFY, CEL_QCFG_EN_L, CEL_QCFG_EN_H]) s
  let s := (List.range 8).foldl (fun s c => s.loadRow 16 (CSM_PAIR c) [CSM_PAIR_FEC, CSM_PAIR_EN]) s
  let s := s.load STR_CFG [STR_CFG_ELECT_FRAMES, STR_CFG_HOLD_FRAMES, STR_CFG_MISMATCH_LIMIT, STR_CFG_DELTA_LEAD,
    STR_CFG_FSYNC_DELAY, STR_CFG_FSYNC_SRC]
  let s := s.loadRow 136 DRL_CFG [DRL_CFG_DOWN_HOLD, DRL_CFG_RETRAIN_FRAMES, DRL_CFG_LOL_FRAMES, DRL_CFG_VERSION_MAX,
    DRL_CFG_REPLAY_LIMIT, DRL_CFG_REPLAY_ADD, DRL_CFG_NVC_M1, DRL_CFG_PAIRS_M1, DRL_CFG_RELAY_FWD, DRL_CFG_EN]
  let s := allLinks.foldl (fun s l => s.loadPool l) s
  (List.range 8).foldl (fun s c =>
    (s.load (SKY_CFG c) [SKY_CFG_CAL_PERIOD, SKY_CFG_DRIFT_LIMIT, SKY_CFG_FORCE_EXACT, SKY_CFG_DRIFT_EN, SKY_CFG_EN]).load
      (SKY_MBOX c) [SKY_MBOX_BASE]) s

/-- FATAL records from before the reset enter the log with PRIOR = 1 (R473). -/
def State.priorRecords (s : State) : State :=
  (s.nv.history.foldl (fun s ws =>
    if getField (ws.getD 0 0) (bits 5 4) ≠ 2 then s
    else match s.logSlot with
      | some i => s.putRecord i (putField (ws.getD 0 0) (bit 7) 1 :: ws.drop 1)
      | none => s.satf FLT_STATUS FLT_STATUS_LOST 1) s).refreshFlt

/-- The configuration in force: the image in NV where it verifies, else Praond's default (R518, R528). -/
def State.bootConfig (s : State) (e : StartEnv) : State :=
  if s.cfgVerifies e then { s with cfgNow := s.nv.cfg }
  else ({ s with cfgNow := .praond, nv := { s.nv with bootRoles := 0, bootBridge := false } } : State).wf HRT_START
    HRT_START_CFG_DEFAULT 1

/-- A boot's epoch: two more than the recorded one, and recorded (R447). -/
def State.bootEpoch (s : State) : State :=
  let ep := (s.nv.epoch + 2) % 2 ^ 32
  ({ s with nv := { s.nv with epoch := ep }, mode := .starting } : State).wf HRT_EPOCH HRT_EPOCH_EPOCH ep

/-- The audit position, the repair count and the SCAN_EXIT record of a boot (R507, R521). -/
def State.bootAudit (s : State) : State :=
  let n := s.nv.auditSeq - 1
  let s := if s.nv.auditSeq = 0 then s else s.setReg SEC_AUDIT (packFields [(SEC_AUDIT_SEQ, n), (SEC_AUDIT_INDEX, n % 4096)])
  let s := s.wf BST_REPAIR BST_REPAIR_RECORDS s.nv.repairs.length
  if s.nv.scanExit then
    (({ s with nv := { s.nv with scanExit := false } } : State)).auditRec 7 0 0 0 0 0 0 0 0 0 else s

/-- The rail of an undervoltage reset shows once, with its record (R456). -/
def State.bootRail (s : State) : State :=
  if s.nv.uvRail = 0 then s
  else
    let r := s.nv.uvRail
    (({ s with nv := { s.nv with uvRail := 0 } } : State).wf PWR_STATUS PWR_STATUS_UV_RAIL r).raise F_RAIL_UV locPackage r

/-- S3: the configuration, or Praond's defaults where it fails (R529); the epoch; what the NV store says. -/
def State.stage3 (s : State) (e : StartEnv) : State :=
  (s.bootConfig e).loadPackage.loadUnits.bootEpoch.priorRecords.showTrip.showSec.bootAudit.bootRail

/-! ## S4 (R495 to R497, R504) -/

/-- SAFE_HOLD with its first critical failure (R497). -/
def State.holdSafe (s : State) (code loc : Nat) : State :=
  let s := s.note code loc 0
  let s := s.wfs BST_STATUS [(BST_STATUS_RESULT, 3), (BST_STATUS_CODE, code), (BST_STATUS_LOCATOR, loc)]
  ((({ s with mode := .safeHold } : State).enterStage 13).refreshFlt).i3cShow 5 code loc

/-- The first critical failure of a BIST: code and locator. -/
def State.critical (s : State) (fs : List BistFail) : Option (Nat × Nat) :=
  let runs := [false, true].filter (fun h => s.hearth h != hsFenced)
  if runs.all (fun h => fs.contains (.hearth h)) then some (F_HEARTH_BOTH, locPackage)
  else if fs.contains .nvStore then some (F_NV_WRITE, locControl 2)
  else fs.findSome? (fun f => match f with | .baseDie w => some (F_WING_LOST, locWing w.val) | _ => none)

/-- Apply a repair record (Table 17-6). The records of lasers, rings and channels act in S5, S7 and S8. -/
def State.applyRepair (s : State) (r : Word × Word) : State :=
  let l := getField r.1 (bits 63 32)
  let bank := getField r.2 (bits 5 0)
  let row := getField r.2 (bits 17 6)
  match getField r.1 (bits 7 4) with
  | 0 => s.wf (TIL_STATUS (bayOf (locBayIx l)) (locBits l 16 12)) TIL_STATUS_ROLE 4
  | 1 =>
    if locClass l = 6 then { s with baseRemaps := s.baseRemaps ++ [(300 + locBits l 24 22, bank, row)] }
    else if locLevel l = 5 then { s with baseRemaps := s.baseRemaps ++ [(288 + locBits l 24 21, bank, row)] }
    else
      let b := bayOf (locBayIx l)
      s.setBay b { s.bay b with remaps := (s.bay b).remaps ++ [(bank, row)] }
  | 2 =>
    let d := locBits l 24 21
    ({ s with baseOff := s.baseOff ++ [288 + d] } : State).larderEnable (d / 3) (s.rf (LDR_CTRL (d / 3)) LDR_CTRL_EN &&& (7 - 2 ^ (d % 3)))
  | 3 => { s with baseOff := s.baseOff ++ [300 + locBits l 24 22] }
  | _ => s

/-- A tile that fails is RETIRED and recorded; where the store is full it is fenced. A RETIRED tile is not tested again. -/
def State.bistTile (s : State) (b : BayId) (t : Nat) : State :=
  if s.tileRole b t = 4 then s
  else
    let r := s.addRepair 0 0 (locTile b t) 0 0 0 0
    r.1.wf (TIL_STATUS b t) TIL_STATUS_ROLE (if r.2 then 4 else 3)

/-- A row of a base-die SRAM fails. -/
def State.bistBase (s : State) (ix loc bank row : Nat) (off : State → State) : State :=
  ({ s with baseBist := s.baseBist ++ [(ix, bank, row)] } : State).repairBase ix loc off

/-- What a failure that is not critical does (Table 17-2). -/
def State.bistFail (s : State) (f : BistFail) : State :=
  match f with
  | .hearth hb =>
    if s.hearth hb = hsFenced then s
    else if hb = s.activeHb then
      let t := s.takeover
      { t with pair := { t.pair with stale := false } }
    else s.loseHearth hb
  | .nvStore => s
  | .baseDie _ => s
  | .hallwayPort h => if s.seamUp h.val then s.seamDown h.val else s
  | .tile b t => s.bistTile b t.val
  | .sramRow b bank row => s.retireRow b bank.val row.val 0 0 false
  | .larderRow d bank row => s.bistBase (288 + d.val) (locDie d.val) bank row (fun s => s.larderOff d.val)
  | .pantryRow w bank row => s.bistBase (300 + w.val) (locWing w.val) bank row (fun s => s.pantryOff w.val)
  | .larderBank d => s.larderOff d.val
  | .pantryBank w => s.pantryOff w.val
  | .bay b => s.loseBay b
  | .dieInterface d =>
    (dieBays d.val).foldl (fun s b => s.loseBay b) (s.fence (locDie d.val) F_BAY_LOST)
  | .casement c => s.raise F_CASEMENT_LOST (locCasement c.val) 0

/-- The tiles of a bay after BIST: one that is out leaves the other sixteen ACTIVE; a second loses the bay (R84, R102). -/
def State.settleTiles (s : State) (b : BayId) : State :=
  let out := ((List.range 17).filter (fun t => decide (3 ≤ s.tileRole b t))).length
  if out = 0 then s
  else
    let s := ((if s.tileRole b 16 = 1 then s.wf (TIL_STATUS b 16) TIL_STATUS_ROLE 0 else s)).remapTiles b
    if out = 1 ∨ s.isFenced (locBay b) then s else s.loseBay b

/-- The generators of a bay load from the entropy source (R67). -/
def State.seedAll (s : State) (b : BayId) : State :=
  let v := fun (i : Nat) =>
    let w := Config.freeWord (s.freeCtr + i)
    if w.toNat % 2 ^ 32 = 0 then (1 : Word) else BitVec.ofNat 64 (w.toNat % 2 ^ 32)
  ({ s with freeCtr := s.freeCtr + 19 } : State).setRegs
    ([(BAY_VSR_STATE b, v 0), (BAY_DSR_STATE b, v 1)] ++ (List.range 17).map (fun t => (TIL_SR_STATE b t, v (2 + t))))

/-- The compute dies power up, those of CACHE wings and fenced ones apart, at the points of their wings' roles (R205). -/
def State.powerDies (s : State) : State :=
  let s := (List.range 4).foldl (fun s w => s.wf (PWR_WING w) PWR_WING_OP (roleOp (s.rf HRT_WROLE (HRT_WROLE_ROLE w)))) s
  (List.range 12).foldl (fun s d =>
    if s.isCache (d / 3) || s.isFenced (locDie d) then s.dieOff d
    else (dieBays d).foldl (fun s b => s.seedAll b) (s.wf (PWR_DIE d) PWR_DIE_STATE 2)) s

/-- S4; the Bool says that start-up goes on. -/
def State.stage4 (s : State) (e : StartEnv) : State × Bool :=
  let s := (s.enterStage 4).i3cShow 2 0 0
  match s.critical e.bist with
  | some (code, loc) => (s.holdSafe code loc, false)
  | none =>
    let s := s.nv.repairs.foldl (fun s r => s.applyRepair r) s
    let s := e.bist.foldl (fun s f => s.bistFail f) s
    let s := allBays.foldl (fun s b => s.settleTiles b) s
    (s.powerDies.wf BST_STATUS BST_STATUS_RESULT (if s.fences.isEmpty then 1 else 2), true)

/-! ## S5 (R162, R186, R514) -/

/-- Channels of stack k that fail training; those retired already are not trained. -/
def State.failedChannels (s : State) (e : StartEnv) (k : Nat) : List Nat :=
  ((e.chanFail.filter (fun x => x.1.val == k && !s.nv.retired.any (fun r => r.1 == k && r.2.1 == x.2.val))).map
    (fun x => x.2.val)).dedup

/-- Put the recorded retirements in force. -/
def State.showRetired (s : State) : State :=
  let rs := s.nv.retired.map (fun r => (r.1, r.2.1, true))
  let s := { s with nv := { s.nv with retired := rs } }
  let s := rs.zipIdx.foldl (fun s p => s.setReg (MEM_RETIRE p.2) (packFields [(MEM_RETIRE_VALID, 1), (MEM_RETIRE_STATE, 1),
    (MEM_RETIRE_STACK, p.1.1), (MEM_RETIRE_CHANNEL, p.1.2.1)])) s
  let s := s.wf MEM_LAYOUT MEM_LAYOUT_RETIRE_COUNT rs.length
  let s := (List.range 12).foldl (fun s k =>
    let down := (rs.filter (fun r => r.1 == k)).foldl (fun m r => m ||| 2 ^ r.2.1) 0
    s.wfs (MEM_STK (k / 3) (k % 3)) [(MEM_STK_STATE, 2), (MEM_STK_CH_UP, 0xFFFFFFFF - down)]) s
  s.wf MEM_LAYOUT MEM_LAYOUT_PKG_GIB s.pkgGib

/-- S5: a stack without answer, or with two channels that fail, holds the package; one channel is retired. The wipe leaves
memory zero, so a retirement's copy has nothing to do. -/
def State.stage5 (s : State) (e : StartEnv) : State × Bool :=
  let s := (s.enterStage 5).i3cShow 3 0 0
  match (List.range 12).find? (fun k => e.stackDead.any (fun x => x.val == k) || decide (2 ≤ (s.failedChannels e k).length)) with
  | some k => (s.holdSafe F_STACK_LOST (locStack k), false)
  | none =>
    let s := s.showRetired
    let s := (List.range 12).foldl (fun s k => (s.failedChannels e k).foldl (fun s ch => s.nominate k ch) s) s
    ((List.range 4).foldl (fun s r => s.copyDone r) s, true)

/-! ## S6 (R244, R391 to R399, R406) -/

/-- Casement c powers up and attaches, unless it is fenced or below the package minimum (R397). -/
def State.startCasement (s : State) (e : StartEnv) (c : Nat) : State :=
  let s := if !s.isFenced (locCasement c) && decide (s.attLevel c < s.rf HRT_FEATURE HRT_FEATURE_MIN_LEVEL) then
      s.raise F_D2D_LEVEL (locCasement c) 0 else s
  if s.isFenced (locCasement c) then s
  else
    let here := e.faPresent.getLsbD c
    let m := (e.modules.find? (fun x => x.1.val == c)).map (fun x => x.2)
    let base := match m with | some x => x.1.toNat | none => 0xFFFF
    let far := match m with | some x => x.2.toNat | none => 0xFFFF
    let s := s.wfs (CSM_STATUS c) [(CSM_STATUS_POWER, 2), (CSM_STATUS_FA_PRESENT, if here then 1 else 0)]
    let s := s.wfs (CSM_FA c) [(CSM_FA_PRESENT, if here then 1 else 0), (CSM_FA_DARK, if here then 0 else 1)]
    (s.attTrained c base 0).widthReport c (packFields [(bits 3 0, 1), (bits 7 4, 1), (bits 23 8, far)])

/-- A populated site is discovered and admitted (R398). -/
def State.startSite (s : State) (e : StartEnv) (g : Nat) : State :=
  if !s.sitePopulated g || s.rf (GST_CFG g) GST_CFG_POWER_REQ == 0 then s
  else
    let s := s.siteState g gsDiscovery
    match e.guests.find? (fun x => x.1.val == g) with
    | some x => s.admitSite g x.2
    | none => s.siteFail g F_GUEST_ABSENT 1

/-- A lane of a DARARN_E group trains its PHY, or fails. -/
def State.startLane (s : State) (e : StartEnv) (n : Nat) : State :=
  if laneRole (s.reg PCH_CFG) n = 1 ∨ laneRole (s.reg PCH_CFG) n = 2 then
    (s.satf (PCH_LANE n) PCH_LANE_TRAINS 1).setPorch n (if e.porchUp.getLsbD n then plUp else plDown)
  else s

def State.stage6 (s : State) (e : StartEnv) : State :=
  let s := s.enterStage 6
  let port := fun (s : State) (w : Nat) (f : Field) => if s.rf (HAL_STATUS w) f = 2 then s else s.wf (HAL_STATUS w) f 1
  let s := (List.range 4).foldl (fun s w => port (port s w HAL_STATUS_PORT0) w HAL_STATUS_PORT1) s
  let s := (List.range 8).foldl (fun s c => s.startCasement e c) s
  let s := (List.range 4).foldl (fun s g => s.startSite e g) s
  (List.range 32).foldl (fun s n => s.startLane e n) s.framePush

/-! ## S7 (R266, R273, R292) -/

/-- Commissioned output of a laser; 0x8000 where it was never commissioned. -/
def State.commNow (s : State) (c n : Nat) : Nat := (sparseGet (fun _ => (0x8000 : BitVec 16)) s.nv.comm (32 * c + n)).toNat

/-- The Attic laser assigned to channel k. -/
def State.atticOf (s : State) (c k : Nat) : Option Nat := (s.nv.attics.find? (fun x => x.1 == c && x.2.1 == k)).map (fun x => x.2.2)

/-- LSR_GRIDk at the end of S7. -/
def State.gridStart (s : State) (c k : Nat) : Word :=
  match s.atticOf c k with
  | some a => packFields [(LSR_GRID_SOURCE, 4 + a), (LSR_GRID_STATE, if s.nv.atticsFenced.contains (c, a) then chDown else chAttic)]
  | none => packFields [(LSR_GRID_STATE, if s.nv.grids.contains (c, k) then chDown else chLit)]

/-- LSR_ATTICa at the end of S7. -/
def State.atticStart (s : State) (c a : Nat) : Word :=
  let k := (s.nv.attics.find? (fun x => x.1 == c && x.2.2 == a)).map (fun x => x.2.1)
  if s.nv.atticsFenced.contains (c, a) then packFields [(LSR_ATTIC_CHANNEL, 0x1F), (LSR_ATTIC_STATE, atFenced)]
  else match k with
    | some k => packFields [(LSR_ATTIC_CHANNEL, k), (LSR_ATTIC_STATE, atServing)]
    | none => packFields [(LSR_ATTIC_CHANNEL, 0x1F), (LSR_ATTIC_STATE, atIdle)]

/-- The carrier that turns on: the first that is not retired. -/
def State.carrierStart (s : State) (c : Nat) : Option Nat := (List.range 2).find? (fun i => !s.nv.grids.contains (c, 22 + i))

/-- LSR_CARRIERi at the end of S7. -/
def State.carrierWord (s : State) (c i : Nat) : Word :=
  packFields [(LSR_CARRIER_STATE, if s.nv.grids.contains (c, 22 + i) then crFenced
    else if s.carrierStart c = some i then crActive else crOff)]

/-- The lasers of a Casement are on; a weak one is past SWAP. -/
def State.startLasers (s : State) (e : StartEnv) (c : Nat) : State :=
  if s.rf (CSM_STATUS c) CSM_STATUS_POWER ≠ 2 then s
  else
    let s := s.setRegs ((List.range 18).map (fun k => (LSR_GRID c k, s.gridStart c k)) ++
      (List.range 4).map (fun a => (LSR_ATTIC c a, s.atticStart c a)) ++
      (List.range 2).map (fun i => (LSR_CARRIER c i, s.carrierWord c i)) ++
      (List.range 24).map (fun n => (LSR_COMM c n, packFields [(LSR_COMM_COMM_PWR, s.commNow c n)])))
    let s := (s.atticShow c).wf (SKY_STATUS c) SKY_STATUS_CARRIER ((s.carrierStart c).getD 0)
    let s := s.setSky c { s.sky1 c with tuned := false, due := [3] }
    let s := (List.range 18).foldl (fun s k => if s.chan c k = chDown then s.failTx c k else s) s
    let weak := (e.weakLasers.filter (fun x => x.1.val == c)).map (fun x => x.2.val)
    weak.foldl (fun s k =>
      let x := s.csm c
      (s.setCsm c { x with atLimit := x.atLimit ++ [s.serving c k] }).fadeCross c k 1) s

def State.stage7 (s : State) (e : StartEnv) : State := (List.range 8).foldl (fun s c => s.startLasers e c) (s.enterStage 7)

/-! ## S8 (R281 to R286) -/

/-- A ring's register at the end of S8; heater: the setting it locked at, which is open. A ring whose channel is dark stays COLD. -/
def State.ringStart (s : State) (c r : Nat) (heater : Word) : Word :=
  let x := (sparseGet (fun _ => (0 : BitVec 8)) s.nv.xcounts (512 * c + r)).toNat
  if s.nv.rings.contains (c, r) then packFields [(TUN_RING_XCOUNT, x), (TUN_RING_TONE_CH, 0x1F), (TUN_RING_STATE, rgRetired)]
  else if s.chanLit c (ringChan r) then
    packFields [(TUN_RING_HEATER, heater.toNat), (TUN_RING_XCOUNT, x), (TUN_RING_TONE_CH, ringChan r), (TUN_RING_STATE, rgLocked)]
  else packFields [(TUN_RING_XCOUNT, x), (TUN_RING_TONE_CH, 0x1F), (TUN_RING_STATE, rgCold)]

/-- A mesh element's register: LOCKED, with an open heater setting and extinction. -/
def meshStart (w : Word) : Word :=
  packFields [(TUN_TXMESH_HEATER, w.toNat), (TUN_TXMESH_EXT, w.toNat / 2 ^ 16), (TUN_TXMESH_STATE, 2)]

/-- What a ring retired at an earlier start takes from the maps (R283). -/
def State.retiredRing (s : State) (c r : Nat) : State :=
  match ringKind r with
  | 0 => s.vacateTx c (ringChan r)
  | 1 => (csmLinks c).foldl (fun s l =>
      let x := s.link l
      s.setLink l { x with exclRx := x.exclRx ||| BitVec.ofNat 18 (2 ^ ringChan r) }) s
  | _ => (s.setChan c (ringChan r) chDown).failTx c (ringChan r)

/-- The rings and meshes of a Casement lock; a ring that mislocks three times is retired. -/
def State.startRings (s : State) (e : StartEnv) (c : Nat) : State :=
  if s.rf (CSM_STATUS c) CSM_STATUS_POWER ≠ 2 then s
  else
    let n := s.freeCtr
    let w := fun (i : Nat) => Config.freeWord (n + i)
    let s := ({ s with freeCtr := n + 770 } : State).setRegs
      ((List.range 306).map (fun r => (ringReg c r, s.ringStart c r (w r))) ++
       (List.range 232).map (fun i => (TUN_TXMESH c i, meshStart (w (306 + i)))) ++
       (List.range 232).map (fun i => (TUN_RXMESH c i, meshStart (w (538 + i)))))
    let s := (s.nv.rings.filter (fun x => x.1 == c)).foldl (fun s x => s.retiredRing c x.2) s
    let s := (e.ringFail.filter (fun x => x.1.val == c)).foldl (fun s x =>
      if s.ring c x.2.val = rgRetired then s else s.retireRing c x.2.val) s
    (s.showEngines c).skyShow c

/-- S8; enabled links wait in DOWN, and a candidate for Beat master stands at once (R303). -/
def State.stage8 (s : State) (e : StartEnv) : State :=
  let s := (List.range 8).foldl (fun s c => s.startRings e c) (s.enterStage 8)
  let s := allLinks.foldl (fun s l => if s.rf (DRL_CFG l) DRL_CFG_EN = 1 then s.setLinkState l lkDown else s) s
  if s.candidate then s.toBeat btElect else s

/-! ## S9 to S11 (R531, R533) -/

/-- S9 has its reference; a package without ID skips S9 and S10. -/
def State.beatDone (s : State) : Bool := s.pkg == 0 || s.beatState == btAligned || s.beatState == btMaster

def State.linksDone (s : State) : Bool :=
  s.pkg == 0 || allLinks.all (fun l => s.rf (DRL_CFG l) DRL_CFG_EN == 0 || s.linkUp l)

/-- Completion time of S9 or S10: an open point of the frame that ends. -/
def State.timeStage (s : State) (k : Nat) : State :=
  let base := match s.startEnv with | some e => e.stageUs.getD 7 0 | none => 0
  let w := s.draw
  if s.pkg = 0 then s else w.2.stageUs k (base + (8192 * s.bootFrame - w.1.toNat % 8192) / 1000)

/-- The boot plans of the configuration in force: Casement and entries. -/
def bootPlans : CfgImage → List (Nat × List Nat)
  | .image bs => (Config.cfgPlans (imageBody bs)).filter (fun p => decide (p.1 < 8))
  | _ => []

/-- S11: a boot plan that passes R320 waits for its boundary; one that fails is recorded. -/
def State.bootPlan (s : State) (p : Nat × List Nat) : State :=
  let plan : Plan := fun i => p.2.getD i 0
  if s.planFails p.1 plan then s.note F_FALLBACK_REJECT (locCasement p.1) 0
  else
    let x : PlanChange := { frame := frameAdd s.frame s.deltaLead, load := true, csms := [p.1],
                            entries := (List.range 1024).map (fun i => (p.1, i, plan i)), opcode := 0, tag := 0, origin := 0, ring := 0 }
    ({ s with plans := s.plans ++ [x] } : State).planStat

/-- READY: the SVN minima rise to those of the images in force (R518). -/
def State.becomeReady (s : State) : State :=
  let us := match s.startEnv with | some e => e.stageUs.getD 8 0 | none => 0
  let cfgSvn := match s.cfgNow with | .image bs => imageSvn bs | _ => s.nv.svnCfg
  let s := s.stageUs 11 us
  let s := { s with nv := { s.nv with svnFw := max s.nv.svnFw s.fwNow.svn, svnCfg := max s.nv.svnCfg cfgSvn }, mode := .ready,
                    startEnv := none }
  (s.showSec.enterStage 12).i3cShow 4 0 0

/-- S9 to S11 as far as they have come; late: DEADLINE_MS has passed. -/
def State.bootAdvance (s : State) (late : Bool) : State :=
  if s.mode ≠ .starting then s
  else
    let st := s.rf HRT_START HRT_START_STAGE
    let s := if st ≠ 9 then s
      else if s.beatDone then (s.timeStage 9).enterStage 10
      else if late then (((s.note F_BEAT_UNREACHABLE locPackage 0).wf HRT_START HRT_START_LATE 1).timeStage 9).enterStage 10
      else s
    let s := if s.rf HRT_START HRT_START_STAGE ≠ 10 then s
      else if s.linksDone then (bootPlans s.cfgNow).foldl (fun s p => s.bootPlan p) ((s.timeStage 10).enterStage 11)
      else if late then (bootPlans s.cfgNow).foldl (fun s p => s.bootPlan p)
        (((s.wf HRT_START HRT_START_LATE 1).timeStage 10).enterStage 11)
      else s
    if s.rf HRT_START HRT_START_STAGE = 11 ∧ s.plans.all (fun p => p.opcode != 0) then s.becomeReady else s

/-! ## The sequence -/

/-- S4 to S8; S9 to S11 go on with the frame boundaries. -/
def State.afterS3 (s : State) (e : StartEnv) : State :=
  let r := s.stage4 e
  if !r.2 then r.1
  else
    let q := r.1.stage5 e
    if !q.2 then q.1
    else
      let s := (((q.1.stage6 e).stage7 e).stage8 e).enterStage 9
      let s := (List.range 8).foldl (fun s k => s.stageUs (k + 1) (e.stageUs.getD k 0)) s
      ({ s with startEnv := some e, bootFrame := 0 } : State)

/-- An unacknowledged trip record holds the package in INIT (R468). -/
def State.tripHeld (s : State) : Bool := !s.nv.trip.isEmpty && !wbit (s.nv.trip.getD 0 0) 4

/-- START_UP. -/
def State.startUp (s : State) (e : StartEnv) : State :=
  if s.mode ≠ .off ∨ s.clamped then s
  else
    let s := ({ s with resetLow := false } : State).wiped.stage1
    let p := s.pickFw e
    if p.run = [] then s.fwHold p
    else
      let bad := s.brokenLanes
      let s := (s.stage2 p).stage3 e
      let lost := p.lost ++ (if e.romOkA then [] else [false]) ++ (if e.romOkB then [] else [true])
      let s := lost.foldl (fun s h => s.loseHearth h) s
      let s := bad.foldl (fun s n => s.note F_PORCH_CFG (locPorch n) 0) s
      if s.tripHeld then
        (({ s with mode := .initHold, startEnv := some e } : State).enterStage 14).i3cShow 6 0 0
      else s.afterS3 e

def execStartUp (e : StartEnv) (s : State) : Out := .next (s.startUp e)

/-- START_UP_DEADLINE. -/
def execStartUpDeadline (s : State) : Out := .next (s.bootAdvance true)

/-- TRIP_ACK: in INIT it sets ACKED and start-up goes on. -/
def State.tripAck (s : State) (c : Cmd) : State :=
  if s.mode ≠ .initHold then s.reply c stBadParam []
  else
    let t := s.nv.trip
    let s := ({ s with nv := { s.nv with trip := t.set 0 (putField (t.getD 0 0) (bit 4) 1) } } : State).showTrip
    let s := ({ s with mode := .starting } : State).reply c stOk []
    match s.startEnv with
    | some e => s.afterS3 e
    | none => s

def execTripAck (c : Cmd) (s : State) : Out := .next (s.command c 0x520 (fun s => s.tripAck c))

end Sys2Proof.Machine
end

