-- ==== Sys2Proof/Machine/Sideband.lean ====
section
/-!
DEFINITION. Sys2Proof/Machine/Sideband.lean: the sideband port group: JTAG and internal scan (R506, R507, R550), removal of input power
(R544), and the I3C port's straps and addresses (R549).
-/

set_option Elab.async false

namespace Sys2Proof.Machine

/-! ## JTAG (R506, R550) -/

/-- An instruction is shifted in and its data register captured; TRST_N low holds the TAP in Test-Logic-Reset (R550). -/
def State.jtagLoad (s : State) (ir : JtagIr) (tdo : Nat) : State :=
  if s.jtag.trst then s else { s with jtag := { s.jtag with ir := ir, tdo := tdo } }

/-- BYPASS: one bit that captures 0. -/
def execBypass (s : State) : Out := .next (s.jtagLoad .bypass 0)

/-- The identification code. -/
def State.idcode (s : State) : Nat :=
  2 ^ 28 * (s.fuse.rev % 16) + 0x4812 * 2 ^ 12 + Config.jedecCode.toNat * 2 + 1

/-- IDCODE. -/
def execIdcode (s : State) : Out := .next (s.jtagLoad .idcode s.idcode)

/-- SAMPLE_PRELOAD: the levels of the lands are captured; what they are is not the block's. -/
def execSamplePreload (s : State) : Out :=
  .next (if s.jtag.trst then s else let (w, t) := s.draw; t.jtagLoad .sample w.toNat)

/-- EXTEST: it drives the lands while RESET_N is asserted, and otherwise acts as BYPASS. -/
def execExtest (lands : List Bool) (s : State) : Out :=
  .next (if s.jtag.trst then s
    else if s.resetLow then { s with jtag := { s.jtag with ir := .extest, drive := lands } }
    else s.jtagLoad .bypass 0)

/-! ## Internal scan (R507) -/

/-- Leaving scan wipes the package and resets it; SCAN_EXIT is recorded at the next boot. -/
def State.leaveScan (s : State) : State :=
  if !s.jtag.scan then s
  else ({ s with nv := { s.nv with scanExit := true }, jtag := { s.jtag with scan := false, ir := .bypass } } : State).wiped

/-- SCAN_EN: the key store must have reached ZERO; the Hearth writes SCAN_ENTER first. Otherwise it acts as BYPASS. -/
def execScanEn (s : State) : Out :=
  .next (if s.jtag.trst then s
    else if s.mode = .off ∨ s.rf SEC_STATUS SEC_STATUS_KEYS ≠ 2 then s.jtagLoad .bypass 0
    else
      let t := s.auditRec 6 0 0 0 0 0 0 0 0 0
      { t with jtag := { t.jtag with ir := .scan, scan := true } })

/-- SCAN_EXIT; outside scan no instruction of that code is defined, and it acts as BYPASS (log entry). -/
def execScanExit (s : State) : Out :=
  .next (if s.jtag.trst then s else if s.jtag.scan then s.leaveScan else s.jtagLoad .bypass 0)

/-- TRST_N: low, the TAP stays in Test-Logic-Reset with IDCODE in force, and scan is left. -/
def execTrstN (low : Bool) (s : State) : Out :=
  .next (if low then
      let t := s.leaveScan
      { t with jtag := { t.jtag with ir := .idcode, trst := true } }
    else { s with jtag := { s.jtag with trst := false } })

/-! ## Input power (R467, R544) -/

/-- INPUT_POWER_REMOVED: VAUX below 0.10 V for belowMs milliseconds. The clamp is released, scan is left, and the sideband's own state
is lost with its supply. -/
def State.powerRemoved (s : State) : State :=
  let s := s.leaveScan
  ({ s with clamped := false, resetLow := true, straps := 0, i3cDyn := none, i3cBlock := [1, 0],
            jtag := { s.jtag with ir := .idcode, drive := [], tdo := 0 } } : State).wiped

def execInputPowerRemoved (belowMs : Nat) (s : State) : Out := .next (if belowMs < 100 then s else s.powerRemoved)

/-! ## The I3C port (R549) -/

/-- VAUX_WITHIN_TOLERANCE: the straps are sampled. The status block answers 10 ms later. -/
def execVauxWithinTolerance (straps : BitVec 2) (s : State) : Out := .next { s with straps := straps.toNat }

/-- The static address. -/
def State.i3cStatic (s : State) : Nat := 0x2C + s.straps

/-- The provisional ID. -/
def State.provisionalId (s : State) : Nat :=
  2 ^ 33 * Config.mipiId.toNat + 0x4812 * 2 ^ 16 + 2 ^ 14 * (s.straps % 4) + s.fuse.serial.toNat % 2 ^ 14

/-- A dynamic address is assigned to a port that has none (MIPI I3C Basic; PRESUMED, log entry). -/
def State.assignAddr (s : State) (addr : Nat) : State := if s.i3cDyn.isSome then s else { s with i3cDyn := some addr }

/-- SETDASA: by the static address. -/
def execSetdasa (addr : BitVec 7) (s : State) : Out := .next (s.assignAddr addr.toNat)

/-- ENTDAA: by the provisional ID. -/
def execEntdaa (addr : BitVec 7) (s : State) : Out := .next (s.assignAddr addr.toNat)

end Sys2Proof.Machine
end

