-- ==== Sys2Proof/Machine/FaultCmds.lean ====
section
/-!
DEFINITION. Sys2Proof/Machine/FaultCmds.lean: a fault reported by its code and locator (R471), UNFENCE (R491, R492) and FAULT_INJECT
(R493).
-/

set_option Elab.async false

namespace Sys2Proof.Machine

/-! ## What a detection does (Table 16-4) -/

/-- HEARTH_LOST of HA or HB: takeover where the active one is lost and the other can serve (R449). -/
def State.hearthFails (s : State) (hb : Bool) : State :=
  let other := s.hearth (!hb)
  if s.hearth hb = hsFenced then s.raise F_HEARTH_LOST (hearthLoc hb) 0
  else if hb != s.activeHb then s.loseHearth hb
  else if other = hsStandby ∨ other = hsCheck ∨ other = hsResync then
    let t := s.takeover
    { t with pair := { t.pair with stale := false } }
  else s.loseHearths

/-- MESH_FAULT of an engine or of a mesh element. -/
def State.meshReport (s : State) (loc det : Nat) : State :=
  let c := locBits loc 24 22
  let dir := locBits loc 21 19
  if locLevel loc = 1 ∧ locBits loc 18 14 = 0x10 ∧ dir ≤ 1 then s.meshFail c (dir == 1) (locBits loc 8 0)
  else if locLevel loc = 4 ∧ dir ≤ 1 then
    let i := 8 * dir + locBits loc 18 14
    let x := s.csm c
    let s := if x.meshEng.contains i then s else s.setCsm c { x with meshEng := x.meshEng ++ [i] }
    ((s.raise F_MESH_FAULT loc det).showEngines c).casementCheck c
  else s.raise F_MESH_FAULT loc det

/-- A ring's number from its locator (Table 1-4): engine rings 144 * direction + 18 * engine + channel; none: not one ring. -/
def ringOfLoc (loc : Nat) : Option Nat :=
  (List.range 306).find? (fun r => ringLoc (locBits loc 24 22) r == loc)

/-- What a detection of a compute-die source does. -/
def State.detectBay (s : State) (code loc det : Nat) : State :=
  if locLevel loc = 5 then
    (if (code = F_DIE_UV ∨ code = F_DIE_SENSORS) ∧ !s.isFenced loc then (s.raise code loc det).clampDie (locBits loc 24 21)
     else s.raise code loc det)
  else
    let b := bayOf (locBayIx loc)
    let t := locBits loc 16 12
    if (code = F_TILE_RESIDUE ∨ code = F_TILE_RAIL) ∧ locLevel loc = 3 ∧ t < 17 then (s.raise code loc det).tileLost b
    else if code = F_SPARE_FAIL ∧ locLevel loc = 3 ∧ t < 17 then
      ((s.wfs (TIL_STATUS b t) [(TIL_STATUS_ROLE, 3), (TIL_STATUS_LAST_FAULT, 5)]).remapTiles b).raise code loc det
    else s.raise code loc det

/-- What a detection of a stack source does. -/
def State.detectStack (s : State) (code loc det : Nat) : State :=
  let k := locBits loc 24 21
  if code = F_CHANNEL_RETIRE ∧ locLevel loc = 4 then s.nominate k (locBits loc 20 16)
  else if code = F_STACK_LOST ∧ locLevel loc = 5 then s.loseStack k
  else s.raise code loc det

/-- What a detection of a Casement source does. -/
def State.detectCsm (s : State) (code loc det : Nat) : State :=
  let c := locBits loc 24 22
  let csm : Casement := Fin.ofNat 8 c
  if code = F_MESH_FAULT then s.meshReport loc det
  else if code = F_FA_REMOVED then s.faOpen c
  else if code = F_LINK_DOWN ∧ det % 256 < 136 then s.goDown (det % 256) (det / 256 % 16)
  else if code = F_D2D_WIDTH_MISMATCH ∧ locLevel loc = 5 then s.widthFail c
  else if code = F_CSM_THERMAL then s.csmThermal csm
  else if code = F_SKY_FAULT ∧ loc = skyLoc c then (s.raise code loc det).skyShow c
  else if code = F_LASER_FLOOR ∧ locBits loc 21 19 = 3 then s.floorAction c (locBits loc 18 14)
  else if code = F_ATTIC_VERIFY ∧ locBits loc 21 19 = 4 then (s.fenceAttic c (locBits loc 18 14)).raise code loc det
  else if code = F_RING_RETIRED then
    (match ringOfLoc loc with | some r => s.retireRing c r | none => s.raise code loc det)
  else if code = F_LANE_LOCK_LOSS then
    (match ringOfLoc loc with | some r => s.loseLock c r | none => s.raise code loc det)
  else s.raise code loc det

/-- What a detection of a guest source does. -/
def State.detectGuest (s : State) (code loc det : Nat) : State :=
  let g := locBits loc 24 23
  if code = F_D2D_WIDTH_MISMATCH then s.widthFail (8 + g)
  else if code = F_D2D_LEVEL then s.siteFail g code 5
  else if code = F_GUEST_ABSENT then s.siteFail g code 1
  else if code = F_GUEST_VERSION then s.siteFail g code 2
  else if code = F_GUEST_POWER then s.siteFail g code 3
  else if code = F_GUEST_CAP then s.siteFail g code 4
  else s.raise code loc det

/-- What a detection of a wing or seam source does. -/
def State.detectWing (s : State) (code loc det : Nat) : State :=
  let i := locBits loc 24 22
  if code = F_SEAM_DOWN ∧ 4 ≤ i ∧ s.seamUp (i - 4) then s.seamDown (i - 4)
  else if code = F_CAP_OP_DROP ∧ i < 4 ∧ !s.isCache i ∧ 0 < s.wingOp i then
    ((s.pointReq i (s.wingOp i - 1) none).1).raise code loc det
  else s.raise code loc det

/-- What a detection of a package-control source does; of an injected THERMTRIP, the record and ERR_N alone. -/
def State.detectControl (s : State) (code loc det : Nat) : State :=
  if code = F_HEARTH_BOTH then s.loseHearths
  else if code = F_HEARTH_LOST ∧ (loc = hearthLoc false ∨ loc = hearthLoc true) then s.hearthFails (loc == hearthLoc true)
  else s.raise code loc det

/-- The unit of sensor exclusion: the CHM unit whose locator this is. -/
def State.detect (s : State) (code loc det : Nat) : State :=
  if code = F_SENSOR_EXCLUDED then
    (match (List.range 36).find? (fun u => chmLoc u == loc && decide (det < chmSensors u) && !s.excluded.contains (u, det)) with
     | some u => s.excludeSensor u det
     | none => s.raise code loc det)
  else match locClass loc with
    | 1 => s.detectBay code loc det
    | 2 => s.detectStack code loc det
    | 3 => s.detectCsm code loc det
    | 4 => s.detectGuest code loc det
    | 6 => s.detectWing code loc det
    | _ => s.detectControl code loc det

/-- A code and a locator that the code's level allows (R470, R493). -/
def reportFits (code loc : Nat) : Bool :=
  match faultSource code with
  | none => false
  | some f => locValid loc && (f.level == 0 || f.level == locLevel loc)

/-- FAULT_REPORT. -/
def execFaultReport (code : BitVec 16) (locator detail : W32) (s : State) : Out :=
  .next (if s.mode = .off ∨ reportFits code.toNat locator.toNat = false then s
    else s.detect code.toNat locator.toNat detail.toNat)

/-! ## FAULT_INJECT (R493) -/

/-- FAULT_INJECT: W0 of its record carries INJECTED. Any lifecycle state but MAKER denies it before it comes here. -/
def State.faultInject (s : State) (c : Cmd) : State :=
  let code := c.pf 0 15 0
  let loc := c.pf 1 31 0
  if !reportFits code loc then s.reply c stBadParam []
  else
    let t := ({ s with injecting := true } : State).detect code loc 0
    ({ t with injecting := false } : State).reply c stOk []

def execFaultInject (c : Cmd) (s : State) : Out := .next (s.command c 0x6F0 (fun s => s.faultInject c))

/-! ## UNFENCE (R486, R491, R492) -/

/-- A FENCED tile comes back: as ACTIVE where the bay is short of tiles, with a generator state of its own (R67, R84). -/
def State.tileBack (s : State) (b : BayId) (t : Nat) : State :=
  if s.tileRole b t ≠ 3 then s
  else if s.activeTiles b < 16 then
    let (v, s) := s.drawSr
    ((s.wf (TIL_STATUS b t) TIL_STATUS_ROLE 0).wf (TIL_SR_STATE b t) TIL_SR_STATE_STATE v).remapTiles b
  else (s.wf (TIL_STATUS b t) TIL_STATUS_ROLE 1).remapTiles b

/-- Mesh elements of engine or fibre i of a direction leave FAULT. -/
def State.meshBack (s : State) (c : Nat) (rx engine : Bool) (i : Nat) : State :=
  let s := (List.range 232).foldl (fun s m =>
    let reg := if rx then TUN_RXMESH c m else TUN_TXMESH c m
    if s.rf reg TUN_TXMESH_STATE = 3 ∧ meshServes rx m = (engine, i) then s.wf reg TUN_TXMESH_STATE 1 else s) s
  let x := s.csm c
  let s := if engine then s.setCsm c { x with meshEng := x.meshEng.filter (fun k => k != (if rx then 8 else 0) + i) }
    else s.setCsm c { x with meshFib := x.meshFib.filter (fun k => k != (if rx then 16 else 0) + i) }
  s.showEngines c

/-- What lifting the fence of a Casement's unit brings back. A RETIRED ring, and an Attic laser whose retirement is recorded, stay
out of use (R103). -/
def State.csmBack (s : State) (loc : Nat) : State :=
  let c := locBits loc 24 22
  let kind := locBits loc 21 19
  let i := locBits loc 18 14
  match locLevel loc with
  | 5 => (s.showEngines c).skyShow c
  | 4 => if kind ≤ 1 then s.meshBack c (kind == 1) true i else s.skyShow c
  | 3 =>
    if kind = 4 ∧ s.attic c i = atFenced then
      ({ s with nv := { s.nv with atticsFenced := s.nv.atticsFenced.filter (fun f => f != (c, i)) } } : State).setAttic c i atIdle
    else s
  | 1 => if i = 0x10 then s.meshBack c (kind == 1) (meshServes (kind == 1) (locBits loc 8 0)).1 (meshServes (kind == 1) (locBits loc 8 0)).2
    else s
  | _ => s

/-- What lifting the fence of a unit brings back. -/
def State.bringBack (s : State) (loc : Nat) : State :=
  match locClass loc with
  | 1 =>
    if locLevel loc = 3 ∧ locBits loc 16 12 < 17 then s.tileBack (bayOf (locBayIx loc)) (locBits loc 16 12)
    else if locLevel loc = 4 ∧ locBits loc 16 12 = 0 then
      (List.range 17).foldl (fun s t => s.tileBack (bayOf (locBayIx loc)) t) s
    else s
  | 3 => s.csmBack loc
  | 4 => s.framePush
  | 6 =>
    let i := locBits loc 24 22
    if 4 ≤ i then (s.wf (HAL_STATUS (seamEnds (i - 4)).1) (seamPort (i - 4)) 0).wf (HAL_STATUS (seamEnds (i - 4)).2) (seamPort (i - 4)) 0
    else s
  | 7 =>
    if loc = hearthLoc false ∨ loc = hearthLoc true then
      (if s.hearth (loc == hearthLoc true) = hsFenced then s.setHearth (loc == hearthLoc true) hsResync else s)
    else s
  | _ => s

/-- Plans selected for the loss of the unit leave force (R486). -/
def State.plansBack (s : State) (loc : Nat) : State :=
  (List.range 64).foldl (fun s p =>
    if wbit (s.reg FLT_INFORCE) p ∧ (s.planHead (s.planDa p)).loc = loc then
      s.setReg FLT_INFORCE (s.reg FLT_INFORCE &&& ~~~(BitVec.ofNat 64 (2 ^ p)))
    else s) s

/-- Lift the fence of a unit. -/
def State.lift (s : State) (loc : Nat) : State := ((s.unfence loc).bringBack loc).plansBack loc

/-- The unit's own fence is of UNIT severity. -/
def State.unitFenced (s : State) (loc : Nat) : Bool :=
  s.fences.any (fun f => f.1 == loc && faultSeverity f.2 != 2)

/-- A unit that must be powered again is asked on; the Bool says that the effect comes later. -/
def State.liftOn (s : State) (loc : Nat) (cmd : CmdKey) : State × Bool :=
  let s := s.lift loc
  match unitAt loc with
  | some u => if s.unitOff u then s.unitReq u true cmd else (s, false)
  | none => (s, false)

/-- UNFENCE. -/
def State.unfenceCmd (s : State) (c : Cmd) : State :=
  let loc := c.pf 0 31 0
  if !s.unitFenced loc then s.reply c stBadParam []
  else if s.steps.any (fun t => t.phase == .fenced) then
    ({ s with unfences := s.unfences ++ [(loc, c.tag, originOf s c, c.ringId)] } : State).reply c stDeferred []
  else
    let r := s.liftOn loc (cmdKey s c)
    r.1.reply c (if r.2 then stDeferred else stOk) []

def execUnfence (c : Cmd) (s : State) : Out := .next (s.command c 0x630 (fun s => s.unfenceCmd c))

/-- Deferred UNFENCEs apply once no base frame is awaited (R491). -/
def State.unfencesDue (s : State) : State :=
  if s.steps.any (fun t => t.phase == .fenced) then s
  else
    let us := s.unfences
    us.foldl (fun s u =>
      let cmd : CmdKey := some (0x630, u.2.1, u.2.2.1, u.2.2.2)
      if !s.unitFenced u.1 then s.appliedAs cmd stBadParam
      else
        let r := s.liftOn u.1 cmd
        if r.2 then r.1 else r.1.appliedTo cmd false) ({ s with unfences := [] } : State)

end Sys2Proof.Machine
end

