-- ==== Sys2Proof/Machine/Regions.lean ====
section
/-!
DEFINITION. Sys2Proof/Machine/Regions.lean: changes of the region table and of Annex windows, the flush of Larders, and MODEL_LOAD
(R168 to R171, R178, R180, R197, R226, R227, R232 to R235).
-/

set_option Elab.async false

namespace Sys2Proof.Machine

/-! ## Changes -/

/-- What a change does to the registers. -/
def State.changeRegs (s : State) : RegionChange → State
  | .setRegion n base attr => (s.setReg (MEM_RGN_BASE n) base).setReg (MEM_RGN_ATTR n) attr
  | .clearRegion n => (s.setReg (MEM_RGN_BASE n) 0).setReg (MEM_RGN_ATTR n) 0
  | .setWindow k cfg map peer => ((s.setReg (MEM_ANX_CFG k) cfg).setReg (MEM_ANX_MAP k) map).setReg (MEM_ANX_PEER k) peer
  | .clearWindow k => ((s.setReg (MEM_ANX_CFG k) 0).setReg (MEM_ANX_MAP k) 0).setReg (MEM_ANX_PEER k) 0
  | .flush _ => s

/-- The tables as the pending changes will leave them; commands are checked against these. -/
def State.tables (s : State) : State := s.changes.foldl (fun s c => s.changeRegs c.change) s

/-- Rebuild the pool from the CELLAR region (R190, R197). -/
def State.rebuildPool (s : State) : State :=
  let n := match s.cellarRegion with | some r => (s.rgnHi r - s.rgnLo r) / 65536 | none => 0
  s.wfs CEL_STATUS [(CEL_STATUS_SEG_TOTAL, n), (CEL_STATUS_SEG_FREE, n)]

/-- Larder lines that a region change invalidates: those of a READONLY region that it removes, moves or makes writable (R171). -/
def State.regionDrop (s : State) (n : Nat) : State :=
  if s.rgnValid n && s.rgnBit n MEM_RGN_ATTR_READONLY then s.larderDrop (s.rgnLo n) (s.rgnHi n) else s

/-- Whether region n is, or is to be, the CELLAR region. -/
def isCellar (s : State) (n : Nat) : Bool := s.rgnValid n && s.rgnBit n MEM_RGN_ATTR_CELLAR

/-- A region change takes effect. -/
def State.applyRegion (s : State) (n : Nat) (c : RegionChange) : State :=
  let s' := (s.regionDrop n).changeRegs c
  if isCellar s n || isCellar s' n then s'.rebuildPool else s'

/-- One change takes effect (R171, R178, R180). -/
def State.applyChange (s : State) : RegionChange → State
  | .setRegion n base attr => s.applyRegion n (.setRegion n base attr)
  | .clearRegion n => s.applyRegion n (.clearRegion n)
  | .setWindow k cfg map peer => (s.larderDrop (2 ^ 40 * k) (2 ^ 40 * (k + 1))).changeRegs (.setWindow k cfg map peer)
  | .clearWindow k => (s.larderDrop (2 ^ 40 * k) (2 ^ 40 * (k + 1))).changeRegs (.clearWindow k)
  | .flush n =>
    if s.rgnValid n && s.rgnBit n MEM_RGN_ATTR_READONLY then
      (s.larderDrop (s.rgnLo n) (s.rgnHi n)).wf (MEM_RGN_ATTR n) MEM_RGN_ATTR_OPEN 1
    else s

def RegionChange.isFlush : RegionChange → Bool
  | .flush _ => true
  | _ => false

/-- Apply changes in order, with the APPLIED of those that were deferred. -/
def State.applyAll (s : State) (cs : List PendingChange) : State :=
  cs.foldl (fun s c =>
    let s := s.applyChange c.change
    if c.deferred then s.applied c.tag c.origin c.ring c.opcode stOk false else s) s

/-- The changes that are due at a boundary: region changes where no step is in flight (R170), and, since the pool must be whole
where one touches the CELLAR region, while no queue holds a segment; flushes always, after them (R178). -/
def State.changesDue (s : State) : List PendingChange :=
  let cs := s.changes.filter (fun c => !c.change.isFlush)
  let pool := cs.any (fun c => match c.change with
    | .setRegion n _ attr => isCellar s n || getField attr MEM_RGN_ATTR_CELLAR == 1
    | .clearRegion n => isCellar s n
    | _ => false)
  let whole := s.rf CEL_STATUS CEL_STATUS_SEG_FREE == s.rf CEL_STATUS CEL_STATUS_SEG_TOTAL
  (if s.steps.isEmpty && (!pool || whole) then cs else []) ++ s.changes.filter (fun c => c.change.isFlush)

/-- REGION_CHANGE_APPLY: at a frame boundary. Fallback plans whose region is gone or open leave the table (R483). -/
def State.applyChanges (s : State) : State :=
  let due := s.changesDue
  if due.isEmpty then s
  else (({ s with changes := s.changes.filter (fun c => !due.contains c) } : State).applyAll due).dropPlans

def execRegionChangeApply (s : State) : Out := .next s.applyChanges

/-- Take changes of one command: OK where no step is in flight, else DEFERRED (R170). -/
def State.takeChanges (s : State) (c : Cmd) (cs : List RegionChange) (body : List Word) : State :=
  let wait := !s.steps.isEmpty
  let n := cs.length
  let ps := cs.zipIdx.map (fun x => ({ change := x.1, opcode := c.opcode, tag := c.tag, origin := originOf s c, ring := c.ringId,
                                       deferred := wait && x.2 + 1 == n } : PendingChange))
  ({ s with changes := s.changes ++ ps } : State).reply c (if wait then stDeferred else stOk) body

/-! ## REGION_SET, REGION_CLEAR (R168, R169, R197) -/

/-- [lo, hi) lies wholly in the space that INTERLEAVE and WING declare. -/
def State.declares (s : State) (attr : Word) (lo hi : Nat) : Bool :=
  if getField attr MEM_RGN_ATTR_INTERLEAVE = 0 then decide (hi ≤ s.pkgTop)
  else
    let w := getField attr MEM_RGN_ATTR_WING
    s.wingOf lo == some w && s.wingOf (hi - 1) == some w

/-- What R169 rejects with BAD_PARAM for region n of a table. -/
def State.regionBad (s : State) (n : Nat) (base attr : Word) : Bool :=
  let f := fun (x : Field) => getField attr x == 1
  let lo := 4096 * getField base MEM_RGN_BASE_BASE
  let hi := 4096 * getField attr MEM_RGN_ATTR_LAST + 4096
  let annex := daWindow lo != 0 || daWindow (hi - 1) != 0
  !f MEM_RGN_ATTR_VALID || decide (hi ≤ lo) ||
  (s.regionsIn lo hi).any (fun r => r != n) ||
  (f MEM_RGN_ATTR_ANNEX_BACKED != annex) ||
  (annex && daWindow lo != daWindow (hi - 1)) || (!annex && !s.declares attr lo hi) ||
  ((f MEM_RGN_ATTR_CELLAR || f MEM_RGN_ATTR_JOURNAL) && (f MEM_RGN_ATTR_READONLY || f MEM_RGN_ATTR_ANNEX_BACKED)) ||
  (f MEM_RGN_ATTR_CELLAR && f MEM_RGN_ATTR_JOURNAL) ||
  (f MEM_RGN_ATTR_CELLAR && (decide (8 * GiB < hi - lo) || (List.range 64).any (fun r => r != n && isCellar s r)))

/-- A command that would remove, move or resize the CELLAR region while queues hold segments (R197). -/
def State.cellarBusy (s : State) (n : Nat) (base attr : Word) : Bool :=
  let t := s.tables
  let cell := fun (x : State) => isCellar x n && !(getField attr MEM_RGN_ATTR_CELLAR == 1 &&
    getField base MEM_RGN_BASE_BASE == x.rf (MEM_RGN_BASE n) MEM_RGN_BASE_BASE &&
    getField attr MEM_RGN_ATTR_LAST == x.rf (MEM_RGN_ATTR n) MEM_RGN_ATTR_LAST)
  (cell s || cell t) && decide (s.rf CEL_STATUS CEL_STATUS_SEG_FREE < s.rf CEL_STATUS CEL_STATUS_SEG_TOTAL)

/-- The lowest free descriptor. -/
def State.freeRegion (s : State) : Option Nat := (List.range 64).find? (fun n => !s.rgnValid n)

/-- The descriptor a REGION_SET names: a number 0 to 63, or 0xFF for the lowest free one. -/
def State.regionNumber (s : State) (n : Nat) : Option Nat := if n = 0xFF then s.freeRegion else some n

/-- The writable attributes of a descriptor: OPEN and LOST are ignored. -/
def regionAttr (w : Word) : Word :=
  w &&& fieldsMask [MEM_RGN_ATTR_LAST, MEM_RGN_ATTR_WING, MEM_RGN_ATTR_INTERLEAVE, MEM_RGN_ATTR_ANNEX_BACKED,
    MEM_RGN_ATTR_JOURNAL, MEM_RGN_ATTR_CELLAR, MEM_RGN_ATTR_READONLY, MEM_RGN_ATTR_VALID]

def State.regionSet (s : State) (c : Cmd) : State :=
  let t := s.tables
  let base := c.p 1 &&& fieldMask MEM_RGN_BASE_BASE
  let attr := regionAttr (c.p 2)
  let named := c.pf 0 7 0
  if decide (64 ≤ named) && named != 0xFF then s.reply c stBadParam []
  else match t.regionNumber named with
    | none => s.reply c (if t.regionBad 64 base attr then stBadParam else stCapacity) []
    | some n =>
      if t.regionBad n base attr then s.reply c stBadParam []
      else if s.cellarBusy n base attr then s.reply c stBusy []
      else s.takeChanges c [.setRegion n base attr] [packFields [(bits 5 0, n)]]

def execRegionSet (c : Cmd) (s : State) : Out := .next (s.command c 0x130 (fun s => s.regionSet c))

def State.regionClear (s : State) (c : Cmd) : State :=
  let n := c.pf 0 5 0
  if !s.tables.rgnValid n then s.reply c stBadParam []
  else if s.cellarBusy n 0 0 then s.reply c stBusy []
  else s.takeChanges c [.clearRegion n] []

def execRegionClear (c : Cmd) (s : State) : Out := .next (s.command c 0x131 (fun s => s.regionClear c))

/-- LARDER_FLUSH: a region that is not READONLY is refused; the flush waits for the next boundary (R178). -/
def State.larderFlush (s : State) (c : Cmd) : State :=
  let n := c.pf 0 5 0
  if !(s.rgnValid n && s.rgnBit n MEM_RGN_ATTR_READONLY) then s.reply c stBadParam []
  else
    let p : PendingChange := { change := .flush n, opcode := c.opcode, tag := c.tag, origin := originOf s c, ring := c.ringId,
                               deferred := false }
    ({ s with changes := s.changes ++ [p] } : State).reply c stOk []

def execLarderFlush (c : Cmd) (s : State) : Out := .next (s.command c 0x310 (fun s => s.larderFlush c))

/-! ## ANNEX_SET, ANNEX_CLEAR (R226, R227) -/

/-- The registers an ANNEX_SET asks for: CFG, MAP and PEER. -/
def annexCfg (c : Cmd) : Word := packFields [(MEM_ANX_CFG_SIZE_M1, c.pf 2 27 0)]

def annexMap (c : Cmd) : Word :=
  packFields [(MEM_ANX_MAP_LINK0, c.pf 0 39 32), (MEM_ANX_MAP_LINK1, c.pf 0 47 40), (MEM_ANX_MAP_LINK2, c.pf 0 55 48),
    (MEM_ANX_MAP_LINK3, c.pf 0 63 56), (MEM_ANX_MAP_RBASE, c.pf 1 39 12), (MEM_ANX_MAP_NLINKS_M1, c.pf 0 23 22),
    (MEM_ANX_MAP_RELAY_OK, c.pf 0 21 21), (MEM_ANX_MAP_VALID, 1)]

def annexPeer (c : Cmd) : Word := packFields [(MEM_ANX_PEER_WRITABLE, c.pf 0 20 20), (MEM_ANX_PEER_PEER, c.pf 0 19 8)]

/-- An ANNEX_BACKED region of a table lies in window k. -/
def State.windowUsed (s : State) (k : Nat) : Bool :=
  (List.range 64).any (fun r => s.rgnValid r && s.rgnBit r MEM_RGN_ATTR_ANNEX_BACKED && daWindow (s.rgnLo r) == k)

/-- What R227 answers with BAD_PARAM. -/
def State.annexBad (s : State) (c : Cmd) : Bool :=
  let peer := c.pf 0 19 8
  let ls := [c.pf 0 39 32, c.pf 0 47 40, c.pf 0 55 48, c.pf 0 63 56].take (c.pf 0 23 22 + 1)
  c.pf 0 7 0 == 0 || ls.any (fun l => !s.linkNamed l || s.linkPeer l != peer || s.isD1 l || decide (s.nvc l < 3)) ||
  peer == s.pkg || peer == 0 || peer == 0xFFF || decide (2 ^ 40 < 4096 * c.pf 1 39 12 + 4096 * (c.pf 2 27 0 + 1))

/-- The change would shrink or re-point a window that an ANNEX_BACKED region reaches into. -/
def State.annexBusy (s : State) (c : Cmd) : Bool :=
  let t := s.tables
  let k := c.pf 0 7 0
  let moves := fun (x : State) => x.winValid k && x.windowUsed k &&
    (decide (4096 * (c.pf 2 27 0 + 1) < x.winSize k) || x.winPeer k != c.pf 0 19 8 || x.winRbase k != 4096 * c.pf 1 39 12)
  moves s || moves t

def State.annexSet (s : State) (c : Cmd) : State :=
  if s.annexBad c then s.reply c stBadParam []
  else if s.annexBusy c then s.reply c stBusy []
  else s.takeChanges c [.setWindow (c.pf 0 7 0) (annexCfg c) (annexMap c) (annexPeer c)] []

def execAnnexSet (c : Cmd) (s : State) : Out := .next (s.command c 0x340 (fun s => s.annexSet c))

def State.annexClear (s : State) (c : Cmd) : State :=
  let k := c.pf 0 7 0
  let t := s.tables
  if k = 0 ∨ !t.winValid k then s.reply c stBadParam []
  else if s.windowUsed k || t.windowUsed k then s.reply c stBusy []
  else s.takeChanges c [.clearWindow k] []

def execAnnexClear (c : Cmd) (s : State) : Out := .next (s.command c 0x341 (fun s => s.annexClear c))

/-! ## MODEL_LOAD (R232 to R235) -/

/-- Where placement stands: next local address, next offset in each window, placed addresses, the shortfall and its first
segment. -/
structure Placing where
  next : Nat
  wins : List (Nat × Nat)
  placed : List Nat
  short : Nat
  first : Option Nat
  deriving DecidableEq, Repr

/-- Place one segment (ANNEX_OK, size); size k gives a window's SIZE. -/
def placeOne (limit : Nat) (size : Nat → Nat) (p : Placing) (seg : Bool × Nat) (i : Nat) : Placing :=
  if p.next + seg.2 ≤ limit then { p with next := p.next + seg.2, placed := p.placed ++ [p.next] }
  else
    let win := if seg.1 then p.wins.find? (fun w => decide (w.2 + seg.2 ≤ size w.1)) else none
    match win with
    | some w =>
      { p with wins := p.wins.map (fun x => if x.1 = w.1 then (x.1, x.2 + seg.2) else x),
               placed := p.placed ++ [2 ^ 40 * w.1 + w.2] }
    | none => { p with short := p.short + seg.2, first := if p.first.isNone then some i else p.first }

def placeAll (base limit : Nat) (wins : List Nat) (size : Nat → Nat) (segs : List (Bool × Nat)) : Placing :=
  segs.zipIdx.foldl (fun p x => placeOne limit size p x.1 x.2)
    { next := base, wins := wins.map (fun k => (k, 0)), placed := [], short := 0, first := none }

/-- Segment records: VERSION, ANNEX_OK and size. -/
def segments (ws : List Word) (n : Nat) : List (Nat × Bool × Nat) :=
  (List.range n).map (fun i =>
    let w := ws.getD (2 * i) 0
    (getField w (bits 3 0), getField w (bit 4) == 1, getField w (bits 63 16)))

/-- The windows P4 names: bytes up to the first 0. -/
def namedWindows (w : Word) : List Nat := ((List.range 8).map (fun k => w.toNat / 2 ^ (8 * k) % 256)).takeWhile (fun k => k != 0)

/-- A READONLY region over [lo, hi), OPEN from the start (R234). -/
def modelRegion (n lo hi : Nat) (annex : Bool) : RegionChange :=
  .setRegion n (packFields [(MEM_RGN_BASE_BASE, lo / 4096)])
    (packFields [(MEM_RGN_ATTR_LAST, (hi - 1) / 4096), (MEM_RGN_ATTR_OPEN, 1), (MEM_RGN_ATTR_ANNEX_BACKED, if annex then 1 else 0),
      (MEM_RGN_ATTR_READONLY, 1), (MEM_RGN_ATTR_VALID, 1)])

/-- The ranges a placement fills: the local one, then one for each window used. -/
def Placing.ranges (p : Placing) (base : Nat) : List (Nat × Nat × Bool) :=
  (if p.next = base then [] else [(base, p.next, false)]) ++
    (p.wins.filter (fun w => w.2 != 0)).map (fun w => (2 ^ 40 * w.1, 2 ^ 40 * w.1 + w.2, true))

/-- The lowest k free descriptors of a table. -/
def State.freeRegions (s : State) : List Nat := (List.range 64).filter (fun n => !s.rgnValid n)

/-- Parameters that MODEL_LOAD refuses. -/
def State.modelBad (t : State) (c : Cmd) : Bool :=
  let base := c.pf 1 39 0
  let limit := c.pf 2 39 0
  let ks := namedWindows (c.p 4)
  base % 4096 != 0 || limit % 4096 != 0 || decide (limit < base) || decide (t.pkgTop < limit) || !noRepeat ks ||
    ks.any (fun k => !t.winValid k) || daWindow (c.pf 0 47 0) != 0

/-- Define the regions of a placement and write its table. -/
def State.placeModel (s : State) (c : Cmd) (p : Placing) : State :=
  let t := s.tables
  let rs := p.ranges (c.pf 1 39 0)
  let free := t.freeRegions
  if free.length < 1 + (p.wins.filter (fun w => w.2 != 0)).length then
    s.reply c stCapacity [1, 0, packFields [(bits 11 0, 0)]]
  else if rs.any (fun r => !(t.regionsIn r.1 r.2.1).isEmpty) then s.reply c stBadParam []
  else match s.cmdWrite (c.pf 3 47 0) (wordsToBytes (p.placed.map (fun a => BitVec.ofNat 64 a))) with
    | none => s.reply c stBadParam []
    | some s' => s'.takeChanges c (rs.zipIdx.map (fun x => modelRegion (free.getD x.2 0) x.1.1 x.1.2.1 x.1.2.2)) []

def State.modelLoad (s : State) (c : Cmd) : State :=
  let n := c.pf 0 59 48 + 1
  let t := s.tables
  if t.modelBad c then s.reply c stBadParam []
  else match s.localRead (c.pf 0 47 0) (16 * n) with
    | .error _ => s.reply c stBadParam []
    | .ok bs =>
      let segs := segments (bytesToWords bs) n
      if segs.any (fun x => x.1 != 1) then s.reply c stBadVersion []
      else if segs.any (fun x => x.2.2 == 0 || x.2.2 % 4096 != 0) then s.reply c stBadParam []
      else
        let p := placeAll (c.pf 1 39 0) (c.pf 2 39 0) (namedWindows (c.p 4)) t.winSize (segs.map (fun x => x.2))
        if p.short ≠ 0 then
          s.reply c stCapacity [0, BitVec.ofNat 64 p.short, packFields [(bits 11 0, p.first.getD 0)]]
        else s.placeModel c p

def execModelLoad (c : Cmd) (s : State) : Out := .next (s.command c 0x350 (fun s => s.modelLoad c))

end Sys2Proof.Machine
end

