-- ==== Sys2Proof/Machine/Boundaries.lean ====
section
/-!
DEFINITION. Sys2Proof/Machine/Boundaries.lean: the frame boundary (R294) with the slips, overruns and stall counts of the bays (R114 to
R119, R127, R130), the slot boundary (R315), and the I3C command channel (R536).
-/

set_option Elab.async false

namespace Sys2Proof.Machine

/-! ## A bay at a frame boundary -/

/-- A queue's head has slipped: it could have started in the frame that ends, and waits for the next one to hold FIT_CYCLES (R114,
R115). -/
def State.slips (s : State) (b : BayId) (u : UnitKind) : Bool :=
  match (s.bay b).queue u with
  | [] => false
  | q :: _ => (s.headReady b u (dtype q.d)).isSome && fitApplies (dtype q.d) && decide (dFit q.d ≠ 0) &&
      decide (dStart q.d ≠ 2 ^ 48 - 1) &&
      decide ((s.rf (BAY_SEQ_BASE b) BAY_SEQ_BASE_BASE_FRAME + dStart q.d) % 2 ^ 48 ≠ s.frame)

/-- Count the slip of a queue's head. -/
def State.slipHead (s : State) (b : BayId) (u : UnitKind) : State :=
  if !s.slips b u then s
  else
    let x := s.bay b
    let qs := match x.queue u with
      | [] => []
      | q :: qs => { q with slip := q.slip + 1 } :: qs
    (s.setBay b (x.setQueue u qs)).satf (BAY_SEQ_STATUS b) BAY_SEQ_STATUS_SLIP_COUNT 1

/-- Slips of a bay in the frame that ends. An ATTN_BLOCK waits in two queues and slips once. -/
def State.slipBay (s : State) (b : BayId) : State :=
  if s.seqState b ≠ seqRunning then s
  else
    let s := if (match (s.bay b).qMat with | q :: _ => dtype q.d == 2 && (s.bay b).rVec.isSome | [] => false) then s else s.slipHead b .matrix
    let s := if (match (s.bay b).qVec with | q :: _ => dtype q.d == 2 | [] => false) then s else s.slipHead b .vector
    (s.slipHead b .data).slipHead b .exchange

/-- A running descriptor makes this an overrun boundary (R117). -/
def Running.overruns (r : Running) : Bool := fitApplies (dtype r.d) && !(dtype r.d == 0x30 && r.launched)

def overrunOpt (r : Option Running) : Bool := match r with | some x => x.overruns | none => false

def lateOpt (r : Option Running) : Option Running := r.map (fun x => if x.overruns then { x with late := true } else x)

/-- Overruns: a grace frame follows an overrun boundary, and a second one in a row is the OVERRUN fault (R117 to R119). -/
def State.overrunBay (s : State) (b : BayId) : State :=
  let x := s.bay b
  if overrunOpt x.rMat || overrunOpt x.rVec || overrunOpt x.rData || overrunOpt x.rXchg then
    let again := s.rf (BAY_SEQ_STATUS b) BAY_SEQ_STATUS_GRACE == 1
    let s := s.setBay b { x with rMat := lateOpt x.rMat, rVec := lateOpt x.rVec, rData := lateOpt x.rData, rXchg := lateOpt x.rXchg }
    let s := s.satf (BAY_SEQ_STATUS b) BAY_SEQ_STATUS_OVERRUN_COUNT 1
    if again then s.seqFault b F_OVERRUN else s.wf (BAY_SEQ_STATUS b) BAY_SEQ_STATUS_GRACE 1
  else if s.rf (BAY_SEQ_STATUS b) BAY_SEQ_STATUS_GRACE = 1 then s.wf (BAY_SEQ_STATUS b) BAY_SEQ_STATUS_GRACE 0
  else s

/-- Boundaries without a start or completion, boundaries a control descriptor has waited (R127, R130), and a control descriptor whose
start frame has begun. -/
def State.countBay (s : State) (b : BayId) : State :=
  let x := s.bay b
  let stall := if s.hasWork b && !x.progress then x.stall + 1 else 0
  let s := s.setBay b { x with stall := stall, progress := false, ctlFrames := if x.control.isSome then x.ctlFrames + 1 else 0 }
  s.settleControl b

/-! ## The boundary -/

/-- The frame counter increments. -/
def State.nextFrame (s : State) : State := s.addf STR_FRAME STR_FRAME_FRAME 1

/-- The optical and link work of a boundary. -/
def State.lightFrame (s : State) : State :=
  let s := allLinks.foldl (fun s l => s.linkFrame l) s
  (List.range 8).foldl (fun s c => ((s.faFrame c).calReady c).skyDue c) s

/-- Traffic that waits for a path moves. -/
def State.moveTraffic (s : State) : State := (s.sendRestores.pumpReloads).flushOutbox

/-- FRAME_BOUNDARY. -/
def State.frameBoundary (s : State) (e : FrameEnv) : State :=
  if s.mode = .off then s
  else
    let s := (allBays.foldl (fun s b => s.slipBay b) s).nextFrame
    let s := allBays.foldl (fun s b => (s.overrunBay b).countBay b) s
    let s := ((s.powerFrame e).pairFrame).blockResetsDue
    let s := (s.lightFrame.attachFrame).unfencesDue
    let s := s.moveTraffic
    if s.mode = .starting then ({ s with bootFrame := s.bootFrame + 1 } : State).bootAdvance false else s

def execFrameBoundary (e : FrameEnv) (s : State) : Out := .next (s.frameBoundary e)

/-- SLOT_BOUNDARY. -/
def execSlotBoundary (slot : Fin 64) (s : State) : Out :=
  .next (if s.mode = .off then s else ((s.sendRestores).pumpReloads).slotBoundary slot.val)

/-! ## The I3C command channel (R536) -/

/-- The meaning of each opcode's command. -/
def opMeanings : List (Nat × (Cmd → State → Out)) :=
  [(0x001, execIdentify), (0x002, execPodList), (0x003, execMgmtRead), (0x101, execMgmtWrite), (0x110, execConfigWrite),
   (0x111, execConfigRead), (0x120, execWingRoleSet), (0x130, execRegionSet), (0x131, execRegionClear), (0x201, execHalt)] ++
  [(0x210, execStepStart), (0x211, execStepAbort), (0x301, execMemFill), (0x302, execMemCopy), (0x310, execLarderFlush),
   (0x330, execPantryPublish), (0x331, execPantryResolve), (0x332, execPantryRelease), (0x333, execPantryEvict),
   (0x340, execAnnexSet)] ++
  [(0x341, execAnnexClear), (0x350, execModelLoad), (0x410, execLinkSet), (0x411, execLinkWidth), (0x412, execLinkRetrain),
   (0x413, execLinkState), (0x420, execLaserSet), (0x421, execLaserSwap), (0x422, execLaserCommission), (0x423, execLaserThreshSet)] ++
  [(0x424, execCalSet), (0x430, execPlanLoad), (0x431, execPlanDelta), (0x432, execSettleSet), (0x433, execBeatRealign),
   (0x440, execSkySet), (0x441, execSkyCal), (0x501, execPowerPointSet), (0x502, execPowerCapSet), (0x510, execUnitPower)] ++
  [(0x520, execTripAck), (0x601, execFaultRead), (0x602, execFaultClear), (0x610, execReactionSet), (0x620, execFallbackLoad),
   (0x630, execUnfence), (0x6F0, execFaultInject), (0x701, execAuthChallenge), (0x702, execAuthResponse), (0x703, execAuthDrop)] ++
  [(0x710, execFwInstall), (0x720, execLifecycleSet), (0x730, execAttest), (0x740, execAuditRead)]

/-- Run a command that has been taken, by its opcode; a reserved one was answered as it was taken. -/
def runOpcode (c : Cmd) (s : State) : Out :=
  if isMakerTest c.opcode then execMakerTest c s
  else match opMeanings.find? (fun m => m.1 == c.opcode) with
    | some m => m.2 c s
    | none => .next s

/-- I3C_COMMAND_WRITE: from the end of S3 the channel takes the packet, with RING 20, and it runs; the reply to the command before is
gone. A packet whose LEN is over 256 or no multiple of 8 is answered BAD_PARAM (log entry). -/
def execI3cCommandWrite (c : Cmd) (s : State) : Out :=
  let c := { c with via := .i3c }
  if s.mode = .off then .next s
  else
    let t : State := { s with locals := sparseSet localsDefault s.locals 20 [] }
    if 256 < c.len ∨ c.len % 8 ≠ 0 then .next (t.reply c stBadParam [])
    else runOpcode c (t.takeCmd c)

end Sys2Proof.Machine
end

