-- ==== Sys2Proof/Machine/Exchange.lean ====
section
/-!
DEFINITION. Sys2Proof/Machine/Exchange.lean: the exchange port of a bay: SEND and RECV (R143, R144, R316).
-/

set_option Elab.async false

namespace Sys2Proof.Machine

/-- W2 of the SEND_DATA packet of a SEND (Table 11-3). -/
def sendW2 (x : XchgD) (last : Bool) : Nat :=
  x.flow + 2 ^ 16 * x.die + 2 ^ 20 * x.bay + (match x.rsig with | some e => 2 ^ 24 + 2 ^ 25 * e | none => 0) +
    (if last then 2 ^ 30 else 0)

/-- The packets of a SEND: at most 512 bytes each, the last marked. -/
def State.sendPackets (s : State) (x : XchgD) (bs : List Byte) : List (List Byte) :=
  let n := cdiv bs.length 512
  (List.range n).map (fun i =>
    s.packetBytes x.link ptSendData x.vc (sendW2 x (i + 1 == n)) 0 none ((bs.drop (512 * i)).take 512))

/-- Change the running descriptor of the exchange port. -/
def State.xchgRun (s : State) (b : BayId) (f : Running → Running) : State :=
  s.setBay b { s.bay b with rXchg := (s.bay b).rXchg.map f }

/-- A SEND inside the package: from bay to bay at once (R144). -/
def State.sendLocal (s : State) (b : BayId) (x : XchgD) : State :=
  let t := bayOf (x.die * 12 + x.bay)
  (s.arriveBay t 255 0 x.flow 0 (s.sramRead b x.addr x.len) x.rsig).xchgRun b (fun r => { r with launched := true })

/-- A SEND whose link is down (R144). -/
def State.sendDown (s : State) (b : BayId) : State :=
  let s := (s.xchgRun b (fun r => { r with status := 4 })).fenceBays [bayIx b]
  if s.seqState b = seqRunning then s.stopBay b seqStopped 7 else s

/-- A SEND over a link: its packets join the transmit queue of its channel, where slots or FLEX slots launch them (R120, R316). -/
def State.sendLink (s : State) (b : BayId) (q : Queued) (x : XchgD) : State :=
  let st := s.linkState x.link
  if st ≠ lkUp ∧ st ≠ lkRetraining ∧ st ≠ lkAcked then s.sendDown b
  else
    let ps := s.sendPackets x (s.sramRead b x.addr x.len)
    let s := s.xchgRun b (fun r => { r with waiting := ps.length })
    ps.foldl (fun s p => s.linkPut x.link x.vc p (some (bayIx b, q.idx)) 0 0) s

/-- SEND starts. An uncorrectable read of the source stops it before a packet forms (log entry). -/
def State.sendStart (s : State) (b : BayId) (q : Queued) (e : UnitEnv) : State :=
  let x := xchgOf q.d
  let es := (s.startHead b .exchange q).sramErrs b e.sram
  match es.2 with
  | some ue => es.1.sramUe b .exchange ue
  | none => if x.link = 255 then es.1.sendLocal b x else es.1.sendLink b q x

def execSend (b : BayId) (e : UnitEnv) (s : State) : Out :=
  .next (match s.headReady b .exchange 0x30 with
    | none => s
    | some q => s.sendStart b q e)

/-- RECV: its buffer is posted, where fewer than 64 are, and takes what waits for it (R143). -/
def State.recvStart (s : State) (b : BayId) (q : Queued) : State :=
  let x := s.bay b
  if 64 ≤ x.recvs.length then s
  else
    let r := xchgOf q.d
    let p : Posted := { idx := q.idx, d := q.d, link := r.link, flow := r.flow, dst := r.addr, len := r.len, got := 0,
                        startFrame := s.frame }
    let s := s.setBay b { x with qXchg := x.qXchg.drop 1, recvs := x.recvs ++ [p], stall := 0, progress := true }
    s.drainArrived (s.bay b).arrived.length b r.link r.flow

def execRecv (b : BayId) (s : State) : Out :=
  .next (match s.headReady b .exchange 0x31 with
    | none => s
    | some q => s.recvStart b q)

end Sys2Proof.Machine
end

