-- ==== Sys2Proof/Machine/Dispatch.lean ====
section
/-!
DEFINITION. Sys2Proof/Machine/Dispatch.lean: one arm per command.
-/

namespace Sys2Proof.Machine

def exec (i : Instr) (s : State) : Host.Outcome State Fault Refusal :=
  match i with
  | .startUp e => Sys2Proof.Machine.execStartUp e s
  | .startUpDeadline => Sys2Proof.Machine.execStartUpDeadline s
  | .resetN ns => Sys2Proof.Machine.execResetN ns s
  | .pwrgoodDeassert ns => Sys2Proof.Machine.execPwrgoodDeassert ns s
  | .packageReset => Sys2Proof.Machine.execPackageReset s
  | .railUndervoltage rail mv ns => Sys2Proof.Machine.execRailUndervoltage rail mv ns s
  | .dieUndervoltage d mv ns => Sys2Proof.Machine.execDieUndervoltage d mv ns s
  | .thermalTrip u sensor temp => Sys2Proof.Machine.execThermalTrip u sensor temp s
  | .perstN asserted => Sys2Proof.Machine.execPerstN asserted s
  | .functionLevelReset => Sys2Proof.Machine.execFunctionLevelReset s
  | .configurationRequest offset write => Sys2Proof.Machine.execConfigurationRequest offset write s
  | .fsyncInEdge phase highPs => Sys2Proof.Machine.execFsyncInEdge phase highPs s
  | .frameBoundary e => Sys2Proof.Machine.execFrameBoundary e s
  | .capOpDrop => Sys2Proof.Machine.execCapOpDrop s
  | .sensorUnchanged u sensor => Sys2Proof.Machine.execSensorUnchanged u sensor s
  | .slotBoundary slot => Sys2Proof.Machine.execSlotBoundary slot s
  | .burstArrival c e slot b => Sys2Proof.Machine.execBurstArrival c e slot b s
  | .laneDegraded c e lane => Sys2Proof.Machine.execLaneDegraded c e lane s
  | .timingRecord src r => Sys2Proof.Machine.execTimingRecord src r s
  | .electEnd => Sys2Proof.Machine.execElectEnd s
  | .holdover => Sys2Proof.Machine.execHoldover s
  | .holdoverExpiry => Sys2Proof.Machine.execHoldoverExpiry s
  | .handoverAnnounce => Sys2Proof.Machine.execHandoverAnnounce s
  | .beatHandover => Sys2Proof.Machine.execBeatHandover s
  | .planApply => Sys2Proof.Machine.execPlanApply s
  | .settleChange c e => Sys2Proof.Machine.execSettleChange c e s
  | .quietPeriodEnd c e => Sys2Proof.Machine.execQuietPeriodEnd c e s
  | .faPresenceOpen c => Sys2Proof.Machine.execFaPresenceOpen c s
  | .faPresenceStable c => Sys2Proof.Machine.execFaPresenceStable c s
  | .fadeMeasurement c rs => Sys2Proof.Machine.execFadeMeasurement c rs s
  | .atticAtOutput c a => Sys2Proof.Machine.execAtticAtOutput c a s
  | .atticSweepStop c a => Sys2Proof.Machine.execAtticSweepStop c a s
  | .atticVerifyEnd c a tones => Sys2Proof.Machine.execAtticVerifyEnd c a tones s
  | .atticMatched c a => Sys2Proof.Machine.execAtticMatched c a s
  | .atticSwitchIn c => Sys2Proof.Machine.execAtticSwitchIn c s
  | .laserRampDownComplete c n => Sys2Proof.Machine.execLaserRampDownComplete c n s
  | .laserTurnOnComplete c n => Sys2Proof.Machine.execLaserTurnOnComplete c n s
  | .ringColdEnd c r => Sys2Proof.Machine.execRingColdEnd c r s
  | .ringSweepCapture c r captured heater => Sys2Proof.Machine.execRingSweepCapture c r captured heater s
  | .ringVerifyEnd c r tone => Sys2Proof.Machine.execRingVerifyEnd c r tone s
  | .lossOfLock c r => Sys2Proof.Machine.execLossOfLock c r s
  | .toneAudit c tone => Sys2Proof.Machine.execToneAudit c tone s
  | .meshFault c rx m => Sys2Proof.Machine.execMeshFault c rx m s
  | .calStart c => Sys2Proof.Machine.execCalStart c s
  | .calDone c onTarget => Sys2Proof.Machine.execCalDone c onTarget s
  | .calTimeout c => Sys2Proof.Machine.execCalTimeout c s
  | .laneMapEpoch l => Sys2Proof.Machine.execLaneMapEpoch l s
  | .laneMapNotice l p => Sys2Proof.Machine.execLaneMapNotice l p s
  | .vacate l p => Sys2Proof.Machine.execVacate l p s
  | .restore l p => Sys2Proof.Machine.execRestore l p s
  | .exclude l p => Sys2Proof.Machine.execExclude l p s
  | .linkTrainingStart l => Sys2Proof.Machine.execLinkTrainingStart l s
  | .offer l p => Sys2Proof.Machine.execOffer l p s
  | .accept l p => Sys2Proof.Machine.execAccept l p s
  | .retrainReq l p => Sys2Proof.Machine.execRetrainReq l p s
  | .retrainAck l p => Sys2Proof.Machine.execRetrainAck l p s
  | .goingDown l p => Sys2Proof.Machine.execGoingDown l p s
  | .retrainTimeout l => Sys2Proof.Machine.execRetrainTimeout l s
  | .lossOfLight l => Sys2Proof.Machine.execLossOfLight l s
  | .downHoldExpiry l => Sys2Proof.Machine.execDownHoldExpiry l s
  | .replayTimer l => Sys2Proof.Machine.execReplayTimer l s
  | .ackIdleTimer l => Sys2Proof.Machine.execAckIdleTimer l s
  | .ackOnly l p => Sys2Proof.Machine.execAckOnly l p s
  | .sendData l p => Sys2Proof.Machine.execSendData l p s
  | .memRd l p ue => Sys2Proof.Machine.execMemRd l p ue s
  | .memWr l p => Sys2Proof.Machine.execMemWr l p s
  | .memCpl l p => Sys2Proof.Machine.execMemCpl l p s
  | .neighbours l p => Sys2Proof.Machine.execNeighbours l p s
  | .hearthCommand l p => Sys2Proof.Machine.execHearthCommand l p s
  | .hearthReply l p => Sys2Proof.Machine.execHearthReply l p s
  | .hearthEvent l p => Sys2Proof.Machine.execHearthEvent l p s
  | .skyDone l p => Sys2Proof.Machine.execSkyDone l p s
  | .dataFlit a f => Sys2Proof.Machine.execDataFlit a f s
  | .idleFlit a f => Sys2Proof.Machine.execIdleFlit a f s
  | .frameFlit a f => Sys2Proof.Machine.execFrameFlit a f s
  | .flitReplay a => Sys2Proof.Machine.execFlitReplay a s
  | .widthReport a w => Sys2Proof.Machine.execWidthReport a w s
  | .widthReportTimeout a => Sys2Proof.Machine.execWidthReportTimeout a s
  | .ucieModuleDown a m => Sys2Proof.Machine.execUcieModuleDown a m s
  | .guestAdmission g cap => Sys2Proof.Machine.execGuestAdmission g cap s
  | .guestAbsent g => Sys2Proof.Machine.execGuestAbsent g s
  | .guestReset g => Sys2Proof.Machine.execGuestReset g s
  | .guestWindowAccess g offset write answer => Sys2Proof.Machine.execGuestWindowAccess g offset write answer s
  | .porchLaneFailure n => Sys2Proof.Machine.execPorchLaneFailure n s
  | .seamDown h => Sys2Proof.Machine.execSeamDown h s
  | .reloadComplete step => Sys2Proof.Machine.execReloadComplete step s
  | .retirementCopyComplete r => Sys2Proof.Machine.execRetirementCopyComplete r s
  | .patrolRead st ch da f passEnd => Sys2Proof.Machine.execPatrolRead st ch da f passEnd s
  | .queueRefill q line => Sys2Proof.Machine.execQueueRefill q line s
  | .celQwmWrite q v => Sys2Proof.Machine.execCelQwmWrite q v s
  | .crossedClear q h l => Sys2Proof.Machine.execCrossedClear q h l s
  | .celCntClr q => Sys2Proof.Machine.execCelCntClr q s
  | .pantryAgeSweep w => Sys2Proof.Machine.execPantryAgeSweep w s
  | .leaseExpiry h => Sys2Proof.Machine.execLeaseExpiry h s
  | .publishListApply step => Sys2Proof.Machine.execPublishListApply step s
  | .regionChangeApply => Sys2Proof.Machine.execRegionChangeApply s
  | .wingRoleChange w => Sys2Proof.Machine.execWingRoleChange w s
  | .stepBaseFrame step => Sys2Proof.Machine.execStepBaseFrame step s
  | .stepCommit step => Sys2Proof.Machine.execStepCommit step s
  | .stepReplay step => Sys2Proof.Machine.execStepReplay step s
  | .replayLate step => Sys2Proof.Machine.execReplayLate step s
  | .faultReport code locator detail => Sys2Proof.Machine.execFaultReport code locator detail s
  | .budgetOverrun k locator => Sys2Proof.Machine.execBudgetOverrun k locator s
  | .heartbeat fromHb epoch outSeq => Sys2Proof.Machine.execHeartbeat fromHb epoch outSeq s
  | .digestCompare outSeq digest => Sys2Proof.Machine.execDigestCompare outSeq digest s
  | .digestTimeout outSeq => Sys2Proof.Machine.execDigestTimeout outSeq s
  | .selfcheck activePass standbyPass => Sys2Proof.Machine.execSelfcheck activePass standbyPass s
  | .heartbeatMissing => Sys2Proof.Machine.execHeartbeatMissing s
  | .resyncComplete hb => Sys2Proof.Machine.execResyncComplete hb s
  | .plannedPowerChange u => Sys2Proof.Machine.execPlannedPowerChange u s
  | .powerChangeComplete u => Sys2Proof.Machine.execPowerChangeComplete u s
  | .operatingPointChangeComplete w => Sys2Proof.Machine.execOperatingPointChangeComplete w s
  | .rotationStep b => Sys2Proof.Machine.execRotationStep b s
  | .tileSlice b voltageOk failCell => Sys2Proof.Machine.execTileSlice b voltageOk failCell s
  | .sramSlice b e => Sys2Proof.Machine.execSramSlice b e s
  | .larderSlice d e => Sys2Proof.Machine.execLarderSlice d e s
  | .pantrySlice w e => Sys2Proof.Machine.execPantrySlice w e s
  | .bistRowRepair t => Sys2Proof.Machine.execBistRowRepair t s
  | .scrub b errs => Sys2Proof.Machine.execScrub b errs s
  | .drbgReseed hb pass => Sys2Proof.Machine.execDrbgReseed hb pass s
  | .lockoutEnd => Sys2Proof.Machine.execLockoutEnd s
  | .lifecycleTransition => Sys2Proof.Machine.execLifecycleTransition s
  | .skyMailboxScan c => Sys2Proof.Machine.execSkyMailboxScan c s
  | .loadMatrix c idx => Sys2Proof.Machine.execLoadMatrix c idx s
  | .slotReady c slot => Sys2Proof.Machine.execSlotReady c slot s
  | .score c idx e => Sys2Proof.Machine.execScore c idx e s
  | .skyJobTimeout c => Sys2Proof.Machine.execSkyJobTimeout c s
  | .skyCalibration c => Sys2Proof.Machine.execSkyCalibration c s
  | .skyCalibrationComplete c rms => Sys2Proof.Machine.execSkyCalibrationComplete c rms s
  | .carrierHandover c => Sys2Proof.Machine.execCarrierHandover c s
  | .cmdTimeout c => Sys2Proof.Machine.execCmdTimeout c s
  | .commandDoorbell r v => Sys2Proof.Machine.execCommandDoorbell r v s
  | .commandRingEnable r v => Sys2Proof.Machine.execCommandRingEnable r v s
  | .eventQueueHeadWrite q v => Sys2Proof.Machine.execEventQueueHeadWrite q v s
  | .eventQueueEnable q v => Sys2Proof.Machine.execEventQueueEnable q v s
  | .arm q v => Sys2Proof.Machine.execArm q v s
  | .dmaDoorbell ch v => Sys2Proof.Machine.execDmaDoorbell ch v s
  | .dmaDescriptorComplete ch hostErr ue peer => Sys2Proof.Machine.execDmaDescriptorComplete ch hostErr ue peer s
  | .resume ch => Sys2Proof.Machine.execResume ch s
  | .dmaChannelDisable ch moved => Sys2Proof.Machine.execDmaChannelDisable ch moved s
  | .hatchWrite bytes allEnables peer => Sys2Proof.Machine.execHatchWrite bytes allEnables peer s
  | .hatchRead n ue peer => Sys2Proof.Machine.execHatchRead n ue peer s
  | .hatchErrClear => Sys2Proof.Machine.execHatchErrClear s
  | .registerWrite src sp addr width value => Sys2Proof.Machine.execRegisterWrite src sp addr width value s
  | .bayPowerReq src b on => Sys2Proof.Machine.execBayPowerReq src b on s
  | .eccClr src b => Sys2Proof.Machine.execEccClr src b s
  | .csmPowerReq src c on => Sys2Proof.Machine.execCsmPowerReq src c on s
  | .csmCntClr src c => Sys2Proof.Machine.execCsmCntClr src c s
  | .strCntClr src => Sys2Proof.Machine.execStrCntClr src s
  | .drlCntClr src c => Sys2Proof.Machine.execDrlCntClr src c s
  | .skyCntClr src c => Sys2Proof.Machine.execSkyCntClr src c s
  | .larderEnable src w en => Sys2Proof.Machine.execLarderEnable src w en s
  | .sequencerRun src b => Sys2Proof.Machine.execSequencerRun src b s
  | .descriptorFetch b ue => Sys2Proof.Machine.execDescriptorFetch b ue s
  | .descriptorDispatch b => Sys2Proof.Machine.execDescriptorDispatch b s
  | .descriptorComplete b u cycles => Sys2Proof.Machine.execDescriptorComplete b u cycles s
  | .seqStall b => Sys2Proof.Machine.execSeqStall b s
  | .eventTimeout b => Sys2Proof.Machine.execEventTimeout b s
  | .nop b => Sys2Proof.Machine.execNop b s
  | .matmul b e => Sys2Proof.Machine.execMatmul b e s
  | .attnBlock b e => Sys2Proof.Machine.execAttnBlock b e s
  | .conv b e => Sys2Proof.Machine.execConv b e s
  | .vec b e => Sys2Proof.Machine.execVec b e s
  | .vecMicro b e => Sys2Proof.Machine.execVecMicro b e s
  | .convert b e => Sys2Proof.Machine.execConvert b e s
  | .reduce b e => Sys2Proof.Machine.execReduce b e s
  | .load b e => Sys2Proof.Machine.execLoad b e s
  | .microprogramLoad b e => Sys2Proof.Machine.execMicroprogramLoad b e s
  | .store b e => Sys2Proof.Machine.execStore b e s
  | .select b e => Sys2Proof.Machine.execSelect b e s
  | .send b e => Sys2Proof.Machine.execSend b e s
  | .recv b => Sys2Proof.Machine.execRecv b s
  | .signal b => Sys2Proof.Machine.execSignal b s
  | .waitEvent b => Sys2Proof.Machine.execWaitEvent b s
  | .fence b => Sys2Proof.Machine.execFence b s
  | .frameMark b => Sys2Proof.Machine.execFrameMark b s
  | .add m => Sys2Proof.Machine.execAdd m s
  | .sub m => Sys2Proof.Machine.execSub m s
  | .mul m => Sys2Proof.Machine.execMul m s
  | .fma m => Sys2Proof.Machine.execFma m s
  | .fms m => Sys2Proof.Machine.execFms m s
  | .neg m => Sys2Proof.Machine.execNeg m s
  | .abs m => Sys2Proof.Machine.execAbs m s
  | .min m => Sys2Proof.Machine.execMin m s
  | .max m => Sys2Proof.Machine.execMax m s
  | .clamp m => Sys2Proof.Machine.execClamp m s
  | .floor m => Sys2Proof.Machine.execFloor m s
  | .rint m => Sys2Proof.Machine.execRint m s
  | .rcp m => Sys2Proof.Machine.execRcp m s
  | .div m => Sys2Proof.Machine.execDiv m s
  | .sqrt m => Sys2Proof.Machine.execSqrt m s
  | .rsqrt m => Sys2Proof.Machine.execRsqrt m s
  | .exp2 m => Sys2Proof.Machine.execExp2 m s
  | .log2 m => Sys2Proof.Machine.execLog2 m s
  | .exp m => Sys2Proof.Machine.execExp m s
  | .log m => Sys2Proof.Machine.execLog m s
  | .tanh m => Sys2Proof.Machine.execTanh m s
  | .sigmoid m => Sys2Proof.Machine.execSigmoid m s
  | .erf m => Sys2Proof.Machine.execErf m s
  | .cmplt m => Sys2Proof.Machine.execCmplt m s
  | .cmple m => Sys2Proof.Machine.execCmple m s
  | .cmpeq m => Sys2Proof.Machine.execCmpeq m s
  | .sel m => Sys2Proof.Machine.execSel m s
  | .and m => Sys2Proof.Machine.execAnd m s
  | .or m => Sys2Proof.Machine.execOr m s
  | .xor m => Sys2Proof.Machine.execXor m s
  | .cvti m => Sys2Proof.Machine.execCvti m s
  | .cvtf m => Sys2Proof.Machine.execCvtf m s
  | .rsum m => Sys2Proof.Machine.execRsum m s
  | .rmax m => Sys2Proof.Machine.execRmax m s
  | .rmin m => Sys2Proof.Machine.execRmin m s
  | .perm m => Sys2Proof.Machine.execPerm m s
  | .rotl m => Sys2Proof.Machine.execRotl m s
  | .bcast m => Sys2Proof.Machine.execBcast m s
  | .idx m => Sys2Proof.Machine.execIdx m s
  | .mov m => Sys2Proof.Machine.execMov m s
  | .ldp m => Sys2Proof.Machine.execLdp m s
  | .ldv m => Sys2Proof.Machine.execLdv m s
  | .stv m => Sys2Proof.Machine.execStv m s
  | .gather m => Sys2Proof.Machine.execGather m s
  | .rand m => Sys2Proof.Machine.execRand m s
  | .loop m => Sys2Proof.Machine.execLoop m s
  | .endloop m => Sys2Proof.Machine.execEndloop m s
  | .microHalt m => Sys2Proof.Machine.execMicroHalt m s
  | .identify c => Sys2Proof.Machine.execIdentify c s
  | .podList c => Sys2Proof.Machine.execPodList c s
  | .mgmtRead c => Sys2Proof.Machine.execMgmtRead c s
  | .mgmtWrite c => Sys2Proof.Machine.execMgmtWrite c s
  | .configWrite c => Sys2Proof.Machine.execConfigWrite c s
  | .configRead c => Sys2Proof.Machine.execConfigRead c s
  | .wingRoleSet c => Sys2Proof.Machine.execWingRoleSet c s
  | .regionSet c => Sys2Proof.Machine.execRegionSet c s
  | .regionClear c => Sys2Proof.Machine.execRegionClear c s
  | .halt c => Sys2Proof.Machine.execHalt c s
  | .stepStart c => Sys2Proof.Machine.execStepStart c s
  | .stepAbort c => Sys2Proof.Machine.execStepAbort c s
  | .memFill c => Sys2Proof.Machine.execMemFill c s
  | .memCopy c => Sys2Proof.Machine.execMemCopy c s
  | .larderFlush c => Sys2Proof.Machine.execLarderFlush c s
  | .pantryPublish c => Sys2Proof.Machine.execPantryPublish c s
  | .pantryResolve c => Sys2Proof.Machine.execPantryResolve c s
  | .pantryRelease c => Sys2Proof.Machine.execPantryRelease c s
  | .pantryEvict c => Sys2Proof.Machine.execPantryEvict c s
  | .annexSet c => Sys2Proof.Machine.execAnnexSet c s
  | .annexClear c => Sys2Proof.Machine.execAnnexClear c s
  | .modelLoad c => Sys2Proof.Machine.execModelLoad c s
  | .linkSet c => Sys2Proof.Machine.execLinkSet c s
  | .linkWidth c => Sys2Proof.Machine.execLinkWidth c s
  | .linkRetrain c => Sys2Proof.Machine.execLinkRetrain c s
  | .linkState c => Sys2Proof.Machine.execLinkState c s
  | .laserSet c => Sys2Proof.Machine.execLaserSet c s
  | .laserSwap c => Sys2Proof.Machine.execLaserSwap c s
  | .laserCommission c => Sys2Proof.Machine.execLaserCommission c s
  | .laserThreshSet c => Sys2Proof.Machine.execLaserThreshSet c s
  | .calSet c => Sys2Proof.Machine.execCalSet c s
  | .planLoad c => Sys2Proof.Machine.execPlanLoad c s
  | .planDelta c => Sys2Proof.Machine.execPlanDelta c s
  | .settleSet c => Sys2Proof.Machine.execSettleSet c s
  | .beatRealign c => Sys2Proof.Machine.execBeatRealign c s
  | .skySet c => Sys2Proof.Machine.execSkySet c s
  | .skyCal c => Sys2Proof.Machine.execSkyCal c s
  | .powerPointSet c => Sys2Proof.Machine.execPowerPointSet c s
  | .powerCapSet c => Sys2Proof.Machine.execPowerCapSet c s
  | .unitPower c => Sys2Proof.Machine.execUnitPower c s
  | .tripAck c => Sys2Proof.Machine.execTripAck c s
  | .faultRead c => Sys2Proof.Machine.execFaultRead c s
  | .faultClear c => Sys2Proof.Machine.execFaultClear c s
  | .reactionSet c => Sys2Proof.Machine.execReactionSet c s
  | .fallbackLoad c => Sys2Proof.Machine.execFallbackLoad c s
  | .unfence c => Sys2Proof.Machine.execUnfence c s
  | .faultInject c => Sys2Proof.Machine.execFaultInject c s
  | .authChallenge c => Sys2Proof.Machine.execAuthChallenge c s
  | .authResponse c => Sys2Proof.Machine.execAuthResponse c s
  | .authDrop c => Sys2Proof.Machine.execAuthDrop c s
  | .fwInstall c => Sys2Proof.Machine.execFwInstall c s
  | .lifecycleSet c => Sys2Proof.Machine.execLifecycleSet c s
  | .attest c => Sys2Proof.Machine.execAttest c s
  | .auditRead c => Sys2Proof.Machine.execAuditRead c s
  | .makerTest c => Sys2Proof.Machine.execMakerTest c s
  | .i3cCommandWrite c => Sys2Proof.Machine.execI3cCommandWrite c s
  | .i3cDataAddressWrite da => Sys2Proof.Machine.execI3cDataAddressWrite da s
  | .i3cDataWrite bytes peer => Sys2Proof.Machine.execI3cDataWrite bytes peer s
  | .bypass => Sys2Proof.Machine.execBypass s
  | .idcode => Sys2Proof.Machine.execIdcode s
  | .samplePreload => Sys2Proof.Machine.execSamplePreload s
  | .extest lands => Sys2Proof.Machine.execExtest lands s
  | .scanEn => Sys2Proof.Machine.execScanEn s
  | .scanExit => Sys2Proof.Machine.execScanExit s
  | .trstN low => Sys2Proof.Machine.execTrstN low s
  | .moduleTrainingComplete a mods x32 => Sys2Proof.Machine.execModuleTrainingComplete a mods x32 s
  | .d2dFullResetEnd a cap => Sys2Proof.Machine.execD2dFullResetEnd a cap s
  | .memFillComplete op => Sys2Proof.Machine.execMemFillComplete op s
  | .memCopyComplete op ue peer => Sys2Proof.Machine.execMemCopyComplete op ue peer s
  | .entropySamplePass hb => Sys2Proof.Machine.execEntropySamplePass hb s
  | .vauxWithinTolerance straps => Sys2Proof.Machine.execVauxWithinTolerance straps s
  | .inputPowerRemoved belowMs => Sys2Proof.Machine.execInputPowerRemoved belowMs s
  | .setdasa addr => Sys2Proof.Machine.execSetdasa addr s
  | .entdaa addr => Sys2Proof.Machine.execEntdaa addr s

end Sys2Proof.Machine
end

