-- ==== Sys2Proof/Safety.lean ====
section
/-!
DEFINITION. Sys2Proof/Safety.lean: what counts as a sound state of the package, in the terms the statements use. Every step
from a sound state leads to a sound one.
-/

set_option Elab.async false

namespace Sys2Proof.Machine

/-- The replies remembered for one ring of one origin (R422). -/
def rememberedOf (ds : List Remembered) (o r : Nat) : List Remembered := ds.filter (fun d => d.origin == o && d.ring == r)

/-- What the NV store never loses: the lifetime trip count, both SVN minima, the identity-key counter, the audit sequence and
the repair records (R468, R504, R513, R518). -/
structure NvGrows (a b : NvStore) : Prop where
  trips : a.trips ≤ b.trips
  svnFw : a.svnFw ≤ b.svnFw
  svnCfg : a.svnCfg ≤ b.svnCfg
  nextQ : a.nextQ ≤ b.nextQ
  auditSeq : a.auditSeq ≤ b.auditSeq
  repairs : a.repairs <+: b.repairs

/-- The package is RETIRED, and no transition waits (R513, R515). -/
def State.retired (s : State) : Bool := s.nv.lifecycle == 4 && s.lifePend.isNone

/-- A sound state: every memory and register store is in its canonical form, and every bounded store of the manual holds no
more than its bound. -/
structure Sound (s : State) : Prop where
  mem : s.mem.wf = true
  sram : s.sram.wf = true
  hostMem : s.hostMem.wf = true
  ringMem : s.ringMem.wf = true
  /-- Management registers and bridge registers: no entry at its reset value, addresses rising. -/
  mgmt : sparseWf regReset s.mgmt = true
  hb : sparseWf hbReset s.hb = true
  /-- The NV history holds 256 records (R473). -/
  history : s.nv.history.length ≤ 256
  /-- The audit log keeps its newest 4,096 records (R521). -/
  audit : s.nv.audit.length ≤ 4096
  /-- The repair store holds 8,192 records (R504). -/
  repairs : s.nv.repairs.length ≤ 8192
  /-- A Hearth remembers 256 replies for each ring of each origin (R422). -/
  dups : ∀ o r, (rememberedOf s.dups o r).length ≤ 256
  /-- The fault log uses its 1,024 entries from the first on, each once (R473). -/
  log : s.logOrder.Perm (List.range s.logOrder.length) ∧ s.logOrder.length ≤ 1024

end Sys2Proof.Machine
end

