-- ==== Sys2Proof/Certificates/Slice0/Obligations.lean ====
section
/-!
DEFINITION. Sys2Proof/Certificates/Slice0/Obligations.lean: the statements about the package.
-/

set_option Elab.async false

namespace Sys2Proof.Machine

/-! ## Words the statements use -/

/-- Every byte of stacked memory, bay SRAM, command-ring memory and host memory reads in t as in s. -/
def BytesKept (s t : State) : Prop :=
  ∀ a, memGet t.mem a = memGet s.mem a ∧ memGet t.sram a = memGet s.sram a ∧ memGet t.ringMem a = memGet s.ringMem a ∧
    memGet t.hostMem a = memGet s.hostMem a

/-- The state after the standard wipe of a package reset (R514): stacked memory, bay SRAM, command rings, Larders, Pantries,
queues and bays are empty, every management register but PCH_PCIE and every bridge register is at its reset value, and no
step, command or message is left. The fuses and host memory are kept, and so is the NV store but for the rail latch. -/
structure WipedFrom (s t : State) : Prop where
  mem : ∀ a, memGet t.mem a = 0 ∧ memGet t.sram a = 0 ∧ memGet t.ringMem a = 0
  stores : t.larders = [] ∧ t.pantry = [] ∧ t.leases = [] ∧ ∀ q, t.queue q = Queue.empty
  bays : ∀ b, t.bay b = Bay.init
  regs : ∀ a, a ≠ PCH_PCIE → t.reg a = regReset a
  bridge : ∀ a, t.hreg a = hbReset a
  idle : t.mode = .off ∧ t.steps = [] ∧ t.active = [] ∧ t.outbox = [] ∧ t.logOrder = []
  kept : t.fuse = s.fuse ∧ t.hostMem = s.hostMem ∧ t.pending = s.pending

/-- What a row of a packet that carries a sequence number does with an accepted one. -/
def packetRows (l : LinkId) (p : Packet) (ue : Bool) : List (Instr × Nat × (State → State)) :=
  [(.sendData l p, ptSendData, fun s => s.sendData l.val p),
   (.memRd l p ue, ptMemRd, fun s => s.orRelay l.val p (fun s => s.memRd l.val p ue)),
   (.memWr l p, ptMemWr, fun s => s.orRelay l.val p (fun s => s.memWr l.val p)),
   (.memCpl l p, ptMemCpl, fun s => s.orRelay l.val p (fun s => s.memCpl l.val p))]

/-- Lane i of vector register v of a bay. -/
def State.lane (s : State) (b : BayId) (v i : Nat) : W32 := sparseGet (fun _ => (0 : W32)) (s.bay b).vregs (256 * v + i)

/-- The rounding mode of a micro-op; a code that names none is RNE. -/
def microMode (m : MicroArgs) : RMode := (rmodeOfCode m.rmode.val).getD .rne

/-- A micro-op moves its program on by one and changes, beside that, at most the lanes of its destination, the flags of its vector
unit, which only gain bits, and its generator: no byte of memory, no other register and no other bay. -/
structure MicroFrame (m : MicroArgs) (s t : State) : Prop where
  rest : t = { s with mgmt := t.mgmt, bays := t.bays }
  bays : ∀ b, b ≠ m.bay → t.bay b = s.bay b
  bay : t.bay m.bay = { s.bay m.bay with vregs := (t.bay m.bay).vregs, vctx := { (s.bay m.bay).vctx with pc := (s.bay m.bay).vctx.pc + 1 } }
  lanes : ∀ v i, v ≠ m.d.val → i < 256 → t.lane m.bay v i = s.lane m.bay v i
  regs : ∀ a, a ≠ BAY_VFLAGS m.bay → a ≠ BAY_VSR_STATE m.bay → t.reg a = s.reg a
  flags : ∀ i, wbit (s.reg (BAY_VFLAGS m.bay)) i = true → wbit (t.reg (BAY_VFLAGS m.bay)) i = true

/-- The micro-ops that neither round nor draw: lane i of D from lane i of A, B and C (Table 4-11). -/
def exactMicroOps (m : MicroArgs) : List (Instr × (W32 → W32 → W32 → W32)) :=
  [(.neg m, fun a _ _ => if (laneVal a).isNan then canonNan else a ^^^ 0x80000000),
   (.abs m, fun a _ _ => if (laneVal a).isNan then canonNan else a &&& 0x7FFFFFFF),
   (.min m, fun a b _ => lanePick false a b), (.max m, fun a b _ => lanePick true a b),
   (.clamp m, fun a b c => lanePick false (lanePick true a b) c),
   (.cmplt m, fun a b _ => if valLt (laneVal a) (laneVal b) && !valEq (laneVal a) (laneVal b) then 0x3F800000 else 0),
   (.cmple m, fun a b _ => if valLt (laneVal a) (laneVal b) || valEq (laneVal a) (laneVal b) then 0x3F800000 else 0),
   (.cmpeq m, fun a b _ => if valEq (laneVal a) (laneVal b) then 0x3F800000 else 0),
   (.sel m, fun a b c => if c &&& 0x7FFFFFFF = 0 then b else a),
   (.and m, fun a b _ => a &&& b), (.or m, fun a b _ => a ||| b), (.xor m, fun a b _ => a ^^^ b), (.mov m, fun a _ _ => a)]

/-- The micro-ops that compute one value a lane and may set flags. -/
def roundingMicroOps (m : MicroArgs) : List (Instr × (LaneCtx → W32 → W32 → W32 → W32 × Flags)) :=
  [(.add m, fun x a b _ => addLane x (laneVal a) (laneVal b)), (.sub m, fun x a b _ => addLane x (laneVal a) (laneVal b).neg),
   (.mul m, fun x a b _ => mulLane x (laneVal a) (laneVal b)),
   (.fma m, fun x a b c => fmaLane x (laneVal a) (laneVal b) (laneVal c)),
   (.fms m, fun x a b c => fmaLane x (laneVal a) (laneVal b) (laneVal c).neg),
   (.floor m, fun _ a _ _ => floorLane a), (.rint m, fun x a _ _ => rintLane x a), (.rcp m, fun x a _ _ => rcpLane x a),
   (.div m, fun x a b _ => divLane x (laneVal a) (laneVal b)), (.sqrt m, fun x a _ _ => sqrtLane x (laneVal a)),
   (.rsqrt m, fun x a _ _ => rsqrtLane x a), (.exp2 m, fun x a _ _ => expLane 0x10 x a), (.exp m, fun x a _ _ => expLane 0x11 x a),
   (.log2 m, fun x a _ _ => logLane 0x12 x a), (.log m, fun x a _ _ => logLane 0x13 x a),
   (.tanh m, fun x a _ _ => curveLane 0x14 x a), (.sigmoid m, fun x a _ _ => curveLane 0x15 x a),
   (.erf m, fun x a _ _ => curveLane 0x16 x a), (.cvti m, fun x a _ _ => cvtiLane x a), (.cvtf m, fun x a _ _ => cvtfLane x a)]

/-- The micro-ops that move or reduce whole registers: lane i of D from the lanes of A, the lanes of B and i (Table 4-11). -/
def acrossMicroOps (m : MicroArgs) (s : State) : List (Instr × (Nat → W32)) :=
  let a := fun (i : Nat) => s.lane m.bay m.a.val i
  [(.perm m, fun i => a ((s.lane m.bay m.b.val i).toNat % 256)), (.rotl m, fun i => a ((i + m.imm.val) % 256)),
   (.bcast m, fun _ => a (m.imm.val % 256)), (.idx m, fun i => BitVec.ofNat 32 i),
   (.ldp m, fun _ => (s.bay m.bay).vctx.params.getD m.imm.val 0),
   (.rmax m, fun _ => (List.range 256).foldl (fun acc i => lanePick true acc (a i)) (a 0)),
   (.rmin m, fun _ => (List.range 256).foldl (fun acc i => lanePick false acc (a i)) (a 0))]

/-- The generator after n steps. -/
def genAfter : Nat → W32 → W32
  | 0, g => g
  | n + 1, g => genAfter n (srStep g)

/-- A unit's descriptor runs with nothing but its arithmetic happening to it. -/
def quietUnit : UnitEnv := { sram := [], mem := [], fault := none }

/-- The rows of the descriptors that one unit runs, with that unit and the descriptor type. -/
def unitRows (b : BayId) (e : UnitEnv) : List (Instr × UnitKind × Nat) :=
  [(.matmul b e, .matrix, 0x01), (.conv b e, .matrix, 0x03), (.vec b e, .vector, 0x10), (.vecMicro b e, .vector, 0x11),
   (.convert b e, .data, 0x20), (.reduce b e, .data, 0x21), (.load b e, .data, 0x22), (.microprogramLoad b e, .data, 0x22),
   (.store b e, .data, 0x23), (.select b e, .data, 0x24), (.send b e, .exchange, 0x30), (.recv b, .exchange, 0x31)]

/-- The descriptors that touch nothing but their bay: row, unit, type, and that the operands of q are such that it runs (a mask or format
that is not is malformed). -/
def localRows (s : State) (b : BayId) (q : Queued) : List (Instr × UnitKind × Nat × Prop) :=
  [(.matmul b quietUnit, .matrix, 0x01, ∃ fa fb out, (matmulOf q.d).fa = some fa ∧ (matmulOf q.d).fb = some fb ∧
      (matmulOf q.d).out = some out ∧ (matmulOf q.d).startBad (s.sramByte b) fb = false),
   (.conv b quietUnit, .matrix, 0x03, (convOf q.d).fin ≠ none ∧ (convOf q.d).fwt ≠ none ∧ (convOf q.d).out ≠ none),
   (.vec b quietUnit, .vector, 0x10, (vecOf q.d).fa ≠ none ∧ (vecOf q.d).fb ≠ none ∧ (vecOf q.d).fd ≠ none),
   (.convert b quietUnit, .data, 0x20, (convertOf q.d).fs ≠ none ∧ (convertOf q.d).fd ≠ none),
   (.reduce b quietUnit, .data, 0x21, (reduceOf q.d).fs ≠ none ∧ (reduceOf q.d).fd ≠ none)]

/-- Element j of an FP32 buffer of a bay. -/
def State.elem32 (s : State) (b : BayId) (a j : Nat) : W32 := BitVec.ofNat 32 (elemAt (s.sramByte b) .fp32 a j)

/-- A command of opcode op that its channel can bring, that is no duplicate and waits for no reply, whose checks pass, and that runs at this
package (R422, R425). -/
structure TakesCommand (c : Cmd) (op : Nat) (s : State) : Prop where
  opcode : c.opcode = op
  taken : s.canTake c = true
  fresh : ∀ d ∈ (s.unqueue c).dups, ¬(d.tag = c.tag ∧ d.origin = originOf s c ∧ d.ring = c.ringId)
  idle : ∀ a, (s.unqueue c).activeOf c.tag (originOf s c) c.ringId = some a → a.sent = false ∨ a.dead = true
  checked : (s.unqueue c).precheck c = none
  here : c.target = 0xFFF ∨ isForwarded c = true ∨ (s.unqueue c).isSelf c.target = true

/-- The rows of the command opcodes, with what a command of each does once its checks have passed. -/
def CommandRow (c : Cmd) (i : Instr) (op : Nat) (body : State → State) : Prop :=
  (i, op, body) ∈ ([(.identify c, 0x001, fun s => s.identify c), (.podList c, 0x002, fun s => s.podList c), (.mgmtRead c, 0x003, fun s => s.mgmtReadCmd c),
   (.mgmtWrite c, 0x101, fun s => s.mgmtWriteCmd c), (.configWrite c, 0x110, fun s => s.configWrite c),
   (.configRead c, 0x111, fun s => s.configRead c), (.wingRoleSet c, 0x120, fun s => s.roleSet c),
   (.regionSet c, 0x130, fun s => s.regionSet c), (.regionClear c, 0x131, fun s => s.regionClear c), (.halt c, 0x201, fun s => s.halt c),
   (.stepStart c, 0x210, fun s => s.stepStart c), (.stepAbort c, 0x211, fun s => s.stepAbort c),
   (.memFill c, 0x301, fun s => s.addOp c 0 (c.pf 0 47 0) (c.pf 1 39 0) (c.p 2)),
   (.memCopy c, 0x302, fun s => s.addOp c (c.pf 0 47 0) (c.pf 1 47 0) (c.pf 2 39 0) 0),
   (.larderFlush c, 0x310, fun s => s.larderFlush c), (.pantryPublish c, 0x330, fun s => s.pantryPublish c),
   (.pantryResolve c, 0x331, fun s => s.pantryResolve c), (.pantryRelease c, 0x332, fun s => s.pantryRelease c),
   (.pantryEvict c, 0x333, fun s => s.pantryEvict c), (.annexSet c, 0x340, fun s => s.annexSet c),
   (.annexClear c, 0x341, fun s => s.annexClear c), (.modelLoad c, 0x350, fun s => s.modelLoad c),
   (.linkSet c, 0x410, fun s => s.linkSet c), (.linkWidth c, 0x411, fun s => s.linkWidth c),
   (.linkRetrain c, 0x412, fun s => s.linkRetrain c), (.linkState c, 0x413, fun s => s.linkStateSet c),
   (.laserSet c, 0x420, fun s => s.laserSet c), (.laserSwap c, 0x421, fun s => s.laserSwap c),
   (.laserCommission c, 0x422, fun s => s.laserCommission c), (.laserThreshSet c, 0x423, fun s => s.threshSet c),
   (.calSet c, 0x424, fun s => s.calSet c), (.planLoad c, 0x430, fun s => s.planLoad c), (.planDelta c, 0x431, fun s => s.planDelta c),
   (.settleSet c, 0x432, fun s => s.settleSet c), (.beatRealign c, 0x433, fun s => s.beatRealign c),
   (.skySet c, 0x440, fun s => s.skySet c), (.skyCal c, 0x441, fun s => s.skyCalCmd c), (.powerPointSet c, 0x501, fun s => s.pointSet c),
   (.powerCapSet c, 0x502, fun s => s.capSet c), (.unitPower c, 0x510, fun s => s.unitPower c), (.tripAck c, 0x520, fun s => s.tripAck c),
   (.faultRead c, 0x601, fun s => s.faultRead c), (.faultClear c, 0x602, fun s => s.faultClear c),
   (.reactionSet c, 0x610, fun s => s.reactionSet c), (.fallbackLoad c, 0x620, fun s => s.fallbackLoad c),
   (.unfence c, 0x630, fun s => s.unfenceCmd c), (.faultInject c, 0x6F0, fun s => s.faultInject c),
   (.authChallenge c, 0x701, fun s => s.authChallenge c), (.authResponse c, 0x702, fun s => s.authResponse c),
   (.authDrop c, 0x703, fun s => s.authDrop c), (.fwInstall c, 0x710, fun s => s.fwInstall c),
   (.lifecycleSet c, 0x720, fun s => s.lifecycleSet c), (.attest c, 0x730, fun s => s.attest c), (.auditRead c, 0x740, fun s => s.auditRead c)] : List (Instr × Nat × (State → State)))

/-- A change that a command asked for and that takes effect at the next boundary. -/
def plainChange (x : RegionChange) (c : Cmd) (s : State) : PendingChange :=
  { change := x, opcode := c.opcode, tag := c.tag, origin := originOf s c, ring := c.ringId, deferred := false }

end Sys2Proof.Machine

open Sys2Proof Sys2Proof.Machine

/-! ## The machine -/

/-- A step takes the command at the front of the queue and runs it with the queue's rest. -/
def Obligations.StepRunsFrontCommand : Prop :=
  ∀ (c : Instr) (rest : List Instr) (s : State),
    step { s with pending := c :: rest } = exec c { s with pending := rest }

/-- With no command waiting the block idles: the model's choice (log entry 1). -/
def Obligations.EmptyQueueIdles : Prop := ∀ s : State, s.pending = [] → step s = .next s

/-- Right after reset every register reads the reset value of its register table, every byte reads 0, the queue is empty, and
nothing runs. -/
def Obligations.ResetStateIsTheTables : Prop :=
  WipedFrom State.reset State.reset ∧ State.reset.pending = [] ∧ State.reset.reg PCH_PCIE = regReset PCH_PCIE

def Obligations.ResetStateIsSound : Prop := Sound State.reset

/-- From every sound state each step leads to a sound one: stores stay in canonical form and bounded stores within the bounds
of R422, R473, R504 and R521. -/
def Obligations.StepKeepsSoundness : Prop := ∀ s t : State, Sound s → step s = .next t → Sound t

/-- A step takes exactly the front command off the queue, and nothing changes a fuse. -/
def Obligations.StepKeepsQueueRestAndFuses : Prop :=
  ∀ s t : State, step s = .next t → t.pending = s.pending.tail ∧ t.fuse = s.fuse

/-- No command faults, and every command but MAKER_TEST and a command packet on the I3C channel answers a next state in every
state. -/
def Obligations.CommandsAnswerNextState : Prop :=
  ∀ (i : Instr) (s : State),
    (∀ f, exec i s ≠ .fault f) ∧
    ((∀ c, i ≠ .makerTest c) → (∀ c, i ≠ .i3cCommandWrite c) → ∃ t, exec i s = .next t ∧ t.pending = s.pending)

/-- MAKER_TEST is refused exactly where it would act: its effect is no part of the manual (R432). -/
def Obligations.MakerTestStopsWhereItWouldAct : Prop :=
  ∀ (c : Cmd) (s : State),
    (s.makerActs c = true → exec (.makerTest c) s = .refused .makerTestUnspecified) ∧
    (s.makerActs c = false → ∃ t, exec (.makerTest c) s = .next t)

/-! ## Resets and start-up -/

/-- RESET_N for 10 us or more, PWRGOOD low for 1 us or more, and a PACKAGE_RESET reaction that is due wipe the package and
leave the NV store; shorter pulses change nothing (R545). -/
def Obligations.ResetsWipeThePackage : Prop :=
  ∀ (ns : Nat) (s : State),
    (10000 ≤ ns → ∃ t, exec (.resetN ns) s = .next t ∧ WipedFrom s t ∧ t.nv = s.nv ∧ t.resetLow = true) ∧
    (ns < 10000 → exec (.resetN ns) s = .next s) ∧
    (1000 ≤ ns → ∃ t, exec (.pwrgoodDeassert ns) s = .next t ∧ WipedFrom s t ∧ t.nv = s.nv) ∧
    (ns < 1000 → exec (.pwrgoodDeassert ns) s = .next s) ∧
    (s.resetPend = true → ∃ t, exec .packageReset s = .next t ∧ WipedFrom s t ∧ t.nv = s.nv) ∧
    (s.resetPend = false → exec .packageReset s = .next s)

/-- An input rail below 90% of its nominal value for 1 us resets the package, and the rail is latched for the next boot unless
it is VAUX (R456). -/
def Obligations.RailUndervoltageResets : Prop :=
  ∀ (rail : Fin 5) (mv ns : Nat) (s : State),
    let nominal := [1800, 1100, 1200, 3300, 1200].getD rail.val 0
    (1000 ≤ ns → 10 * mv < 9 * nominal → ∃ t, exec (.railUndervoltage rail mv ns) s = .next t ∧ WipedFrom s t ∧
      t.nv = (if rail = 4 then s.nv else { s.nv with uvRail := rail.val + 1 })) ∧
    (ns < 1000 ∨ 9 * nominal ≤ 10 * mv → exec (.railUndervoltage rail mv ns) s = .next s)

/-- A tripped package stays clamped until input power has been removed for 100 ms (R467, R544). -/
def Obligations.TripClampHoldsUntilPowerIsRemoved : Prop :=
  (∀ (i : Instr) (s t : State), s.clamped = true → (∀ ms, 100 ≤ ms → i ≠ .inputPowerRemoved ms) → exec i s = .next t →
    t.clamped = true) ∧
  (∀ (ms : Nat) (s : State), 100 ≤ ms → ∃ t, exec (.inputPowerRemoved ms) s = .next t ∧ t.clamped = false ∧
    (∀ a, memGet t.mem a = 0 ∧ memGet t.sram a = 0) ∧ t.mode = .off ∧ t.nv.trips = s.nv.trips ∧ t.nv.trip = s.nv.trip) ∧
  (∀ (ms : Nat) (s : State), ms < 100 → exec (.inputPowerRemoved ms) s = .next s)

/-- Nothing takes away from the NV store the lifetime trip count, the SVN minima, the identity-key counter, the audit sequence or
a repair record (R468, R504, R513). -/
def Obligations.NvStoreOnlyGrows : Prop := ∀ s t : State, step s = .next t → NvGrows s.nv t.nv

/-- RETIRED is final (R513): no step leaves it. -/
def Obligations.RetiredIsFinal : Prop :=
  ∀ s t : State, s.nv.lifecycle = 4 → s.lifePend = none → step s = .next t → t.nv.lifecycle = 4 ∧ t.lifePend = none

/-! ## The sideband port group -/

/-- What the JTAG instructions of R506 do while TRST_N is high: nothing but the TAP changes, IDCODE is the word of R506, and
EXTEST drives lands only while RESET_N is asserted. While TRST_N is low they do nothing. SCAN_EN enables internal scan only
where SEC_STATUS.KEYS reads ZERO, and writes the audit record SCAN_ENTER; otherwise it acts as BYPASS. SCAN_EXIT, TRST_N low
and the removal of input power leave scan: the package is wiped, and SCAN_EXIT waits for the next boot (R507). -/
def Obligations.JtagInstructionsAndScan : Prop :=
  (∀ (lands : List Bool) (s : State),
     (s.jtag.trst = false →
       exec .bypass s = .next { s with jtag := { s.jtag with ir := .bypass, tdo := 0 } } ∧
       (∃ code, exec .idcode s = .next { s with jtag := { s.jtag with ir := .idcode, tdo := code } } ∧
         code / 2 ^ 28 = s.fuse.rev % 16 ∧ code / 2 ^ 12 % 2 ^ 16 = 0x4812 ∧ code / 2 % 2 ^ 11 = Config.jedecCode.toNat ∧
         code % 2 = 1) ∧
       (∃ v, exec .samplePreload s = .next { s with freeCtr := s.freeCtr + 1, jtag := { s.jtag with ir := .sample, tdo := v } }) ∧
       exec (.extest lands) s =
         (if s.resetLow then .next { s with jtag := { s.jtag with ir := .extest, drive := lands } } else exec .bypass s)) ∧
     (s.jtag.trst = true →
       exec .bypass s = .next s ∧ exec .idcode s = .next s ∧ exec .samplePreload s = .next s ∧
       exec (.extest lands) s = .next s ∧ exec .scanEn s = .next s ∧ exec .scanExit s = .next s)) ∧
  (∀ (s : State),
     (s.jtag.trst = false → s.rf SEC_STATUS SEC_STATUS_KEYS ≠ 2 → exec .scanEn s = exec .bypass s) ∧
     (s.jtag.trst = false → s.mode ≠ .off → s.rf SEC_STATUS SEC_STATUS_KEYS = 2 → ∃ t, exec .scanEn s = .next t ∧
       t.jtag = { s.jtag with ir := .scan, scan := true } ∧ t.nv.auditSeq = s.nv.auditSeq + 1 ∧ t.mem = s.mem ∧
       ∃ r, t.nv.audit.getLast? = some r ∧ getField (r.getD 0 0) (bits 7 4) = 6) ∧
     (s.jtag.scan = true → s.jtag.trst = false → ∃ t, exec .scanExit s = .next t ∧ WipedFrom s t ∧ t.jtag.scan = false ∧
       t.nv = { s.nv with scanExit := true }) ∧
     (s.jtag.scan = true → ∃ t, exec (.trstN true) s = .next t ∧ WipedFrom s t ∧ t.jtag.scan = false ∧ t.jtag.trst = true ∧
       t.nv = { s.nv with scanExit := true }) ∧
     (s.jtag.scan = false → exec (.trstN true) s = .next { s with jtag := { s.jtag with ir := .idcode, trst := true } }) ∧
     exec (.trstN false) s = .next { s with jtag := { s.jtag with trst := false } })

/-! ## The Beat -/

/-- ELECT ends (R303): the winning candidate becomes MASTER and keeps its counter; a package that hears a master and reaches a
reference steps once to the reference's counter and enters ALIGNING; one that hears nothing usable returns to ACQUIRE. -/
def Obligations.ElectEndsInMasterAligningOrAcquire : Prop :=
  ∀ (s : State), s.beatState = btElect → s.rf STR_CFG STR_CFG_ELECT_FRAMES ≤ s.framesSince s.beat.since →
    let wins := s.candidate && !s.beat.heard.any (fun h => s.heardNow h && (h.master ||
      (h.candidate && h.pkg != 0 && decide (h.pkg < s.pkg))))
    (wins = true → ∃ t, exec .electEnd s = .next t ∧ t.beatState = btMaster ∧ t.rf STR_BEAT STR_BEAT_MASTER_ID = s.pkg ∧
      t.rf STR_BEAT STR_BEAT_STRATUM = 0 ∧ t.frame = s.frame ∧ BytesKept s t) ∧
    (wins = false → s.masterHeard = none → ∃ t, exec .electEnd s = .next t ∧ t.beatState = btAcquire ∧ t.frame = s.frame ∧
      BytesKept s t) ∧
    (∀ m h stratum, wins = false → s.masterHeard = some m → s.reference m = some (h, stratum) →
      ∃ t, exec .electEnd s = .next t ∧ t.beatState = btAligning ∧ t.frame = (s.frame + h.delta) % 2 ^ 48 ∧
        t.rf STR_BEAT STR_BEAT_MASTER_ID = m % 2 ^ 12 ∧ t.rf STR_BEAT STR_BEAT_REF_ID = h.pkg % 2 ^ 12 ∧
        t.rf STR_BEAT STR_BEAT_STRATUM = stratum % 4 ∧ BytesKept s t)

/-- HOLDOVER (R307): ALIGNED and no usable exchange for HOLD_FRAMES frames. The counter does not step; a new reference is taken
where one is in reach, and otherwise the lowest candidate announces itself 16 frames ahead. A package without a reference 1,024
frames later becomes UNALIGNED, and then its optical links go down. -/
def Obligations.HoldoverKeepsTheCounter : Prop :=
  ∀ (s : State),
    (s.beatState = btAligned → s.rf STR_CFG STR_CFG_HOLD_FRAMES ≤ s.framesSince s.beat.lastRef →
      ∃ t, exec .holdover s = .next t ∧ t.beatState = btHoldover ∧ t.frame = s.frame ∧ t.beat.since = s.frame ∧ BytesKept s t ∧
        t.rf STR_BEAT STR_BEAT_MASTER_ID = s.rf STR_BEAT STR_BEAT_MASTER_ID) ∧
    (s.beatState ≠ btAligned ∨ s.framesSince s.beat.lastRef < s.rf STR_CFG STR_CFG_HOLD_FRAMES → exec .holdover s = .next s) ∧
    (s.beatState = btHoldover → 1024 ≤ s.framesSince s.beat.since →
      ∃ u : State, exec .holdoverExpiry s = .next u.beatLinksDown ∧ u.beatState = btUnaligned ∧ u.rf STR_BEAT STR_BEAT_STRATUM = 3 ∧
        u.frame = s.frame) ∧
    (s.beatState ≠ btHoldover ∨ s.framesSince s.beat.since < 1024 → exec .holdoverExpiry s = .next s)

/-- Handover (R308): a master names the lowest candidate with a lower ID that has been ALIGNED for 1,024 frames, 64 frames ahead; at
that frame the newcomer is MASTER, the former master enters ALIGNING toward it, every other package takes its ID, and no counter
steps. A package whose handover is pending announces no other. -/
def Obligations.HandoverMovesTheMasterRole : Prop :=
  ∀ (s : State),
    (∀ h, s.beatState = btMaster → s.beat.handover = none →
      lowestHeard (s.beat.heard.filter (fun h => s.heardNow h && h.candidate && decide (h.pkg < s.pkg) && h.pkg != 0 &&
        (match h.alignedAt with | some a => decide (1024 ≤ s.framesSince a) | none => false))) = some h →
      ∃ t, exec .handoverAnnounce s = .next t ∧ t.beat.handover = some ((s.frame + 64) % 2 ^ 48, h.pkg) ∧
        (∀ a, t.reg a = s.reg a) ∧ BytesKept s t) ∧
    (s.beatState ≠ btMaster ∨ s.beat.handover ≠ none → exec .handoverAnnounce s = .next s) ∧
    (∀ f p, s.beat.handover = some (f, p) → frameReached s.frame f = true →
      ∃ t, exec .beatHandover s = .next t ∧ t.beat.handover = none ∧ t.frame = s.frame ∧ BytesKept s t ∧
        t.rf STR_BEAT STR_BEAT_MASTER_ID = p % 2 ^ 12 ∧
        t.beatState = (if p = s.pkg then btMaster else if s.beatState = btMaster then btAligning else s.beatState)) ∧
    (∀ f p, s.beat.handover = some (f, p) → frameReached s.frame f = false → exec .beatHandover s = .next s)

/-- A timing record of another pod changes no Beat state: on a fibre the fibre's WRONG_PEER count rises by one, on a DARARN_E
link nothing changes. One of this pod starts ELECT in ACQUIRE, and its sender is among those heard. A record of an unknown
version, or in mode off, does nothing. FSYNC_IN disciplines the frame phase of a package that has no enabled optical fibre
pair and FSYNC_SRC = 1 (R310): the phase less STR_CFG.FSYNC_DELAY joins the filter of the last 8 offsets. With FSYNC_SRC = 0
it is ignored. A package with an optical pair ignores it too, and the second edge of a reset changes nothing. -/
def Obligations.TimingRecordsAndFsyncAreHeard : Prop :=
  (∀ (c : Casement) (f : Fibre) (j : Fin 8) (r : TimingRec) (s : State),
     (s.mode ≠ .off → getField r.w0 (bits 3 0) = 1 → Rec.pod r ≠ s.rf HRT_PKGID HRT_PKGID_POD_ID →
       exec (.timingRecord (.porch j) r) s = .next s ∧
       ∃ t, exec (.timingRecord (.fibre c f) r) s = .next t ∧ t.beat = s.beat ∧ t.beatState = s.beatState ∧
         t.frame = s.frame ∧ BytesKept s t ∧ t.rf (STR_FERR c.val f.val) STR_FERR_WRONG_PEER =
           min (s.rf (STR_FERR c.val f.val) STR_FERR_WRONG_PEER + 1) (2 ^ STR_FERR_WRONG_PEER.width - 1)) ∧
     (s.mode ≠ .off → getField r.w0 (bits 3 0) = 1 → Rec.pod r = s.rf HRT_PKGID HRT_PKGID_POD_ID → s.fsyncOn = true →
       s.beatState = btAcquire → Rec.handover r = false → ∃ t, exec (.timingRecord (.porch j) r) s = .next t ∧
         t.beatState = btElect ∧ t.beat.since = s.frame ∧ t.frame = s.frame ∧ BytesKept s t ∧
         ∃ h ∈ t.beat.heard, h.pkg = Rec.pkg r ∧ h.frame = s.frame ∧ h.candidate = Rec.candidate r) ∧
     (s.mode = .off ∨ getField r.w0 (bits 3 0) ≠ 1 → exec (.timingRecord (.fibre c f) r) s = .next s ∧
       exec (.timingRecord (.porch j) r) s = .next s)) ∧
  (∀ (phase : Int) (high : Nat) (s : State),
     (s.rf STR_CFG STR_CFG_FSYNC_SRC = 0 → exec (.fsyncInEdge phase high) s = .next s) ∧
     (s.opticalOn = true → s.beat.fsyncNoted = true → exec (.fsyncInEdge phase high) s = .next s) ∧
     (s.rf STR_CFG STR_CFG_FSYNC_SRC ≠ 0 → s.opticalOn = true → s.beat.fsyncNoted = false →
       ∃ t, exec (.fsyncInEdge phase high) s = .next t ∧ t.beat.fsyncNoted = true ∧ t.beat.offsets = s.beat.offsets) ∧
     (s.rf STR_CFG STR_CFG_FSYNC_SRC ≠ 0 → s.opticalOn = false → -80 ≤ phase → phase ≤ 80 →
       (s.beatState = btAligning ∨ s.beatState = btAligned ∨ s.beatState = btHoldover) →
       ∃ t, exec (.fsyncInEdge phase high) s = .next t ∧ BytesKept s t ∧ t.frame = s.frame ∧ t.beat.lastRef = s.frame ∧
         t.beat.offsets = ((phase - 4 * s.rf STR_CFG STR_CFG_FSYNC_DELAY) :: s.beat.offsets).take 8 ∧
         (s.beatState = btHoldover → t.beatState = btAligned) ∧ (s.beatState = btAligned → t.beatState = btAligned)))

/-! ## Lasers, rings and meshes -/

/-- An Attic swap goes stage by stage (R269, R270): at output the sweep starts, the sweep stops at the channel, the laser is
VERIFIED where its own tone alone was found, and it is matched to the commissioned output of the grid laser. A failed
verification sweeps again until the third. Outside its stage each event changes nothing. ATTIC_SWITCH_IN: of the swaps that
are ready, that of the lowest channel takes effect: the channel's source is the Attic laser and its state ATTIC, the laser
SERVES the channel, the swap is over and SWAP_COUNT rises. With no swap ready nothing changes (R271, R272). The clause is for
a channel that its grid laser served until now. -/
def Obligations.AtticSwapGoesStageByStage : Prop :=
  (∀ (c : Casement) (a : Fin 4) (tones : List (Fin 4)) (w : Swap) (s : State), s.swapOf c.val a.val = some w →
     (w.stage = 0 → ∃ t, exec (.atticAtOutput c a) s = .next t ∧ t.attic c.val a.val = atTuning ∧
       (t.swapOf c.val a.val).map Swap.stage = some 1 ∧ BytesKept s t) ∧
     (w.stage ≠ 0 → exec (.atticAtOutput c a) s = .next s) ∧
     (w.stage = 1 → ∃ t, exec (.atticSweepStop c a) s = .next t ∧ (∀ r, t.reg r = s.reg r) ∧
       (t.swapOf c.val a.val).map Swap.stage = some 2 ∧ BytesKept s t) ∧
     (w.stage ≠ 1 → exec (.atticSweepStop c a) s = .next s) ∧
     (w.stage = 2 → tones ≠ [] → (∀ x ∈ tones, x = a) → ∃ t, exec (.atticVerifyEnd c a tones) s = .next t ∧
       t.attic c.val a.val = atVerified ∧ (t.swapOf c.val a.val).map Swap.stage = some 3 ∧
       t.rf (LSR_ATTIC c.val a.val) LSR_ATTIC_VERIFY_FAILS = 0 ∧ BytesKept s t) ∧
     (w.stage = 2 → (tones = [] ∨ ∃ x ∈ tones, x ≠ a) → s.rf (LSR_ATTIC c.val a.val) LSR_ATTIC_VERIFY_FAILS < 2 →
       ∃ t, exec (.atticVerifyEnd c a tones) s = .next t ∧ (t.swapOf c.val a.val).map Swap.stage = some 1 ∧
         t.attic c.val a.val = s.attic c.val a.val ∧
         t.rf (LSR_ATTIC c.val a.val) LSR_ATTIC_VERIFY_FAILS = s.rf (LSR_ATTIC c.val a.val) LSR_ATTIC_VERIFY_FAILS + 1) ∧
     (w.stage ≠ 2 → exec (.atticVerifyEnd c a tones) s = .next s) ∧
     (w.stage = 3 → ∃ t, exec (.atticMatched c a) s = .next t ∧ (t.swapOf c.val a.val).map Swap.stage = some 4 ∧
       t.rf (LSR_ATTIC c.val a.val) LSR_ATTIC_OUT_PWR = s.rf (LSR_COMM c.val w.chan) LSR_COMM_COMM_PWR ∧ BytesKept s t) ∧
     (w.stage ≠ 3 → exec (.atticMatched c a) s = .next s)) ∧
  (∀ (c : Casement) (s : State),
     (lowestReady (s.csm c.val).swaps = none → exec (.atticSwitchIn c) s = .next s) ∧
     (∀ w, lowestReady (s.csm c.val).swaps = some w → w.chan < 18 → w.attic < 4 → s.chan c.val w.chan ≠ chDown →
       s.rf (LSR_GRID c.val w.chan) LSR_GRID_SOURCE < 4 →
       ∃ t, exec (.atticSwitchIn c) s = .next t ∧ t.rf (LSR_GRID c.val w.chan) LSR_GRID_SOURCE = 4 + w.attic ∧
         t.chan c.val w.chan = chAttic ∧ t.attic c.val w.attic = atServing ∧
         t.rf (LSR_ATTIC c.val w.attic) LSR_ATTIC_CHANNEL = w.chan ∧ (t.swapOf c.val w.attic) = none ∧
         (t.csm c.val).dark = some w.chan ∧ BytesKept s t))

/-- A laser that has ramped down or turned on and whose change no command and no later request waits for: the change is over, a grid
laser that was OFF is LIT when it has turned on, a carrier is STANDBY; an event with no such change under way does nothing (R291,
R292). -/
def Obligations.LaserChangesComplete : Prop :=
  ∀ (c : Casement) (n : Laser) (s : State),
    (s.powerJob (laserLoc c.val n.val) = none → exec (.laserTurnOnComplete c n) s = .next s ∧
      exec (.laserRampDownComplete c n) s = .next s) ∧
    (∀ j, s.powerJob (laserLoc c.val n.val) = some j → j.unit = laserLoc c.val n.val →
      (j.on = false → exec (.laserTurnOnComplete c n) s = .next s) ∧
      (j.on = true → exec (.laserRampDownComplete c n) s = .next s) ∧
      (j.on = true → j.next = none → j.cmd = none → 22 ≤ n.val → ∃ t, exec (.laserTurnOnComplete c n) s = .next t ∧
        t.carrier c.val (n.val - 22) = crStandby ∧ t.powerJob (laserLoc c.val n.val) = none ∧ BytesKept s t) ∧
      (j.on = false → j.next = none → j.cmd = none → 22 ≤ n.val → ∃ t, exec (.laserRampDownComplete c n) s = .next t ∧
        t.carrier c.val (n.val - 22) = crFenced ∧ (c.val, n.val) ∈ t.nv.grids ∧
        t.powerJob (laserLoc c.val n.val) = none ∧ BytesKept s t))

/-- A ring loop goes from COLD to SWEEP, from a captured resonance to VERIFY with its heater code, and from a verified tone of
its own channel to LOCKED; a capture that is missed, or another channel's tone, is a MISLOCK that corrects XCOUNT and starts
from COLD, until the third (R281, R282, R284). A ring in another state keeps it. Only a LOCKED ring loses its lock, and a
locker ring that does so starts from COLD and carries no lane (R285). A tone audit looks at the LOCKED ring that is next, at
every 250th frame: its own tone moves the audit on and leaves every other register alone. -/
def Obligations.RingLoopsLockMislockAndLoseLock : Prop :=
  (∀ (c : Casement) (r : RingLoop) (h : BitVec 16) (k : Channel) (s : State),
     let a := ringReg c.val r.val
     (s.ring c.val r.val = rgCold → ∃ t, exec (.ringColdEnd c r) s = .next t ∧ t.ring c.val r.val = rgSweep ∧ BytesKept s t ∧
       ∀ b, b ≠ a → t.reg b = s.reg b) ∧
     (s.ring c.val r.val ≠ rgCold → exec (.ringColdEnd c r) s = .next s) ∧
     (s.ring c.val r.val = rgSweep → ∃ t, exec (.ringSweepCapture c r true h) s = .next t ∧ t.ring c.val r.val = rgVerify ∧
       t.rf a TUN_RING_HEATER = h.toNat ∧ ∀ b, b ≠ a → t.reg b = s.reg b) ∧
     (s.ring c.val r.val = rgSweep → s.rf a TUN_RING_ATTEMPT < 2 → ∃ t, exec (.ringSweepCapture c r false h) s = .next t ∧
       t.ring c.val r.val = rgCold ∧ t.rf a TUN_RING_ATTEMPT = s.rf a TUN_RING_ATTEMPT + 1 ∧
       t.rf a TUN_RING_XCOUNT = (s.rf a TUN_RING_XCOUNT + 1) % 2 ^ TUN_RING_XCOUNT.width ∧ ∀ b, b ≠ a → t.reg b = s.reg b) ∧
     (s.ring c.val r.val ≠ rgSweep → ∀ b, exec (.ringSweepCapture c r b h) s = .next s) ∧
     (s.ring c.val r.val = rgVerify → k.val ≠ ringChan r.val → s.rf a TUN_RING_ATTEMPT < 2 →
       ∃ t, exec (.ringVerifyEnd c r (some k)) s = .next t ∧ t.ring c.val r.val = rgCold ∧
         t.rf a TUN_RING_ATTEMPT = s.rf a TUN_RING_ATTEMPT + 1 ∧ t.rf a TUN_RING_TONE_CH = k.val ∧ BytesKept s t) ∧
     (s.ring c.val r.val = rgVerify → 288 ≤ r.val → k.val = ringChan r.val → ∃ t, exec (.ringVerifyEnd c r (some k)) s = .next t ∧
       t.ring c.val r.val = rgLocked ∧ t.rf a TUN_RING_ATTEMPT = 0 ∧ BytesKept s t) ∧
     (s.ring c.val r.val ≠ rgVerify → ∀ x, exec (.ringVerifyEnd c r x) s = .next s)) ∧
  (∀ (c : Casement) (r : RingLoop) (k : Channel) (s : State),
     (s.ring c.val r.val ≠ rgLocked → exec (.lossOfLock c r) s = .next s) ∧
     (s.ring c.val r.val = rgLocked → 288 ≤ r.val → ∃ t, exec (.lossOfLock c r) s = .next t ∧ t.ring c.val r.val = rgCold ∧
       t.fences = s.fences ∧ t.links = s.links ∧ t.mem = s.mem ∧ t.sram = s.sram) ∧
     (s.frame % 250 ≠ 0 → exec (.toneAudit c (some k)) s = .next s) ∧
     (s.frame % 250 = 0 → ∀ n, s.auditNext c.val (s.csm c.val).auditRing = some n → k.val = ringChan n →
       ∃ t, exec (.toneAudit c (some k)) s = .next t ∧ (t.csm c.val).auditRing = (n + 1) % 306 ∧
         t.rf (ringReg c.val n) TUN_RING_TONE_CH = k.val ∧ BytesKept s t ∧ ∀ b, b ≠ ringReg c.val n → t.reg b = s.reg b))

/-- An element of a mesh that is in FAULT already changes nothing again; the fibre array's contact sets and clears PRESENT, an
opening of a dark array adds nothing, and an array that is stable for 1 s is marked so for the next boundary (R244, R286).
FADE_MEASUREMENT (R266): at a boundary whose frame counter is no multiple of 250, and in mode off, it changes nothing. At
another the output and the bias of a grid laser that serves its channel below its limit are noted with a FADE of 0, which
crosses no threshold; no other channel changes. -/
def Obligations.FibreArrayMeshFaultsAndFade : Prop :=
  (∀ (c : Casement) (rx : Bool) (m : Fin 232) (s : State),
     (s.rf (if rx then TUN_RXMESH c.val m.val else TUN_TXMESH c.val m.val) TUN_TXMESH_STATE = 3 →
       exec (.meshFault c rx m) s = .next s) ∧
     (s.rf (if rx then TUN_RXMESH c.val m.val else TUN_TXMESH c.val m.val) TUN_TXMESH_STATE ≠ 3 →
       exec (.meshFault c rx m) s = .next (s.meshFail c.val rx m.val)) ∧
     (s.mode ≠ .off → s.rf (CSM_FA c.val) CSM_FA_DARK = 1 → ∃ t, exec (.faPresenceOpen c) s = .next t ∧
       t.rf (CSM_FA c.val) CSM_FA_PRESENT = 0 ∧ t.rf (CSM_FA c.val) CSM_FA_DARK = 1 ∧ (t.csm c.val).faStable = false ∧
       t.rf (CSM_FA c.val) CSM_FA_REMOVALS = s.rf (CSM_FA c.val) CSM_FA_REMOVALS ∧ t.links = s.links ∧ BytesKept s t) ∧
     (s.mode ≠ .off → ∃ t, exec (.faPresenceStable c) s = .next t ∧ t.rf (CSM_FA c.val) CSM_FA_PRESENT = 1 ∧
       t.rf (CSM_STATUS c.val) CSM_STATUS_FA_PRESENT = 1 ∧ (t.csm c.val).faStable = true ∧
       t.rf (CSM_FA c.val) CSM_FA_DARK = s.rf (CSM_FA c.val) CSM_FA_DARK ∧ BytesKept s t) ∧
     (s.mode = .off → exec (.faPresenceOpen c) s = .next s ∧ exec (.faPresenceStable c) s = .next s)) ∧
  (∀ (c : Casement) (rs : List LaserReading) (r : LaserReading) (s : State),
     (s.mode = .off ∨ s.frame % 250 ≠ 0 → exec (.fadeMeasurement c rs) s = .next s) ∧
     (s.mode ≠ .off → s.frame % 250 = 0 → r.laser.val < 18 → r.atLimit = false → s.chanLit c.val r.laser.val = true →
       s.serving c.val r.laser.val = r.laser.val → (∀ i < 3, (s.fadeLimits c.val).getD i 0 < 0) →
       s.carrier c.val 0 ≠ crActive → s.carrier c.val 1 ≠ crActive →
       ∃ t, exec (.fadeMeasurement c [r]) s = .next t ∧ t.rfs (LSR_GRID c.val r.laser.val) LSR_GRID_FADE = 0 ∧
         t.rf (LSR_GRID c.val r.laser.val) LSR_GRID_OUT_PWR = toCode 16 r.output ∧
         t.rf (LSR_GRID c.val r.laser.val) LSR_GRID_BIAS = r.bias % 2 ^ LSR_GRID_BIAS.width ∧
         (∀ a, a ≠ LSR_GRID c.val r.laser.val → t.reg a = s.reg a) ∧ BytesKept s t))

/-- Rotating calibration (R287 to R289): it starts only where it runs, is idle and due, and then sets the next due frame; a calibration
on target leaves a ring whose lanes had not moved LOCKED and the unit idle; a time-out before CAL_TIMEOUT frames have passed changes
nothing. -/
def Obligations.RotatingCalibrationTakesItsTurns : Prop :=
  ∀ (c : Casement) (s : State),
    (s.calRuns c.val = false ∨ (s.csm c.val).calPhase ≠ .idle ∨ frameReached s.frame (s.csm c.val).calDue = false →
      exec (.calStart c) s = .next s) ∧
    (s.calRuns c.val = true → (s.csm c.val).calPhase = .idle → frameReached s.frame (s.csm c.val).calDue = true →
      (s.csm c.val).calFirst = [] → s.engineUp c.val 0 (ringEngine (s.csm c.val).calPos) = false →
      (s.csm c.val).calPos < 144 →
      ∃ t, exec (.calStart c) s = .next t ∧ (t.csm c.val).calPos = (s.csm c.val).calPos + 1 ∧
        (t.csm c.val).calDue = frameAdd s.frame (s.rf (TUN_CFG c.val) TUN_CFG_CAL_INTERVAL) ∧
        (t.csm c.val).calPhase = .idle ∧ BytesKept s t ∧
        t.rf (TUN_CAL c.val) TUN_CAL_SKIPPED =
          min (s.rf (TUN_CAL c.val) TUN_CAL_SKIPPED + 1) (2 ^ TUN_CAL_SKIPPED.width - 1)) ∧
    ((s.csm c.val).calPhase ≠ .cal → ∀ b, exec (.calDone c b) s = .next s) ∧
    ((s.csm c.val).calPhase = .cal → (s.csm c.val).moved = [] → s.rf (TUN_CAL c.val) TUN_CAL_RING < 144 →
      ∃ t, exec (.calDone c true) s = .next t ∧ (t.csm c.val).calPhase = .idle ∧ t.rf (TUN_CAL c.val) TUN_CAL_BUSY = 0 ∧
        t.ring c.val (s.rf (TUN_CAL c.val) TUN_CAL_RING) = rgLocked ∧ BytesKept s t) ∧
    (∀ since, (s.csm c.val).calPhase = .vacating since → s.framesSince since < s.rf (TUN_CFG c.val) TUN_CFG_CAL_TIMEOUT →
      exec (.calTimeout c) s = .next s) ∧
    (∀ since, (s.csm c.val).calPhase = .vacating since → s.rf (TUN_CFG c.val) TUN_CFG_CAL_TIMEOUT ≤ s.framesSince since →
      ∃ t, exec (.calTimeout c) s = .next t ∧ (t.csm c.val).calPhase = .idle)

/-! ## Links -/

/-- A lane message on an UP link whose header passes: what each kind does (R239, R278, R279). A packet of another kind is no
message of that row. A notice with a later serial is kept until its epoch, and one with the serial in force, or an older one,
changes nothing (R278). -/
def Obligations.LaneMessagesActOnTheMap : Prop :=
  (∀ (l : LinkId) (p : Packet) (s : State),
     let m := laneMsgOf p.payload
     let r := s.receive l.val ptLinkCtl p
     let u := r.1.freePool l.val 0 (Packet.units p)
     (l.val < 128 → getField p.w2 (bits 7 0) = 1 → m.version = 1 → r.2 = true →
       (m.kind = lmNotice → exec (.laneMapNotice l p) s = .next (u.laneNotice l.val m)) ∧
       (m.kind = lmVacate → exec (.vacate l p) s = .next (u.laneVacate l.val m.chan)) ∧
       (m.kind = lmRestore → exec (.restore l p) s = .next (u.laneRestore l.val m.chan)) ∧
       (m.kind = lmExclude → exec (.exclude l p) s = .next (u.laneExclude l.val m.chan))) ∧
     (128 ≤ l.val ∨ getField p.w2 (bits 7 0) ≠ 1 →
       exec (.laneMapNotice l p) s = .next s ∧ exec (.vacate l p) s = .next s ∧ exec (.restore l p) s = .next s ∧
       exec (.exclude l p) s = .next s ∧ (128 ≤ l.val → exec (.laneMapEpoch l) s = .next s)) ∧
     (l.val < 128 → exec (.laneMapEpoch l) s =
       .next ((((s.applyTx l.val).applyRx l.val).calReady (l.val / 16)).remapsDone (l.val / 16)))) ∧
  (∀ (l : LinkId) (m : LaneMsg) (s : State),
     let d := (m.serial + 256 - s.mapSerial l.val 1) % 256
     (s.isD1 l.val = true ∨ d = 0 ∨ 127 < d → s.laneNotice l.val m = s) ∧
     (s.isD1 l.val = false → d ≠ 0 → d ≤ 127 → frameReached s.frame m.epoch = false →
       (((s.laneNotice l.val m).link l.val).rxPend = some { epoch := m.epoch, serial := m.serial, map := m.map }) ∧
       (s.laneNotice l.val m).rf (TUN_LMAP_HI l.val 1) TUN_LMAP_HI_PEND = 1 ∧ BytesKept s (s.laneNotice l.val m) ∧
       ∀ k, k ≠ l.val → (s.laneNotice l.val m).link k = s.link k))

/-- Training packets: in TRAINING an OFFER or ACCEPT whose packet does not pass its checks changes only an error count of its link; one
that passes is taken; in any other state both are ignored (R345, R346). A link that is ready enters TRAINING. -/
def Obligations.TrainingTakesOfferAndAccept : Prop :=
  ∀ (l : LinkId) (p : Packet) (s : State),
    (s.linkState l.val ≠ lkTraining → exec (.offer l p) s = .next s ∧ exec (.accept l p) s = .next s) ∧
    (s.linkState l.val = lkTraining → trainPacket tcOffer p = true →
      exec (.offer l p) s = .next (s.offer l.val (trainOf p))) ∧
    (s.linkState l.val = lkTraining → trainPacket tcAccept p = true →
      exec (.accept l p) s = .next (s.accept l.val (trainOf p))) ∧
    (s.linkState l.val = lkTraining → trainPacket tcOffer p = false → ∃ t, exec (.offer l p) s = .next t ∧
      t.linkState l.val = lkTraining ∧ BytesKept s t ∧ (∀ a, a ≠ DRL_RXERR l.val → t.reg a = s.reg a) ∧ t.links = s.links) ∧
    (s.linkState l.val = lkTraining → trainPacket tcAccept p = false → ∃ t, exec (.accept l p) s = .next t ∧
      t.linkState l.val = lkTraining ∧ BytesKept s t ∧ (∀ a, a ≠ DRL_RXERR l.val → t.reg a = s.reg a) ∧ t.links = s.links) ∧
    (s.linkState l.val ≠ lkDown → exec (.linkTrainingStart l) s = .next s) ∧
    (s.linkState l.val = lkDown →
      let u := if l.val < 128 then s.reachCheck l.val else s.porchRetrain l.val
      (u.trainReady l.val = false → exec (.linkTrainingStart l) s = .next u) ∧
      (u.trainReady l.val = true → ∃ t, exec (.linkTrainingStart l) s = .next t ∧ t.linkState l.val = lkTraining ∧
        (t.link l.val).offer = none ∧ (t.link l.val).accGot = none ∧ BytesKept u t))

/-- Re-training (R347 to R350): a RETRAIN_REQ, RETRAIN_ACK or GOING_DOWN whose header passes the checks of R331 is acted on after its
acknowledgement and credits are used, and one that does not only counts an error; on a link that is not live, or not RETRAINING for
the ACK, it is ignored. -/
def Obligations.RetrainMessagesAreCheckedFirst : Prop :=
  ∀ (l : LinkId) (p : Packet) (s : State),
    (s.isLive l.val = true →
      ((s.trainHeader l.val tcRetrainReq p).2 = true → exec (.retrainReq l p) s =
        .next ((s.trainHeader l.val tcRetrainReq p).1.retrainReq l.val (trainOf p))) ∧
      ((s.trainHeader l.val tcGoingDown p).2 = true → exec (.goingDown l p) s =
        .next ((s.trainHeader l.val tcGoingDown p).1.goDown l.val 8))) ∧
    (s.linkState l.val = lkRetraining → (s.trainHeader l.val tcRetrainAck p).2 = true → exec (.retrainAck l p) s =
      .next ((s.trainHeader l.val tcRetrainAck p).1.retrainAck l.val (trainOf p))) ∧
    (s.isLive l.val = false → exec (.retrainReq l p) s = .next s ∧ exec (.goingDown l p) s = .next s) ∧
    (s.linkState l.val ≠ lkRetraining → exec (.retrainAck l p) s = .next s) ∧
    (s.isLive l.val = true → packetCrc p ≠ BitVec.ofNat 32 (getField p.w3 (bits 63 32)) →
      ∃ t, exec (.retrainReq l p) s = .next t ∧ exec (.goingDown l p) s = .next t ∧ t.links = s.links ∧ BytesKept s t ∧
        (∀ a, a ≠ DRL_RXERR l.val → t.reg a = s.reg a) ∧ t.rf (DRL_RXERR l.val) DRL_RXERR_CRC_FAIL =
          min (s.rf (DRL_RXERR l.val) DRL_RXERR_CRC_FAIL + 1) (2 ^ DRL_RXERR_CRC_FAIL.width - 1))

/-- The timers of a link (R334, R336 to R338, R349 to R352): a link RETRAINING for RETRAIN_FRAMES frames goes down with cause
2, and a live one dark for LOL_FRAMES frames, 0 counting as 1, with cause 3; HELD ends after DOWN_HOLD frames in DOWN, or in
DISABLED where EN is 0; ACK_IDLE_TIMER asks for one ACK_ONLY. Before its time each changes nothing. REPLAY_TIMER (R336, R337):
it counts, and every outstanding packet is due for replay; below REPLAY_LIMIT firings the link stays as it is. A link that is
not UP or has nothing outstanding is left alone. -/
def Obligations.LinkTimersFire : Prop :=
  (∀ (l : LinkId) (s : State),
     let x := s.link l.val
     (s.linkState l.val = lkRetraining → s.rf (DRL_CFG l.val) DRL_CFG_RETRAIN_FRAMES ≤ x.frames →
       exec (.retrainTimeout l) s = .next (s.goDown l.val 2)) ∧
     (s.linkState l.val ≠ lkRetraining ∨ x.frames < s.rf (DRL_CFG l.val) DRL_CFG_RETRAIN_FRAMES →
       exec (.retrainTimeout l) s = .next s) ∧
     (s.isLive l.val = true → max 1 (s.rf (DRL_CFG l.val) DRL_CFG_LOL_FRAMES) ≤ x.dark →
       exec (.lossOfLight l) s = .next (s.goDown l.val 3)) ∧
     (s.isLive l.val = false ∨ x.dark < max 1 (s.rf (DRL_CFG l.val) DRL_CFG_LOL_FRAMES) →
       exec (.lossOfLight l) s = .next s) ∧
     (s.linkState l.val = lkHeld → s.rf (DRL_CFG l.val) DRL_CFG_DOWN_HOLD ≤ x.frames →
       ∃ t, exec (.downHoldExpiry l) s = .next t ∧
         t.linkState l.val = (if s.rf (DRL_CFG l.val) DRL_CFG_EN = 1 then lkDown else lkDisabled) ∧ (t.link l.val).frames = 0 ∧
         (∀ a, a ≠ DRL_STATUS l.val → t.reg a = s.reg a) ∧ BytesKept s t) ∧
     (s.linkState l.val ≠ lkHeld ∨ x.frames < s.rf (DRL_CFG l.val) DRL_CFG_DOWN_HOLD →
       exec (.downHoldExpiry l) s = .next s) ∧
     (s.isLive l.val = true → ∃ t, exec (.ackIdleTimer l) s = .next t ∧ (t.link l.val).ackDue = true ∧
       (∀ a, t.reg a = s.reg a) ∧ (∀ k, k ≠ l.val → t.link k = s.link k) ∧ BytesKept s t) ∧
     (s.isLive l.val = false → exec (.ackIdleTimer l) s = .next s)) ∧
  (∀ (l : LinkId) (s : State),
     let x := s.link l.val
     (s.linkUp l.val = false ∨ s.rf (DRL_SEQ l.val) DRL_SEQ_OUTSTANDING = 0 → exec (.replayTimer l) s = .next s) ∧
     (s.linkUp l.val = true → s.rf (DRL_SEQ l.val) DRL_SEQ_OUTSTANDING ≠ 0 →
       x.firings + 1 < max 1 (s.rf (DRL_CFG l.val) DRL_CFG_REPLAY_LIMIT) →
       ∃ t, exec (.replayTimer l) s = .next t ∧ (t.link l.val).firings = x.firings + 1 ∧
         (t.link l.val).replay = x.out.map (fun p => p.seq) ∧ t.linkState l.val = lkUp ∧ BytesKept s t ∧
         t.rf (DRL_EVENTS l.val) DRL_EVENTS_REPLAYS =
           min (s.rf (DRL_EVENTS l.val) DRL_EVENTS_REPLAYS + 1) (2 ^ DRL_EVENTS_REPLAYS.width - 1)))

/-- SEND_DATA, MEM_RD, MEM_WR and MEM_CPL: one that R331 accepts is acted on after the link layer has taken it; on a link that
is not live nothing happens; one whose CRC fails counts in CRC_FAIL and changes nothing else; one of a sequence number that
came before counts in DUPLICATE and is not acted on (R331 to R335). NEIGHBOURS of another argument kind is no message of its
row. ACK_ONLY carries no sequence number: on a live link its header is used, and on an UP link with it the credits of its
payload; the checks of R331 come first (R334). -/
def Obligations.PacketsAreTakenInOrder : Prop :=
  (∀ (l : LinkId) (p : Packet) (ue : Bool) (s : State) (i : Instr) (type : Nat) (act : State → State),
     (i, type, act) ∈ packetRows l p ue →
     ((s.receive l.val type p).2 = true → exec i s = .next (act (s.receive l.val type p).1)) ∧
     ((s.receive l.val type p).2 = false → exec i s = .next (s.receive l.val type p).1) ∧
     (s.isLive l.val = false → exec i s = .next s) ∧
     (s.isLive l.val = true → s.attachLive l.val = true → packetCrc p ≠ BitVec.ofNat 32 (getField p.w3 (bits 63 32)) →
       ∃ t, exec i s = .next t ∧ t.links = s.links ∧ BytesKept s t ∧ (∀ a, a ≠ DRL_RXERR l.val → t.reg a = s.reg a) ∧
         t.rf (DRL_RXERR l.val) DRL_RXERR_CRC_FAIL =
           min (s.rf (DRL_RXERR l.val) DRL_RXERR_CRC_FAIL + 1) (2 ^ DRL_RXERR_CRC_FAIL.width - 1)) ∧
     (getField p.w2 (bits 7 0) ≠ 2 → exec (.neighbours l p) s = .next s) ∧
     (getField p.w2 (bits 7 0) = 2 → (s.receive l.val ptLinkCtl p).2 = true →
       exec (.neighbours l p) s = .next ((s.receive l.val ptLinkCtl p).1.takeNeighbours l.val p))) ∧
  (∀ (l : LinkId) (p : Packet) (s : State),
     (s.isLive l.val = false → exec (.ackOnly l p) s = .next s) ∧
     (s.isLive l.val = true → s.dropCause l.val ptAckOnly p = 1 → ∃ t, exec (.ackOnly l p) s = .next t ∧
       t.links = s.links ∧ BytesKept s t ∧ t.rf (DRL_RXERR l.val) DRL_RXERR_CRC_FAIL =
         min (s.rf (DRL_RXERR l.val) DRL_RXERR_CRC_FAIL + 1) (2 ^ DRL_RXERR_CRC_FAIL.width - 1)) ∧
     (s.isLive l.val = true → s.dropCause l.val ptAckOnly p = 0 →
       let u := (s.resume l.val).useHeader l.val p
       exec (.ackOnly l p) s = .next (if u.linkUp l.val then
         (List.range (u.nvc l.val)).foldl (fun s v => s.creditReturn l.val v (bytesToNat ((p.payload.drop (2 * v)).take 2))) u
         else u)))

/-- Hearth messages (R428 to R430, R479): a HEARTH_COMMAND, HEARTH_REPLY, HEARTH_EVENT or SKY_DONE packet of another kind is not taken by
the row; one that the link layer accepts and that is for this package is acted on once its last part has come. -/
def Obligations.HearthMessagesAreReassembled : Prop :=
  ∀ (l : LinkId) (p : Packet) (s : State) (i : Instr) (kind : Nat) (act : State → HearthMsg → State),
    (i, kind, act) ∈ ([(.hearthCommand l p, mkCommand, fun s m => s.hearthCommand m),
      (.hearthReply l p, mkReply, fun s m => s.hearthReply m), (.hearthEvent l p, mkEvent, fun s m => s.hearthEvent m),
      (.skyDone l p, mkSkyDone, fun s m => s.takeSkyDone m)] : List (Instr × Nat × (State → HearthMsg → State))) →
    (getField p.w2 (bits 7 4) ≠ kind → exec i s = .next s) ∧
    (getField p.w2 (bits 7 4) = kind → (s.receive l.val ptHearth p).2 = false →
      exec i s = .next (s.receive l.val ptHearth p).1) ∧
    (getField p.w2 (bits 7 4) = kind → (s.receive l.val ptHearth p).2 = true → Packet.relay p = false →
      getField p.w2 (bits 3 0) = 1 →
      let g := State.gather ((s.receive l.val ptHearth p).1.freePool l.val 0 (Packet.units p)) l.val p
      (g.2 = none → exec i s = .next g.1) ∧
      (∀ ws, g.2 = some ws → exec i s = .next (act g.1 { src := hearthSrc p, tag := getField p.w2 (bits 39 24), origin := getField p.w2 (bits 51 40), ring := getField p.w2 (bits 59 52), body := ws })))

/-! ## Attachments, guest sites, Porch lanes and seams -/

/-- Flits of an attachment (R386 to R389): one that is not live takes none; a flit whose CRC holds, of version 1 and of the row's kind, with
the number that comes next, moves that number on and acknowledges, and a DATA or FRAME flit with another number changes nothing. -/
def Obligations.FlitsAreTakenInSequence : Prop :=
  ∀ (a : Attach) (f : Flit) (s : State),
    ((s.csmAttach a.val).live = false → exec (.dataFlit a f) s = .next s ∧ exec (.idleFlit a f) s = .next s ∧
      exec (.frameFlit a f) s = .next s ∧ exec (.flitReplay a) s = .next s) ∧
    (∀ w0, s.flitHead a.val 2 f = (s, some w0) → getField w0 (bits 15 6) ≠ (s.csmAttach a.val).rxNext →
      exec (.frameFlit a f) s = .next s) ∧
    (∀ w0, s.flitHead a.val 0 f = (s, some w0) → getField w0 (bits 15 6) ≠ (s.csmAttach a.val).rxNext →
      exec (.dataFlit a f) s = .next s) ∧
    (∀ w0, s.flitHead a.val 2 f = (s, some w0) → getField w0 (bits 15 6) = (s.csmAttach a.val).rxNext →
      exec (.frameFlit a f) s = .next ((s.setAttach a.val { s.csmAttach a.val with rxNext := ((s.csmAttach a.val).rxNext + 1) % 1024, rxAny := true }).flitAck a.val w0)) ∧
    (∀ w0, a.val < 8 → s.flitHead a.val 0 f = (s, some w0) → getField w0 (bits 15 6) = (s.csmAttach a.val).rxNext →
      exec (.dataFlit a f) s = .next ((s.setAttach a.val { s.csmAttach a.val with rxNext := ((s.csmAttach a.val).rxNext + 1) % 1024, rxAny := true }).flitAck a.val w0)) ∧
    (∀ w0, s.flitHead a.val 1 f = (s, some w0) → exec (.idleFlit a f) s = .next (s.flitAck a.val w0)) ∧
    ((s.csmAttach a.val).live = true → a.val < 8 → (s.csmAttach a.val).replays + 1 < 8 →
      ∃ t, exec (.flitReplay a) s = .next t ∧ (t.csmAttach a.val).replays = (s.csmAttach a.val).replays + 1 ∧
        (∀ r, t.reg r = s.reg r) ∧ BytesKept s t)

/-- UCIe modules (R385, R390): one that is down already changes nothing; when the last module of a Casement's attachment goes
down the attachment carries nothing. Training ends only where it runs, and a full reset ends only where one is under way.
Width reports (R392): an older serial, another version, and a report while traffic runs change nothing; the newest is kept
with its modules and compared with this end's own. A time-out without an own width, or with the peer's report, changes
nothing. -/
def Obligations.UcieModulesTrainAndReportWidth : Prop :=
  (∀ (a : Attach) (m : Fin 16) (mods x32 : BitVec 16) (cap : Option GuestCap) (s : State),
     (s.modUp a.val / 2 ^ m.val % 2 = 0 → exec (.ucieModuleDown a m) s = .next s) ∧
     (a.val < 8 → s.modUp a.val = 2 ^ m.val → ∃ t, exec (.ucieModuleDown a m) s = .next t ∧ t.modUp a.val = 0 ∧
       (t.csmAttach a.val).live = false ∧ (t.csmAttach a.val).mine = none ∧ BytesKept s t) ∧
     (s.attTrains a.val = false → exec (.moduleTrainingComplete a mods x32) s = .next s) ∧
     (s.attTrains a.val = true → exec (.moduleTrainingComplete a mods x32) s =
       .next (s.attTrained a.val mods.toNat x32.toNat)) ∧
     ((s.csmAttach a.val).resetting = false → exec (.d2dFullResetEnd a cap) s = .next s) ∧
     ((s.csmAttach a.val).resetting = true → a.val < 8 → ∃ t, exec (.d2dFullResetEnd a cap) s = .next t ∧
       (t.csmAttach a.val).resetting = false ∧ (∀ r, t.reg r = s.reg r) ∧ BytesKept s t)) ∧
  (∀ (a : Attach) (w : Word) (s : State),
     let x := s.csmAttach a.val
     let n := getField w (bits 7 4)
     let newer := match x.peerSerial with | none => true | some h => decide (1 ≤ (n + 16 - h) % 16) && decide ((n + 16 - h) % 16 ≤ 7)
     (getField w (bits 3 0) ≠ 1 ∨ newer = false ∨ x.resetting = true ∨ x.live = true ∨ s.mode = .off →
       exec (.widthReport a w) s = .next s) ∧
     (s.mode ≠ .off → getField w (bits 3 0) = 1 → newer = true → x.resetting = false → x.live = false →
       s.isFenced (attLoc a.val) = false → a.val < 8 → x.mine = none →
       ∃ t, exec (.widthReport a w) s = .next t ∧ (t.csmAttach a.val).peerSerial = some n ∧
         (t.csmAttach a.val).peer = some (n, getField w (bits 23 8), getField w (bits 39 24), wbit w 40) ∧
         (∀ r, t.reg r = s.reg r) ∧ BytesKept s t) ∧
     (x.mine = none ∨ x.peer ≠ none ∨ x.live = true → exec (.widthReportTimeout a) s = .next s) ∧
     (∀ m y, x.mine = some (m, y) → x.peer = none → x.live = false →
       exec (.widthReportTimeout a) s = .next (s.widthDiffers a.val m y)))

/-- Guest admission (R395 to R401): a site that waits takes the answer of its guest, or fails with GUEST_ABSENT; a guest that
resets while it trains or is READY goes back to discovery with no module up. Otherwise the events change nothing. The
guest-die window (R402): beyond the guest's window a read answers 0 and a write is ignored; a guest that does not answer in
time answers 0 and counts in SB_TIMEOUTS; else a read answers what the guest did. Nothing else changes. -/
def Obligations.GuestSitesAdmitResetAndAnswer : Prop :=
  (∀ (g : Site) (cap : GuestCap) (s : State),
     (s.siteWaits g.val = false → exec (.guestAdmission g cap) s = .next s ∧ exec (.guestAbsent g) s = .next s) ∧
     (s.siteWaits g.val = true → exec (.guestAbsent g) s = .next (s.siteFail g.val F_GUEST_ABSENT 1) ∧
       exec (.guestAdmission g cap) s = .next (s.admitSite g.val cap)) ∧
     (s.rf (GST_STATUS g.val) GST_STATUS_STATE ≠ gsTraining → s.rf (GST_STATUS g.val) GST_STATUS_STATE ≠ gsReady →
       exec (.guestReset g) s = .next s) ∧
     (s.rf (GST_STATUS g.val) GST_STATUS_STATE = gsTraining ∨ s.rf (GST_STATUS g.val) GST_STATUS_STATE = gsReady →
       exec (.guestReset g) s = .next (s.guestReset g.val))) ∧
  (∀ (g : Site) (off : Nat) (v w : Word) (s : State),
     let room := 4096 * s.rf (GST_CAP g.val 1) (bits 47 32)
     s.rf (GST_STATUS g.val) GST_STATUS_STATE ≠ gsOff → s.powerJob (locSite g.val) = none →
       (room ≤ off → exec (.guestWindowAccess g off none (some v)) s = .next { s with guestAnswer := 0 } ∧
         exec (.guestWindowAccess g off (some w) (some v)) s = .next s) ∧
       (off < room → exec (.guestWindowAccess g off none (some v)) s = .next { s with guestAnswer := v } ∧
         exec (.guestWindowAccess g off (some w) (some v)) s = .next s ∧
         ∃ t, exec (.guestWindowAccess g off none none) s = .next t ∧ t.guestAnswer = 0 ∧ BytesKept s t ∧
           t.rf (GST_ERR g.val) GST_ERR_SB_TIMEOUTS =
             min (s.rf (GST_ERR g.val) GST_ERR_SB_TIMEOUTS + 1) (2 ^ GST_ERR_SB_TIMEOUTS.width - 1)))

/-- Porch lanes and seams (R174, R408): the failure of a lane of no DARARN_E link, or of a lane that is not UP, changes nothing; a lane
with fewer than half of its link's lanes left takes the link down with cause 9, and one with more starts a re-train and is DOWN. A seam
goes down only where it is up. -/
def Obligations.PorchLanesAndSeamsFail : Prop :=
  ∀ (n : Fin 32) (h : Seam) (s : State),
    (s.porchLink n.val = none ∨ s.rf (PCH_LANE n.val) PCH_LANE_STATE ≠ plUp → exec (.porchLaneFailure n) s = .next s) ∧
    (∀ l, s.porchLink n.val = some l → s.rf (PCH_LANE n.val) PCH_LANE_STATE = plUp →
      let lanes := s.porchLanes l
      let up := (lanes.filter (fun m => m != n.val && wbit (s.reg PCH_STATUS) m)).length
      (2 * up < lanes.length → exec (.porchLaneFailure n) s = .next ((s.setPorch n.val plDown).goDown l 9)) ∧
      (lanes.length ≤ 2 * up → ∃ t, exec (.porchLaneFailure n) s = .next t ∧
        t.rf (PCH_LANE n.val) PCH_LANE_STATE = plDown)) ∧
    (s.mode = .off ∨ s.seamUp h.val = false → exec (.seamDown h) s = .next s) ∧
    (s.mode ≠ .off → s.seamUp h.val = true → exec (.seamDown h) s = .next (s.seamDown h.val))

/-! ## Memory, queues and the Pantry -/

/-- A retirement copy that is under way ends in DONE, and the NV store notes it; where a base frame still waits for the end of a recovery
the copy and the reload lists decide it (R186, R188, R488). A patrol
read that finds nothing, off the end of a pass, changes nothing; one that corrects counts at its channel; the end of a pass clears the
pass count (R185). -/
def Obligations.RetirementCopyAndPatrolEnd : Prop :=
  ∀ (r : Fin 4) (st : Stack) (ch : Fin 32) (da step : Nat) (s : State),
    (s.rf (MEM_RETIRE r.val) MEM_RETIRE_VALID = 1 → s.rf (MEM_RETIRE r.val) MEM_RETIRE_STATE = 0 → s.steps = [] →
      ∃ t, exec (.retirementCopyComplete r) s = .next t ∧ t.rf (MEM_RETIRE r.val) MEM_RETIRE_STATE = 1 ∧
        (∀ e ∈ t.nv.retired, e.1 = s.rf (MEM_RETIRE r.val) MEM_RETIRE_STACK →
          e.2.1 = s.rf (MEM_RETIRE r.val) MEM_RETIRE_CHANNEL → e.2.2 = true) ∧ BytesKept s t) ∧
    (s.rf (MEM_RETIRE r.val) MEM_RETIRE_VALID ≠ 1 → s.steps = [] → exec (.retirementCopyComplete r) s = .next s) ∧
    (exec (.patrolRead st ch da .clean false) s = .next s) ∧
    (let h : Home := { stack := st.val, channel := ch.val, row := 0, pc := da / 64 % 2 }
     (∃ t, exec (.patrolRead st ch da .clean true) s = .next t ∧ t.rf (checcOf h) MEM_CHECC_CE_PASS = 0 ∧
        (∀ a, a ≠ checcOf h → t.reg a = s.reg a) ∧ BytesKept s t) ∧
     (s.rf (MEM_ECC_CTRL (st.val / 3)) MEM_ECC_CTRL_PATROL_HOURS ≠ 0 → s.isPoisoned da = false →
        exec (.patrolRead st ch da .corrected false) s = .next (s.memCe h da)) ∧
     (s.rf (MEM_ECC_CTRL (st.val / 3)) MEM_ECC_CTRL_PATROL_HOURS = 0 → ∀ f, exec (.patrolRead st ch da f false) s = .next s)) ∧
    (s.reloads.any (fun x => x.left != 0) = true → exec (.reloadComplete step) s = .next s) ∧
    (s.reloads.any (fun x => x.left != 0) = false → s.steps = [] →
      exec (.reloadComplete step) s = .next { s with reloads := [] })

/-- A refill (R191 to R193) needs lines in the middle and a head that is at most half full; a line in order and without error
goes behind the head, and the corrected words are counted. Otherwise nothing changes. Queue watermarks (R199 to R204): a HIGH
not above LOW is not written; CNT_CLR zeroes both counts of its queue; CROSSED_H and CROSSED_L are cleared by writing 1; no
other register changes by the clears. -/
def Obligations.CellarQueuesRefillAndMark : Prop :=
  (∀ (q : QueueIdx) (line : CellarLine) (s : State),
     ((s.queue q.val).mid = [] ∨ queueCap q.val < 2 * (s.queue q.val).head.length → exec (.queueRefill q line) s = .next s) ∧
     (∀ a seq rest, (s.queue q.val).mid = (a, seq) :: rest → 2 * (s.queue q.val).head.length ≤ queueCap q.val →
       let u := (s.satf (CEL_QECC q.val) CEL_QECC_CE_COUNT (lineCorrected line)).satf CEL_CE_TOTAL CEL_CE_TOTAL_COUNT
         (lineCorrected line)
       (∀ cause, lineCause line seq = some cause → exec (.queueRefill q line) s = .next (u.cellarUe q.val cause a)) ∧
       (lineCause line seq = none →
         let r := refillHead u.cellarBase (s.queue q.val) (lineBytes line)
         exec (.queueRefill q line) s =
           .next (((u.setQueue q.val (passToHead q.val r.1)).freeSegs r.2).refilled q.val)))) ∧
  (∀ (q : QueueIdx) (v : Word) (h l : Bool) (s : State),
     (queueUsed q.val = false → exec (.celQwmWrite q v) s = .next s) ∧
     (queueUsed q.val = true → getField v CEL_QWM_HIGH ≤ getField v CEL_QWM_LOW → ∃ t, exec (.celQwmWrite q v) s = .next t ∧
       t.reg (CEL_QWM q.val) = s.reg (CEL_QWM q.val)) ∧
     (queueUsed q.val = true → getField v CEL_QWM_LOW < getField v CEL_QWM_HIGH → s.rf (CEL_QCFG q.val) CEL_QCFG_EN_H = 0 →
       s.rf (CEL_QCFG q.val) CEL_QCFG_EN_L = 0 → exec (.celQwmWrite q v) s = .next (s.setReg (CEL_QWM q.val) v)) ∧
     (∃ t, exec (.crossedClear q h l) s = .next t ∧ BytesKept s t ∧ (∀ a, a ≠ CEL_QMARK q.val → t.reg a = s.reg a) ∧
       t.rf (CEL_QMARK q.val) CEL_QMARK_CROSSED_H = (if h then 0 else s.rf (CEL_QMARK q.val) CEL_QMARK_CROSSED_H) ∧
       t.rf (CEL_QMARK q.val) CEL_QMARK_CROSSED_L = (if l then 0 else s.rf (CEL_QMARK q.val) CEL_QMARK_CROSSED_L) ∧
       t.rf (CEL_QMARK q.val) CEL_QMARK_COUNT_H = s.rf (CEL_QMARK q.val) CEL_QMARK_COUNT_H) ∧
     (∃ t, exec (.celCntClr q) s = .next t ∧ BytesKept s t ∧ (∀ a, a ≠ CEL_QMARK q.val → t.reg a = s.reg a) ∧
       t.rf (CEL_QMARK q.val) CEL_QMARK_COUNT_H = 0 ∧ t.rf (CEL_QMARK q.val) CEL_QMARK_COUNT_L = 0 ∧
       t.rf (CEL_QMARK q.val) CEL_QMARK_CROSSED_H = s.rf (CEL_QMARK q.val) CEL_QMARK_CROSSED_H))

/-- The Pantry's own events (R216, R219, R222, R224): an age sweep of an empty directory changes nothing; a lease ends at its
frame, with every pin it took, and not before; a publish list is applied once for its step. Changes that wait for a boundary
(R170, R197, R207, R209, R458): with none due the region table stays; a wing whose change of role waits for a step keeps its
role, and one that may change takes it and is pending no more; an operating point is reached when its change has begun. -/
def Obligations.PantryEventsAndWaitingChanges : Prop :=
  (∀ (w : Wing) (h : BitVec 16) (step : Nat) (s : State),
     (s.pantry = [] → exec (.pantryAgeSweep w) s = .next s) ∧
     (∀ i e, s.pantry = [(i, e)] → i / 131072 = w.val → exec (.pantryAgeSweep w) s = .next (s.sweepOne i)) ∧
     (∀ i e, s.pantry = [(i, e)] → i / 131072 ≠ w.val → exec (.pantryAgeSweep w) s = .next s) ∧
     (∀ l, s.leases.find? (fun l => l.handle == h.toNat) = some l → frameReached s.frame l.ends = true →
       ∃ t, exec (.leaseExpiry h) s = .next t ∧ t.leases = s.leases.erase l) ∧
     (∀ l, s.leases.find? (fun l => l.handle == h.toNat) = some l → frameReached s.frame l.ends = false →
       exec (.leaseExpiry h) s = .next s) ∧
     (s.leases.find? (fun l => l.handle == h.toNat) = none → exec (.leaseExpiry h) s = .next s) ∧
     (s.publishes.find? (fun p => p.1 == step) = none → exec (.publishListApply step) s = .next s) ∧
     (∀ p, s.publishes.find? (fun p => p.1 == step) = some p → exec (.publishListApply step) s =
       .next (({ s with publishes := s.publishes.erase p } : State).applyPublish p.2))) ∧
  (∀ (w : Wing) (s : State),
     (s.changesDue = [] → exec .regionChangeApply s = .next s) ∧
     (s.changesDue ≠ [] → exec .regionChangeApply s =
       .next ((({ s with changes := s.changes.filter (fun c => !s.changesDue.contains c) } : State).applyAll s.changesDue).dropPlans)) ∧
     (s.roles.find? (fun r => r.wing == w.val) = none ∨ s.wingBusy w.val = true → exec (.wingRoleChange w) s = .next s) ∧
     (∀ r, s.roles.find? (fun r => r.wing == w.val) = some r → s.wingBusy w.val = false →
       ∃ t, exec (.wingRoleChange w) s = .next t ∧ t.roles = s.roles.filter (fun r => r.wing != w.val)) ∧
     (s.pointOf w.val = none → exec (.operatingPointChangeComplete w) s = .next s) ∧
     (∀ p, s.pointOf w.val = some p → p.frames = 0 → exec (.operatingPointChangeComplete w) s = .next s) ∧
     (∀ p, s.pointOf w.val = some p → p.frames ≠ 0 → p.cmd = none → ∃ t, exec (.operatingPointChangeComplete w) s = .next t ∧
       t.rf (PWR_WING w.val) PWR_WING_OP = p.target % 2 ^ PWR_WING_OP.width ∧ t.pointOf w.val = none ∧ BytesKept s t ∧
       ∀ a, a ≠ PWR_WING w.val → t.reg a = s.reg a))

/-! ## Steps -/

/-- A running step commits when every bay of it has passed its STEP_END mark, and not before (R155, R224): it is in flight no
more, its publish list waits where it has one, and the lanes that faulted in it count no more. A fenced step replays at its
base frame where it is ready, and ends with REPLAY_LATE where it is not (R480 to R482); before that frame both events change
nothing. A pending step begins at its base frame (R151 to R153): it runs, every region is no longer OPEN, and each of its
bays, all of them different, is RUNNING at the start of its own stream with the step's base frame. Before that frame nothing
changes. -/
def Obligations.StepsBeginCommitReplayOrAreLate : Prop :=
  ((∀ (n : Nat) (st : Step) (s : State), s.findStep n = some st →
      (st.phase = .running → (∀ b ∈ st.bays, (s.bay (bayOf b.bay)).stepEnded = true) → ∃ t, exec (.stepCommit n) s = .next t ∧
        t.steps = s.steps.filter (fun x => x.num != n) ∧
        t.publishes = (if st.publish = 0 then s.publishes else s.publishes ++ [(n, st.publish)]) ∧
        (∀ b ∈ st.bays, (t.bay (bayOf b.bay)).faultLanes = []) ∧ ∀ a, memGet t.sram a = memGet s.sram a) ∧
      (st.phase ≠ .running ∨ (∃ b ∈ st.bays, (s.bay (bayOf b.bay)).stepEnded = false) → exec (.stepCommit n) s = .next s)) ∧
   (∀ (n : Nat) (st : Step) (s : State), s.findStep n = some st →
      (st.phase = .fenced → frameReached s.frame st.base = true → st.longLead = false → s.stepReady st = true →
        exec (.stepReplay n) s = .next ((s.launchStep { st with phase := .running, replays := st.replays + 1 }).refreshFlt) ∧
        exec (.replayLate n) s = .next s) ∧
      (st.phase = .fenced → frameReached s.frame st.base = true → s.stepReady st = false →
        exec (.stepReplay n) s = .next s ∧
        ∃ u : State, exec (.replayLate n) s = .next (u.endStep st) ∧ u.steps = s.steps ∧ u.mem = s.mem) ∧
      (st.phase ≠ .fenced ∨ frameReached s.frame st.base = false →
        exec (.stepReplay n) s = .next s ∧ exec (.replayLate n) s = .next s))) ∧
  (∀ (n : Nat) (st : Step) (s : State), s.findStep n = some st →
     (st.phase = .pending → frameReached s.frame st.base = true → st.bays.Pairwise (fun a b => a.bay ≠ b.bay) →
       (∀ b ∈ st.bays, b.bay < 144) → ∃ t, exec (.stepBaseFrame n) s = .next t ∧
         (t.findStep n).map Step.phase = some .running ∧ (∀ k < 64, t.rf (MEM_RGN_ATTR k) MEM_RGN_ATTR_OPEN = 0) ∧
         ∀ b ∈ st.bays, t.rf (BAY_SEQ_STATUS (bayOf b.bay)) BAY_SEQ_STATUS_STATE = seqRunning ∧
           t.rf (BAY_SEQ_CTRL (bayOf b.bay)) BAY_SEQ_CTRL_RUN = 1 ∧
           t.rf (BAY_SEQ_POS (bayOf b.bay)) BAY_SEQ_POS_INDEX = b.start % 2 ^ BAY_SEQ_POS_INDEX.width ∧
           t.rf (BAY_SEQ_POS (bayOf b.bay)) BAY_SEQ_POS_LENGTH = b.length % 2 ^ BAY_SEQ_POS_LENGTH.width ∧
           t.rf (BAY_SEQ_BASE (bayOf b.bay)) BAY_SEQ_BASE_BASE_FRAME = st.base % 2 ^ BAY_SEQ_BASE_BASE_FRAME.width) ∧
     (st.phase ≠ .pending ∨ frameReached s.frame st.base = false → exec (.stepBaseFrame n) s = .next s))

/-! ## Micro-ops -/

/-- The micro-ops that neither round nor draw write lane i of D from lane i of their sources, all read before D is written, and
change no flag (Table 4-11). -/
def Obligations.ExactMicroOpsWriteEveryLane : Prop :=
  ∀ (m : MicroArgs) (s : State) (i : Instr) (f : W32 → W32 → W32 → W32), (i, f) ∈ exactMicroOps m → laneFaultOf m.fault = none →
    ∃ t, exec i s = .next t ∧ MicroFrame m s t ∧ (∀ a, t.reg a = s.reg a) ∧
      ∀ k < 256, t.lane m.bay m.d.val k = f (s.lane m.bay m.a.val k) (s.lane m.bay m.b.val k) (s.lane m.bay m.c.val k)

/-- The micro-ops that round write lane i of D from lane i of their sources, rounded by their mode, and join the flags of every lane
to VFLAGS. The clause on values is for the modes that draw nothing; with SR the lanes are those of some draws. -/
def Obligations.RoundingMicroOpsWriteEveryLane : Prop :=
  ∀ (m : MicroArgs) (s : State) (i : Instr) (f : LaneCtx → W32 → W32 → W32 → W32 × Flags), (i, f) ∈ roundingMicroOps m →
    laneFaultOf m.fault = none → ∃ (t : State) (u : Nat → Nat), exec i s = .next t ∧ MicroFrame m s t ∧
      (microMode m ≠ .sr → (∀ k, u k = 0) ∧ t.vecGen m.bay = s.vecGen m.bay) ∧
      ∀ k < 256,
        let r := f { rm := microMode m, sat := m.sat, u := u k } (s.lane m.bay m.a.val k) (s.lane m.bay m.b.val k)
          (s.lane m.bay m.c.val k)
        t.lane m.bay m.d.val k = r.1 ∧
          ∀ j < BAY_VFLAGS_FLAGS.width, r.2.getLsbD j = true → wbit (t.reg (BAY_VFLAGS m.bay)) (BAY_VFLAGS_FLAGS.lo + j) = true

/-- The micro-ops that move lanes across a register, RSUM, which writes one rounded sum to every lane, and RAND, which steps the
generator once a lane (Table 4-11). Which bits of the generator a lane takes is a free value of the model. -/
def Obligations.CrossLaneMicroOpsWriteEveryLane : Prop :=
  ∀ (m : MicroArgs) (s : State), laneFaultOf m.fault = none →
    (∀ i f, (i, f) ∈ acrossMicroOps m s → ∃ t, exec i s = .next t ∧ MicroFrame m s t ∧ (∀ a, t.reg a = s.reg a) ∧
      ∀ k < 256, t.lane m.bay m.d.val k = f k) ∧
    (microMode m ≠ .sr → ∃ t, exec (.rsum m) s = .next t ∧ MicroFrame m s t ∧ t.vecGen m.bay = s.vecGen m.bay ∧
      ∀ k < 256, t.lane m.bay m.d.val k = BitVec.ofNat 32
        (sumVals ((List.range 256).map (fun i => laneVal (s.lane m.bay m.a.val i))) .fp32 .fp32 (microMode m) m.sat 0).1) ∧
    (∃ t, exec (.rand m) s = .next t ∧ MicroFrame m s t ∧ t.vecGen m.bay = genAfter 256 (s.vecGen m.bay) ∧
      ∀ k < 256, t.lane m.bay m.d.val k = BitVec.ofNat 32
        (roundFin .fp32 .rtz false 0 false (Config.freeRand (genAfter (k + 1) (s.vecGen m.bay))).toNat (-24) false).1)

/-- LDV and GATHER widen elements of a buffer into the lanes of D, STV with an FP32 pointer stores the lanes of D, byte by byte from the
lowest, and LDV and STV move their pointer on by 256 elements. LOOP, ENDLOOP and HALT change only the micro-program's position. A lane
check that fails is the fault of its lane (Table 4-11, R74). -/
def Obligations.PointerAndLoopMicroOps : Prop :=
  ∀ (m : MicroArgs) (s : State),
    let x := (s.bay m.bay).vctx
    let f := s.ptrFmt m.bay m.a.val
    let p := s.ptr m.bay m.a.val
    (laneFaultOf m.fault = none →
      (∃ t, exec (.ldv m) s = .next t ∧ t = { s with mgmt := t.mgmt, bays := t.bays } ∧
        (∀ k < 256, t.lane m.bay m.d.val k = widenElem f (elemAt (s.sramByte m.bay) f p k)) ∧ (∀ b, b ≠ m.bay → t.bay b = s.bay b) ∧
        (t.bay m.bay).vctx = { x with pc := x.pc + 1, ptrs := x.ptrs.set m.a.val (p + 256 * (f.bits / 8)) }) ∧
      (∃ t, exec (.gather m) s = .next t ∧ MicroFrame m s t ∧ ∀ k < 256, t.lane m.bay m.d.val k =
        s.bufElem m.bay f (((p : Int) + (s.lane m.bay m.b.val k).toInt * (f.bits / 8 : Nat)) % (2 ^ 24 : Int)).toNat 0) ∧
      (f = .fp32 → p + 1024 ≤ 2 ^ 24 → ∃ t, exec (.stv m) s = .next t ∧
        t = { s with mgmt := t.mgmt, bays := t.bays, sram := t.sram } ∧
        (∀ k < 256, ∀ j < 4, t.sramByte m.bay (p + 4 * k + j) =
          BitVec.ofNat 8 ((s.lane m.bay m.d.val k).toNat / 2 ^ (8 * j))) ∧
        (∀ b o, o < 2 ^ 24 → (b ≠ m.bay ∨ o < p ∨ p + 1024 ≤ o) → t.sramByte b o = s.sramByte b o) ∧
        t.bay m.bay = { s.bay m.bay with vctx := { x with pc := x.pc + 1, ptrs := x.ptrs.set m.a.val (p + 1024) } }) ∧
      exec (.loop m) s = .next (s.setCtx m.bay { x with pc := x.pc + 1, loops := (x.pc + 1, m.imm.val) :: x.loops }) ∧
      (x.loops = [] → exec (.endloop m) s = .next (s.setCtx m.bay { x with pc := x.pc + 1 })) ∧
      (∀ start left rest, x.loops = (start, left) :: rest → exec (.endloop m) s = .next (s.setCtx m.bay
        (if left = 0 then { x with pc := x.pc + 1, loops := rest } else { x with pc := start, loops := (start, left - 1) :: rest }))) ∧
      exec (.microHalt m) s = .next (s.setCtx m.bay
        (if x.iters = 0 then x else { x with pc := 0, loops := [], iters := x.iters - 1 }))) ∧
    (∀ code lane, laneFaultOf m.fault = some (code, lane) →
      ∀ i ∈ [Instr.add m, .mul m, .rsum m, .ldv m, .stv m, .rand m, .loop m], exec i s = .next (s.laneFault m.bay .vector code lane))

/-! ## Sequencers and descriptors -/

/-- A sequencer runs where the Hearth in office, and no one else, sets RUN in a powered bay. A running one fetches the descriptor
after those it holds, and a unit's descriptor at the front leaves for its queue. SEQ_STALL and EVENT_TIMEOUT stop it where a limit that
is not 0 is reached, and otherwise change nothing (R104, R106, R127, R130). -/
def Obligations.SequencersRunFetchDispatchAndStall : Prop :=
  ∀ (src : Writer) (b : BayId) (s : State),
    (∀ e, s.epoch ≤ e → s.rf (BAY_STATUS b) BAY_STATUS_POWER = 2 → ∃ t, exec (.sequencerRun (.hearth e) b) s = .next t ∧
      t.seqState b = seqRunning ∧ t.rf (BAY_SEQ_CTRL b) BAY_SEQ_CTRL_RUN = 1 ∧ (t.bay b).discard = false ∧ BytesKept s t ∧
      ∀ a, a ≠ BAY_SEQ_CTRL b → a ≠ BAY_SEQ_STATUS b → t.reg a = s.reg a) ∧
    ((∀ e, src = .hearth e → e < s.epoch) ∨ s.rf (BAY_STATUS b) BAY_STATUS_POWER ≠ 2 →
      exec (.sequencerRun src b) s = .next s) ∧
    (let x := s.bay b
     let next := s.rf (BAY_SEQ_POS b) BAY_SEQ_POS_INDEX + x.prefetch.length
     let a := s.rf (BAY_SEQ_STREAM b) BAY_SEQ_STREAM_BASE * 64 + next * 64
     (s.seqRuns b = true → x.prefetch.length < 64 → next < s.rf (BAY_SEQ_POS b) BAY_SEQ_POS_LENGTH →
        (∃ bs, s.localRead a 64 = .ok bs) →
        exec (.descriptorFetch b false) s = .next (s.setBay b { x with prefetch := x.prefetch ++ [(next, s.memWords a 8)] }) ∧
        exec (.descriptorFetch b true) s = .next (s.fetchError b a true)) ∧
     (s.seqRuns b = false ∨ 64 ≤ x.prefetch.length ∨ s.rf (BAY_SEQ_POS b) BAY_SEQ_POS_LENGTH ≤ next →
        ∀ ue, exec (.descriptorFetch b ue) s = .next s) ∧
     (∀ idx d rest, x.prefetch = (idx, d) :: rest → s.seqRuns b = true → x.control = none → s.malformed d = false →
        isControl (dtype d) = false → dtype d ≠ 2 → (dtype d ≠ 0x22 ∨ (moveOf d).uprog = false) →
        (x.queue (unitOf (dtype d))).length < 16 → ∃ t, exec (.descriptorDispatch b) s = .next t ∧ (t.bay b).prefetch = rest ∧
          (t.bay b).queue (unitOf (dtype d)) = x.queue (unitOf (dtype d)) ++ [{ idx := idx, d := d, slip := 0 }] ∧
          t.rf (BAY_SEQ_POS b) BAY_SEQ_POS_INDEX = (idx + 1) % 2 ^ BAY_SEQ_POS_INDEX.width ∧ BytesKept s t) ∧
     (∀ idx d rest, x.prefetch = (idx, d) :: rest → s.seqRuns b = true → x.control = none → s.malformed d = true →
        exec (.descriptorDispatch b) s = .next (s.malformedStop b idx d)) ∧
     (s.seqRuns b = false ∨ x.control ≠ none ∨ x.prefetch = [] → exec (.descriptorDispatch b) s = .next s)) ∧
    (let n := s.rf (BAY_SEQ_CTRL b) BAY_SEQ_CTRL_STALL_FRAMES
     (n ≠ 0 → n ≤ (s.bay b).stall → s.hasWork b = true → exec (.seqStall b) s = .next (s.seqFault b F_SEQ_STALL)) ∧
     (n = 0 ∨ (s.bay b).stall < n ∨ s.hasWork b = false → exec (.seqStall b) s = .next s)) ∧
    ((s.bay b).control = none → exec (.eventTimeout b) s = .next s) ∧
    (∀ r, (s.bay b).control = some r → dtype r.d = 0x41 → dfield r.d 4 31 16 ≠ 0 → dfield r.d 4 31 16 ≤ (s.bay b).ctlFrames →
      s.waitEventMet b r.d = false → exec (.eventTimeout b) s = .next (s.seqFault b F_EVENT_TIMEOUT))

/-- NOP, SIGNAL, WAIT_EVENT, FENCE and FRAME_MARK at the front of a sequencer that runs: once its start and its wait condition hold it leaves
the prefetch; where what it waits for holds it has its effect and completes, and where not it holds the sequencer until it does
(R125 to R129). The
duration in its completion record is a free value. -/
def Obligations.ControlDescriptorsWaitAndComplete : Prop :=
  ∀ (b : BayId) (i : Instr) (type : Nat) (s : State),
    (i, type) ∈ ([(.nop b, 0x00), (.signal b, 0x40), (.waitEvent b, 0x41), (.fence b, 0x42), (.frameMark b, 0x43)] : List (Instr × Nat)) →
    (∀ idx d rest, (s.bay b).prefetch = (idx, d) :: rest → (s.bay b).control = none → dtype d = type → s.seqRuns b = true →
      s.malformed d = false → s.startBegun b d = true → s.waitMet b d = true →
      let r : Running := { idx := idx, d := d, startFrame := s.frame, flags := 0, slip := 0, late := false, status := 0, waiting := 0, launched := false }
      let u := (s.wf (BAY_SEQ_POS b) BAY_SEQ_POS_INDEX (idx + 1)).setBay b
        { s.bay b with prefetch := rest, control := some r, ctlFrames := 0, progress := true }
      (u.controlMet b d = false → exec i s = .next u) ∧
      let v := (u.setBay b { u.bay b with control := none, ctlFrames := 0 }).controlEffect b d
      (u.controlMet b d = true → exec i s = .next (v.draw.2.complete b r (v.draw.1.toNat % 2 ^ 16))) ∧
      (type = 0x00 ∨ type = 0x41 ∨ type = 0x42 → (v.bay b).control = none ∧ BytesKept s v ∧
        ∀ a, a ≠ BAY_SEQ_POS b → v.reg a = s.reg a) ∧
      (type = 0x40 → dfield d 2 13 13 = 1 → s.isFenced (locBay b) = false → s.rf (BAY_STATUS b) BAY_STATUS_POWER = 2 →
        v.evt b (dfield d 2 12 8) = (s.evt b (dfield d 2 12 8) + dfield d 2 31 16) % 2 ^ 16)) ∧
    (∀ idx d rest, (s.bay b).prefetch = (idx, d) :: rest → (s.bay b).control = none → dtype d = type →
      s.malformed d = false → s.startBegun b d = false ∨ s.waitMet b d = false → exec i s = .next s) ∧
    ((s.bay b).control = none → (∀ p ∈ (s.bay b).prefetch.head?, dtype p.2 ≠ type) → exec i s = .next s)

/-- The descriptors of a unit start at the head of its queue (R106, R107): none starts without one that is ready; one that computes in its bay
leaves the queue and runs, and no stacked memory and no other bay changes; those that move data do what their type does. A completion
is that of what runs. -/
def Obligations.UnitDescriptorsStartAndComplete : Prop :=
  ∀ (b : BayId) (e : UnitEnv) (s : State),
    (∀ i u type, (i, u, type) ∈ unitRows b e → s.headReady b u type = none → exec i s = .next s) ∧
    (s.headReady b .matrix 0x02 = none ∨ s.headReady b .vector 0x02 = none → exec (.attnBlock b e) s = .next s) ∧
    (∀ q i u type ok, (i, u, type, ok) ∈ localRows s b q → s.headReady b u type = some q → ok →
      ∃ t, exec i s = .next t ∧ t.mem = s.mem ∧ (∀ c, c ≠ b → t.bay c = s.bay c) ∧
        (∀ c, c ≠ b → ∀ o < 2 ^ 24, t.sramByte c o = s.sramByte c o) ∧
        (t.bay b).queue u = ((s.bay b).queue u).drop 1 ∧ ((t.bay b).running u).map Running.idx = some q.idx) ∧
    (∀ q, s.headReady b .matrix 0x02 = some q → s.headReady b .vector 0x02 = some q → (attnOf q.d).fq ≠ none →
      (attnOf q.d).fk ≠ none → (attnOf q.d).fv ≠ none → (attnOf q.d).out ≠ none → ∃ t, exec (.attnBlock b quietUnit) s = .next t ∧
        t.mem = s.mem ∧ (t.bay b).qMat = (s.bay b).qMat.drop 1 ∧ (t.bay b).qVec = (s.bay b).qVec.drop 1 ∧
        (t.bay b).rMat.map Running.idx = some q.idx ∧ (t.bay b).rVec.map Running.idx = some q.idx) ∧
    (∀ q, s.headReady b .vector 0x11 = some q → (s.bay b).slotLoading (dfield q.d 2 3 0) q.idx = false →
      (wbit (s.reg (BAY_SEQ_UPROG b)) (dfield q.d 2 3 0) = true →
        exec (.vecMicro b e) s = .next ((s.startHead b .vector q).vecMicroRun b q.d e)) ∧
      (wbit (s.reg (BAY_SEQ_UPROG b)) (dfield q.d 2 3 0) = false → exec (.vecMicro b e) s = .next (s.malformedStop b q.idx q.d))) ∧
    (∀ q, s.headReady b .data 0x22 = some q →
      ((moveOf q.d).uprog = false → exec (.microprogramLoad b e) s = .next s ∧
        let r := State.readRows b e.mem (moveOf q.d).loadRows (s.startHead b .data q)
        (r.2 = .done → exec (.load b e) s = .next r.1) ∧ (∀ x, r.2 = .bad x → exec (.load b e) s = .next (r.1.dataError b x))) ∧
      ((moveOf q.d).uprog = true → exec (.load b e) s = .next s ∧
        let u := s.startHead b .data q
        let r := (u.setBay b { u.bay b with parts := [] }).readRow b e.mem (moveOf q.d).da (moveOf q.d).rowBytes
          { sram := 0, conv := none, uprog := some (moveOf q.d).slot, undef := false }
        (r.2 = .done → exec (.microprogramLoad b e) s = .next (r.1.placeProgram b)) ∧
        (∀ x, r.2 = .bad x → exec (.microprogramLoad b e) s = .next (r.1.dataError b x)))) ∧
    (∀ q, s.headReady b .data 0x23 = some q →
      ((s.startHead b .data q).storeReadonly (moveOf q.d) = true →
        exec (.store b e) s = .next ((s.startHead b .data q).dataError b .readonly)) ∧
      ((s.startHead b .data q).storeReadonly (moveOf q.d) = false → e.sram = [] →
        let k := (s.startHead b .data q).partDone none (moveOf q.d).rows 1
        let r := State.storeRows b e.mem q.d (moveOf q.d) k.1 0 k.2
        (r.2 = .done → exec (.store b e) s = .next r.1) ∧ (∀ x, r.2 = .bad x → exec (.store b e) s = .next (r.1.dataError b x)))) ∧
    (∀ q, s.headReady b .data 0x24 = some q →
      exec (.select b e) s = .next ((s.startHead b .data q).selectRun b (selectOf q.d) e)) ∧
    (∀ q, s.headReady b .exchange 0x30 = some q → e.sram = [] →
      ((xchgOf q.d).link = 255 → exec (.send b e) s = .next ((s.startHead b .exchange q).sendLocal b (xchgOf q.d))) ∧
      ((xchgOf q.d).link ≠ 255 → exec (.send b e) s = .next ((s.startHead b .exchange q).sendLink b q (xchgOf q.d)))) ∧
    (∀ q, s.headReady b .exchange 0x31 = some q →
      (64 ≤ (s.bay b).recvs.length → exec (.recv b) s = .next s) ∧
      ((s.bay b).recvs.length < 64 → (s.bay b).arrived = [] → ∃ t, exec (.recv b) s = .next t ∧
        (t.bay b).recvs = (s.bay b).recvs ++ [{ idx := q.idx, d := q.d, link := (xchgOf q.d).link, flow := (xchgOf q.d).flow, dst := (xchgOf q.d).addr, len := (xchgOf q.d).len, got := 0, startFrame := s.frame }] ∧
        (t.bay b).qXchg = (s.bay b).qXchg.drop 1 ∧ (∀ a, t.reg a = s.reg a) ∧ BytesKept s t)) ∧
    (∀ u cycles, ((s.bay b).running u = none → u ≠ .exchange → exec (.descriptorComplete b u cycles) s = .next (s.settleControl b)) ∧
      (∀ r, (s.bay b).running u = some r → u = .vector ∨ u = .matrix → dtype r.d ≠ 2 → exec (.descriptorComplete b u cycles) s =
        .next (((s.setBay b ((s.bay b).setRunning u none)).complete b r cycles).settleControl b)) ∧
      (∀ r, (s.bay b).running u = some r → u = .data → exec (.descriptorComplete b u cycles) s =
        .next ((if r.waiting = 0 then (s.setBay b ((s.bay b).setRunning u none)).complete b r cycles else s).settleControl b)))

/-- VEC on FP32 buffers, one group, sources that the destination does not overlap or coincides with: element j of the destination is the
micro-op of element j of the sources, and no other byte of bay SRAM changes (R139). -/
def Obligations.VecComputesEveryElement : Prop :=
  ∀ (b : BayId) (q : Queued) (s : State),
    let x := vecOf q.d
    s.headReady b .vector 0x10 = some q → x.fa = some .fp32 → x.fb = some .fp32 → x.fd = some .fp32 → x.scalar = false →
    0 < x.count → x.count ≤ 256 → x.dst + 4 * x.count ≤ 2 ^ 24 → x.undef .fp32 .fp32 .fp32 = false → dRmode q.d ≠ .sr →
    ∃ t, exec (.vec b quietUnit) s = .next t ∧
      (∀ j < x.count, t.elem32 b x.dst j = (laneOp x.op { rm := dRmode q.d, sat := dSat q.d, u := 0 } (s.elem32 b x.a j)
        (if microUsesB x.op then s.elem32 b x.b j else 0) (if microUsesC x.op then s.elem32 b x.c j else 0)).1) ∧
      (∀ c o, o < 2 ^ 24 → (c ≠ b ∨ o < x.dst ∨ x.dst + 4 * x.count ≤ o) → t.sramByte c o = s.sramByte c o) ∧
      t.mem = s.mem ∧ ((t.bay b).rVec.map Running.idx = some q.idx)

/-! ## Registers and the bridge -/

/-- Register writes (R6, R95, R176, R260, R326, R360, R383): in mode off, to BAR0 from any but the host, and with an epoch that has passed it does nothing; an
address that is not aligned, or another width than 8, is an error of management access; the Hearth in office writes as firmware, another
writer as a host. The counter clears zero the counters of their unit and leave every other register, and only the Hearth in office makes
them; LDR_CTRL keeps EN to the slices that are able and drops the lines of the rest. -/
def Obligations.RegisterWritesAndCounterClears : Prop :=
  (∀ (src : Writer) (sp : Space) (a width e : Nat) (v : Word) (s : State),
    (s.mode = .off → exec (.registerWrite src sp a width v) s = .next s) ∧
    (src ≠ .host → exec (.registerWrite src .bar0 a width v) s = .next s) ∧
    (e < s.epoch → exec (.registerWrite (.hearth e) .mgmt a width v) s = .next s) ∧
    (s.mode ≠ .off → s.epoch ≤ e → width ≠ 8 ∨ a % 8 ≠ 0 →
      exec (.registerWrite (.hearth e) .mgmt a width v) s = .next (s.mgmtError locPackage a)) ∧
    (s.mode ≠ .off → s.epoch ≤ e → a % 8 = 0 →
      exec (.registerWrite (.hearth e) .mgmt a 8 v) s = .next (s.mgmtWrite true true a v)) ∧
    (s.mode ≠ .off → a % 8 = 0 → exec (.registerWrite .peer .mgmt a 8 v) s = .next (s.mgmtWrite false false a v) ∧
      exec (.registerWrite .host .mgmt a 8 v) s = .next (s.mgmtWrite false false a v)) ∧
    (s.mode ≠ .off → s.epoch ≤ e → ∃ t, exec (.registerWrite (.hearth e) .mgmt HRT_START 8 v) s = .next t ∧
      t.rf HRT_START HRT_START_DEADLINE_MS = max 2000 (getField v HRT_START_DEADLINE_MS) % 2 ^ HRT_START_DEADLINE_MS.width ∧
      ∀ b, b ≠ HRT_START → t.reg b = s.reg b) ∧
    (s.mode ≠ .off → s.functionUp = true → width % 8 = 0 → a % 8 = 0 → a + width ≤ 0x100000 → 0 < width →
      exec (.registerWrite .host .bar0 a width v) s =
        .next { s with ringMem := memWrite s.ringMem a (natToBytes width v.toNat) })) ∧
  (∀ (src : Writer) (b : BayId) (c : Casement) (w : Wing) (en : BitVec 3) (s : State),
    (fromHearth s src = false → exec (.eccClr src b) s = .next s ∧ exec (.csmCntClr src c) s = .next s ∧
      exec (.strCntClr src) s = .next s ∧ exec (.drlCntClr src c) s = .next s ∧ exec (.skyCntClr src c) s = .next s ∧
      exec (.larderEnable src w en) s = .next s) ∧
    (fromHearth s src = true →
      (∃ t, exec (.eccClr src b) s = .next t ∧ t.reg (BAY_ECC b) = 0 ∧ (∀ a, a ≠ BAY_ECC b → t.reg a = s.reg a) ∧ BytesKept s t) ∧
      (∃ t, exec (.csmCntClr src c) s = .next t ∧ BytesKept s t ∧
        (∀ f < 16, t.reg (CSM_RXCW c.val f) = 0 ∧ t.reg (CSM_RXCORR c.val f) = 0 ∧ t.reg (CSM_RXSYM c.val f) = 0 ∧
          t.reg (CSM_RXUNC c.val f) = 0) ∧
        (∀ i < 128, t.rf (CSM_RXLANE c.val i) CSM_RXLANE_SYM_ERR = 0) ∧
        ∀ a, (∀ f < 16, a ≠ CSM_RXCW c.val f ∧ a ≠ CSM_RXCORR c.val f ∧ a ≠ CSM_RXSYM c.val f ∧ a ≠ CSM_RXUNC c.val f) →
          (∀ i < 128, a ≠ CSM_RXLANE c.val i) → t.reg a = s.reg a) ∧
      (∃ t, exec (.strCntClr src) s = .next t ∧ BytesKept s t ∧
        (∀ x < 8, ∀ f < 16, t.rf (STR_FERR x f) STR_FERR_WRONG_PEER = 0 ∧ t.rf (STR_FERR x f) STR_FERR_NO_LIGHT = 0 ∧
          t.rf (STR_FERR x f) STR_FERR_LATE = 0) ∧
        (∀ x < 8, t.rf (STR_PLANSTAT x) STR_PLANSTAT_SKIPPED = 0) ∧
        ∀ a, (∀ x < 8, a ≠ STR_PLANSTAT x ∧ ∀ f < 16, a ≠ STR_FERR x f) → t.reg a = s.reg a) ∧
      (∃ t, exec (.drlCntClr src c) s = .next t ∧ BytesKept s t ∧
        (∀ l ∈ csmLinks c.val, t.reg (DRL_RXERR l) = 0 ∧ t.reg (DRL_EVENTS l) = 0) ∧
        ∀ a, (∀ l ∈ csmLinks c.val, a ≠ DRL_RXERR l ∧ a ≠ DRL_EVENTS l) → t.reg a = s.reg a) ∧
      (∃ t, exec (.skyCntClr src c) s = .next t ∧ BytesKept s t ∧ t.reg (SKY_JOBS c.val) = 0 ∧
        t.rf (SKY_ERR c.val) SKY_ERR_CLIPS = 0 ∧ t.rf (SKY_ERR c.val) SKY_ERR_READ_FAILS = 0 ∧
        ∀ a, a ≠ SKY_JOBS c.val → a ≠ SKY_ERR c.val → t.reg a = s.reg a) ∧
      (∃ t, exec (.larderEnable src w en) s = .next t ∧ BytesKept s t ∧
        t.rf (LDR_CTRL w.val) LDR_CTRL_EN = (en.toNat &&& s.larderAble w.val) % 2 ^ LDR_CTRL_EN.width ∧
        (∀ a, a ≠ LDR_CTRL w.val → t.reg a = s.reg a) ∧
        t.larders = s.larders.filter (fun x => !(x.1 / 32768 / 3 == w.val &&
          (en.toNat &&& s.larderAble w.val) / 2 ^ (x.1 / 32768 % 3) % 2 == 0)))))

/-- The host bridge's rings, queues, DMA channels and Hatch (R417, R418, R426, R427, R430, R434, R436 to R438). Where the package is no bridge none of them
acts. A ring that is enabled starts empty and without a role; a TAIL that moves past the free slots stops the ring. ARM takes effect with
its write. A DMA channel that stopped on an error goes on only by RESUME, past the descriptor. The Hatch stops with cause 5 at a length
that is no multiple of 8 from 8 to 4,096, and advances by what it moved. -/
def Obligations.BridgeRingsQueuesDmaAndHatch : Prop :=
  (∀ (r : RingIdx) (q : EvQueue) (ch : DmaChan) (v : Word) (s : State), s.isBridge = false →
    ∀ i ∈ [Instr.commandDoorbell r v, .commandRingEnable r v, .eventQueueHeadWrite q v, .eventQueueEnable q v, .arm q v, .dmaDoorbell ch v, .hatchErrClear, .functionLevelReset],
      exec i s = .next s) ∧
  (∀ (r : RingIdx) (q : EvQueue) (v : Word) (c : Cmd) (s : State), s.isBridge = true →
    (getField v HB_CRING_CFG_EN = 1 → s.hf (HB_CRING_CFG r.val) HB_CRING_CFG_EN = 0 → s.hf (HB_CRING_CFG r.val) HB_CRING_CFG_ROLE = 0 →
      ∃ t, exec (.commandRingEnable r v) s = .next t ∧ t.hf (HB_CRING_CFG r.val) HB_CRING_CFG_EN = 1 ∧
        t.hf (HB_CRING_CFG r.val) HB_CRING_CFG_STATE = 1 ∧ t.hreg (HB_CRING_PTR r.val) = 0 ∧
        t.hf (HB_CRING_CFG r.val) HB_CRING_CFG_EVQ = getField v HB_CRING_CFG_EVQ ∧
        (∀ a, a ≠ HB_CRING_CFG r.val → a ≠ HB_CRING_PTR r.val → t.hreg a = s.hreg a) ∧ (∀ a, t.reg a = s.reg a) ∧ BytesKept s t) ∧
    (s.hf (HB_CRING_CFG r.val) HB_CRING_CFG_EN = 0 → exec (.commandDoorbell r v) s = .next s) ∧
    (s.hf (HB_CRING_CFG r.val) HB_CRING_CFG_EN = 1 → s.hf (HB_CRING_CFG r.val) HB_CRING_CFG_STATE = 1 →
      let free := (s.ringHead r.val + 1023 - s.ringTail r.val) % 1024
      let more := (getField v HB_CRING_PTR_TAIL + 1024 - s.ringTail r.val) % 1024
      (free < more → exec (.commandDoorbell r v) s = .next (s.whf (HB_CRING_CFG r.val) HB_CRING_CFG_STATE 2)) ∧
      (more ≤ free → exec (.commandDoorbell r v) s =
        .next (State.takeRing 1024 (s.whf (HB_CRING_PTR r.val) HB_CRING_PTR_TAIL (getField v HB_CRING_PTR_TAIL)) r))) ∧
    (exec (.eventQueueHeadWrite q v) s =
      .next ((s.whf (HB_EVQ_PTR q.val) HB_EVQ_PTR_HEAD (getField v HB_EVQ_PTR_HEAD)).drainEvq q.val)) ∧
    (11 ≤ getField v HB_EVQ_CFG_SIZE → exec (.eventQueueEnable q v) s = .next s) ∧
    (s.sizeBad (HB_EVQ_CFG q.val) HB_EVQ_CFG_SIZE HB_EVQ_CFG_EN v = false → getField v HB_EVQ_CFG_EN = 0 →
      getField v HB_EVQ_CFG_ARM = 0 → ∃ t, exec (.eventQueueEnable q v) s = .next t ∧ t.hf (HB_EVQ_CFG q.val) HB_EVQ_CFG_EN = 0 ∧
        t.hreg (HB_EVQ_PTR q.val) = 0 ∧ t.hf (HB_EVQ_CFG q.val) HB_EVQ_CFG_SIZE = getField v HB_EVQ_CFG_SIZE ∧ BytesKept s t) ∧
    (getField v HB_EVQ_CFG_ARM = 0 → exec (.arm q v) s = .next s) ∧
    (getField v HB_EVQ_CFG_ARM = 1 → exec (.arm q v) s = exec (.eventQueueEnable q v) s) ∧
    (∃ t, exec .hatchErrClear s = .next t ∧ t.hreg HB_HATCH_ERR = 0 ∧ (∀ a, a ≠ HB_HATCH_ERR → t.hreg a = s.hreg a) ∧
      (∀ a, t.reg a = s.reg a) ∧ BytesKept s t) ∧
    (s.activeOf c.tag (originOf s c) c.ringId = none → exec (.cmdTimeout c) s = .next s) ∧
    (∀ a, s.activeOf c.tag (originOf s c) c.ringId = some a → isForwarded c = false → a.dead = false → a.target ≠ 0xFFF →
      s.hf HB_BRIDGE HB_BRIDGE_CMD_TIMEOUT ≤ s.framesSince a.started → exec (.cmdTimeout c) s =
        .next (({ s with active := s.active.map (fun x => if x = a then { a with dead := true } else x) } : State).sendReply 1 a.tag a.origin a.ring stTimeout a.opcode []))) ∧
  (∀ (ch : DmaChan) (v : Word) (hostErr : Bool) (ue : Option Nat) (peer : PeerReply) (moved : Nat) (s : State),
    let cfg := HB_DMA_CFG ch.val
    (s.isBridge = true → s.hf cfg HB_DMA_CFG_STATE ≠ 2 → ∃ t, exec (.dmaDoorbell ch v) s = .next t ∧ BytesKept s t ∧
      t.dmaTail ch.val = getField v HB_DMA_PTR_TAIL ∧ t.dmaHead ch.val = s.dmaHead ch.val ∧
      t.hf cfg HB_DMA_CFG_STATE = if s.dmaOn ch.val = true ∧ s.dmaHead ch.val ≠ getField v HB_DMA_PTR_TAIL then 1 else 0) ∧
    (s.busMaster = false ∨ s.dmaOn ch.val = false ∨ s.hf cfg HB_DMA_CFG_STATE ≠ 1 →
      exec (.dmaDescriptorComplete ch hostErr ue peer) s = .next s) ∧
    (s.busMaster = true → s.dmaOn ch.val = true → s.hf cfg HB_DMA_CFG_STATE = 1 →
      let x := dmaOf s.hostMem (s.dmaDesc ch.val)
      let r := s.dmaRun x hostErr ue peer
      let t := r.1.dmaW3 ch.val r.2.1 r.2.2
      (r.2.1 = 0 → x.irq = false → exec (.dmaDescriptorComplete ch hostErr ue peer) s =
        .next ((t.whf (HB_DMA_PTR ch.val) HB_DMA_PTR_HEAD ((t.dmaHead ch.val + 1) % t.dmaSize ch.val)).dmaState ch.val)) ∧
      (r.2.1 ≠ 0 → exec (.dmaDescriptorComplete ch hostErr ue peer) s = .next (t.whf cfg HB_DMA_CFG_STATE 2))) ∧
    (s.dmaOn ch.val = true → s.hf cfg HB_DMA_CFG_STATE = 2 → exec (.resume ch) s =
      .next ((s.whf (HB_DMA_PTR ch.val) HB_DMA_PTR_HEAD ((s.dmaHead ch.val + 1) % s.dmaSize ch.val)).dmaState ch.val)) ∧
    (s.dmaOn ch.val = false ∨ s.hf cfg HB_DMA_CFG_STATE ≠ 2 → exec (.resume ch) s = .next s) ∧
    (s.dmaOn ch.val = false → exec (.dmaChannelDisable ch moved) s = .next s) ∧
    (s.dmaOn ch.val = true → s.hf cfg HB_DMA_CFG_STATE ≠ 1 → ∃ t, exec (.dmaChannelDisable ch moved) s = .next t ∧
      t.dmaOn ch.val = false ∧ t.hf cfg HB_DMA_CFG_STATE = 0 ∧ t.dmaHead ch.val = s.dmaTail ch.val ∧ BytesKept s t)) ∧
  (∀ (bs : List Byte) (n : Nat) (ue : Option Nat) (peer : PeerReply) (s : State),
    let stopped : State := s.setHreg HB_HATCH_ERR (packFields [(HB_HATCH_ERR_ERR, 1), (HB_HATCH_ERR_CAUSE, 5), (HB_HATCH_ERR_DA, s.hatchAddr)])
    (s.functionUp = false ∨ s.hf HB_HATCH_ERR HB_HATCH_ERR_ERR = 1 → ∀ all, exec (.hatchWrite bs all peer) s = .next s ∧
      exec (.hatchRead n ue peer) s = .next s) ∧
    (s.functionUp = true → s.hf HB_HATCH_ERR HB_HATCH_ERR_ERR = 0 →
      (bs.length % 8 ≠ 0 ∨ bs.length = 0 ∨ 4096 < bs.length → ∀ all, exec (.hatchWrite bs all peer) s = .next stopped) ∧
      (exec (.hatchWrite bs false peer) s = .next stopped) ∧
      (n % 8 ≠ 0 ∨ n = 0 ∨ 4096 < n → exec (.hatchRead n ue peer) s = .next stopped) ∧
      (∀ u, bs.length % 8 = 0 → bs.length ≠ 0 → bs.length ≤ 4096 → s.hostWrite s.hatchAddr bs peer = (u, none) →
        exec (.hatchWrite bs true peer) s = .next (u.hatchAdvance bs.length)) ∧
      (∀ u d, n % 8 = 0 → n ≠ 0 → n ≤ 4096 → s.hostRead s.hatchAddr n ue peer = (u, .ok d) →
        exec (.hatchRead n ue peer) s = .next (u.hatchAdvance n))))

/-- PERST, the function-level reset and configuration requests (R416, R529), and the I3C data window and commands (R536):
PERST marks the port down, and its end begins training; a function-level reset empties the configuration space, the pending
interrupts and the Hatch; a configuration write keeps the bits that can be written. The window takes whole words while the
package runs and moves on by what it wrote; an I3C command that is too long is answered BAD_PARAM. The I3C port: the straps
are sampled with VAUX, a dynamic address is taken where none is held (the model's reading of MIPI I3C Basic), and the data
window takes an address aligned to 8 bytes (R536, R549). -/
def Obligations.PcieResetsConfigurationAndI3c : Prop :=
  (∀ (off : Nat) (w : W32) (bs : List Byte) (peer : PeerReply) (c : Cmd) (s : State),
     (s.isBridge = false → ∃ t, exec (.perstN true) s = .next t ∧ t.rf PCH_PCIE PCH_PCIE_PERST = 1 ∧
       t.rf PCH_PCIE PCH_PCIE_LINK_UP = 0 ∧ t.rf PCH_PCIE PCH_PCIE_WIDTH = 0 ∧ BytesKept s t ∧ t.hb = s.hb) ∧
     (exec (.perstN false) s = .next (s.wf PCH_PCIE PCH_PCIE_PERST 0).pcieTrain) ∧
     (s.functionUp = true → ∃ t, exec .functionLevelReset s = .next t ∧ t.hreg HB_HATCH_ADDR = 0 ∧ t.hreg HB_HATCH_ERR = 0 ∧
       t.pci = [] ∧ t.msixPending = []) ∧
     (exec (.configurationRequest off none) s = .next s) ∧
     (s.functionUp = false → exec (.configurationRequest off (some w)) s = .next s) ∧
     (s.functionUp = true → off / 4 ≠ 1 → s.busMaster = false → ∃ t, exec (.configurationRequest off (some w)) s = .next t ∧
       sparseGet pciDefault t.pci (off / 4) = w &&& pciMask (off / 4) ∧ t = { s with pci := t.pci } ∧
       ∀ k, k ≠ off / 4 → sparseGet pciDefault t.pci k = sparseGet pciDefault s.pci k) ∧
     (s.mode = .off ∨ s.mode = .initHold ∨ s.mode = .safeHold ∨ bs.length % 8 ≠ 0 ∨ bs.length = 0 ∨ 256 < bs.length →
       exec (.i3cDataWrite bs peer) s = .next s) ∧
     (∀ u, (s.mode = .starting ∨ s.mode = .ready) → bs.length % 8 = 0 → bs.length ≠ 0 → bs.length ≤ 256 →
       s.hostWrite s.i3cAddr bs peer = (u, none) →
       exec (.i3cDataWrite bs peer) s = .next { u with i3cAddr := (s.i3cAddr + bs.length) % 2 ^ 48 }) ∧
     (s.mode = .off → exec (.i3cCommandWrite c) s = .next s) ∧
     (s.mode ≠ .off → 256 < c.len ∨ c.len % 8 ≠ 0 → exec (.i3cCommandWrite c) s =
       .next (({ s with locals := sparseSet localsDefault s.locals 20 [] } : State).reply { c with via := .i3c } stBadParam [])) ∧
     (s.mode ≠ .off → c.len ≤ 256 → c.len % 8 = 0 → exec (.i3cCommandWrite c) s = runOpcode { c with via := .i3c }
       (({ s with locals := sparseSet localsDefault s.locals 20 [] } : State).takeCmd { c with via := .i3c }))) ∧
  (∀ (straps : BitVec 2) (a : BitVec 7) (da : Word) (s : State),
     exec (.vauxWithinTolerance straps) s = .next { s with straps := straps.toNat } ∧
     (s.i3cDyn = none → exec (.setdasa a) s = .next { s with i3cDyn := some a.toNat } ∧
       exec (.entdaa a) s = .next { s with i3cDyn := some a.toNat }) ∧
     (s.i3cDyn ≠ none → exec (.setdasa a) s = .next s ∧ exec (.entdaa a) s = .next s) ∧
     (s.mode ≠ .off → da.toNat % 8 = 0 →
       exec (.i3cDataAddressWrite da) s = .next { s with i3cAddr := da.toNat % 2 ^ 48 }) ∧
     (s.mode = .off ∨ da.toNat % 8 ≠ 0 → exec (.i3cDataAddressWrite da) s = .next s))

/-! ## Hearths, power and self-test -/

/-- The Hearth pair (R444 to R446, R449, R452): a heartbeat of the Hearth in office ends its silence, one of an epoch that has passed from a stale peer
sends that peer to CHECK; a digest that differs, or comes too late, sends both to CHECK; a standby that passes alone re-synchronises, and
where both pass the active one stays and the other re-synchronises with DIVERGE reported; two silent frames end in a takeover. Where its
condition does not hold each event changes nothing. -/
def Obligations.HearthPairAgreesOrTakesOver : Prop :=
  ∀ (hb p q : Bool) (e n k : Nat) (d : Word) (s : State),
    let a := s.activeHb
    (s.mode = .off → exec (.heartbeat hb e n) s = .next s ∧ exec (.digestCompare n d) s = .next s ∧
      exec (.digestTimeout k) s = .next s ∧ exec (.selfcheck p q) s = .next s ∧ exec .heartbeatMissing s = .next s ∧
      exec (.resyncComplete hb) s = .next s) ∧
    (s.mode ≠ .off → exec (.heartbeat a s.epoch n) s = .next { s with pair := { s.pair with silent := 0, heard := true } }) ∧
    (e ≠ s.epoch → exec (.heartbeat a e n) s = .next s) ∧
    (s.pair.stale = false ∨ s.epoch ≤ e → exec (.heartbeat (!a) e n) s = .next s) ∧
    (s.mode ≠ .off → s.pair.stale = true → e < s.epoch → ∃ t, exec (.heartbeat (!a) e n) s = .next t ∧ t.hearth (!a) = hsCheck ∧
      t.pair = { s.pair with stale := false }) ∧
    (s.mode ≠ .off → s.paired = true → s.hearth (!a) = hsStandby →
      (d ≠ Config.outDigest s.epoch n → ∃ t, exec (.digestCompare n d) s = .next t ∧ exec (.digestTimeout k) s = .next t ∧
        t.hearth false = hsCheck ∧ t.hearth true = hsCheck ∧ (∀ r, r ≠ HRT_HSTATUS → t.reg r = s.reg r) ∧ BytesKept s t) ∧
      exec (.digestCompare n (Config.outDigest s.epoch n)) s = .next s) ∧
    (s.paired = false ∨ s.hearth (!a) ≠ hsStandby → exec (.digestCompare n d) s = .next s ∧ exec (.digestTimeout k) s = .next s) ∧
    (s.hearth (!a) ≠ hsCheck → exec (.selfcheck p q) s = .next s) ∧
    (s.mode ≠ .off → s.hearth (!a) = hsCheck → s.hearth a ≠ hsCheck →
      (∃ t, exec (.selfcheck p true) s = .next t ∧ t.hearth (!a) = hsResync ∧ t.hearth a = s.hearth a ∧
        ∀ r, r ≠ HRT_HSTATUS → t.reg r = s.reg r) ∧
      exec (.selfcheck p false) s = .next (s.loseHearth (!a))) ∧
    (s.mode ≠ .off → s.hearth (!a) = hsCheck → s.hearth a = hsCheck →
      (∃ u : State, exec (.selfcheck true true) s = .next (u.raise F_DIVERGE locPackage 0) ∧ u.hearth a = hsActive ∧
        u.hearth (!a) = hsResync ∧ u.paired = false ∧ u.fences = s.fences) ∧
      (exec (.selfcheck true false) s = .next ((s.setHearth a hsActive).loseHearth (!a))) ∧
      exec (.selfcheck false false) s = .next s.loseHearths) ∧
    (s.pair.silent < 2 → exec .heartbeatMissing s = .next s) ∧
    (s.mode ≠ .off → 2 ≤ s.pair.silent → s.hearth (!a) = hsStandby → exec .heartbeatMissing s = .next s.takeover) ∧
    (s.mode ≠ .off → 2 ≤ s.pair.silent → s.hearth (!a) ≠ hsStandby → s.hearth (!a) ≠ hsCheck →
      exec .heartbeatMissing s = .next s.loseHearths) ∧
    (s.hearth hb ≠ hsResync → exec (.resyncComplete hb) s = .next s) ∧
    (s.mode ≠ .off → s.hearth hb = hsResync → ∃ t, exec (.resyncComplete hb) s = .next t ∧ t.hearth hb = hsStandby ∧
      t.paired = true ∧ (∀ r, r ≠ HRT_HSTATUS → t.reg r = s.reg r) ∧ BytesKept s t)

/-- Power and the Chimney (R36, R100, R259, R456, R460, R463, R465, R467): a request waits as a change of its unit, begins when it may, and completes once its least time has
passed; the cap lowers every wing's point at its limit; a die under 92.5% of its supply for 50 ns is clamped; a sensor is excluded
once; a temperature at a trip level clamps the package and counts the trip for life. -/
def Obligations.PowerChangesCapAndTrips : Prop :=
  (∀ (src : Writer) (b : BayId) (c : Casement) (on : Bool) (s : State),
    (fromHearth s src = false → exec (.bayPowerReq src b on) s = .next s ∧ exec (.csmPowerReq src c on) s = .next s) ∧
    (fromHearth s src = true → s.powerJob (locBay b) = none → s.unitOn (.bay b) = !on → s.unitOff (.bay b) = on →
      ∃ t, exec (.bayPowerReq src b on) s = .next t ∧ t.rf (BAY_CTRL b) BAY_CTRL_POWER_REQ = (if on then 1 else 0) ∧
        t.powerJob (locBay b) = some { unit := locBay b, on := on, busy := false, frames := 0, next := none, cmd := none, nextCmd := none } ∧
        (∀ a, a ≠ BAY_CTRL b → t.reg a = s.reg a) ∧ BytesKept s t) ∧
    (fromHearth s src = true → s.powerJob (locCasement c.val) = none → s.unitOn (.casement c) = !on → s.unitOff (.casement c) = on →
      ∃ t, exec (.csmPowerReq src c on) s = .next t ∧ t.rf (CSM_CTRL c.val) CSM_CTRL_POWER_REQ = (if on then 1 else 0) ∧
        t.powerJob (locCasement c.val) = some { unit := locCasement c.val, on := on, busy := false, frames := 0, next := none, cmd := none, nextCmd := none } ∧
        (∀ a, a ≠ CSM_CTRL c.val → t.reg a = s.reg a) ∧ BytesKept s t)) ∧
  (∀ (u : PwrUnit) (j : PowerJob) (s : State),
    (s.powerJob (pwrLoc u) = none → exec (.plannedPowerChange u) s = .next s) ∧
    (s.powerJob (pwrLoc u) = some j →
      (j.busy = true → exec (.plannedPowerChange u) s = .next s) ∧
      (j.busy = false → (if j.on then s.unitOn u else s.unitOff u) = false → j.cmd = none →
        (s.mayBegin u j.on = true → exec (.plannedPowerChange u) s =
          .next ((s.beginUnit u j.on).setJob { j with busy := true, frames := 0 })) ∧
        (s.mayBegin u j.on = false → exec (.plannedPowerChange u) s = .next s)) ∧
      ((∀ c n, u ≠ .laser c n) → (j.busy = false ∨ j.frames < leastFrames u j.on) → exec (.powerChangeComplete u) s = .next s) ∧
      ((∀ c n, u ≠ .laser c n) → j.busy = true → leastFrames u j.on ≤ j.frames → j.on = false → j.cmd = none → j.next = none →
        exec (.powerChangeComplete u) s = .next ((s.finishUnit u false).dropJob j.unit))) ∧
    ((∀ c n, u ≠ .laser c n) → s.powerJob (pwrLoc u) = none → exec (.powerChangeComplete u) s = .next s)) ∧
  (∀ (d : Die) (u : Fin 36) (mv ns i : Nat) (temp : Int) (s : State),
    (s.capHigh < oneAtLeast (s.rf PWR_CFG PWR_CFG_CAP_FRAMES) → exec .capOpDrop s = .next s) ∧
    (oneAtLeast (s.rf PWR_CFG PWR_CFG_CAP_FRAMES) ≤ s.capHigh → (∀ w < 4, s.isCache w = true ∨ s.wingOp w = 0) →
      ∃ t, exec .capOpDrop s = .next t ∧ t.rf PWR_STATUS PWR_STATUS_CAP_DROP = 1 ∧ t.capHigh = 0 ∧
        (∀ a, a ≠ PWR_STATUS → t.reg a = s.reg a) ∧ BytesKept s t) ∧
    (ns < 50 ∨ 925 * opMv s.fuse.grade (s.wingOp (d.val / 3)) ≤ 1000 * mv → exec (.dieUndervoltage d mv ns) s = .next s) ∧
    (s.mode ≠ .off → 50 ≤ ns → 1000 * mv < 925 * opMv s.fuse.grade (s.wingOp (d.val / 3)) → s.rf (PWR_DIE d.val) PWR_DIE_STATE = 2 →
      s.isFenced (locDie d.val) = false → exec (.dieUndervoltage d mv ns) s =
        .next ((s.raise F_DIE_UV (locDie d.val) 0).clampDie d.val)) ∧
    (s.mode = .off ∨ (u.val, i) ∈ s.excluded ∨ chmSensors u.val ≤ i → exec (.sensorUnchanged u i) s = .next s) ∧
    (s.mode ≠ .off → (u.val, i) ∉ s.excluded → i < chmSensors u.val → 12 ≤ u.val → ∃ w : State, exec (.sensorUnchanged u i) s =
      .next (w.raise F_SENSOR_EXCLUDED (chmLoc u.val) i) ∧ w.excluded = s.excluded ++ [(u.val, i)] ∧
      w.rf (CHM_UNIT u.val) CHM_UNIT_EXCLUDED = min (s.rf (CHM_UNIT u.val) CHM_UNIT_EXCLUDED + 1) (2 ^ CHM_UNIT_EXCLUDED.width - 1)) ∧
    (tripLimit u.val = none ∨ s.clamped = true ∨ chmSensors u.val ≤ i → exec (.thermalTrip u i temp) s = .next s) ∧
    (∀ lim, tripLimit u.val = some lim →
      (temp < lim → exec (.thermalTrip u i temp) s = .next s) ∧
      (lim ≤ temp → s.clamped = false → i < chmSensors u.val → s.mode ≠ .off → ∃ t, exec (.thermalTrip u i temp) s = .next t ∧
        t.clamped = true ∧ t.mode = .off ∧ s.nv.trips < t.nv.trips)))

/-- The self-tests (R86, R96, R499, R501, R502): a slice or a rotation that is not due, or whose unit is not tested, changes nothing; at a bad supply a
slice is skipped and counted; one that passes is counted with its frame. A row is repaired only between steps. Scrubbing without an error
moves to the next row of a powered bay. -/
def Obligations.SelfTestsAreCountedAndRepairAtFences : Prop :=
  ∀ (b : BayId) (d : Die) (w : Wing) (cell : Option (Fin 64 × Fin 64)) (e : SliceEnv) (s : State),
    (s.bayTests b = false ∨ s.rf BST_CFG BST_CFG_TILE_EN = 0 ∨ s.rf (BAY_CTRL b) BAY_CTRL_ROT_EN = 0 ∨ s.tileWith b 1 = none →
      exec (.rotationStep b) s = .next s) ∧
    (∀ x y, s.bayTests b = true → s.rf BST_CFG BST_CFG_TILE_EN = 1 → s.rf (BAY_CTRL b) BAY_CTRL_ROT_EN = 1 →
      (s.bay b).rMat = none → s.sliceDue (bayIx b) (s.rf BST_CFG BST_CFG_TILE_INTERVAL) = true → s.tileWith b 1 = some x →
      s.nextTile b x = some y → exec (.rotationStep b) s =
        .next (((((s.wf (TIL_STATUS b x) TIL_STATUS_ROLE 0).wf (TIL_STATUS b y) TIL_STATUS_ROLE 2)).setBay b
          { s.bay b with sliceTile := some y }).remapTiles b)) ∧
    (s.bayTests b = false ∨ s.tileWith b 2 = none → ∀ ok, exec (.tileSlice b ok cell) s = .next s) ∧
    (∀ x, s.bayTests b = true → s.tileWith b 2 = some x →
      (∃ t, exec (.tileSlice b false cell) s = .next t ∧ (t.bay b).sliceTile = none ∧ (∀ a, a ≠ BST_COUNT → t.reg a = s.reg a) ∧
        t.rf BST_COUNT BST_COUNT_SKIPPED = min (s.rf BST_COUNT BST_COUNT_SKIPPED + 1) (2 ^ BST_COUNT_SKIPPED.width - 1)) ∧
      (s.pointSteady b.die.val = true → ∃ u : State, exec (.tileSlice b true none) s = .next (u.tilePasses b x) ∧
        u.rf BST_COUNT BST_COUNT_SLICES = min (s.rf BST_COUNT BST_COUNT_SLICES + 1) (2 ^ BST_COUNT_SLICES.width - 1) ∧
        sparseGet zeroDefault u.sliceAt (bayIx b) = s.frame)) ∧
    (s.rf BST_CFG BST_CFG_SRAM_EN = 0 ∨ s.bayTests b = false → exec (.sramSlice b e) s = .next s) ∧
    (s.rf BST_CFG BST_CFG_SRAM_EN = 1 → s.bayTests b = true → (s.bay b).bistRow = none →
      s.sliceDue (144 + bayIx b) (s.rf BST_CFG BST_CFG_SRAM_INTERVAL) = true → e.fail = none →
      (e.voltageOk = false → exec (.sramSlice b e) s = .next s.sliceSkipped) ∧
      (e.voltageOk = true → s.pointSteady b.die.val = true →
        exec (.sramSlice b e) s = .next ((s.sliceRan (144 + bayIx b)).rowsTested b))) ∧
    (s.rf BST_CFG BST_CFG_BASE_EN = 0 → exec (.larderSlice d e) s = .next s ∧ exec (.pantrySlice w e) s = .next s) ∧
    (s.rf BST_CFG BST_CFG_BASE_EN = 1 → e.fail = none → e.voltageOk = true →
      (s.wingLost (d.val / 3) = false → s.baseOff.contains (288 + d.val) = false → s.baseWaits (288 + d.val) = false →
        s.sliceDue (288 + d.val) (s.rf BST_CFG BST_CFG_BASE_INTERVAL) = true → ∃ t, exec (.larderSlice d e) s = .next t ∧
          sparseGet larderDefault t.larders (32768 * d.val + sparseGet zeroDefault s.slicePos (288 + d.val)) = [] ∧
          sparseGet zeroDefault t.sliceAt (288 + d.val) = s.frame ∧ (∀ a, a ≠ BST_COUNT → t.reg a = s.reg a) ∧ BytesKept s t) ∧
      (s.pantryGone w.val = false → s.baseWaits (300 + w.val) = false →
        s.sliceDue (300 + w.val) (s.rf BST_CFG BST_CFG_BASE_INTERVAL) = true → ∃ t, exec (.pantrySlice w e) s = .next t ∧
          t.pantry = s.pantry ∧ sparseGet zeroDefault t.sliceAt (300 + w.val) = s.frame ∧
          sparseGet zeroDefault t.slicePos (300 + w.val) = (sparseGet zeroDefault s.slicePos (300 + w.val) + 1) % 16384 ∧
          (∀ a, a ≠ BST_COUNT → t.reg a = s.reg a) ∧ BytesKept s t)) ∧
    ((s.bay b).bistRow = none → exec (.bistRowRepair (.bay b)) s = .next s) ∧
    (s.atFence (fun i => i == bayIx b) = false → exec (.bistRowRepair (.bay b)) s = .next s) ∧
    (s.atFence (fun _ => true) = false → exec (.bistRowRepair (.larder d)) s = .next s ∧ exec (.bistRowRepair (.pantry w)) s = .next s) ∧
    (∀ bank row, (s.bay b).bistRow = some (bank, row) → s.atFence (fun i => i == bayIx b) = true →
      ∃ word bit, exec (.bistRowRepair (.bay b)) s =
        .next ((s.setBay b { s.bay b with bistRow := none }).retireRow b bank row word bit false)) ∧
    (s.rf (BAY_STATUS b) BAY_STATUS_POWER ≠ 2 ∨ s.rf (BAY_CTRL b) BAY_CTRL_SCRUB_EN = 0 → ∀ errs, exec (.scrub b errs) s = .next s) ∧
    (s.rf (BAY_STATUS b) BAY_STATUS_POWER = 2 → s.rf (BAY_CTRL b) BAY_CTRL_SCRUB_EN = 1 → ∃ t, exec (.scrub b []) s = .next t ∧
      (t.bay b).scrubRow = (if (s.bay b).scrubRow + 1 < 4096 then (s.bay b).scrubRow + 1 else 0) ∧
      (∀ a, t.reg a = s.reg a) ∧ BytesKept s t)

/-! ## Security and Skylight -/

/-- The security clocks (R505, R510, R515): a generator that fails its tests blocks its Hearth's DRBG until a pass of its entropy sample,
and only then; a lockout ends at its frame; a lifecycle change waits until no step is in flight. -/
def Obligations.SecurityClocksRunOut : Prop :=
  ∀ (hb pass : Bool) (s : State),
    (s.mode = .off → exec (.drbgReseed hb pass) s = .next s ∧ exec (.entropySamplePass hb) s = .next s) ∧
    (s.mode ≠ .off → exec (.drbgReseed hb true) s = .next (s.reseeded hb)) ∧
    (s.mode ≠ .off → ∃ t, exec (.drbgReseed hb false) s = .next t ∧ (if hb then t.drbgB else t.drbgA) = true ∧
      (hb = s.activeHb → t.rf SEC_STATUS SEC_STATUS_ENTROPY_FAIL = 1) ∧ BytesKept s t ∧
      ∀ a, a ≠ SEC_STATUS → a ≠ SEC_ENTROPY → t.reg a = s.reg a) ∧
    ((if hb then s.drbgB else s.drbgA) = false → exec (.entropySamplePass hb) s = .next s) ∧
    (s.mode ≠ .off → (if hb then s.drbgB else s.drbgA) = true → exec (.entropySamplePass hb) s = .next (s.reseeded hb)) ∧
    (s.lockout = none → exec .lockoutEnd s = .next s) ∧
    (∀ f, s.lockout = some f → frameReached s.frame f = false → exec .lockoutEnd s = .next s) ∧
    (∀ f, s.lockout = some f → frameReached s.frame f = true → ∃ t, exec .lockoutEnd s = .next t ∧ t.lockout = none ∧ t.denials = 0 ∧
      t.rf SEC_STATUS SEC_STATUS_LOCKOUT = 0 ∧ t.rf SEC_AUTH SEC_AUTH_FAILS_NOW = 0 ∧
      (∀ a, a ≠ SEC_STATUS → a ≠ SEC_AUTH → t.reg a = s.reg a) ∧ BytesKept s t) ∧
    (s.lifePend = none ∨ s.steps ≠ [] → exec .lifecycleTransition s = .next s) ∧
    (∀ new tag origin ring, s.lifePend = some (new, tag, origin, ring) → s.steps = [] → exec .lifecycleTransition s =
      .next ((s.applied tag origin ring 0x720 stOk false).moveLife new (if new ≤ 1 then 3 else 2) origin ring))

/-- Skylight (R365, R368, R373, R377, R380, R381): a scan finds the valid records of a mailbox and starts the first; a job runs only as the row of its kind, and a
malformed one is rejected; a slot that loads becomes READY; a job past its TIMEOUT ends in the exact fallback; a calibration runs between
jobs and ends with TUNED light; a lit spare carrier takes over a worn one. -/
def Obligations.SkylightRunsItsJobs : Prop :=
  ∀ (c : Casement) (idx slot : Fin 64) (env : ScoreEnv) (rms : Nat) (s : State),
    let x := s.sky1 c.val
    (s.skyRuns c.val = false ∨ x.job ≠ none → exec (.skyMailboxScan c) s = .next s) ∧
    (s.skyRuns c.val = true → x.job = none → (∀ i < 64, s.mboxRecord c.val i = none) → ∃ t, exec (.skyMailboxScan c) s = .next t ∧
      (t.sky1 c.val).found = [] ∧ (t.sky1 c.val).job = none ∧ (∀ a, t.reg a = s.reg a) ∧ BytesKept s t) ∧
    (∀ ws, s.skyRuns c.val = true → x.job = none → s.mboxRecord c.val 0 = some ws → ∃ t, exec (.skyMailboxScan c) s = .next t ∧
      (t.sky1 c.val).job = some (ws, s.frame) ∧ t.rf (SKY_STATUS c.val) SKY_STATUS_MBOX_IDX = 0 ∧ BytesKept s t ∧
      ∀ a, a ≠ SKY_STATUS c.val → t.reg a = s.reg a) ∧
    (x.found.head? ≠ some idx.val → exec (.loadMatrix c idx) s = .next s ∧ exec (.score c idx env) s = .next s) ∧
    (∀ ws f, x.found.head? = some idx.val → x.job = some (ws, f) → s.skyRuns c.val = true →
      (s.skyBad (skyJobOf ws) = true → exec (.loadMatrix c idx) s = .next (s.skyReject c.val ws) ∧
        exec (.score c idx env) s = .next (s.skyReject c.val ws)) ∧
      (s.skyBad (skyJobOf ws) = false → x.cal = none →
        ((skyJobOf ws).kind = 0 → exec (.loadMatrix c idx) s = .next ((s.skyShow c.val).skyLoad c.val ws f) ∧
          exec (.score c idx env) s = .next s) ∧
        ((skyJobOf ws).kind = 1 → exec (.score c idx env) s = .next ((s.skyShow c.val).skyScoreJob c.val env ws f) ∧
          exec (.loadMatrix c idx) s = .next s)) ∧
      (s.skyBad (skyJobOf ws) = false → s.skyLate ws f = true →
        (x.cal = none → exec (.skyJobTimeout c) s = .next (s.skyFallback c.val ws f true)) ∧
        (x.cal ≠ none → exec (.skyJobTimeout c) s = .next (s.setSky c.val { x with expired := true }))) ∧
      (s.skyLate ws f = false → exec (.skyJobTimeout c) s = .next s)) ∧
    (x.job = none → exec (.skyJobTimeout c) s = .next s) ∧
    (s.rf (SKY_SLOT c.val slot.val) SKY_SLOT_STATE = 1 → ∃ t, exec (.slotReady c slot) s = .next t ∧ BytesKept s t ∧
      t.rf (SKY_SLOT c.val slot.val) SKY_SLOT_STATE = 2 ∧ ∀ a, a ≠ SKY_SLOT c.val slot.val → t.reg a = s.reg a) ∧
    (s.rf (SKY_SLOT c.val slot.val) SKY_SLOT_STATE ≠ 1 → exec (.slotReady c slot) s = .next s) ∧
    (x.due = [] ∨ x.job ≠ none ∨ x.cal ≠ none ∨ s.skyUp c.val = false ∨ s.carrierGood c.val = false →
      exec (.skyCalibration c) s = .next s) ∧
    (∀ k rest, x.due = k :: rest → x.job = none → x.cal = none → s.skyUp c.val = true → s.carrierGood c.val = true →
      ∃ t, exec (.skyCalibration c) s = .next t ∧ (t.sky1 c.val).cal = some k ∧ (t.sky1 c.val).due = [] ∧ BytesKept s t) ∧
    (x.cal = none → exec (.skyCalibrationComplete c rms) s = .next s) ∧
    (∀ k, x.cal = some k → x.job = none → x.cmds = [] → ∃ t, exec (.skyCalibrationComplete c rms) s = .next t ∧
      (t.sky1 c.val).cal = none ∧ (t.sky1 c.val).tuned = true ∧ BytesKept s t ∧
      t.rf (SKY_ERR c.val) SKY_ERR_RMS_CAL = min rms 0xFFFF % 2 ^ SKY_ERR_RMS_CAL.width) ∧
    ((∀ i < 2, s.carrier c.val i ≠ crStandby) ∨ x.job ≠ none ∨ x.cal ≠ none → exec (.carrierHandover c) s = .next s) ∧
    (s.carrier c.val 0 = crStandby → x.job = none → x.cal = none → s.rf (SKY_STATUS c.val) SKY_STATUS_CARRIER = 1 →
      s.carrier c.val 1 ≠ crActive → ∃ t, exec (.carrierHandover c) s = .next t ∧ t.carrier c.val 0 = crActive ∧
        (t.sky1 c.val).tuned = false ∧ (t.sky1 c.val).due = x.due ++ [3] ∧ BytesKept s t)

/-! ## Plans, bursts, frames and start-up -/

/-- Slot plans and bursts (R258, R296, R319, R324): a change whose frame has come applies and waits no more, and a settled engine
changes with it for one quiet frame; a burst that an engine does not expect, or of a link that does not run, changes nothing; a late
one counts in LATE, and a data slot without light in NO_LIGHT; a degraded lane is calibrated first. -/
def Obligations.PlansApplyAndBurstsAreCounted : Prop :=
  ∀ (c : Casement) (e : Engine) (slot : Fin 64) (lane : Fin 16) (b : Burst) (s : State),
    (s.plans.filter (fun p => frameReached s.frame p.frame) = [] → s.slotParts = [] → exec .planApply s = .next s.planStat) ∧
    (∀ p, s.plans = [p] → frameReached s.frame p.frame = true → p.opcode = 0 → p.csms = [c.val] → s.slotParts = [] →
      ∃ t, exec .planApply s = .next t ∧ t.plans = [] ∧ BytesKept s t ∧
        ∀ i < 1024, t.planNow c.val i = Plan.after c.val p.entries (s.planNow c.val) i % 2 ^ STR_PLAN_ENTRY.width) ∧
    (s.settles.find? (fun x => x.csm == c.val && x.engine == e.val && !x.quiet) = none → exec (.settleChange c e) s = .next s) ∧
    (∀ x, s.settles.find? (fun x => x.csm == c.val && x.engine == e.val && !x.quiet) = some x →
      (frameReached s.frame x.frame = false → exec (.settleChange c e) s = .next s) ∧
      (frameReached s.frame x.frame = true → ∃ u : State, exec (.settleChange c e) s =
        .next (u.applied x.tag x.origin x.ring 0x432 stOk false) ∧ wbit (u.reg (STR_SETTLED c.val)) e.val = x.settle ∧
        { x with quiet := true } ∈ u.settles ∧ ∀ a, a ≠ STR_SETTLED c.val → u.reg a = s.reg a)) ∧
    (s.settles.find? (fun x => x.csm == c.val && x.engine == e.val && x.quiet) = none → exec (.quietPeriodEnd c e) s = .next s) ∧
    (∀ x, s.settles.find? (fun x => x.csm == c.val && x.engine == e.val && x.quiet) = some x →
      (frameReached s.frame (frameAdd x.frame 1) = false → exec (.quietPeriodEnd c e) s = .next s) ∧
      (frameReached s.frame (frameAdd x.frame 1) = true → ∃ t, exec (.quietPeriodEnd c e) s = .next t ∧
        t.settles = s.settles.filter (fun y => y != x) ∧ (∀ a, a ≠ STR_SETTLED c.val → t.reg a = s.reg a) ∧ BytesKept s t)) ∧
    (s.rxSlot c.val slot.val e.val = none → exec (.burstArrival c e slot b) s = .next s) ∧
    (∀ l f must, s.rxSlot c.val slot.val e.val = some (l, f, must) →
      (s.isLive l = false → s.linkState l ≠ lkTraining → exec (.burstArrival c e slot b) s = .next s) ∧
      (s.pathOn c.val 1 e.val f = false → exec (.burstArrival c e slot b) s = .next s) ∧
      (s.isLive l = true → s.pathOn c.val 1 e.val f = true →
        (slot = 0 → b.offset = none → exec (.burstArrival c e slot b) s = .next s) ∧
        (slot ≠ 0 → s.settled c.val e.val = false → must = true → b.offset = none → exec (.burstArrival c e slot b) s =
          .next ((s.satf (STR_FERR c.val f) STR_FERR_NO_LIGHT 1).dataMiss c.val f l)) ∧
        (∀ o, b.offset = some o → 160 ≤ o → o < 320 → s.settled c.val e.val = false →
          ∃ t, exec (.burstArrival c e slot b) s = .next t ∧ (t.link l).lit = true ∧ BytesKept s t ∧
            (∀ a, a ≠ STR_FERR c.val f → t.reg a = s.reg a) ∧ t.rf (STR_FERR c.val f) STR_FERR_LATE =
              min (s.rf (STR_FERR c.val f) STR_FERR_LATE + 1) (2 ^ STR_FERR_LATE.width - 1)))) ∧
    (∃ t, exec (.laneDegraded c e lane) s = .next t ∧ t.rf (CSM_RXLANE c.val (e.val * 16 + lane.val)) CSM_RXLANE_DEGRADED = 1 ∧
      (∀ a, a ≠ CSM_RXLANE c.val (e.val * 16 + lane.val) → t.reg a = s.reg a) ∧ t.links = s.links ∧ BytesKept s t ∧
      (([2 * e.val, 2 * e.val + 1].filterMap (s.pairLink c.val)).find? s.isLive = none →
        144 + e.val * 18 + lane.val ∈ (t.csm c.val).calFirst))

/-- Start-up and its deadline, the boundaries of slots and frames, and reports of faults (R294, R315, R471, R490, R523, R531): the package starts
once, from off, and where no Hearth has firmware it can run it holds with its code; the deadline goes on from the stages that wait for
the pod alone; a frame boundary moves the frame on by one, before anything else of it, and in mode off neither boundary nor report does
anything. -/
def Obligations.StartUpBoundariesAndReports : Prop :=
  ∀ (e : StartEnv) (f : FrameEnv) (slot : Fin 64) (code : BitVec 16) (loc det : W32) (k : Fin 10) (s : State),
    (s.mode ≠ .off ∨ s.clamped = true → exec (.startUp e) s = .next s) ∧
    (s.mode = .off → s.clamped = false →
      let u := (({ s with resetLow := false } : State).wiped).stage1
      let p := u.pickFw e
      (p.run = [] → exec (.startUp e) s = .next (u.fwHold p)) ∧
      (p.run ≠ [] → p.lost = [] → e.romOkA = true → e.romOkB = true → u.brokenLanes = [] →
        let v := (u.stage2 p).stage3 e
        (v.tripHeld = false → exec (.startUp e) s = .next (v.afterS3 e)) ∧
        (v.tripHeld = true → ∃ t, exec (.startUp e) s = .next t ∧ t.mode = .initHold ∧
          t.rf HRT_START HRT_START_STAGE = 14 % 2 ^ HRT_START_STAGE.width))) ∧
    (s.mode ≠ .starting → exec .startUpDeadline s = .next s) ∧
    (s.rf HRT_START HRT_START_STAGE < 9 ∨ 11 < s.rf HRT_START HRT_START_STAGE → exec .startUpDeadline s = .next s) ∧
    (s.mode = .starting → s.rf HRT_START HRT_START_STAGE = 11 → s.plans.all (fun p => p.opcode != 0) = true →
      exec .startUpDeadline s = .next s.becomeReady) ∧
    (s.mode = .off → exec (.frameBoundary f) s = .next s ∧ exec (.slotBoundary slot) s = .next s ∧
      exec (.faultReport code loc det) s = .next s ∧ exec (.budgetOverrun k loc) s = .next s) ∧
    (s.mode ≠ .off →
      let u := (allBays.foldl (fun s b => s.slipBay b) s).nextFrame
      let v := (((allBays.foldl (fun s b => (s.overrunBay b).countBay b) u).powerFrame f).pairFrame).blockResetsDue
      let w := ((v.lightFrame.attachFrame).unfencesDue).moveTraffic
      u.frame = (s.frame + 1) % 2 ^ 48 ∧ BytesKept s u ∧
        (∀ a, a ≠ STR_FRAME → (∀ b, a ≠ BAY_SEQ_STATUS b) → u.reg a = s.reg a) ∧
      (w.mode ≠ .starting → exec (.frameBoundary f) s = .next w) ∧
      (w.mode = .starting → exec (.frameBoundary f) s =
        .next (({ w with bootFrame := w.bootFrame + 1 } : State).bootAdvance false))) ∧
    (s.mode ≠ .off → exec (.slotBoundary slot) s = .next (((s.sendRestores).pumpReloads).slotBoundary slot.val)) ∧
    (reportFits code.toNat loc.toNat = false → exec (.faultReport code loc det) s = .next s) ∧
    (s.mode ≠ .off → reportFits code.toNat loc.toNat = true →
      exec (.faultReport code loc det) s = .next (s.detect code.toNat loc.toNat det.toNat)) ∧
    (s.mode ≠ .off → ∃ u : State, exec (.budgetOverrun k loc) s = .next (u.note F_BUDGET_OVERRUN loc.toNat k.val) ∧
      (∀ a, a ≠ FLT_BUDGET k.val → u.reg a = s.reg a) ∧ u.rf (FLT_BUDGET k.val) FLT_BUDGET_OVERRUNS =
        min (s.rf (FLT_BUDGET k.val) FLT_BUDGET_OVERRUNS + 1) (2 ^ FLT_BUDGET_OVERRUNS.width - 1))

/-! ## Commands -/

/-- What happens to a command before it runs (R417, R422, R425, R428): of another opcode than its row's, or on a channel that cannot bring it,
it changes nothing; a duplicate gets its reply again; one that is on its way waits; a check that fails is answered with its
status; a command for another package goes there; and one for this package runs, taken from its queue. -/
def Obligations.CommandsRunOnceAfterTheirChecks : Prop :=
  ∀ (c : Cmd) (i : Instr) (op : Nat) (body : State → State) (s : State), CommandRow c i op body →
    let u := s.unqueue c
    let same := fun (d : Remembered) => d.tag == c.tag && d.origin == originOf s c && d.ring == c.ringId
    (c.opcode ≠ op ∨ s.canTake c = false → exec i s = .next s) ∧
    (TakesCommand c op s → exec i s = .next (body u)) ∧
    (c.opcode = op → s.canTake c = true →
      (∀ d, u.dups.find? same = some d → exec i s = .next (u.resend d)) ∧
      (u.dups.find? same = none →
        (∀ a, u.activeOf c.tag (originOf s c) c.ringId = some a → a.sent = true → a.dead = false → exec i s = .next u) ∧
        ((∀ a, u.activeOf c.tag (originOf s c) c.ringId = some a → a.sent = false ∨ a.dead = true) →
          (∀ st, u.precheck c = some st → exec i s = .next (u.reply c st [])) ∧
          (u.precheck c = none → c.target ≠ 0xFFF → isForwarded c = false → u.isSelf c.target = false →
            exec i s = .next (u.forward c)))))

/-- What the management, memory, step and Pantry commands do where they succeed, and the two completions of memory operations: the
state that follows is that of the command taken from its queue, with the change named, and its reply (R420 and the tables of each
opcode). -/
def Obligations.ManagementMemoryAndStepCommandsSucceed : Prop :=
  ∀ (c : Cmd) (s : State),
    let u := s.unqueue c
    (TakesCommand c 0x001 s → exec (.identify c) s = .next (u.reply c stOk [u.reg HRT_ID, u.reg HRT_SERIAL, u.reg HRT_PKGID,
      u.reg HRT_FEATURE, packFields [(bits 3 0, u.nv.lifecycle), (bit 4, u.rf HRT_START HRT_START_IMAGE)], u.fwNow.version])) ∧
    (TakesCommand c 0x002 s → daWindow (c.pf 0 47 0) = 0 → exec (.podList c) s = .next (u.replyWritten c (u.cmdWrite (c.pf 0 47 0)
      (natToBytes 2 u.reached.length ++ u.reached.flatMap (fun p => natToBytes 2 (p.1 % 4096 + if p.2 then 0x8000 else 0)))) [])) ∧
    (TakesCommand c 0x003 s → c.pf 0 54 52 + 1 ≤ 6 → exec (.mgmtRead c) s = .next (u.podCmd c (fun s =>
      (s.mgmtReads (c.pf 0 39 0) (c.pf 0 54 52 + 1)).2.reply c stOk (s.mgmtReads (c.pf 0 39 0) (c.pf 0 54 52 + 1)).1))) ∧
    (TakesCommand c 0x101 s → exec (.mgmtWrite c) s = .next (u.podCmd c (fun s =>
      (s.mgmtAccess true false (c.pf 0 39 0) 8 (c.p 1)).reply c stOk []))) ∧
    (TakesCommand c 0x120 s → (∀ r ∈ u.roles, r.wing ≠ c.pf 0 1 0) → u.wingBusy (c.pf 0 1 0) = false → exec (.wingRoleSet c) s =
      .next ((({ u with roles := u.roles ++ [{ wing := c.pf 0 1 0, role := c.pf 0 9 8, tag := c.tag, origin := originOf u c, ring := c.ringId, deferred := false }] } : State).wf
        HRT_WROLE (HRT_WROLE_PEND (c.pf 0 1 0)) 1).reply c stOk [])) ∧
    (∀ n, TakesCommand c 0x130 s → u.tables.regionNumber (c.pf 0 7 0) = some n → c.pf 0 7 0 < 64 ∨ c.pf 0 7 0 = 0xFF →
      u.tables.regionBad n (c.p 1 &&& fieldMask MEM_RGN_BASE_BASE) (regionAttr (c.p 2)) = false →
      u.cellarBusy n (c.p 1 &&& fieldMask MEM_RGN_BASE_BASE) (regionAttr (c.p 2)) = false → exec (.regionSet c) s =
        .next (u.takeChanges c [.setRegion n (c.p 1 &&& fieldMask MEM_RGN_BASE_BASE) (regionAttr (c.p 2))] [packFields [(bits 5 0, n)]])) ∧
    (TakesCommand c 0x131 s → u.tables.rgnValid (c.pf 0 5 0) = true → u.cellarBusy (c.pf 0 5 0) 0 0 = false →
      exec (.regionClear c) s = .next (u.takeChanges c [.clearRegion (c.pf 0 5 0)] [])) ∧
    (TakesCommand c 0x201 s → c.target ≠ 0xFFF ∨ isForwarded c = true → exec (.halt c) s = .next (u.haltHere.reply c stOk [])) ∧
    (TakesCommand c 0x201 s → c.target = 0xFFF → isForwarded c = false → exec (.halt c) s = .next (u.haltHere.haltAll c)) ∧
    (let bs := u.plannedBays ((List.range (stepCount c)).map (stepEntry c))
     TakesCommand c 0x210 s → u.stepStatus c bs = none → exec (.stepStart c) s =
      .next (({ u with steps := u.steps ++ [{ num := c.pf 0 31 0, base := c.pf 1 47 0, bays := bs, publish := c.pf 2 47 0, phase := .pending, replays := 0, cause := 0, longLead := false, tag := c.tag, origin := originOf u c, ring := c.ringId, old := [], frame := 0 }] } : State).reply c stDeferred [])) ∧
    (∀ t, TakesCommand c 0x211 s → u.findStep (c.pf 0 31 0) = some t → exec (.stepAbort c) s =
      .next ((u.fenceStep { cause := 7, replay := false, frame := u.frame, lead := 0, lost := none } t).reply c stOk [])) ∧
    (TakesCommand c 0x301 s → c.pf 0 47 0 % 64 = 0 → c.pf 1 39 0 % 64 = 0 → exec (.memFill c) s =
      .next (({ u with memOps := u.memOps ++ [{ opcode := c.opcode, src := 0, dst := c.pf 0 47 0, bytes := c.pf 1 39 0, pattern := c.p 2, tag := c.tag, origin := originOf u c, ring := c.ringId }] } : State).reply c stDeferred [])) ∧
    (TakesCommand c 0x302 s → c.pf 0 47 0 % 64 = 0 → c.pf 1 47 0 % 64 = 0 → c.pf 2 39 0 % 64 = 0 → exec (.memCopy c) s =
      .next (({ u with memOps := u.memOps ++ [{ opcode := c.opcode, src := c.pf 0 47 0, dst := c.pf 1 47 0, bytes := c.pf 2 39 0, pattern := 0, tag := c.tag, origin := originOf u c, ring := c.ringId }] } : State).reply c stDeferred [])) ∧
    (∀ n m ue peer, s.memOps[n]? = some m → let t : State := { s with memOps := s.memOps.eraseIdx n }
      (m.opcode = 0x301 → exec (.memFillComplete n) s =
        .next ((t.opRun m m.bytes none { status := 0, data := [] }).1.applied m.tag m.origin m.ring 0x301 (t.opRun m m.bytes none { status := 0, data := [] }).2 false)) ∧
      (m.opcode = 0x302 → exec (.memCopyComplete n ue peer) s =
        .next ((t.opRun m m.bytes ue peer).1.applied m.tag m.origin m.ring 0x302 (t.opRun m m.bytes ue peer).2 false))) ∧
    (∀ n ue peer, s.memOps[n]? = none → exec (.memFillComplete n) s = .next s ∧ exec (.memCopyComplete n ue peer) s = .next s) ∧
    (TakesCommand c 0x310 s → u.rgnValid (c.pf 0 5 0) = true → u.rgnBit (c.pf 0 5 0) MEM_RGN_ATTR_READONLY = true →
      exec (.larderFlush c) s =
        .next (({ u with changes := u.changes ++ [plainChange (.flush (c.pf 0 5 0)) c u] } : State).reply c stOk [])) ∧
    (TakesCommand c 0x340 s → u.annexBad c = false → u.annexBusy c = false → exec (.annexSet c) s =
      .next (u.takeChanges c [.setWindow (c.pf 0 7 0) (annexCfg c) (annexMap c) (annexPeer c)] [])) ∧
    (TakesCommand c 0x341 s → c.pf 0 7 0 ≠ 0 → u.tables.winValid (c.pf 0 7 0) = true → u.windowUsed (c.pf 0 7 0) = false →
      u.tables.windowUsed (c.pf 0 7 0) = false → exec (.annexClear c) s = .next (u.takeChanges c [.clearWindow (c.pf 0 7 0)] [])) ∧
    (∀ bs, let n := c.pf 0 59 48 + 1
      let segs := segments (bytesToWords bs) n
      let p := placeAll (c.pf 1 39 0) (c.pf 2 39 0) (namedWindows (c.p 4)) u.tables.winSize (segs.map (fun x => x.2))
      TakesCommand c 0x350 s → u.tables.modelBad c = false → u.localRead (c.pf 0 47 0) (16 * n) = .ok bs →
      segs.any (fun x => x.1 != 1) = false → segs.any (fun x => x.2.2 == 0 || x.2.2 % 4096 != 0) = false → p.short = 0 →
      exec (.modelLoad c) s = .next (u.placeModel c p)) ∧
    (let h := u.listHead (c.pf 0 47 0)
     TakesCommand c 0x330 s → u.listReadable (c.pf 0 47 0) = true → h.1 = 1 → h.2.1 ≠ 0 → exec (.pantryPublish c) s =
      .next ((u.applyList (c.pf 0 47 0) h.2.1 (fun s e => s.publishOne e)).1.reply c stOk
        (countWords (u.applyList (c.pf 0 47 0) h.2.1 (fun s e => s.publishOne e)).2))) ∧
    (let r := u.resolveKeys (u.requester c) (resolveKeysOf c)
     TakesCommand c 0x331 s → u.resolveBad c = false → u.requester c = u.pkg → u.leases.length < 4096 →
     u.rf SEC_STATUS SEC_STATUS_ENTROPY_FAIL ≠ 1 →
      (r.2.2 = [] → exec (.pantryResolve c) s = .next ((r.1.writeTable c r.2.1).reply c stOk [0xFFFF])) ∧
      (r.2.2 ≠ [] → exec (.pantryResolve c) s = .next (((r.1.writeTable c r.2.1).addLease r.2.2).2.reply c stOk
        [BitVec.ofNat 64 ((r.1.writeTable c r.2.1).addLease r.2.2).1]))) ∧
    (∀ l, TakesCommand c 0x332 s → u.leases.find? (fun l => l.handle == c.pf 0 15 0) = some l →
      exec (.pantryRelease c) s = .next ((u.endLease l).reply c stOk [])) ∧
    (∀ n, let v := u.readSet (c.pf 0 47 0)
     TakesCommand c 0x333 s → v.findKey (c.pf 0 47 0) = some n → (v.entry n).pins = 0 →
      exec (.pantryEvict c) s = .next ((v.setEntry n (pantryDefault n)).reply c stOk []))

/-- What the commands of links, light, plans, the Beat, Skylight and power do where they succeed (R420 and the tables of each opcode). -/
def Obligations.LinkLightPlanAndPowerCommandsSucceed : Prop :=
  ∀ (c : Cmd) (s : State),
    let u := s.unqueue c
    let l := c.pf 0 7 0
    let m := optCsm c
    let n := optLaser c
    (TakesCommand c 0x410 s → u.linkSetBad l (c.p 1) (c.p 2) = false → u.linkState l = lkDisabled → getField (c.p 1) DRL_CFG_EN = 0 →
      exec (.linkSet c) s =
        .next (((u.setReg (DRL_CFG l) (packFields ((limitFields ++ cfgFields).map (fun f => (f, getField (c.p 1) f))))).setReg (DRL_POOL l)
          (packFields (poolFields.map (fun f => (f, getField (c.p 2) f))))).reply c stOk [])) ∧
    (TakesCommand c 0x411 s → l < 128 → u.linkNamed l = true → (u.link l).width = none →
      c.pf 0 10 8 = u.rf (DRL_CFG l) DRL_CFG_PAIRS_M1 → l % 16 + c.pf 0 10 8 + 1 ≤ 16 → u.planNames (l / 16) l [] = false →
      exec (.linkWidth c) s = .next ((u.setLink l { u.link l with width := some (c.pf 0 10 8, c.pf 0 11 11, c.tag, originOf u c, c.ringId) }).reply c stDeferred [])) ∧
    (TakesCommand c 0x412 s → l < 136 → u.linkUp l = true → exec (.linkRetrain c) s =
      .next (((u.setLink l { u.link l with waits := (u.link l).waits ++ [(0x412, c.tag, originOf u c, c.ringId)] }).startRetrain l).reply c stDeferred [])) ∧
    (TakesCommand c 0x413 s → l < 136 → (u.link l).want = none →
      (u.rf (DRL_CFG l) DRL_CFG_EN = c.pf 0 8 8 → u.linkState l ≠ lkHeld → exec (.linkState c) s = .next (u.reply c stOk [])) ∧
      (u.rf (DRL_CFG l) DRL_CFG_EN ≠ c.pf 0 8 8 → exec (.linkState c) s =
        .next ((u.setLink l { u.link l with want := some (c.pf 0 8 8 == 1, c.tag, originOf u c, c.ringId) }).reply c stDeferred []))) ∧
    (TakesCommand c 0x420 s → 18 ≤ n → n < 22 → u.attic m (n - 18) ≠ atServing → u.attic m (n - 18) ≠ atFenced →
      let r := u.laserReq m n (c.pf 0 13 13 == 1) (cmdKey u c)
      exec (.laserSet c) s = .next (r.1.reply c (if r.2 then stDeferred else stOk) [])) ∧
    (TakesCommand c 0x421 s → n < 18 → u.chan m n = chLit ∨ u.chan m n = chAttic → u.freeAttic m ≠ none →
      exec (.laserSwap c) s = .next ((u.fadeCross m n 1).reply c stOk [])) ∧
    (TakesCommand c 0x422 s → (u.csm m).swaps = [] → (∀ k < 18, u.chanLit m k = false) → u.laserOn m 22 = false →
      u.laserOn m 23 = false → exec (.laserCommission c) s = .next (u.reply c stOk [])) ∧
    (TakesCommand c 0x422 s → (u.csm m).swaps = [] → (∀ k < 18, u.chanLit m k = false) → u.laserOn m 22 = true →
      u.laserOn m 23 = false → (u.csm m).atLimit = [] → exec (.laserCommission c) s =
        .next ((u.setComm m 22 (u.rf (LSR_CARRIER m 0) LSR_CARRIER_OUT_PWR)).reply c stOk [])) ∧
    (TakesCommand c 0x423 s → threshOk (c.p 1) = true → (∀ k < 18, u.chanLit m k = false) → exec (.laserThreshSet c) s =
      .next ((u.wfs (LSR_CFG m) ([LSR_CFG_WARN_DB, LSR_CFG_SWAP_DB, LSR_CFG_FLOOR_DB].map (fun f => (f, getField (c.p 1) f)))).reply c stOk [])) ∧
    (let v := u.wfs (TUN_CFG m) ([TUN_CFG_CAL_INTERVAL, TUN_CFG_EPOCH_LEAD, TUN_CFG_CAL_TIMEOUT, TUN_CFG_CAL_EN].map (fun f => (f, getField (c.p 1) f)))
     TakesCommand c 0x424 s → getField (c.p 1) TUN_CFG_CAL_INTERVAL ≠ 0 → exec (.calSet c) s =
      .next ((v.setCsm m { u.csm m with calDue := frameAdd u.frame (getField (c.p 1) TUN_CFG_CAL_INTERVAL) }).reply c stOk [])) ∧
    (let cs := maskOf (c.pf 0 15 8)
     let es := cs.zipIdx.flatMap (fun p => packetPlan c p.1 (8 + 512 * p.2))
     TakesCommand c 0x430 s → c.pf 0 3 0 = 1 → c.len = 64 + 4096 * cs.length → u.changeFails (c.pf 1 47 0) cs es = false →
     u.lateFor (c.pf 1 47 0) u.deltaLead = false → u.plans = [] → exec (.planLoad c) s =
      .next (u.takePlan c { frame := c.pf 1 47 0, load := true, csms := cs, entries := es, opcode := 0x430, tag := c.tag, origin := originOf u c, ring := c.ringId })) ∧
    (let k := c.pf 0 21 16
     let es := (List.range k).map (fun j => (c.pf (8 + j) 2 0, c.pf (8 + j) 12 3, c.pf (8 + j) 47 16))
     let cs := (es.map (fun e => e.1)).dedup
     TakesCommand c 0x431 s → c.pf 0 3 0 = 1 → k ≠ 0 → k ≤ 32 → c.len = 64 + 8 * k →
     (∀ j < k, c.pf (8 + j) 15 13 = 0 ∧ c.pf (8 + j) 63 48 = 0) → u.changeFails (c.pf 1 47 0) cs es = false →
     u.lateFor (c.pf 1 47 0) u.deltaLead = false → u.plans = [] → exec (.planDelta c) s =
      .next (u.takePlan c { frame := c.pf 1 47 0, load := false, csms := cs, entries := es, opcode := 0x431, tag := c.tag, origin := originOf u c, ring := c.ringId })) ∧
    (TakesCommand c 0x432 s → c.pf 0 6 6 = 1 ∨ u.engineBusy (c.pf 0 2 0) (c.pf 0 5 3) = false → u.lateFor (c.pf 1 47 0) 2 = false →
      u.settles = [] → exec (.settleSet c) s =
        .next ((({ u with settles := [{ csm := c.pf 0 2 0, engine := c.pf 0 5 3, settle := c.pf 0 6 6 == 0, frame := c.pf 1 47 0, quiet := false, tag := c.tag, origin := originOf u c, ring := c.ringId }] } : State).settleStat (c.pf 0 2 0)).reply c stDeferred [])) ∧
    (let v := u.beatLinksDown.wfs STR_BEAT [(STR_BEAT_CONFLICT, 0), (STR_BEAT_MASTER_ID, 0), (STR_BEAT_REF_ID, 0), (STR_BEAT_STRATUM, 3)]
     let w : State := { v with beat := { BeatSt.init with fsyncNoted := v.beat.fsyncNoted } }
     TakesCommand c 0x433 s → u.beatState = btUnaligned → exec (.beatRealign c) s =
      .next ((w.toBeat (if w.candidate then btElect else btAcquire)).reply c stOk [])) ∧
    (let x := c.pf 0 2 0
     let v := u.wfs (SKY_CFG x) ([SKY_CFG_CAL_PERIOD, SKY_CFG_DRIFT_LIMIT, SKY_CFG_FORCE_EXACT, SKY_CFG_DRIFT_EN, SKY_CFG_EN].map (fun f => (f, getField (c.p 1) f)))
     TakesCommand c 0x440 s → u.mboxBad (c.p 2) = false → getField (c.p 1) SKY_CFG_CNT_CLR = 0 → exec (.skySet c) s =
      .next ((v.wf (SKY_MBOX x) SKY_MBOX_BASE (getField (c.p 2) SKY_MBOX_BASE)).reply c stOk [])) ∧
    (let x := c.pf 0 2 0
     TakesCommand c 0x441 s → u.skyUp x = true → (u.sky1 x).cal = none → exec (.skyCal c) s =
      .next ((u.setSky x { u.sky1 x with due := (u.sky1 x).due ++ [4], cmds := (u.sky1 x).cmds ++ [(c.tag, originOf u c, c.ringId)] }).reply c stDeferred [])) ∧
    (TakesCommand c 0x501 s → u.isCache (c.pf 0 1 0) = false → let r := u.pointReq (c.pf 0 1 0) (c.pf 0 9 8) (cmdKey u c)
      exec (.powerPointSet c) s = .next (r.1.reply c (if r.2 then stDeferred else stOk) [])) ∧
    (TakesCommand c 0x502 s → 3000 ≤ c.pf 0 15 0 → c.pf 0 15 0 ≤ u.tdp → exec (.powerCapSet c) s =
      .next ((u.wf PWR_CFG PWR_CFG_CAP_W (c.pf 0 15 0)).reply c stOk [])) ∧
    (∀ x, TakesCommand c 0x510 s → unitAt (c.pf 0 31 0) = some x → u.unitStatus x (c.pf 0 32 32 == 1) = none →
      let r := u.unitReq x (c.pf 0 32 32 == 1) (cmdKey u c)
      exec (.unitPower c) s = .next (r.1.reply c (if r.2 then stDeferred else stOk) []))

/-- What the fault, security and configuration commands do where they succeed (R420 and the tables of each opcode). -/
def Obligations.FaultAndSecurityCommandsSucceed : Prop :=
  ∀ (c : Cmd) (s : State),
    let u := s.unqueue c
    (∀ e, let v : State := { u with nv := { u.nv with trip := u.nv.trip.set 0 (putField (u.nv.trip.getD 0 0) (bit 4) 1) } }
      let w := ({ v.showTrip with mode := .starting } : State).reply c stOk []
      TakesCommand c 0x520 s → u.mode = .initHold →
      (w.startEnv = none → exec (.tripAck c) s = .next w) ∧ (w.startEnv = some e → exec (.tripAck c) s = .next (w.afterS3 e))) ∧
    (let is := u.uncleared.take (c.pf 1 15 0)
     TakesCommand c 0x601 s → is = [] → exec (.faultRead c) s = .next (u.replyWritten c (some u) [0])) ∧
    (let is := u.uncleared.take (c.pf 1 15 0)
     TakesCommand c 0x601 s → is ≠ [] → exec (.faultRead c) s = .next (u.replyWritten c (u.cmdWrite (c.pf 0 47 0)
       (wordsToBytes (is.flatMap (fun i => (List.range 4).map (u.logWord i))))) [BitVec.ofNat 64 is.length])) ∧
    (∀ f, TakesCommand c 0x602 s → faultSource (c.pf 0 15 0) = some f → f.severity ≠ 2 →
      exec (.faultClear c) s = .next ((u.clearCode f.code).reply c stOk [])) ∧
    (∀ f, TakesCommand c 0x602 s → faultSource (c.pf 0 15 0) = some f → f.severity = 2 →
      exec (.faultClear c) s = .next (u.reply c stDenied [])) ∧
    (∀ f, TakesCommand c 0x610 s → faultSource (c.pf 0 15 0) = some f →
      (c.pf 0 20 16 &&& f.forced = f.forced → exec (.reactionSet c) s =
        .next ((u.wf (FLT_REACT f.code) FLT_REACT_MASK (c.pf 0 20 16)).reply c stOk [])) ∧
      (c.pf 0 20 16 &&& f.forced ≠ f.forced → exec (.reactionSet c) s = .next (u.reply c stDenied []))) ∧
    (∀ bs p, let da := c.pf 0 47 0
      let h := u.planHead da
      TakesCommand c 0x620 s → daWindow da = 0 → 64 ≤ c.pf 1 31 0 → u.inReadonly da (c.pf 1 31 0) = true →
      u.localRead da (c.pf 1 31 0) = .ok bs → h.version = 1 → c.pf 1 31 0 = planBytes h → kindFits h.kind h.loc = true →
      planBaysBad (h.lostPkg == 0 || h.lostPkg == u.pkg) h.loc (u.planBays da) = false → u.reloadsBad (u.planReloads da) = false →
      h.nbay ≠ 0 → u.planMatch h = some p → exec (.fallbackLoad c) s = .next ((u.setPlan p h da).reply c stOk [])) ∧
    (TakesCommand c 0x630 s → u.unitFenced (c.pf 0 31 0) = true → u.steps = [] → let r := u.liftOn (c.pf 0 31 0) (cmdKey u c)
      exec (.unfence c) s = .next (r.1.reply c (if r.2 then stDeferred else stOk) [])) ∧
    (TakesCommand c 0x6F0 s → reportFits (c.pf 0 15 0) (c.pf 1 31 0) = true → exec (.faultInject c) s =
      .next (({ ({ u with injecting := true } : State).detect (c.pf 0 15 0) (c.pf 1 31 0) 0 with injecting := false } : State).reply c stOk [])) ∧
    (let r := u.drawWords 4
     let v := r.2.dropChallenges c.ringId
     TakesCommand c 0x701 s → c.pf 0 1 0 ≠ 0 → isForwarded c = false → u.lockout = none → u.entropyFail = false →
      exec (.authChallenge c) s = .next (({ v with challenges := v.challenges ++ [{ ring := c.ringId, role := c.pf 0 1 0, nonce := r.1, frame := v.frame }] } : State).reply c stOk r.1)) ∧
    (TakesCommand c 0x702 s → isForwarded c = false →
      (u.challenges.find? (fun x => x.ring == c.ringId) = none → exec (.authResponse c) s =
        .next ((u.dropChallenges c.ringId).authDenied c)) ∧
      (∀ x, u.challenges.find? (fun x => x.ring == c.ringId) = some x → (∀ g, c.via ≠ .guest g) →
        (u.responseOk c x = false → exec (.authResponse c) s = .next ((u.dropChallenges c.ringId).authDenied c)) ∧
        (u.responseOk c x = true →
          let v := ((u.dropChallenges c.ringId).setRole c x.role).wf SEC_AUTH SEC_AUTH_FAILS_NOW 0
          exec (.authResponse c) s =
            .next ((({ v with denials := 0 } : State).auditRec 1 x.role 0 0 v.pkg c.ringId 0 0 (c.p 0) (c.p 1)).reply c stOk [])))) ∧
    (TakesCommand c 0x703 s → isForwarded c = false → exec (.authDrop c) s =
      .next (((u.auditRec 2 (u.chanRole c) 0 0 u.pkg c.ringId 0 0 0 0).setRole c 0).reply c stOk [])) ∧
    (∀ bs v, let cut := bs.take (4096 + (imageBody bs).length)
      let x : FwImage := { verdict := 1, svn := imageSvn cut, version := imageWord cut 2, digest := sha256 cut }
      TakesCommand c 0x710 s → u.nv.lifecycle ≠ 2 ∨ u.steps = [] → u.readImage (c.pf 0 47 0) (c.pf 1 31 0) = some (bs, v) →
      imageSound 0 bs = true → imageSigner bs = Config.fwRoot → u.nv.svnFw ≤ imageSvn bs → v.nv = u.nv →
      exec (.fwInstall c) s = .next ((if c.pf 2 0 0 = 0 then { v with nv := { v.nv with fwA := x } } else { v with nv := { v.nv with fwB := x } } : State).replyWith c stOk []
        (imageWord cut 4) (imageWord cut 5))) ∧
    (∀ bs v, TakesCommand c 0x110 s → u.readImage (c.pf 0 47 0) (c.pf 1 31 0) = some (bs, v) →
      (imageSound 1 bs = false ∨ v.signerOk bs = false ∨ imageSvn bs < v.nv.svnCfg ∨ cfgSound (imageBody bs) = false →
        exec (.configWrite c) s = .next (v.reply c stBadParam [])) ∧
      (imageSound 1 bs = true → v.signerOk bs = true → v.nv.svnCfg ≤ imageSvn bs → cfgSound (imageBody bs) = true →
        ∃ (t : State) (a b : Word), exec (.configWrite c) s = .next (t.replyWith c stOk [] a b) ∧
          t.nv.cfg = .image (bs.take (4096 + (imageBody bs).length)) ∧ t.nv.svnCfg = v.nv.svnCfg ∧ BytesKept v t)) ∧
    (TakesCommand c 0x111 s →
      (c.pf 1 31 0 < (cfgBytes u.cfgNow).length → exec (.configRead c) s = .next (u.reply c stCapacity [])) ∧
      ((cfgBytes u.cfgNow).length ≤ c.pf 1 31 0 → exec (.configRead c) s =
        .next (u.replyWritten c (u.cmdWrite (c.pf 0 47 0) (cfgBytes u.cfgNow)) []))) ∧
    (let new := c.pf 0 2 0
     TakesCommand c 0x720 s → new < 5 →
      (new = u.nv.lifecycle → exec (.lifecycleSet c) s = .next (u.dropLife.reply c stOk [])) ∧
      (new ≠ u.nv.lifecycle → u.mayMove new c.role = false → exec (.lifecycleSet c) s = .next (u.reply c stDenied [])) ∧
      (new ≠ u.nv.lifecycle → u.mayMove new c.role = true →
        (u.steps = [] → exec (.lifecycleSet c) s =
          .next ((u.dropLife.reply c stOk []).moveLife new c.role (originOf u c) c.ringId)) ∧
        (u.steps ≠ [] → exec (.lifecycleSet c) s =
          .next (({ u.dropLife with lifePend := some (new, c.tag, originOf u c, c.ringId) } : State).reply c stDeferred [])))) ∧
    (∀ e, let da := c.pf 4 47 0
      let v := u.useLeaf
      let r := v.report320 u.nv.nextQ [c.p 0, c.p 1, c.p 2, c.p 3]
      TakesCommand c 0x730 s → u.spaceEnd da = some e → da + 2096 ≤ e → (u.cmdWrite da (List.replicate 2096 0)).isSome = true →
      u.leavesLeft ≠ 0 → u.nv.lifecycle ≠ 4 → u.entropyFail = false → exec (.attest c) s =
        .next (v.replyWritten c (v.cmdWrite da (r ++ idSign u.nv.nextQ r)) [BitVec.ofNat 64 v.leavesLeft])) ∧
    (let k := if c.pf 1 11 0 = 0 then 4096 else c.pf 1 11 0
     let rs := u.nv.audit.drop (u.nv.audit.length - k)
     TakesCommand c 0x740 s → exec (.auditRead c) s = .next (u.replyWritten c
      (if (rs.flatMap wordsToBytes).isEmpty then some u else u.cmdWrite (c.pf 0 47 0) (rs.flatMap wordsToBytes))
      [BitVec.ofNat 64 rs.length]))

/-- An event reaches a value modulo 65,536, and a header wait is met where it is off or its event reaches its value (R123). -/
def Obligations.EventsReachValuesModulo65536 : Prop :=
  ∀ (b : BayId) (e v : Nat) (d : Desc) (s : State),
    (s.reaches b e v = true ↔ (BitVec.ofNat 16 (s.evt b e) - BitVec.ofNat 16 v).toNat < 2 ^ 15) ∧
    (s.waitMet b d = true ↔ dfield d 1 5 5 = 0 ∨ s.reaches b (dfield d 1 10 6) (dfield d 1 31 16) = true)
end

