-- ==== Sys2Proof/Laws/Bits.lean ====
section
/-!
SUPPORT. Sys2Proof/Laws/Bits.lean: the laws of bit fields. A field reads back the value put into it, modulo its width, and
putting a field leaves every field that shares no bit with it alone.
-/

set_option Elab.async false

namespace Sys2Proof.Machine

/-- Two fields share no bit. -/
abbrev fieldsApart (f g : Field) : Prop := f.lo + f.width ≤ g.lo ∨ g.lo + g.width ≤ f.lo

theorem getField_testBit (v : Word) (f : Field) (i : Nat) :
    (getField v f).testBit i = (decide (i < f.width) && v.getLsbD (f.lo + i)) := by
  unfold getField
  rw [Nat.testBit_mod_two_pow, Nat.testBit_div_two_pow, BitVec.getLsbD, Nat.add_comm]

theorem fieldMask_getLsbD (f : Field) (i : Nat) :
    (fieldMask f).getLsbD i = (decide (i < 64) && decide (f.lo ≤ i) && decide (i - f.lo < f.width)) := by
  unfold fieldMask
  rw [BitVec.getLsbD_ofNat, Nat.testBit_mul_two_pow, Nat.testBit_two_pow_sub_one]
  cases decide (i < 64) <;> cases decide (f.lo ≤ i) <;> simp

theorem putField_getLsbD (v : Word) (f : Field) (n i : Nat) (hi : i < 64) :
    (putField v f n).getLsbD i =
      if f.lo ≤ i ∧ i - f.lo < f.width then n.testBit (i - f.lo) else v.getLsbD i := by
  unfold putField
  rw [BitVec.getLsbD_or, BitVec.getLsbD_and, BitVec.getLsbD_not, fieldMask_getLsbD, BitVec.getLsbD_ofNat,
    Nat.testBit_mul_two_pow, Nat.testBit_mod_two_pow]
  by_cases h1 : f.lo ≤ i <;> by_cases h2 : i - f.lo < f.width <;> simp [hi, h1, h2]

/-- A field of 64 bits reads back what was put into it, modulo its width. -/
theorem getField_putField_same (v : Word) (f : Field) (n : Nat) (hf : f.lo + f.width ≤ 64) :
    getField (putField v f n) f = n % 2 ^ f.width := by
  apply Nat.eq_of_testBit_eq
  intro i
  rw [getField_testBit, Nat.testBit_mod_two_pow]
  by_cases h : i < f.width
  · rw [putField_getLsbD _ _ _ _ (by omega)]
    simp [h]
  · simp [h]

/-- Putting a field leaves the fields apart from it alone. -/
theorem getField_putField_other (v : Word) (f g : Field) (n : Nat) (hg : g.lo + g.width ≤ 64) (h : fieldsApart f g) :
    getField (putField v f n) g = getField v g := by
  apply Nat.eq_of_testBit_eq
  intro i
  rw [getField_testBit, getField_testBit]
  by_cases hi : i < g.width
  · rw [putField_getLsbD _ _ _ _ (by omega), if_neg]
    unfold fieldsApart at h
    omega
  · simp [hi]

theorem getField_lt (v : Word) (f : Field) : getField v f < 2 ^ f.width := Nat.mod_lt _ (Nat.two_pow_pos _)

@[simp] theorem getField_zero (f : Field) : getField 0 f = 0 := by simp [getField]

theorem wbit_eq (v : Word) (i : Nat) : wbit v i = v.getLsbD i := rfl

end Sys2Proof.Machine
end

