-- ==== Sys2Proof/Laws/Sparse.lean ====
section
/-!
SUPPORT. Sys2Proof/Laws/Sparse.lean: the laws of sparse storage and of memory. A read after a write gives the value written,
a write leaves every other key alone, and every write keeps the canonical form.
-/

set_option Elab.async false

namespace Sys2Proof.Machine

variable {α : Type}

/-! ## Reads after writes -/

theorem sparseGet_drop_same (d : Nat → α) (m : Sparse α) (k : Nat) : sparseGet d (sparseDrop m k) k = d k := by
  induction m with
  | nil => rfl
  | cons e rest ih =>
    unfold sparseDrop at ih ⊢
    rw [List.filter_cons]
    split
    · rename_i he
      have h : e.1 ≠ k := by simpa using he
      obtain ⟨k', v⟩ := e
      simpa [sparseGet, h] using ih
    · exact ih

theorem sparseGet_drop_other (d : Nat → α) (m : Sparse α) {k j : Nat} (h : j ≠ k) :
    sparseGet d (sparseDrop m k) j = sparseGet d m j := by
  induction m with
  | nil => rfl
  | cons e rest ih =>
    obtain ⟨k', v⟩ := e
    unfold sparseDrop at ih ⊢
    rw [List.filter_cons]
    by_cases hk : k' = k
    · subst hk
      simpa [sparseGet, Ne.symm h] using ih
    · simp [sparseGet, hk, ih]

theorem sparseGet_insert_other (d : Nat → α) (m : Sparse α) {k j : Nat} (v : α) (h : j ≠ k) :
    sparseGet d (sparseInsert m k v) j = sparseGet d m j := by
  induction m with
  | nil => simp [sparseInsert, sparseGet, Ne.symm h]
  | cons e rest ih =>
    obtain ⟨k', v'⟩ := e
    unfold sparseInsert
    split
    · simp [sparseGet, Ne.symm h]
    · simp [sparseGet, ih]

theorem sparseGet_insert_same (d : Nat → α) (m : Sparse α) (k : Nat) (v : α) (h : ∀ e ∈ m, e.1 ≠ k) :
    sparseGet d (sparseInsert m k v) k = v := by
  induction m with
  | nil => simp [sparseInsert, sparseGet]
  | cons e rest ih =>
    obtain ⟨k', v'⟩ := e
    unfold sparseInsert
    split
    · simp [sparseGet]
    · have hk : k' ≠ k := h (k', v') (List.mem_cons_self ..)
      simpa [sparseGet, hk] using ih fun e he => h e (List.mem_cons_of_mem _ he)

theorem sparseDrop_ne {m : Sparse α} {k : Nat} : ∀ e ∈ sparseDrop m k, e.1 ≠ k := by
  intro e he
  simpa using (List.mem_filter.mp he).2

@[simp] theorem sparseGet_set_same [DecidableEq α] (d : Nat → α) (m : Sparse α) (k : Nat) (v : α) :
    sparseGet d (sparseSet d m k v) k = v := by
  unfold sparseSet
  split
  · rw [sparseGet_drop_same, ‹v = d k›]
  · exact sparseGet_insert_same d _ k v sparseDrop_ne

theorem sparseGet_set_other [DecidableEq α] (d : Nat → α) (m : Sparse α) {k j : Nat} (v : α) (h : j ≠ k) :
    sparseGet d (sparseSet d m k v) j = sparseGet d m j := by
  unfold sparseSet
  split
  · exact sparseGet_drop_other d m h
  · rw [sparseGet_insert_other d _ v h, sparseGet_drop_other d m h]

theorem sparseGet_set [DecidableEq α] (d : Nat → α) (m : Sparse α) (k j : Nat) (v : α) :
    sparseGet d (sparseSet d m k v) j = if j = k then v else sparseGet d m j := by
  split
  · subst j; simp
  · exact sparseGet_set_other d m v ‹_›

/-! ## The canonical form -/

theorem sparseSorted_iff (m : Sparse α) : sparseSorted m = true ↔ m.Pairwise (fun a b => a.1 < b.1) := by
  induction m with
  | nil => simp [sparseSorted]
  | cons e rest ih =>
    cases rest with
    | nil => simp [sparseSorted]
    | cons f rest =>
      obtain ⟨k, v⟩ := e
      obtain ⟨k', v'⟩ := f
      rw [sparseSorted, Bool.and_eq_true, ih, List.pairwise_cons (a := (k, v)), decide_eq_true_iff]
      constructor
      · rintro ⟨h, hp⟩
        refine ⟨fun b hb => ?_, hp⟩
        rcases List.mem_cons.mp hb with rfl | hb
        · exact h
        · exact h.trans ((List.pairwise_cons.mp hp).1 b hb)
      · rintro ⟨h, hp⟩
        exact ⟨h (k', v') (List.mem_cons_self ..), hp⟩

theorem sparseWf_iff [DecidableEq α] (d : Nat → α) (m : Sparse α) :
    sparseWf d m = true ↔ m.Pairwise (fun a b => a.1 < b.1) ∧ ∀ e ∈ m, e.2 ≠ d e.1 := by
  simp [sparseWf, sparseSorted_iff]

theorem sparseWf_nil [DecidableEq α] (d : Nat → α) : sparseWf d ([] : Sparse α) = true := rfl

theorem sparseWf_filter [DecidableEq α] {d : Nat → α} {m : Sparse α} (p : Nat × α → Bool) (h : sparseWf d m = true) :
    sparseWf d (m.filter p) = true := by
  rw [sparseWf_iff] at h ⊢
  exact ⟨h.1.filter p, fun e he => h.2 e (List.mem_filter.mp he).1⟩

theorem mem_sparseInsert {m : Sparse α} {k : Nat} {v : α} {e : Nat × α} :
    e ∈ sparseInsert m k v → e = (k, v) ∨ e ∈ m := by
  induction m with
  | nil => simp [sparseInsert]
  | cons f rest ih =>
    obtain ⟨k', v'⟩ := f
    unfold sparseInsert
    split
    · simp
    · intro h
      rcases List.mem_cons.mp h with h | h
      · exact .inr (by simp [h])
      · exact (ih h).imp_right (List.mem_cons_of_mem _)

theorem sparseInsert_sorted {m : Sparse α} {k : Nat} (v : α) (hm : m.Pairwise (fun a b => a.1 < b.1))
    (hk : ∀ e ∈ m, e.1 ≠ k) : (sparseInsert m k v).Pairwise (fun a b => a.1 < b.1) := by
  induction m with
  | nil => simp [sparseInsert]
  | cons f rest ih =>
    obtain ⟨k', v'⟩ := f
    obtain ⟨h1, h2⟩ := List.pairwise_cons.mp hm
    unfold sparseInsert
    split
    · rename_i hlt
      refine List.pairwise_cons.mpr ⟨fun b hb => ?_, hm⟩
      rcases List.mem_cons.mp hb with rfl | hb
      · exact hlt
      · exact hlt.trans (h1 b hb)
    · rename_i hnlt
      have hne : k' ≠ k := hk (k', v') (List.mem_cons_self ..)
      refine List.pairwise_cons.mpr ⟨fun b hb => ?_, ih h2 fun e he => hk e (List.mem_cons_of_mem _ he)⟩
      rcases mem_sparseInsert hb with rfl | hb
      · exact Nat.lt_of_le_of_ne (Nat.le_of_not_lt hnlt) hne
      · exact h1 b hb

/-- Every single write keeps the canonical form. -/
theorem sparseWf_set [DecidableEq α] {d : Nat → α} {m : Sparse α} (k : Nat) (v : α) (h : sparseWf d m = true) :
    sparseWf d (sparseSet d m k v) = true := by
  unfold sparseSet
  split
  · exact sparseWf_filter _ h
  · rename_i hv
    have hw := (sparseWf_iff d m).mp h
    refine (sparseWf_iff d _).mpr ⟨sparseInsert_sorted v (hw.1.filter _) sparseDrop_ne, fun e he => ?_⟩
    rcases mem_sparseInsert he with rfl | he
    · exact hv
    · exact hw.2 e (List.mem_filter.mp he).1

theorem mem_sparsePutAll [DecidableEq α] {d : Nat → α} {kvs : Sparse α} : ∀ {m : Sparse α} {e : Nat × α},
    e ∈ sparsePutAll d kvs m → e ∈ m ∨ (e ∈ kvs ∧ e.2 ≠ d e.1) := by
  induction kvs with
  | nil => exact fun h => .inl h
  | cons f rest ih =>
    obtain ⟨k, v⟩ := f
    intro m e h
    simp only [sparsePutAll, List.append_assoc, List.mem_append] at h
    rcases h with h | h | h
    · exact .inl ((List.takeWhile_sublist _).subset h)
    · split at h
      · cases h
      · rw [List.mem_singleton] at h
        subst h
        exact .inr ⟨List.mem_cons_self .., ‹_›⟩
    · rcases ih h with h | h
      · exact .inl ((List.dropWhile_sublist _).subset h)
      · exact .inr ⟨List.mem_cons_of_mem _ h.1, h.2⟩

theorem lt_of_mem_takeWhile {m : Sparse α} {k : Nat} {e : Nat × α} (h : e ∈ m.takeWhile (fun e => decide (e.1 < k))) :
    e.1 < k := by simpa using List.mem_takeWhile_imp h

theorem lt_of_mem_dropWhile {m : Sparse α} {k : Nat} (hm : m.Pairwise (fun a b => a.1 < b.1)) :
    ∀ {e : Nat × α}, e ∈ m.dropWhile (fun e => decide (e.1 ≤ k)) → k < e.1 := by
  induction m with
  | nil => simp
  | cons f rest ih =>
    obtain ⟨h1, h2⟩ := List.pairwise_cons.mp hm
    intro e he
    rw [List.dropWhile_cons] at he
    split at he
    · exact ih h2 he
    · rename_i hf
      have hf : k < f.1 := by simpa using hf
      rcases List.mem_cons.mp he with rfl | he
      · exact hf
      · exact hf.trans (h1 e he)

/-- Writing a list with strictly rising keys keeps the canonical form. -/
theorem sparseWf_putAll [DecidableEq α] {d : Nat → α} {kvs : Sparse α} (hk : kvs.Pairwise (fun a b => a.1 < b.1)) :
    ∀ {m : Sparse α}, sparseWf d m = true → sparseWf d (sparsePutAll d kvs m) = true := by
  induction kvs with
  | nil => exact fun h => h
  | cons f rest ih =>
    obtain ⟨k, v⟩ := f
    obtain ⟨hk1, hk2⟩ := List.pairwise_cons.mp hk
    intro m h
    have hw := (sparseWf_iff d m).mp h
    have hd : sparseWf d (m.dropWhile (fun e => decide (e.1 ≤ k))) = true :=
      (sparseWf_iff d _).mpr ⟨hw.1.sublist (List.dropWhile_sublist _),
        fun e he => hw.2 e ((List.dropWhile_sublist _).subset he)⟩
    have hr := (sparseWf_iff d _).mp (ih hk2 hd)
    have hgt : ∀ e ∈ sparsePutAll d rest (m.dropWhile (fun e => decide (e.1 ≤ k))), k < e.1 := by
      intro e he
      rcases mem_sparsePutAll he with he | he
      · exact lt_of_mem_dropWhile hw.1 he
      · exact hk1 e he.1
    refine (sparseWf_iff d _).mpr ⟨?_, fun e he => ?_⟩
    · simp only [sparsePutAll]
      rw [List.pairwise_append]
      refine ⟨?_, hr.1, ?_⟩
      · rw [List.pairwise_append]
        refine ⟨hw.1.sublist (List.takeWhile_sublist _), ?_, ?_⟩
        · split
          · exact List.Pairwise.nil
          · exact List.pairwise_singleton _ _
        · intro a ha b hb
          split at hb
          · cases hb
          · rw [List.mem_singleton] at hb
            subst hb
            exact lt_of_mem_takeWhile ha
      · intro a ha b hb
        rcases List.mem_append.mp ha with ha | ha
        · exact (lt_of_mem_takeWhile ha).trans (hgt b hb)
        · split at ha
          · cases ha
          · rw [List.mem_singleton] at ha
            subst ha
            exact hgt b hb
    · rcases mem_sparsePutAll he with he | he
      · exact hw.2 e he
      · exact he.2

/-! ## Memory -/

@[simp] theorem memGet_memSet_same (m : Memory) (a : Nat) (b : Byte) : memGet (memSet m a b) a = b :=
  sparseGet_set_same ..

theorem memGet_memSet_other (m : Memory) {a c : Nat} (b : Byte) (h : c ≠ a) : memGet (memSet m a b) c = memGet m c :=
  sparseGet_set_other _ _ _ h

theorem memGet_memWrite_out (bs : List Byte) : ∀ (m : Memory) {a c : Nat}, c < a ∨ a + bs.length ≤ c →
    memGet (memWrite m a bs) c = memGet m c := by
  induction bs with
  | nil => intro m a c _; rfl
  | cons b bs ih =>
    intro m a c h
    have h' : c < a + 1 ∨ a + 1 + bs.length ≤ c := by
      rcases h with h | h
      · exact .inl (by omega)
      · exact .inr (by simp only [List.length_cons] at h; omega)
    rw [memWrite, ih _ h', memGet_memSet_other]
    rcases h with h | h
    · omega
    · simp only [List.length_cons] at h; omega

theorem memGet_memWrite_in (bs : List Byte) : ∀ (m : Memory) (a : Nat) {i : Nat} (h : i < bs.length),
    memGet (memWrite m a bs) (a + i) = bs[i] := by
  induction bs with
  | nil => intro m a i h; cases h
  | cons b bs ih =>
    intro m a i h
    rw [memWrite]
    cases i with
    | zero => rw [memGet_memWrite_out bs _ (.inl (by omega))]; simp
    | succ i =>
      have := ih (memSet m a b) (a + 1) (i := i) (by simpa using h)
      simpa [Nat.add_assoc, Nat.add_comm 1 i] using this

/-- Reading back what was written. -/
theorem memRead_memWrite_same (m : Memory) (a : Nat) (bs : List Byte) : memRead (memWrite m a bs) a bs.length = bs := by
  apply List.ext_getElem
  · simp [memRead]
  · intro i h1 h2
    simp [memRead, memGet_memWrite_in bs m a h2]

theorem wf_memSet {m : Memory} (a : Nat) (b : Byte) (h : m.wf = true) : (memSet m a b).wf = true := sparseWf_set a b h

theorem wf_memWrite (bs : List Byte) : ∀ {m : Memory} (a : Nat), m.wf = true → (memWrite m a bs).wf = true := by
  induction bs with
  | nil => exact fun _ h => h
  | cons b bs ih => exact fun a h => ih (a + 1) (wf_memSet a b h)

theorem wf_memPutWord {m : Memory} (a : Nat) (v : Word) (h : m.wf = true) : (memPutWord m a v).wf = true :=
  wf_memWrite _ a h

theorem wf_memPutWords (ws : List Word) : ∀ {m : Memory} (a : Nat), m.wf = true → (memPutWords m a ws).wf = true := by
  induction ws with
  | nil => exact fun _ h => h
  | cons w ws ih => exact fun a h => ih (a + 8) (wf_memPutWord a w h)

theorem wf_memFilter {m : Memory} (p : Host.Cell → Bool) (h : m.wf = true) : Memory.wf (m.filter p) = true :=
  sparseWf_filter p h

@[simp] theorem natToBytes_length (n : Nat) : ∀ v, (natToBytes n v).length = n := by
  induction n with
  | zero => intro v; rfl
  | succ n ih => intro v; simp [natToBytes, ih]

@[simp] theorem memRead_length (m : Memory) (a n : Nat) : (memRead m a n).length = n := by simp [memRead]

end Sys2Proof.Machine
end

