-- ==== Sys2Proof/Laws/Keeps.lean ====
section
/-!
SUPPORT. Sys2Proof/Laws/Keeps.lean: what every operation of the machine keeps. `Keeps s t` says that t has the queue and the
fuses of s, that the NV store has lost nothing it must keep, that a retired package stays retired and a tripped one clamped,
and that t is sound where s is. One lemma `<operation>_keeps` for each operation follows in the Keeps files, and the
lemma about exec is put together from them.
-/

set_option Elab.async false

namespace Sys2Proof.Machine

theorem NvGrows.refl (a : NvStore) : NvGrows a a :=
  ⟨le_refl _, le_refl _, le_refl _, le_refl _, le_refl _, List.prefix_refl _⟩

theorem NvGrows.trans {a b c : NvStore} (h : NvGrows a b) (h' : NvGrows b c) : NvGrows a c :=
  ⟨h.trips.trans h'.trips, h.svnFw.trans h'.svnFw, h.svnCfg.trans h'.svnCfg, h.nextQ.trans h'.nextQ,
   h.auditSeq.trans h'.auditSeq, h.repairs.trans h'.repairs⟩

theorem NvGrows.of_eq {a b : NvStore} (h1 : a.trips = b.trips) (h2 : a.svnFw = b.svnFw) (h3 : a.svnCfg = b.svnCfg)
    (h4 : a.nextQ = b.nextQ) (h5 : a.auditSeq = b.auditSeq) (h6 : a.repairs = b.repairs) : NvGrows a b :=
  ⟨h1.le, h2.le, h3.le, h4.le, h5.le, h6 ▸ List.prefix_refl _⟩

/-- t has the command queue and the fuses of s, keeps what no command takes away, and is sound where s is. -/
structure Keeps (s t : State) : Prop where
  pending : t.pending = s.pending
  fuse : t.fuse = s.fuse
  nv : NvGrows s.nv t.nv
  retired : s.retired = true → t.retired = true
  clamp : s.clamped = true → t.clamped = true
  sound : Sound s → Sound t

theorem Keeps.refl (s : State) : Keeps s s := ⟨rfl, rfl, NvGrows.refl _, id, id, id⟩

theorem Keeps.trans {s t u : State} (h : Keeps s t) (h' : Keeps t u) : Keeps s u :=
  ⟨h'.pending.trans h.pending, h'.fuse.trans h.fuse, h.nv.trans h'.nv, fun x => h'.retired (h.retired x),
   fun x => h'.clamp (h.clamp x), fun x => h'.sound (h.sound x)⟩

/-- What a command's answer keeps: a next state keeps, a fault or a refusal has no next state. -/
def KeepsOut (s : State) (o : Host.Outcome State Fault Refusal) : Prop := ∀ t, o = .next t → Keeps s t

theorem KeepsOut.next {s t : State} (h : Keeps s t) : KeepsOut s (.next t) := by
  intro u e
  cases e
  exact h

theorem KeepsOut.refused {s : State} {r : Refusal} : KeepsOut s (.refused r) := by
  intro u e
  cases e

/-- An update of fields that soundness does not speak of. -/
theorem Keeps.record {s t : State} {x_freeCtr x_bays x_steps x_publishes x_fences x_logCleared x_queues x_changes
    x_larders x_pantry x_leases x_evicts x_roles x_annexReqs x_restores x_memOps x_active x_peerEpochs x_challenges
    x_denials x_lockout x_i3cRole x_i3cAddr x_outbox x_evqPass x_msixPending x_nv x_mode x_clamped x_resetPend
    x_blockResets x_slotParts x_reloads x_unfences x_seenRecords x_locals x_pci x_links x_csms x_beat x_plans
    x_settles x_power x_nextTag x_cfgNow x_startEnv x_bootFrame x_lifePend x_resetLow x_jtag x_straps x_i3cDyn
    x_i3cBlock x_pair x_drbgA x_drbgB x_drbgWait x_entropyOther x_attach x_guestAnswer x_sky x_sliceAt x_slicePos
    x_baseBist x_baseRemaps x_baseOff x_candidates x_excluded x_capHigh x_points x_enginesOff x_injecting} 
    (h : Keeps s t)
    (h1 : NvStore.history x_nv = t.nv.history) (h2 : x_nv.audit = t.nv.audit) (h3 : x_nv.repairs = t.nv.repairs)
    (h4 : NvGrows t.nv x_nv := by first | exact NvGrows.refl _ | exact NvGrows.of_eq rfl rfl rfl rfl rfl rfl)
    (h5 : (t.nv.lifecycle == 4 && t.lifePend.isNone) = true → (x_nv.lifecycle == 4 && x_lifePend.isNone) = true := by exact id)
    (h6 : t.clamped = true → x_clamped = true := by first | exact id | exact fun _ => rfl) :
    Keeps s { t with
      freeCtr := x_freeCtr, bays := x_bays, steps := x_steps, publishes := x_publishes, fences := x_fences,
      logCleared := x_logCleared, queues := x_queues, changes := x_changes, larders := x_larders, pantry := x_pantry,
      leases := x_leases, evicts := x_evicts, roles := x_roles, annexReqs := x_annexReqs, restores := x_restores,
      memOps := x_memOps, active := x_active, peerEpochs := x_peerEpochs, challenges := x_challenges,
      denials := x_denials, lockout := x_lockout, i3cRole := x_i3cRole, i3cAddr := x_i3cAddr, outbox := x_outbox,
      evqPass := x_evqPass, msixPending := x_msixPending, nv := x_nv, mode := x_mode, clamped := x_clamped,
      resetPend := x_resetPend, blockResets := x_blockResets, slotParts := x_slotParts, reloads := x_reloads,
      unfences := x_unfences, seenRecords := x_seenRecords, locals := x_locals, pci := x_pci, links := x_links,
      csms := x_csms, beat := x_beat, plans := x_plans, settles := x_settles, power := x_power, nextTag := x_nextTag,
      cfgNow := x_cfgNow, startEnv := x_startEnv, bootFrame := x_bootFrame, lifePend := x_lifePend,
      resetLow := x_resetLow, jtag := x_jtag, straps := x_straps, i3cDyn := x_i3cDyn, i3cBlock := x_i3cBlock,
      pair := x_pair, drbgA := x_drbgA, drbgB := x_drbgB, drbgWait := x_drbgWait, entropyOther := x_entropyOther,
      attach := x_attach, guestAnswer := x_guestAnswer, sky := x_sky, sliceAt := x_sliceAt, slicePos := x_slicePos,
      baseBist := x_baseBist, baseRemaps := x_baseRemaps, baseOff := x_baseOff, candidates := x_candidates,
      excluded := x_excluded, capHigh := x_capHigh, points := x_points, enginesOff := x_enginesOff,
      injecting := x_injecting } :=
  ⟨h.pending, h.fuse, h.nv.trans h4, fun x => h5 (h.retired x), fun x => h6 (h.clamp x), fun x =>
    let y := h.sound x
    { mem := y.mem, sram := y.sram, hostMem := y.hostMem, ringMem := y.ringMem, mgmt := y.mgmt, hb := y.hb,
      history := by rw [h1]; exact y.history, audit := by rw [h2]; exact y.audit,
      repairs := by rw [h3]; exact y.repairs, dups := y.dups, log := y.log }⟩

/-! Updates of one store that soundness speaks of. -/

theorem Keeps.setMem {s t : State} {m : Memory} (h : Keeps s t) (hm : t.mem.wf = true → m.wf = true) :
    Keeps s { t with mem := m } :=
  ⟨h.pending, h.fuse, h.nv, h.retired, h.clamp, fun x => { h.sound x with mem := hm (h.sound x).mem }⟩

theorem Keeps.setSramMem {s t : State} {m : Memory} (h : Keeps s t) (hm : t.sram.wf = true → m.wf = true) :
    Keeps s { t with sram := m } :=
  ⟨h.pending, h.fuse, h.nv, h.retired, h.clamp, fun x => { h.sound x with sram := hm (h.sound x).sram }⟩

theorem Keeps.setHostMem {s t : State} {m : Memory} (h : Keeps s t) (hm : t.hostMem.wf = true → m.wf = true) :
    Keeps s { t with hostMem := m } :=
  ⟨h.pending, h.fuse, h.nv, h.retired, h.clamp, fun x => { h.sound x with hostMem := hm (h.sound x).hostMem }⟩

theorem Keeps.setRingMem {s t : State} {m : Memory} (h : Keeps s t) (hm : t.ringMem.wf = true → m.wf = true) :
    Keeps s { t with ringMem := m } :=
  ⟨h.pending, h.fuse, h.nv, h.retired, h.clamp, fun x => { h.sound x with ringMem := hm (h.sound x).ringMem }⟩

theorem Keeps.setMgmt {s t : State} {m : Sparse (BitVec 64)} (h : Keeps s t)
    (hm : sparseWf regReset t.mgmt = true → sparseWf regReset m = true) : Keeps s { t with mgmt := m } :=
  ⟨h.pending, h.fuse, h.nv, h.retired, h.clamp, fun x => { h.sound x with mgmt := hm (h.sound x).mgmt }⟩

theorem Keeps.setHb {s t : State} {m : Sparse (BitVec 64)} (h : Keeps s t)
    (hm : sparseWf hbReset t.hb = true → sparseWf hbReset m = true) : Keeps s { t with hb := m } :=
  ⟨h.pending, h.fuse, h.nv, h.retired, h.clamp, fun x => { h.sound x with hb := hm (h.sound x).hb }⟩

theorem Keeps.setHistory {s t : State} {v : NvStore} (h : Keeps s t) (h1 : t.nv.history.length ≤ 256 → v.history.length ≤ 256)
    (h2 : v.audit = t.nv.audit) (h3 : v.repairs = t.nv.repairs)
    (hg : NvGrows t.nv v) (hr : v.lifecycle = t.nv.lifecycle) : Keeps s { t with nv := v } :=
  ⟨h.pending, h.fuse, h.nv.trans hg, fun x => by
      have y := h.retired x
      rw [State.retired] at y ⊢
      rw [hr]
      exact y, h.clamp, fun x =>
    { h.sound x with history := h1 (h.sound x).history, audit := h2 ▸ (h.sound x).audit, repairs := h3 ▸ (h.sound x).repairs }⟩

theorem Keeps.setAudit {s t : State} {v : NvStore} (h : Keeps s t) (h1 : v.audit.length ≤ 4096)
    (h2 : v.history = t.nv.history) (h3 : v.repairs = t.nv.repairs)
    (hg : NvGrows t.nv v) (hr : v.lifecycle = t.nv.lifecycle) : Keeps s { t with nv := v } :=
  ⟨h.pending, h.fuse, h.nv.trans hg, fun x => by
      have y := h.retired x
      rw [State.retired] at y ⊢
      rw [hr]
      exact y, h.clamp, fun x =>
    { h.sound x with history := h2 ▸ (h.sound x).history, audit := h1, repairs := h3 ▸ (h.sound x).repairs }⟩

theorem Keeps.setRepairs {s t : State} {v : NvStore} (h : Keeps s t) (h1 : v.repairs.length ≤ 8192)
    (h2 : v.history = t.nv.history) (h3 : v.audit = t.nv.audit)
    (hg : NvGrows t.nv v) (hr : v.lifecycle = t.nv.lifecycle) : Keeps s { t with nv := v } :=
  ⟨h.pending, h.fuse, h.nv.trans hg, fun x => by
      have y := h.retired x
      rw [State.retired] at y ⊢
      rw [hr]
      exact y, h.clamp, fun x =>
    { h.sound x with history := h2 ▸ (h.sound x).history, audit := h3 ▸ (h.sound x).audit, repairs := h1 }⟩

theorem Keeps.setDups {s t : State} {ds : List Remembered} (h : Keeps s t)
    (hd : (∀ o r, (rememberedOf t.dups o r).length ≤ 256) → ∀ o r, (rememberedOf ds o r).length ≤ 256) :
    Keeps s { t with dups := ds } :=
  ⟨h.pending, h.fuse, h.nv, h.retired, h.clamp, fun x => { h.sound x with dups := hd (h.sound x).dups }⟩

/-- Remembering a reply drops the oldest one of its ring where 256 are held (R422). -/
theorem rememberIn_bound (ds : List Remembered) (x : Remembered) (h : ∀ o r, (rememberedOf ds o r).length ≤ 256) (o r : Nat) :
    (rememberedOf (rememberIn ds x) o r).length ≤ 256 := by
  have hsub : ∀ old, (rememberedOf (ds.erase old) o r).length ≤ 256 := fun old =>
    ((List.erase_sublist.filter _).length_le).trans (h o r)
  obtain ⟨same, hsame⟩ : ∃ l, l = ds.filter (fun d => d.origin == x.origin && d.ring == x.ring) := ⟨_, rfl⟩
  obtain ⟨ds', hds'⟩ : ∃ l, l = if 256 ≤ same.length then (match same with | old :: _ => ds.erase old | [] => ds) else ds :=
    ⟨_, rfl⟩
  have hr : rememberIn ds x = ds' ++ [x] := by rw [hds', hsame]; rfl
  rw [hr]
  have hds : (rememberedOf ds' o r).length ≤ 256 := by
    rw [hds']
    split
    · split
      · exact hsub _
      · exact h o r
    · exact h o r
  have key : rememberedOf (ds' ++ [x]) o r =
      rememberedOf ds' o r ++ if x.origin == o && x.ring == r then [x] else [] := by
    unfold rememberedOf
    rw [List.filter_append, List.filter_singleton]
    cases x.origin == o && x.ring == r <;> rfl
  by_cases hx : (x.origin == o && x.ring == r) = true
  · have ho : same = rememberedOf ds o r := by
      obtain ⟨h1, h2⟩ := Bool.and_eq_true_iff.mp hx
      simp only [beq_iff_eq] at h1 h2
      subst h1 h2
      exact hsame
    suffices hlt : (rememberedOf ds' o r).length ≤ 255 by
      rw [key, if_pos hx, List.length_append, List.length_singleton]; omega
    rw [hds']
    split
    · rename_i hge
      split
      · rename_i old rest
        have hold : old ∈ rememberedOf ds o r := by rw [← ho]; exact List.mem_cons_self ..
        have : (rememberedOf (ds.erase old) o r) = (rememberedOf ds o r).erase old :=
          (List.erase_filter (l := ds) ..).symm
        rw [this, List.length_erase_of_mem hold]
        have := h o r
        omega
      · exact absurd hge (by decide)
    · rename_i hlt
      rw [ho] at hlt
      omega
  · rw [key, if_neg hx, List.append_nil]; exact hds

theorem Keeps.remember {s t : State} {x : Remembered} (h : Keeps s t) :
    Keeps s { t with dups := rememberIn t.dups x } :=
  h.setDups (rememberIn_bound _ _)

/-- An entry put last in the log's order is the next unused one, or one of those in use. -/
theorem Keeps.setLog {s t : State} {i : Nat} {c : List Nat} (h : Keeps s t)
    (hi : (i = t.logOrder.length ∧ i < 1024) ∨ i ∈ t.logOrder) :
    Keeps s { t with logOrder := t.logOrder.filter (fun k => k != i) ++ [i], logCleared := c } := by
  refine ⟨h.pending, h.fuse, h.nv, h.retired, h.clamp, fun x => { h.sound x with log := ?_ }⟩
  obtain ⟨hp, hl⟩ := (h.sound x).log
  have hn : t.logOrder.Nodup := hp.nodup_iff.mpr List.nodup_range
  rcases hi with ⟨hi, hlt⟩ | hi
  · have hm : i ∉ t.logOrder := by
      intro hm
      have := hp.mem_iff.mp hm
      rw [List.mem_range] at this
      omega
    have hf : t.logOrder.filter (fun k => k != i) = t.logOrder := by
      rw [List.filter_eq_self]
      intro k hk
      simp only [bne_iff_ne, ne_eq]
      rintro rfl
      exact hm hk
    simp only [hf, List.length_append, List.length_singleton]
    refine ⟨?_, by omega⟩
    rw [List.range_succ, ← hi]
    exact (hi ▸ hp).append_right _
  · have he : t.logOrder.filter (fun k => k != i) = t.logOrder.erase i := (hn.erase_eq_filter i).symm
    have hper : (t.logOrder.erase i ++ [i]).Perm t.logOrder :=
      (List.perm_append_comm).trans (List.perm_cons_erase hi).symm
    simp only [he]
    rw [hper.length_eq]
    exact ⟨hper.trans hp, hl⟩

theorem Keeps.foldl {α : Type} {s : State} {g : State → α → State} (hg : ∀ t x, Keeps s t → Keeps s (g t x)) :
    ∀ (l : List α) (t : State), Keeps s t → Keeps s (l.foldl g t)
  | [], _, h => h
  | x :: l, _, h => Keeps.foldl hg l _ (hg _ x h)

theorem Keeps.foldl_fst {α β : Type} {s : State} {g : State × β → α → State × β}
    (hg : ∀ t x, Keeps s t.1 → Keeps s (g t x).1) : ∀ (l : List α) (t : State × β), Keeps s t.1 → Keeps s (l.foldl g t).1
  | [], _, h => h
  | x :: l, _, h => Keeps.foldl_fst hg l _ (hg _ x h)

theorem Keeps.foldl_snd {α β : Type} {s : State} {g : β × State → α → β × State}
    (hg : ∀ t x, Keeps s t.2 → Keeps s (g t x).2) : ∀ (l : List α) (t : β × State), Keeps s t.2 → Keeps s (l.foldl g t).2
  | [], _, h => h
  | x :: l, _, h => Keeps.foldl_snd hg l _ (hg _ x h)

theorem Keeps.fst_eq {β : Type} {s t : State} {p : State × β} {b : β} (e : p = (t, b)) (h : Keeps s p.1) : Keeps s t := by
  subst e; exact h

theorem Keeps.snd_eq {β : Type} {s t : State} {p : β × State} {b : β} (e : p = (b, t)) (h : Keeps s p.2) : Keeps s t := by
  subst e; exact h

theorem Keeps.ite {c : Prop} [Decidable c] {s a b : State} (h1 : c → Keeps s a) (h2 : ¬c → Keeps s b) :
    Keeps s (if c then a else b) := by
  split
  · exact h1 ‹_›
  · exact h2 ‹_›

end Sys2Proof.Machine
end

