-- ==== Sys2Proof/Laws/KeepsOps.lean ====
section
/-!
SUPPORT. Sys2Proof/Laws/KeepsOps.lean: what the operations over registers, memory, the queues and event rings, and faults keep.
-/

set_option Elab.async false

namespace Sys2Proof.Machine

theorem State.setReg_keeps {s0 s : State} {a2} {a3} (h : Keeps s0 s) : Keeps s0 (s.setReg a2 a3) :=
  h.setMgmt (sparseWf_set _ _)

theorem State.wf_keeps {s0 s : State} {a2} {a3} {a4} (h : Keeps s0 s) : Keeps s0 (s.wf a2 a3 a4) := by
  unfold State.wf
  exact State.setReg_keeps ‹_›

theorem State.wfs_keeps {s0 s : State} {a2} {a3} (h : Keeps s0 s) : Keeps s0 (s.wfs a2 a3) := by
  unfold State.wfs
  exact State.setReg_keeps ‹_›

theorem State.satf_keeps {s0 s : State} {a2} {a3} {a4} (h : Keeps s0 s) : Keeps s0 (s.satf a2 a3 a4) := by
  unfold State.satf
  exact State.wf_keeps ‹_›

theorem State.addf_keeps {s0 s : State} {a2} {a3} {a4} (h : Keeps s0 s) : Keeps s0 (s.addf a2 a3 a4) := by
  unfold State.addf
  exact State.wf_keeps ‹_›

theorem State.setRegs_keeps {s0 s : State} {a2} (h : Keeps s0 s) (hk : a2.Pairwise (fun a b => a.1 < b.1)) :
    Keeps s0 (s.setRegs a2) :=
  h.setMgmt (sparseWf_putAll hk)

theorem State.setHreg_keeps {s0 s : State} {a2} {a3} (h : Keeps s0 s) : Keeps s0 (s.setHreg a2 a3) :=
  h.setHb (sparseWf_set _ _)

theorem State.whf_keeps {s0 s : State} {a2} {a3} {a4} (h : Keeps s0 s) : Keeps s0 (s.whf a2 a3 a4) := by
  unfold State.whf
  exact State.setHreg_keeps ‹_›

theorem State.setBay_keeps {s0 s : State} {a2} {a3} (h : Keeps s0 s) : Keeps s0 (s.setBay a2 a3) := by
  unfold State.setBay
  exact Keeps.record ‹_› rfl rfl rfl

theorem State.setSram_keeps {s0 s : State} {a2} {a3} {a4} (h : Keeps s0 s) : Keeps s0 (s.setSram a2 a3 a4) :=
  h.setSramMem (wf_memSet _ _)

theorem State.sramWrite_keeps {s0 : State} {a2 : BayId} : ∀ {a4 : List Byte} {s : State} {a3 : Nat}, Keeps s0 s →
    Keeps s0 (s.sramWrite a2 a3 a4)
  | [], _, _, h => h
  | _ :: vs, _, _, h => State.sramWrite_keeps (a4 := vs) (State.setSram_keeps h)

theorem State.draw_keeps {s0 s : State} (h : Keeps s0 s) : Keeps s0 (s.draw).2 := by
  unfold State.draw
  dsimp only
  exact Keeps.record ‹_› rfl rfl rfl

theorem State.drawSr_keeps {s0 s : State} (h : Keeps s0 s) : Keeps s0 (s.drawSr).2 := by
  unfold State.drawSr
  split
  extract_lets +onlyGivenNames x1
  clear_value x1
  dsimp only
  exact Keeps.snd_eq ‹_› (State.draw_keeps ‹_›)

theorem State.showFence_keeps {s0 s : State} {a2} {a3} (h : Keeps s0 s) : Keeps s0 (s.showFence a2 a3) := by
  unfold State.showFence
  split
  · exact Keeps.ite (fun _ => State.wf_keeps ‹_›) (fun _ => Keeps.ite (fun _ => State.wf_keeps ‹_›) (fun _ => ‹_›))
  · exact Keeps.ite (fun _ => State.wf_keeps ‹_›) (fun _ => ‹_›)
  · exact State.wf_keeps ‹_›
  · assumption

theorem State.fence_keeps {s0 s : State} {a2} {a3} (h : Keeps s0 s) : Keeps s0 (s.fence a2 a3) := by
  unfold State.fence
  exact Keeps.ite (fun _ => ‹_›) (fun _ => State.showFence_keeps (Keeps.record ‹_› rfl rfl rfl))

theorem State.unfence_keeps {s0 s : State} {a2} (h : Keeps s0 s) : Keeps s0 (s.unfence a2) := by
  unfold State.unfence
  exact State.showFence_keeps (Keeps.record ‹_› rfl rfl rfl)

theorem State.unpoison_keeps {s0 s : State} {a2} (h : Keeps s0 s) : Keeps s0 (s.unpoison a2) := by
  unfold State.unpoison
  extract_lets +onlyGivenNames x1
  clear_value x1
  split
  · exact State.wf_keeps (State.setReg_keeps ‹_›)
  · assumption

theorem State.poison_keeps {s0 s : State} {a2} (h : Keeps s0 s) {t} (e : s.poison a2 = some t) : Keeps s0 t := by
  unfold State.poison at e
  extract_lets w at e
  split at e
  · cases e; exact h
  · split at e
    · cases e; exact State.addf_keeps (State.setReg_keeps h)
    · cases e

theorem State.memStore_keeps {s0 s : State} {a2} {a3} (h : Keeps s0 s) : Keeps s0 (s.memStore a2 a3) := by
  unfold State.memStore
  extract_lets full t
  have ht : Keeps s0 t := Keeps.foldl (fun t x ht => Keeps.ite (fun _ => State.unpoison_keeps ht) fun _ => ht) _ _ h
  exact ht.setMem (wf_memWrite _ _)

theorem State.localWrite_keeps {s0 s : State} {a2} {a3} {a4} (h : Keeps s0 s) {t} (e : s.localWrite a2 a3 a4 = .ok t) : Keeps s0 t := by
  unfold State.localWrite at e
  repeat' split at e
  all_goals cases e
  exact State.memStore_keeps h

theorem State.engineWrite_keeps {s0 s : State} {a2} {a3} (h : Keeps s0 s) {t} (e : s.engineWrite a2 a3 = .ok t) : Keeps s0 t := by
  unfold State.engineWrite at e
  repeat' split at e
  all_goals cases e
  exact State.memStore_keeps h

theorem State.setQueue_keeps {s0 s : State} {a2} {a3} (h : Keeps s0 s) : Keeps s0 (s.setQueue a2 a3) := by
  unfold State.setQueue
  exact Keeps.record ‹_› rfl rfl rfl

theorem State.spill_keeps {s0 : State} {a3} : ∀ {a1} {s : State} {a4}, Keeps s0 s → ∀ {t},
    State.spill a1 s a3 a4 = some t → Keeps s0 t.1
  | 0, s, q, h, t, e => by
    unfold State.spill at e
    split at e
    · cases e; exact h
    · cases e
  | k + 1, s, q, h, t, e => by
    unfold State.spill at e
    split at e
    · cases e; exact h
    · split at e
      · cases e
      · exact State.spill_keeps (State.setQueue_keeps
          (Keeps.ite (fun _ => State.wf_keeps (State.memStore_keeps h)) fun _ => State.memStore_keeps h)) e

theorem State.queuePut_keeps {s0 s : State} {a2} {a3} (h : Keeps s0 s) {t} (e : s.queuePut a2 a3 = some t) :
    Keeps s0 t := by
  unfold State.queuePut at e
  obtain ⟨r, hr, rfl⟩ := Option.map_eq_some_iff.mp e
  exact State.setQueue_keeps (State.spill_keeps h hr)

theorem State.msix_keeps {s0 s : State} {a2} (h : Keeps s0 s) : Keeps s0 (s.msix a2) := by
  unfold State.msix
  extract_lets a d
  refine Keeps.ite (fun _ => ?_) (fun _ => ?_)
  · exact Keeps.record h rfl rfl rfl
  · exact h.setHostMem (wf_memWrite _ _)

theorem State.ringWrite_keeps {s0 s : State} {a2} {a3} (h : Keeps s0 s) : Keeps s0 (s.ringWrite a2 a3) := by
  unfold State.ringWrite
  extract_lets tail size pass ws base s1 s2
  have h1 : Keeps s0 s1 :=
    Keeps.record (t := { s with hostMem := s1.hostMem }) (h.setHostMem (wf_memPutWords _ _)) rfl rfl rfl
  have h2 : Keeps s0 s2 := State.whf_keeps h1
  exact Keeps.ite (fun _ => State.msix_keeps (State.whf_keeps h2)) fun _ => h2

theorem State.deliverOne_keeps {s0 s : State} {a2} (h : Keeps s0 s) {t} (e : s.deliverOne a2 = some t) : Keeps s0 t := by
  unfold State.deliverOne at e
  split at e
  · obtain ⟨r, -, rfl⟩ := Option.map_eq_some_iff.mp e
    exact State.ringWrite_keeps (State.setQueue_keeps h)
  · cases e

theorem State.deliver_keeps {s0 : State} {a3} : ∀ {a1} {s : State}, Keeps s0 s → Keeps s0 (State.deliver a1 s a3)
  | 0, _, h => h
  | _ + 1, s, h => by
    unfold State.deliver
    split
    · exact h
    · exact State.deliver_keeps (State.deliverOne_keeps h ‹_›)

theorem State.deliverAll_keeps {s0 s : State} {a2} (h : Keeps s0 s) : Keeps s0 (s.deliverAll a2) := by
  unfold State.deliverAll
  exact State.deliver_keeps ‹_›

theorem State.notifyRing_keeps {s0 s : State} {a2} (h : Keeps s0 s) : Keeps s0 (s.notifyRing a2) := by
  unfold State.notifyRing
  exact State.msix_keeps ‹_›

theorem State.crossingsW_keeps {s0 s : State} {a2} {a3} {a4} (h : Keeps s0 s) : Keeps s0 (s.crossingsW a2 a3
    a4).1 := by
  unfold State.crossingsW
  extract_lets +onlyGivenNames x1 x2 x3 x4 x5 x6 x7 x8
  have hx6 : Keeps s0 x6 := Keeps.ite (fun _ => State.wf_keeps (State.satf_keeps ‹_›)) (fun _ => ‹_›)
  have hx7 : Keeps s0 x7 := Keeps.ite (fun _ => State.wf_keeps (State.satf_keeps ‹_›)) (fun _ => ‹_›)
  clear_value x1 x2 x3 x4 x5 x6 x7 x8
  dsimp only
  assumption

theorem State.crossings_keeps {s0 s : State} {a2} {a3} (h : Keeps s0 s) : Keeps s0 (s.crossings a2 a3).1 := by
  unfold State.crossings
  exact State.crossingsW_keeps ‹_›

theorem State.putEvent_keeps {s0 s : State} {a2} {a3} (h : Keeps s0 s) : Keeps s0 (s.putEvent a2 a3) := by
  unfold State.putEvent
  extract_lets +onlyGivenNames x1 x2 x3
  have hx3 : Keeps s0 x3 := by
    unfold x3
    split
    · exact State.queuePut_keeps ‹_› ‹_›
    · exact State.satf_keeps ‹_›
  clear_value x1 x2 x3
  split
  extract_lets +onlyGivenNames x4 x5 x6
  have hx4 : Keeps s0 x4 := Keeps.ite (fun _ => State.notifyRing_keeps (Keeps.fst_eq ‹_› (State.crossings_keeps ‹_›)))
      (fun _ => Keeps.fst_eq ‹_› (State.crossings_keeps ‹_›))
  have hx6 : Keeps s0 x6 := State.deliverAll_keeps ‹_›
  clear_value x4 x5 x6
  split
  exact Keeps.ite (fun _ => State.notifyRing_keeps (Keeps.fst_eq ‹_› (State.crossings_keeps ‹_›))) (fun _ =>
      Keeps.fst_eq ‹_› (State.crossings_keeps ‹_›))

theorem State.sendHearth_keeps {s0 s : State} {a2} (h : Keeps s0 s) : Keeps s0 (s.sendHearth a2) := by
  unfold State.sendHearth
  exact Keeps.record ‹_› rfl rfl rfl

theorem State.hostEvent_keeps {s0 s : State} {a2} {a3} (h : Keeps s0 s) : Keeps s0 (s.hostEvent a2 a3) := by
  unfold State.hostEvent
  exact Keeps.ite (fun _ => State.putEvent_keeps ‹_›) (fun _ => State.sendHearth_keeps ‹_›)

theorem State.notices_keeps {s0 s : State} {a2} {a3} {a4} (h : Keeps s0 s) : Keeps s0 (s.notices a2 a3 a4) :=
    by
  unfold State.notices
  refine Keeps.ite (fun _ => ?_) (fun _ => ?_)
  · exact Keeps.ite (fun _ => State.notifyRing_keeps ‹_›) (fun _ => ‹_›)
  · extract_lets +onlyGivenNames x1
    have hx1 : Keeps s0 x1 := Keeps.ite (fun _ => State.hostEvent_keeps ‹_›) (fun _ => ‹_›)
    clear_value x1
    exact Keeps.ite (fun _ => State.hostEvent_keeps ‹_›) (fun _ => ‹_›)

theorem State.noticeFrom_keeps {s0 s : State} {a2} {a3} (h : Keeps s0 s) : Keeps s0 (s.noticeFrom a2 a3) := by
  unfold State.noticeFrom
  extract_lets +onlyGivenNames x1
  have hx1 : Keeps s0 x1.1 := State.crossings_keeps ‹_›
  clear_value x1
  exact State.notices_keeps ‹_›

theorem State.enqueue_keeps {s0 s : State} {a2} {a3} (h : Keeps s0 s) {t} (e : s.enqueue a2 a3 = some t) :
    Keeps s0 t := by
  unfold State.enqueue at e
  obtain ⟨r, hr, rfl⟩ := Option.map_eq_some_iff.mp e
  exact State.noticeFrom_keeps (State.queuePut_keeps h hr)

theorem State.dequeue_keeps {s0 s : State} {a2} (h : Keeps s0 s) {t} (e : s.dequeue a2 = some t) : Keeps s0 t.2 := by
  unfold State.dequeue at e
  obtain ⟨r, -, rfl⟩ := Option.map_eq_some_iff.mp e
  exact State.noticeFrom_keeps (State.setQueue_keeps h)

theorem State.putLocal_keeps {s0 s : State} {a2} {a3} (h : Keeps s0 s) : Keeps s0 (s.putLocal a2 a3) := by
  unfold State.putLocal
  exact Keeps.ite (fun _ => Keeps.record ‹_› rfl rfl rfl) (fun _ => Keeps.ite (fun _ => Keeps.record ‹_› rfl rfl rfl)
      (fun _ => ‹_›))

theorem State.sendReply_keeps {s0 s : State} {a2} {a3} {a4} {a5} {a6} {a7} {a8} (h : Keeps s0 s) : Keeps s0
    (s.sendReply a2 a3 a4 a5 a6 a7 a8) := by
  unfold State.sendReply
  exact Keeps.ite (fun _ => State.sendHearth_keeps ‹_›) (fun _ => Keeps.ite (fun _ => Keeps.ite (fun _ =>
      State.putEvent_keeps ‹_›) (fun _ => ‹_›)) (fun _ => State.putLocal_keeps ‹_›))

theorem State.dropActive_keeps {s0 s : State} {a2} {a3} {a4} (h : Keeps s0 s) : Keeps s0 (s.dropActive a2 a3
    a4) := by
  unfold State.dropActive
  exact Keeps.record ‹_› rfl rfl rfl

theorem State.auditRec_keeps {s0 s : State} {a2} {a3} {a4} {a5} {a6} {a7} {a8} {a9} {a10} {a11} (h : Keeps s0 s) :
    Keeps s0 (s.auditRec a2 a3 a4 a5 a6 a7 a8 a9 a10 a11) := by
  unfold State.auditRec
  extract_lets prev r n rs
  refine State.setReg_keeps (h.setAudit ?_ rfl rfl
    ⟨le_refl _, le_refl _, le_refl _, le_refl _, Nat.le_succ _, List.prefix_refl _⟩ rfl)
  simp only [List.length_drop]
  omega

theorem State.auditCmd_keeps {s0 s : State} {a2} {a3} {a4} {a5} (h : Keeps s0 s) : Keeps s0 (s.auditCmd a2 a3
    a4 a5) := by
  unfold State.auditCmd
  exact Keeps.ite (fun _ => State.auditRec_keeps ‹_›) (fun _ => ‹_›)

theorem State.replyWith_keeps {s0 s : State} {a2} {a3} {a4} {a5} {a6} (h : Keeps s0 s) :
    Keeps s0 (s.replyWith a2 a3 a4 a5 a6) := by
  unfold State.replyWith
  extract_lets o s1 dead s2 s3
  have h1 : Keeps s0 s1 := State.auditCmd_keeps h
  have h3 : Keeps s0 s3 := (State.dropActive_keeps h1).remember
  exact Keeps.ite (fun _ => h3) fun _ => State.sendReply_keeps h3

theorem State.reply_keeps {s0 s : State} {a2} {a3} {a4} (h : Keeps s0 s) : Keeps s0 (s.reply a2 a3 a4) := by
  unfold State.reply
  exact State.replyWith_keeps ‹_›

theorem State.applied_keeps {s0 s : State} {a2} {a3} {a4} {a5} {a6} {a7} (h : Keeps s0 s) : Keeps s0 (s.applied
    a2 a3 a4 a5 a6 a7) := by
  unfold State.applied
  exact State.sendReply_keeps ‹_›

theorem State.refreshFlt_keeps {s0 s : State} (h : Keeps s0 s) : Keeps s0 (s.refreshFlt) := by
  unfold State.refreshFlt
  exact State.wfs_keeps ‹_›

theorem State.putRecord_keeps {s0 s : State} {a2} {a3} (h : Keeps s0 s)
    (hi : (a2 = s.logOrder.length ∧ a2 < 1024) ∨ a2 ∈ s.logOrder) : Keeps s0 (s.putRecord a2 a3) := by
  unfold State.putRecord
  extract_lets s1
  have h1 : Keeps s0 s1 := Keeps.foldl (fun t j ht => State.setReg_keeps ht) _ _ h
  have hl : s1.logOrder = s.logOrder := rfl
  exact h1.setLog (hl ▸ hi)

theorem State.recordFault_keeps {s0 s : State} {a2} {a3} {a4} {a5} {a6} {a7} (h : Keeps s0 s) :
    Keeps s0 (s.recordFault a2 a3 a4 a5 a6 a7).1 := by
  unfold State.recordFault
  split
  · exact State.refreshFlt_keeps (State.setReg_keeps h)
  · extract_lets ws v s1
    have h1 : Keeps s0 s1 := by
      refine Keeps.ite (fun _ => h) fun _ => h.setHistory (fun hl => ?_) rfl rfl
        ⟨le_refl _, le_refl _, le_refl _, le_refl _, le_refl _, List.prefix_refl _⟩ rfl
      simp only [List.length_drop, List.length_append, List.length_singleton]
      omega
    split
    · rename_i i hi
      refine State.refreshFlt_keeps (State.putRecord_keeps h1 ?_)
      unfold State.logSlot at hi
      split at hi
      · cases hi; exact .inl ⟨rfl, ‹_›⟩
      · exact .inr (List.mem_of_find?_eq_some hi)
    · exact State.refreshFlt_keeps (State.satf_keeps h1)

theorem State.noteStep_keeps {s0 s : State} {a2} {a3} {a4} {a5} {a6} (h : Keeps s0 s) : Keeps s0 (s.noteStep a2
    a3 a4 a5 a6) := by
  unfold State.noteStep
  extract_lets +onlyGivenNames x1 x2
  have hx2 : Keeps s0 x2.1 := State.recordFault_keeps ‹_›
  clear_value x1 x2
  exact Keeps.ite (fun _ => State.hostEvent_keeps ‹_›) (fun _ => ‹_›)

theorem State.note_keeps {s0 s : State} {a2} {a3} {a4} (h : Keeps s0 s) : Keeps s0 (s.note a2 a3 a4) := by
  unfold State.note
  exact State.noteStep_keeps ‹_›

theorem State.mgmtError_keeps {s0 s : State} {a2} {a3} (h : Keeps s0 s) : Keeps s0 (s.mgmtError a2 a3) := by
  unfold State.mgmtError
  exact State.note_keeps ‹_›

theorem State.completionRecord_keeps {s0 s : State} {a2} {a3} {a4} {a5} {a6} {a7} {a8} (h : Keeps s0 s) : Keeps s0
    (s.completionRecord a2 a3 a4 a5 a6 a7 a8) := by
  unfold State.completionRecord
  extract_lets +onlyGivenNames x1
  clear_value x1
  refine Keeps.ite (fun _ => ?_) (fun _ => ?_)
  · assumption
  · extract_lets +onlyGivenNames x2 x3 x4 x5 x6 x7
    have hx7 : Keeps s0 x7 := State.addf_keeps ‹_›
    clear_value x2 x3 x4 x5 x6 x7
    refine Keeps.ite (fun _ => ?_) (fun _ => ?_)
    · exact State.note_keeps ‹_›
    · split
      · exact State.engineWrite_keeps ‹_› ‹_›
      · exact State.note_keeps ‹_›

theorem State.recordStopped_keeps {s0 s : State} {a2} {a3} (h : Keeps s0 s) : Keeps s0 (s.recordStopped a2 a3)
    := by
  unfold State.recordStopped
  split
  exact State.completionRecord_keeps (Keeps.snd_eq ‹_› (State.draw_keeps ‹_›))

theorem recordStoppedOpt_keeps {s0 s : State} {a1} {a3} (h : Keeps s0 s) : Keeps s0 (recordStoppedOpt a1 s a3) := by
  unfold recordStoppedOpt
  split
  · assumption
  · exact State.recordStopped_keeps ‹_›

theorem State.stopBay_keeps {s0 s : State} {a2} {a3} {a4} (h : Keeps s0 s) : Keeps s0 (s.stopBay a2 a3 a4) :=
    by
  unfold State.stopBay
  extract_lets +onlyGivenNames x1 x2 x3 x4 x5 x6 x7 x8 x9 x10 x11 x12
  have hx4 : Keeps s0 x4 := recordStoppedOpt_keeps ‹_›
  have hx5 : Keeps s0 x5 := Keeps.ite (fun _ => ‹_›) (fun _ => recordStoppedOpt_keeps ‹_›)
  have hx6 : Keeps s0 x6 := recordStoppedOpt_keeps ‹_›
  have hx7 : Keeps s0 x7 := recordStoppedOpt_keeps ‹_›
  have hx8 : Keeps s0 x8 := Keeps.foldl (fun t y ht => State.recordStopped_keeps ‹_›) _ _ ‹_›
  have hx9 : Keeps s0 x9 := recordStoppedOpt_keeps ‹_›
  have hx10 : Keeps s0 x10 := State.setBay_keeps ‹_›
  have hx11 : Keeps s0 x11 := Keeps.record ‹_› rfl rfl rfl
  have hx12 : Keeps s0 x12 := State.wf_keeps ‹_›
  clear_value x1 x2 x3 x4 x5 x6 x7 x8 x9 x10 x11 x12
  exact State.wfs_keeps ‹_›

theorem State.jrnlHeader_keeps {s0 s : State} {a2} {a3} {a4} {a5} {a6} {a7} {a8} (h : Keeps s0 s) : Keeps s0
    (s.jrnlHeader a2 a3 a4 a5 a6 a7 a8) := by
  unfold State.jrnlHeader
  exact State.memStore_keeps ‹_›

theorem State.jrnlState_keeps {s0 s : State} {a2} {a3} (h : Keeps s0 s) : Keeps s0 (s.jrnlState a2 a3) := by
  unfold State.jrnlState
  exact State.memStore_keeps ‹_›

theorem State.restoreSegment_keeps {s0 s : State} {a2} (h : Keeps s0 s) : Keeps s0 (s.restoreSegment a2) := by
  unfold State.restoreSegment
  extract_lets +onlyGivenNames x1 x2
  clear_value x1 x2
  refine Keeps.ite (fun _ => ?_) (fun _ => ?_)
  · extract_lets +onlyGivenNames x3 x4 x5
    have hx3 : Keeps s0 x3 := State.jrnlState_keeps ‹_›
    have hx5 : Keeps s0 x5 := Keeps.foldl (fun t y ht => Keeps.ite (fun _ => State.memStore_keeps ‹_›) (fun _ =>
        Keeps.record ‹_› rfl rfl rfl)) _ _ ‹_›
    clear_value x3 x4 x5
    exact State.jrnlHeader_keeps ‹_›
  · assumption

theorem State.forcePlan_keeps {s0 s : State} {a2} (h : Keeps s0 s) : Keeps s0 (s.forcePlan a2) := by
  unfold State.forcePlan
  exact Keeps.ite (fun _ => ‹_›) (fun _ => Keeps.record (State.setReg_keeps ‹_›) rfl rfl rfl)

theorem State.stepAborted_keeps {s0 s : State} {a2} {a3} (h : Keeps s0 s) : Keeps s0 (s.stepAborted a2 a3) :=
    by
  unfold State.stepAborted
  exact State.hostEvent_keeps ‹_›

theorem State.quellStep_keeps {s0 s : State} {a2} {a3} {a4} (h : Keeps s0 s) : Keeps s0 (s.quellStep a2 a3 a4)
    := by
  unfold State.quellStep
  extract_lets +onlyGivenNames x1
  have hx1 : Keeps s0 x1 := Keeps.foldl (fun t y ht => State.stopBay_keeps ‹_›) _ _ ‹_›
  clear_value x1
  exact Keeps.foldl (fun t y ht => State.restoreSegment_keeps ‹_›) _ _ ‹_›

theorem State.endStep_keeps {s0 s : State} {a2} (h : Keeps s0 s) : Keeps s0 (s.endStep a2) := by
  unfold State.endStep
  extract_lets +onlyGivenNames x1 x2 x3
  have hx1 : Keeps s0 x1 := Keeps.record ‹_› rfl rfl rfl
  have hx2 : Keeps s0 x2 := State.stepAborted_keeps ‹_›
  have hx3 : Keeps s0 x3 := Keeps.ite (fun _ => State.applied_keeps ‹_›) (fun _ => ‹_›)
  clear_value x1 x2 x3
  exact State.refreshFlt_keeps ‹_›

theorem State.fenceStep_keeps {s0 s : State} {a2} {a3} (h : Keeps s0 s) : Keeps s0 (s.fenceStep a2 a3) := by
  unfold State.fenceStep
  extract_lets +onlyGivenNames x1 x2 x3 x4
  have hx1 : Keeps s0 x1 := Keeps.ite (fun _ => State.quellStep_keeps ‹_›) (fun _ => ‹_›)
  clear_value x1 x2 x3 x4
  refine Keeps.ite (fun _ => ?_) (fun _ => ?_)
  · exact State.endStep_keeps (State.note_keeps ‹_›)
  · refine Keeps.ite (fun _ => ?_) (fun _ => ?_)
    · exact State.endStep_keeps ‹_›
    · refine Keeps.ite (fun _ => ?_) (fun _ => ?_)
      · exact State.endStep_keeps (State.note_keeps ‹_›)
      · extract_lets +onlyGivenNames x6 x7 x8 x9 x10 x11 x12 x13
        have hx6 : Keeps s0 x6 := by
          unfold x6
          split
          · exact State.forcePlan_keeps ‹_›
          · assumption
        have hx13 : Keeps s0 x13 := Keeps.record ‹_› rfl rfl rfl
        clear_value x6 x7 x8 x9 x10 x11 x12 x13
        exact Keeps.ite (fun _ => State.refreshFlt_keeps (State.stepAborted_keeps ‹_›)) (fun _ =>
            State.refreshFlt_keeps ‹_›)

theorem State.fenceSteps_keeps {s0 s : State} {a2} {a3} (h : Keeps s0 s) : Keeps s0 (s.fenceSteps a2 a3) := by
  unfold State.fenceSteps
  exact Keeps.foldl (fun t y ht => State.fenceStep_keeps ‹_›) _ _ ‹_›

theorem State.remapTiles_keeps {s0 s : State} {a2} (h : Keeps s0 s) : Keeps s0 (s.remapTiles a2) := by
  unfold State.remapTiles
  extract_lets +onlyGivenNames x1 x2 x3 x4 x5
  have hx2 : Keeps s0 x2 := Keeps.foldl (fun t y ht => State.wf_keeps ‹_›) _ _ ‹_›
  have hx5 : Keeps s0 x5 := State.wfs_keeps ‹_›
  clear_value x1 x2 x3 x4 x5
  exact State.wf_keeps ‹_›

theorem State.tileIn_keeps {s0 s : State} {a2} {a3} (h : Keeps s0 s) : Keeps s0 (s.tileIn a2 a3) := by
  unfold State.tileIn
  extract_lets +onlyGivenNames x1 x2 x3
  have hx2 : Keeps s0 x2 := Keeps.ite (fun _ => State.setBay_keeps (State.satf_keeps ‹_›)) (fun _ => ‹_›)
  have hx3 : Keeps s0 x3.2 := State.drawSr_keeps ‹_›
  clear_value x1 x2 x3
  exact State.remapTiles_keeps (State.wf_keeps (State.wf_keeps ‹_›))

theorem State.fenceTile_keeps {s0 s : State} {a2} {a3} {a4} (h : Keeps s0 s) : Keeps s0 (s.fenceTile a2 a3 a4) := by
  unfold State.fenceTile
  extract_lets x1 x2
  have h1 : Keeps s0 x1 := State.wfs_keeps (State.satf_keeps h)
  clear_value x2
  cases x2 with
  | none => exact State.remapTiles_keeps h1
  | some u => exact State.tileIn_keeps h1

theorem State.larderDrop_keeps {s0 s : State} {a2} {a3} (h : Keeps s0 s) : Keeps s0 (s.larderDrop a2 a3) := by
  unfold State.larderDrop
  exact Keeps.record ‹_› rfl rfl rfl

theorem State.loseRegions_keeps {s0 s : State} {a2} (h : Keeps s0 s) : Keeps s0 (s.loseRegions a2) := by
  unfold State.loseRegions
  exact Keeps.foldl (fun t y ht => Keeps.ite (fun _ => State.hostEvent_keeps (State.wf_keeps ‹_›)) (fun _ => ‹_›)) _ _
      ‹_›

theorem State.losePantry_keeps {s0 s : State} {a2} {a3} (h : Keeps s0 s) : Keeps s0 (s.losePantry a2 a3) := by
  unfold State.losePantry
  exact Keeps.record ‹_› rfl rfl rfl

theorem State.loseMemory_keeps {s0 s : State} {a2} {a3} (h : Keeps s0 s) : Keeps s0 (s.loseMemory a2 a3) := by
  unfold State.loseMemory
  extract_lets +onlyGivenNames x1 x2 x3 x4 x5 x6 x7 x8
  have hx3 : Keeps s0 x3 := State.setReg_keeps ‹_›
  have hx4 : Keeps s0 x4 := Keeps.foldl (fun t y ht => State.wf_keeps ‹_›) _ _ ‹_›
  have hx5 : Keeps s0 x5 := State.wf_keeps ‹_›
  have hx6 : Keeps s0 x6 := Keeps.record ‹_› rfl rfl rfl
  have hx7 : Keeps s0 x7 := Keeps.record ‹_› rfl rfl rfl
  have hx8 : Keeps s0 x8 := State.losePantry_keeps ‹_›
  clear_value x1 x2 x3 x4 x5 x6 x7 x8
  exact State.loseRegions_keeps ‹_›

theorem State.addRepair_keeps {s0 s : State} {a2} {a3} {a4} {a5} {a6} {a7} {a8} (h : Keeps s0 s) :
    Keeps s0 (s.addRepair a2 a3 a4 a5 a6 a7 a8).1 := by
  unfold State.addRepair
  extract_lets n
  split
  · exact h
  · refine State.wf_keeps (h.setRepairs ?_ rfl rfl
      ⟨le_refl _, le_refl _, le_refl _, le_refl _, le_refl _, List.prefix_append _ _⟩ rfl)
    simp only [List.length_append, List.length_singleton]
    omega

theorem State.recordRetired_keeps {s0 s : State} {a2} {a3} {a4} (h : Keeps s0 s) : Keeps s0 (s.recordRetired a2
    a3 a4) := by
  unfold State.recordRetired
  extract_lets +onlyGivenNames x1
  have hx1 : Keeps s0 x1.1 := State.addRepair_keeps ‹_›
  clear_value x1
  exact Keeps.ite (fun _ => ‹_›) (fun _ => State.fence_keeps ‹_›)

theorem State.retireChannel_keeps {s0 s : State} {a2} {a3} (h : Keeps s0 s) : Keeps s0 (s.retireChannel a2 a3)
    := by
  unfold State.retireChannel
  exact State.loseRegions_keeps (State.wf_keeps (State.wf_keeps (State.wf_keeps (State.recordRetired_keeps
      (Keeps.record (State.setReg_keeps ‹_›) rfl rfl rfl)))))

theorem State.faultUnit_keeps {s0 s : State} {a2} {a3} {a4} (h : Keeps s0 s) : Keeps s0 (s.faultUnit a2 a3 a4)
    := by
  unfold State.faultUnit
  extract_lets +onlyGivenNames x1
  have hx1 : Keeps s0 x1 := Keeps.ite (fun _ => ‹_›) (fun _ => State.fence_keeps ‹_›)
  clear_value x1
  exact Keeps.ite (fun _ => State.fenceTile_keeps ‹_›) (fun _ => Keeps.ite (fun _ => State.retireChannel_keeps ‹_›)
      (fun _ => ‹_›))

theorem State.spread_keeps {s0 s : State} {a2} (h : Keeps s0 s) : Keeps s0 (s.spread a2) := by
  unfold State.spread
  exact State.sendHearth_keeps (Keeps.record ‹_› rfl rfl rfl)

theorem State.report_keeps {s0 s : State} {a2} {a3} {a4} {a5} {a6} {a7} (h : Keeps s0 s) : Keeps s0 (s.report
    a2 a3 a4 a5 a6 a7) := by
  unfold State.report
  extract_lets +onlyGivenNames x1
  clear_value x1
  extract_lets +onlyGivenNames x2
  clear_value x2
  extract_lets +onlyGivenNames x3
  clear_value x3
  extract_lets +onlyGivenNames x4
  clear_value x4
  extract_lets +onlyGivenNames x5
  clear_value x5
  split
  extract_lets +onlyGivenNames x6
  have hx6 : Keeps s0 x6 := State.faultUnit_keeps (Keeps.fst_eq ‹_› (State.recordFault_keeps ‹_›))
  clear_value x6
  extract_lets +onlyGivenNames x7
  clear_value x7
  extract_lets +onlyGivenNames x8
  have hx8 : Keeps s0 x8 := State.fenceSteps_keeps ‹_›
  clear_value x8
  extract_lets +onlyGivenNames x9
  have hx9 : Keeps s0 x9 := by
    unfold x9
    split
    · refine Keeps.ite (fun _ => ?_) (fun _ => ?_)
      · split
        · exact State.forcePlan_keeps ‹_›
        · assumption
      · assumption
    · assumption
  clear_value x9
  extract_lets +onlyGivenNames x10
  have hx10 : Keeps s0 x10 := Keeps.ite (fun _ => State.loseMemory_keeps ‹_›) (fun _ => ‹_›)
  clear_value x10
  extract_lets +onlyGivenNames x11
  have hx11 : Keeps s0 x11 := Keeps.ite (fun _ => State.spread_keeps ‹_›) (fun _ => ‹_›)
  clear_value x11
  extract_lets +onlyGivenNames x12
  have hx12 : Keeps s0 x12 := Keeps.ite (fun _ => State.hostEvent_keeps ‹_›) (fun _ => ‹_›)
  clear_value x12
  extract_lets +onlyGivenNames x13
  have hx13 : Keeps s0 x13 := Keeps.ite (fun _ => Keeps.record ‹_› rfl rfl rfl) (fun _ => ‹_›)
  clear_value x13
  exact Keeps.ite (fun _ => Keeps.record ‹_› rfl rfl rfl) (fun _ => ‹_›)

theorem State.raise_keeps {s0 s : State} {a2} {a3} {a4} (h : Keeps s0 s) : Keeps s0 (s.raise a2 a3 a4) := by
  unfold State.raise
  exact State.report_keeps ‹_›

theorem State.raiseAt_keeps {s0 s : State} {a2} {a3} {a4} {a5} (h : Keeps s0 s) : Keeps s0 (s.raiseAt a2 a3 a4
    a5) := by
  unfold State.raiseAt
  exact State.report_keeps ‹_›

theorem State.loseStack_keeps {s0 s : State} {a2} (h : Keeps s0 s) : Keeps s0 (s.loseStack a2) := by
  unfold State.loseStack
  extract_lets +onlyGivenNames x1 x2
  have hx1 : Keeps s0 x1 := State.raise_keeps ‹_›
  clear_value x1 x2
  exact Keeps.ite (fun _ => State.raise_keeps ‹_›) (fun _ => ‹_›)

theorem State.loseBay_keeps {s0 s : State} {a2} (h : Keeps s0 s) : Keeps s0 (s.loseBay a2) := by
  unfold State.loseBay
  exact State.raise_keeps ‹_›

theorem State.tileLost_keeps {s0 s : State} {a2} (h : Keeps s0 s) : Keeps s0 (s.tileLost a2) := by
  unfold State.tileLost
  exact Keeps.ite (fun _ => State.loseBay_keeps ‹_›) (fun _ => ‹_›)

end Sys2Proof.Machine
end

