-- ==== Sys2Proof/Laws/KeepsLinks.lean ====
section
/-!
SUPPORT. Sys2Proof/Laws/KeepsLinks.lean: what the operations over the sequencers, the links, memory errors, commands and lanes keep.
-/

set_option Elab.async false

namespace Sys2Proof.Machine

theorem State.bumpEvt_keeps {s0 s : State} {a2} {a3} {a4} (h : Keeps s0 s) : Keeps s0 (s.bumpEvt a2 a3 a4) :=
    by
  unfold State.bumpEvt
  exact State.addf_keeps ‹_›

theorem State.clearEvts_keeps {s0 s : State} {a2} (h : Keeps s0 s) : Keeps s0 (s.clearEvts a2) := by
  unfold State.clearEvts
  exact Keeps.foldl (fun t y ht => State.setReg_keeps ‹_›) _ _ ‹_›

theorem State.malformedStop_keeps {s0 s : State} {a2} {a3} {a4} (h : Keeps s0 s) : Keeps s0 (s.malformedStop a2
    a3 a4) := by
  unfold State.malformedStop
  extract_lets +onlyGivenNames x1 x2 x3
  have hx1 : Keeps s0 x1 := State.completionRecord_keeps ‹_›
  have hx2 : Keeps s0 x2 := State.raiseAt_keeps ‹_›
  have hx3 : Keeps s0 x3 := Keeps.ite (fun _ => State.stopBay_keeps ‹_›) (fun _ => ‹_›)
  clear_value x1 x2 x3
  exact State.wf_keeps ‹_›

theorem State.unitFault_keeps {s0 s : State} {a2} {a3} {a4} {a5} {a6} {a7} (h : Keeps s0 s) : Keeps s0
    (s.unitFault a2 a3 a4 a5 a6 a7) := by
  unfold State.unitFault
  extract_lets +onlyGivenNames x1 x2 x3
  have hx2 : Keeps s0 x2 := State.setBay_keeps ‹_›
  have hx3 : Keeps s0 x3 := State.report_keeps ‹_›
  clear_value x1 x2 x3
  exact Keeps.ite (fun _ => State.stopBay_keeps ‹_›) (fun _ => ‹_›)

theorem State.retireRow_keeps {s0 s : State} {a2} {a3} {a4} {a5} {a6} {a7} (h : Keeps s0 s) : Keeps s0
    (s.retireRow a2 a3 a4 a5 a6 a7) := by
  unfold State.retireRow
  extract_lets +onlyGivenNames x1 x2 x3
  have hx3 : Keeps s0 x3.1 := State.addRepair_keeps ‹_›
  clear_value x1 x2 x3
  refine Keeps.ite (fun _ => ?_) (fun _ => ?_)
  · exact State.loseBay_keeps ‹_›
  · extract_lets +onlyGivenNames x4
    have hx4 : Keeps s0 x4 := State.setBay_keeps ‹_›
    clear_value x4
    exact Keeps.ite (fun _ => State.sramWrite_keeps ‹_›) (fun _ => ‹_›)

theorem State.sramEcc_keeps {s0 s : State} {a2} {a3} (h : Keeps s0 s) : Keeps s0 (s.sramEcc a2 a3) := by
  unfold State.sramEcc
  extract_lets +onlyGivenNames x1
  have hx1 : Keeps s0 x1 := by
    unfold x1
    split
    · exact State.satf_keeps ‹_›
    · exact State.satf_keeps ‹_›
  clear_value x1
  exact State.wfs_keeps ‹_›

theorem State.sramErrs_keeps {s0 s : State} {a2} {a3} (h : Keeps s0 s) : Keeps s0 (s.sramErrs a2 a3).1 := by
  unfold State.sramErrs
  extract_lets +onlyGivenNames x1 x2 x3
  have hx3 : Keeps s0 x3 := Keeps.foldl (fun t y ht => State.sramEcc_keeps ‹_›) _ _ ‹_›
  clear_value x1 x2 x3
  split
  · dsimp only
    exact State.sramEcc_keeps ‹_›
  · dsimp only
    assumption

theorem State.sramUe_keeps {s0 s : State} {a2} {a3} {a4} (h : Keeps s0 s) : Keeps s0 (s.sramUe a2 a3 a4) := by
  unfold State.sramUe
  exact State.retireRow_keeps (State.unitFault_keeps ‹_›)

theorem State.startHead_keeps {s0 s : State} {a2} {a3} {a4} (h : Keeps s0 s) : Keeps s0 (s.startHead a2 a3 a4)
    := by
  unfold State.startHead
  exact State.setBay_keeps ‹_›

theorem State.runFlags_keeps {s0 s : State} {a2} {a3} {a4} (h : Keeps s0 s) : Keeps s0 (s.runFlags a2 a3 a4) :=
    by
  unfold State.runFlags
  exact State.setBay_keeps ‹_›

theorem State.complete_keeps {s0 s : State} {a2} {a3} {a4} (h : Keeps s0 s) : Keeps s0 (s.complete a2 a3 a4) :=
    by
  unfold State.complete
  extract_lets +onlyGivenNames x1 x2
  have hx1 : Keeps s0 x1 := Keeps.ite (fun _ => State.bumpEvt_keeps ‹_›) (fun _ => ‹_›)
  have hx2 : Keeps s0 x2 := State.completionRecord_keeps ‹_›
  clear_value x1 x2
  exact State.setBay_keeps ‹_›

theorem State.controlEffect_keeps {s0 s : State} {a2} {a3} (h : Keeps s0 s) : Keeps s0 (s.controlEffect a2 a3)
    := by
  unfold State.controlEffect
  refine Keeps.ite (fun _ => ?_) (fun _ => ?_)
  · extract_lets +onlyGivenNames x1
    have hx1 : Keeps s0 x1 := Keeps.ite (fun _ => State.hostEvent_keeps ‹_›) (fun _ => ‹_›)
    clear_value x1
    exact Keeps.ite (fun _ => State.setBay_keeps (State.wf_keeps ‹_›)) (fun _ => ‹_›)
  · exact Keeps.ite (fun _ => Keeps.ite (fun _ => State.note_keeps ‹_›) (fun _ => State.bumpEvt_keeps ‹_›)) (fun _ =>
        ‹_›)

theorem State.settleControl_keeps {s0 s : State} {a2} (h : Keeps s0 s) : Keeps s0 (s.settleControl a2) := by
  unfold State.settleControl
  split
  · assumption
  · refine Keeps.ite (fun _ => ?_) (fun _ => ?_)
    · extract_lets +onlyGivenNames x1 x2 x3
      have hx2 : Keeps s0 x2 := State.setBay_keeps ‹_›
      have hx3 : Keeps s0 x3 := State.controlEffect_keeps ‹_›
      clear_value x1 x2 x3
      split
      exact State.complete_keeps (Keeps.snd_eq ‹_› (State.draw_keeps ‹_›))
    · assumption

theorem State.dispatchControl_keeps {s0 s : State} {a2} {a3} {a4} (h : Keeps s0 s) : Keeps s0 (State.dispatchControl
    s a2 a3 a4) := by
  unfold State.dispatchControl
  exact Keeps.ite (fun _ => State.settleControl_keeps (State.setBay_keeps (State.wf_keeps ‹_›))) (fun _ => ‹_›)

theorem State.dispatchUnit_keeps {s0 s : State} {a2} {a3} {a4} (h : Keeps s0 s) : Keeps s0 (s.dispatchUnit a2
    a3 a4) := by
  unfold State.dispatchUnit
  exact Keeps.ite (fun _ => ‹_›) (fun _ => State.setBay_keeps (State.wf_keeps ‹_›))

theorem State.dispatchFront_keeps {s0 s : State} {a2} (h : Keeps s0 s) : Keeps s0 (s.dispatchFront a2) := by
  unfold State.dispatchFront
  extract_lets +onlyGivenNames x1
  clear_value x1
  refine Keeps.ite (fun _ => ?_) (fun _ => ?_)
  · assumption
  · split
    · assumption
    · exact Keeps.ite (fun _ => State.malformedStop_keeps ‹_›) (fun _ => Keeps.ite (fun _ =>
          State.dispatchControl_keeps ‹_›) (fun _ => State.dispatchUnit_keeps ‹_›))

theorem State.controlRow_keeps {s0 s : State} {a2} {a3} (h : Keeps s0 s) : Keeps s0 (s.controlRow a2 a3) := by
  unfold State.controlRow
  split
  · exact Keeps.ite (fun _ => State.settleControl_keeps ‹_›) (fun _ => ‹_›)
  · split
    · exact Keeps.ite (fun _ => State.dispatchFront_keeps ‹_›) (fun _ => ‹_›)
    · assumption

theorem State.runSequencer_keeps {s0 s : State} {a2} {a3} (h : Keeps s0 s) : Keeps s0 (s.runSequencer a2 a3) :=
    by
  unfold State.runSequencer
  exact Keeps.ite (fun _ => ‹_›) (fun _ => State.wf_keeps (State.setBay_keeps (State.wf_keeps ‹_›)))

theorem State.fetchError_keeps {s0 s : State} {a2} {a3} {a4} (h : Keeps s0 s) : Keeps s0 (s.fetchError a2 a3
    a4) := by
  unfold State.fetchError
  extract_lets +onlyGivenNames x1 x2
  have hx1 : Keeps s0 x1 := State.report_keeps ‹_›
  have hx2 : Keeps s0 x2 := Keeps.ite (fun _ => State.stopBay_keeps ‹_›) (fun _ => ‹_›)
  clear_value x1 x2
  exact State.wf_keeps ‹_›

theorem State.fetchDesc_keeps {s0 s : State} {a2} {a3} (h : Keeps s0 s) : Keeps s0 (s.fetchDesc a2 a3) := by
  unfold State.fetchDesc
  exact Keeps.ite (fun _ => ‹_›) (fun _ => Keeps.ite (fun _ => State.fetchError_keeps ‹_›) (fun _ =>
      State.setBay_keeps ‹_›))

theorem State.seqFault_keeps {s0 s : State} {a2} {a3} (h : Keeps s0 s) : Keeps s0 (s.seqFault a2 a3) := by
  unfold State.seqFault
  extract_lets +onlyGivenNames x1
  have hx1 : Keeps s0 x1 := State.raiseAt_keeps ‹_›
  clear_value x1
  exact Keeps.ite (fun _ => State.stopBay_keeps ‹_›) (fun _ => ‹_›)

theorem State.seqStall_keeps {s0 s : State} {a2} (h : Keeps s0 s) : Keeps s0 (s.seqStall a2) := by
  unfold State.seqStall
  exact Keeps.ite (fun _ => State.seqFault_keeps ‹_›) (fun _ => ‹_›)

theorem State.eventTimeout_keeps {s0 s : State} {a2} (h : Keeps s0 s) : Keeps s0 (s.eventTimeout a2) := by
  unfold State.eventTimeout
  split
  · assumption
  · exact Keeps.ite (fun _ => State.seqFault_keeps ‹_›) (fun _ => ‹_›)

theorem State.completeMatrix_keeps {s0 s : State} {a2} {a3} (h : Keeps s0 s) : Keeps s0 (s.completeMatrix a2
    a3) := by
  unfold State.completeMatrix
  extract_lets +onlyGivenNames x1
  clear_value x1
  split
  · assumption
  · exact State.complete_keeps (State.setBay_keeps ‹_›)

theorem State.completeVector_keeps {s0 s : State} {a2} {a3} (h : Keeps s0 s) : Keeps s0 (s.completeVector a2
    a3) := by
  unfold State.completeVector
  extract_lets +onlyGivenNames x1
  clear_value x1
  split
  · assumption
  · exact Keeps.ite (fun _ => State.completeMatrix_keeps ‹_›) (fun _ => State.complete_keeps (State.setBay_keeps ‹_›))

theorem State.completeData_keeps {s0 s : State} {a2} {a3} (h : Keeps s0 s) : Keeps s0 (s.completeData a2 a3) :=
    by
  unfold State.completeData
  extract_lets +onlyGivenNames x1
  clear_value x1
  split
  · assumption
  · exact Keeps.ite (fun _ => State.complete_keeps (State.setBay_keeps ‹_›)) (fun _ => ‹_›)

theorem State.completeExchange_keeps {s0 s : State} {a2} {a3} (h : Keeps s0 s) : Keeps s0 (s.completeExchange
    a2 a3) := by
  unfold State.completeExchange
  extract_lets +onlyGivenNames x1
  clear_value x1
  split
  · exact State.complete_keeps (State.setBay_keeps ‹_›)
  · split
    · exact State.complete_keeps (State.setBay_keeps ‹_›)
    · split
      · exact State.complete_keeps (State.setBay_keeps ‹_›)
      · assumption

theorem State.completeUnit_keeps {s0 s : State} {a2} {a3} {a4} (h : Keeps s0 s) : Keeps s0 (s.completeUnit a2
    a3 a4) := by
  unfold State.completeUnit
  extract_lets +onlyGivenNames x1
  have hx1 : Keeps s0 x1 := by
    unfold x1
    split
    · exact State.completeMatrix_keeps ‹_›
    · exact State.completeVector_keeps ‹_›
    · exact State.completeData_keeps ‹_›
    · exact State.completeExchange_keeps ‹_›
  clear_value x1
  exact State.settleControl_keeps ‹_›

theorem State.setLink_keeps {s0 s : State} {a2} {a3} (h : Keeps s0 s) : Keeps s0 (s.setLink a2 a3) := by
  unfold State.setLink
  exact Keeps.record ‹_› rfl rfl rfl

theorem State.setLinkState_keeps {s0 s : State} {a2} {a3} (h : Keeps s0 s) : Keeps s0 (s.setLinkState a2 a3) :=
    by
  unfold State.setLinkState
  exact State.setLink_keeps (State.wf_keeps ‹_›)

theorem State.setLaneMap_keeps {s0 s : State} {a2} {a3} {a4} {a5} (h : Keeps s0 s) : Keeps s0 (s.setLaneMap a2
    a3 a4 a5) := by
  unfold State.setLaneMap
  exact State.wf_keeps (Keeps.foldl (fun t y ht => State.wf_keeps ‹_›) _ _ ‹_›)

theorem State.charge_keeps {s0 s : State} {a2} {a3} {a4} (h : Keeps s0 s) : Keeps s0 (s.charge a2 a3 a4) := by
  unfold State.charge
  exact State.addf_keeps (State.addf_keeps ‹_›)

theorem State.creditReturn_keeps {s0 s : State} {a2} {a3} {a4} (h : Keeps s0 s) : Keeps s0 (s.creditReturn a2
    a3 a4) := by
  unfold State.creditReturn
  extract_lets +onlyGivenNames x1 x2 x3 x4
  have hx4 : Keeps s0 x4 := State.wfs_keeps ‹_›
  clear_value x1 x2 x3 x4
  exact Keeps.ite (fun _ => State.satf_keeps ‹_›) (fun _ => ‹_›)

theorem State.freePool_keeps {s0 s : State} {a2} {a3} {a4} (h : Keeps s0 s) : Keeps s0 (s.freePool a2 a3 a4) :=
    by
  unfold State.freePool
  exact Keeps.ite (fun _ => ‹_›) (fun _ => State.setLink_keeps (State.wf_keeps ‹_›))

theorem State.linkPutFor_keeps {s0 s : State} {a2} {a3} {a4} {a5} {a6} {a7} {a8} (h : Keeps s0 s) : Keeps s0
    (s.linkPutFor a2 a3 a4 a5 a6 a7 a8) := by
  unfold State.linkPutFor
  extract_lets +onlyGivenNames x1 x2
  clear_value x1 x2
  refine Keeps.ite (fun _ => ?_) (fun _ => ?_)
  · exact State.setLink_keeps ‹_›
  · split
    · exact State.freePool_keeps (State.setLink_keeps (State.enqueue_keeps ‹_› ‹_›))
    · exact State.setLink_keeps ‹_›

theorem State.linkPut_keeps {s0 s : State} {a2} {a3} {a4} {a5} {a6} {a7} (h : Keeps s0 s) : Keeps s0 (s.linkPut
    a2 a3 a4 a5 a6 a7) := by
  unfold State.linkPut
  exact State.linkPutFor_keeps ‹_›

theorem State.linkRefill_keeps {s0 : State} {a3 a4 : Nat} : ∀ {a1 : Nat} {s : State}, Keeps s0 s →
    Keeps s0 (State.linkRefill a1 s a3 a4)
  | 0, _, h => h
  | _ + 1, s, h => by
    unfold State.linkRefill
    split
    · exact h
    · split
      · exact h
      · exact State.linkRefill_keeps (State.freePool_keeps (State.setLink_keeps (State.enqueue_keeps h ‹_›)))

theorem State.sendAcked_keeps {s0 s : State} {a2} (h : Keeps s0 s) : Keeps s0 (s.sendAcked a2) := by
  unfold State.sendAcked
  exact State.setBay_keeps ‹_›

theorem State.sendLaunched_keeps {s0 s : State} {a2} (h : Keeps s0 s) : Keeps s0 (s.sendLaunched a2) := by
  unfold State.sendLaunched
  extract_lets +onlyGivenNames x1 x2
  clear_value x1 x2
  split
  · exact Keeps.ite (fun _ => State.setBay_keeps ‹_›) (fun _ => ‹_›)
  · assumption

theorem State.rttSample_keeps {s0 s : State} {a2} (h : Keeps s0 s) : Keeps s0 (s.rttSample a2) := by
  unfold State.rttSample
  split
  exact State.wfs_keeps (Keeps.snd_eq ‹_› (State.draw_keeps ‹_›))

theorem State.ackTo_keeps {s0 s : State} {a2} {a3} (h : Keeps s0 s) : Keeps s0 (s.ackTo a2 a3) := by
  unfold State.ackTo
  extract_lets +onlyGivenNames x1 x2 x3
  clear_value x1 x2 x3
  refine Keeps.ite (fun _ => ?_) (fun _ => ?_)
  · assumption
  · extract_lets +onlyGivenNames x4 x5 x6 x7 x8
    have hx5 : Keeps s0 x5 := State.wfs_keeps ‹_›
    have hx6 : Keeps s0 x6 := State.wf_keeps ‹_›
    have hx7 : Keeps s0 x7 := State.setLink_keeps ‹_›
    have hx8 : Keeps s0 x8 := by
      unfold x8
      refine Keeps.foldl (fun t y ht => ?_) _ _ ?_
      · split
        · exact State.sendAcked_keeps ‹_›
        · assumption
      · assumption
    clear_value x4 x5 x6 x7 x8
    exact Keeps.ite (fun _ => State.rttSample_keeps ‹_›) (fun _ => ‹_›)

theorem State.launch_keeps {s0 s : State} {a2} {a3} (h : Keeps s0 s) : Keeps s0 (s.launch a2 a3) := by
  unfold State.launch
  split
  · assumption
  · extract_lets +onlyGivenNames x1
    clear_value x1
    extract_lets +onlyGivenNames x2
    clear_value x2
    extract_lets +onlyGivenNames x3
    clear_value x3
    extract_lets +onlyGivenNames x4
    have hx4 : Keeps s0 x4 := State.setLink_keeps (State.dequeue_keeps ‹_› ‹_›)
    clear_value x4
    extract_lets +onlyGivenNames x5
    have hx5 : Keeps s0 x5 := State.wfs_keeps ‹_›
    clear_value x5
    extract_lets +onlyGivenNames x6
    have hx6 : Keeps s0 x6 := State.charge_keeps ‹_›
    clear_value x6
    extract_lets +onlyGivenNames x7
    have hx7 : Keeps s0 x7 := by
      unfold x7
      split
      · exact Keeps.ite (fun _ => State.sendLaunched_keeps ‹_›) (fun _ => ‹_›)
      · assumption
    clear_value x7
    exact State.linkRefill_keeps ‹_›

theorem State.fillFrom_keeps {s0 : State} {a1 : List Byte → Bool} {a4 : Nat} : ∀ {a2 : Nat} {s : State} {a5 : List Nat}
    {a6 a7 : Nat}, Keeps s0 s → Keeps s0 (State.fillFrom a1 a2 s a4 a5 a6 a7).1
  | 0, _, _, _, _, h => h
  | _ + 1, s, _, _, _, h => by
    unfold State.fillFrom
    split
    · exact h
    · exact State.fillFrom_keeps (State.launch_keeps h)

theorem State.fillReplays_keeps {s0 : State} {a3 : Nat} : ∀ {a1 : Nat} {s : State} {a4 a5 : Nat}, Keeps s0 s →
    Keeps s0 (State.fillReplays a1 s a3 a4 a5).1
  | 0, _, _, _, h => h
  | _ + 1, s, _, _, h => by
    unfold State.fillReplays
    extract_lets x
    generalize x.replay = q
    cases q with
    | nil => exact h
    | cons q rest =>
      dsimp only
      split
      · exact State.fillReplays_keeps (State.setLink_keeps h)
      · split
        · exact State.fillReplays_keeps (State.setLink_keeps h)
        · exact h

theorem State.fillBurst_keeps {s0 s : State} {a2} {a3} {a4} (h : Keeps s0 s) : Keeps s0 (s.fillBurst a2 a3 a4)
    := by
  unfold State.fillBurst
  refine Keeps.ite (fun _ => ?_) (fun _ => ?_)
  · assumption
  · extract_lets +onlyGivenNames x1 x2 x3 x4 x5 x6 x7 x8 x9 x10 x11
    have hx4 : Keeps s0 x4.1 := State.fillFrom_keeps ‹_›
    have hx5 : Keeps s0 x5.1 := State.fillReplays_keeps ‹_›
    have hx8 : Keeps s0 x8.1 := State.fillFrom_keeps ‹_›
    have hx9 : Keeps s0 x9.1 := by
      unfold x9
      split
      · assumption
      · exact State.fillFrom_keeps ‹_›
    clear_value x1 x2 x3 x4 x5 x6 x7 x8 x9 x10 x11
    exact State.setLink_keeps ‹_›

theorem State.deliverBay_keeps {s0 : State} {a3 : BayId} {a4 a5 : Nat} : ∀ {a1 : Nat} {s : State} {a6 : List Byte},
    Keeps s0 s → Keeps s0 (State.deliverBay a1 s a3 a4 a5 a6).1
  | 0, _, _, h => h
  | _ + 1, s, _, h => by
    unfold State.deliverBay
    split
    · exact h
    · split
      · exact h
      · exact State.deliverBay_keeps (State.setBay_keeps (State.sramWrite_keeps h))

theorem State.arriveBay_keeps {s0 s : State} {a2} {a3} {a4} {a5} {a6} {a7} {a8} (h : Keeps s0 s) : Keeps s0
    (s.arriveBay a2 a3 a4 a5 a6 a7 a8) := by
  unfold State.arriveBay
  refine Keeps.ite (fun _ => ?_) (fun _ => ?_)
  · exact Keeps.ite (fun _ => State.freePool_keeps ‹_›) (fun _ => ‹_›)
  · extract_lets +onlyGivenNames x1 x2
    have hx2 : Keeps s0 x2.1 := by
      unfold x2
      split
      · dsimp only
        assumption
      · exact State.deliverBay_keeps ‹_›
    clear_value x1 x2
    refine Keeps.ite (fun _ => ?_) (fun _ => ?_)
    · extract_lets +onlyGivenNames x3
      have hx3 : Keeps s0 x3 := Keeps.ite (fun _ => State.freePool_keeps ‹_›) (fun _ => ‹_›)
      clear_value x3
      split
      · exact State.bumpEvt_keeps ‹_›
      · assumption
    · exact State.setBay_keeps ‹_›

theorem State.drainArrived_keeps {s0 : State} {a3 : BayId} {a4 a5 : Nat} : ∀ {a1 : Nat} {s : State}, Keeps s0 s →
    Keeps s0 (State.drainArrived a1 s a3 a4 a5)
  | 0, _, h => h
  | n + 1, s, h => by
    unfold State.drainArrived
    split
    · exact h
    · rename_i a _
      extract_lets r x s1 s2 s3
      have hr : Keeps s0 r.1 := State.deliverBay_keeps h
      have h1 : Keeps s0 s1 := State.setBay_keeps hr
      have h2 : Keeps s0 s2 := Keeps.ite (fun _ => State.freePool_keeps h1) fun _ => h1
      have h3 : Keeps s0 s3 := by
        unfold s3
        generalize a.rsig = g
        cases g with
        | none => exact h2
        | some e => exact State.bumpEvt_keeps h2
      exact Keeps.ite (fun _ => State.drainArrived_keeps h3) fun _ => State.setBay_keeps hr

theorem State.dropQueue_keeps {s0 s : State} {a2} (h : Keeps s0 s) : Keeps s0 (s.dropQueue a2) := by
  unfold State.dropQueue
  extract_lets +onlyGivenNames x1 x2 x3
  have hx3 : Keeps s0 x3 := Keeps.ite (fun _ => ‹_›) (fun _ => State.wf_keeps ‹_›)
  clear_value x1 x2 x3
  exact Keeps.ite (fun _ => State.setQueue_keeps ‹_›) (fun _ => State.noticeFrom_keeps (State.setQueue_keeps ‹_›))

theorem State.fenceBays_keeps {s0 s : State} {a2} (h : Keeps s0 s) : Keeps s0 (s.fenceBays a2) := by
  unfold State.fenceBays
  exact State.fenceSteps_keeps ‹_›

theorem State.linkDownRecord_keeps {s0 s : State} {a2} {a3} {a4} (h : Keeps s0 s) : Keeps s0 (s.linkDownRecord
    a2 a3 a4) := by
  unfold State.linkDownRecord
  extract_lets +onlyGivenNames x1
  clear_value x1
  split
  · exact State.note_keeps ‹_›
  · extract_lets +onlyGivenNames x2 x3
    have hx3 : Keeps s0 x3 := State.noteStep_keeps ‹_›
    clear_value x2 x3
    exact Keeps.foldl (fun t y ht => State.spread_keeps ‹_›) _ _ ‹_›

theorem State.bayLinkDown_keeps {s0 s : State} {a2} {a3} {a4} (h : Keeps s0 s) : Keeps s0 (s.bayLinkDown a2 a3
    a4).1 := by
  unfold State.bayLinkDown
  extract_lets +onlyGivenNames x1 x2 x3 x4 x5
  clear_value x1 x2 x3 x4 x5
  split
  · extract_lets +onlyGivenNames x6 x7
    have hx6 : Keeps s0 x6 := Keeps.foldl (fun t y ht => State.completionRecord_keeps ‹_›) _ _ ‹_›
    clear_value x6 x7
    dsimp only
    exact State.setBay_keeps ‹_›
  · dsimp only
    exact State.setBay_keeps ‹_›

theorem State.sendCpl_keeps {s0 s : State} {a2} {a3} {a4} {a5} {a6} {a7} (h : Keeps s0 s) : Keeps s0 (s.sendCpl
    a2 a3 a4 a5 a6 a7) := by
  unfold State.sendCpl
  extract_lets +onlyGivenNames x1
  clear_value x1
  split
  · exact State.linkPutFor_keeps ‹_›
  · split
    · exact State.linkPutFor_keeps ‹_›
    · exact State.freePool_keeps ‹_›

theorem State.dataAnswer_keeps {s0 s : State} {a2} {a3} (h : Keeps s0 s) : Keeps s0 (s.dataAnswer a2 a3) := by
  unfold State.dataAnswer
  exact State.setBay_keeps ‹_›

theorem State.reqAnswer_keeps {s0 s : State} {a2} {a3} (h : Keeps s0 s) : Keeps s0 (s.reqAnswer a2 a3) := by
  unfold State.reqAnswer
  exact Keeps.ite (fun _ => State.dataAnswer_keeps ‹_›) (fun _ => ‹_›)

theorem State.showRelay_keeps {s0 s : State} (h : Keeps s0 s) : Keeps s0 (s.showRelay) := by
  unfold State.showRelay
  exact Keeps.foldl (fun t y ht => State.wf_keeps ‹_›) _ _ ‹_›

theorem State.sendNeighbours_keeps {s0 s : State} (h : Keeps s0 s) : Keeps s0 (s.sendNeighbours) := by
  unfold State.sendNeighbours
  extract_lets +onlyGivenNames x1 x2 x3 x4
  have hx1 : Keeps s0 x1 := State.showRelay_keeps ‹_›
  clear_value x1 x2 x3 x4
  exact Keeps.foldl (fun t y ht => State.linkPut_keeps ‹_›) _ _ ‹_›

theorem State.linkWipe_keeps {s0 s : State} {a2} (h : Keeps s0 s) : Keeps s0 (s.linkWipe a2) := by
  unfold State.linkWipe
  extract_lets +onlyGivenNames x1 x2 x3 x4 x5 x6
  have hx1 : Keeps s0 x1 := Keeps.foldl (fun t y ht => State.dropQueue_keeps ‹_›) _ _ ‹_›
  have hx2 : Keeps s0 x2 := Keeps.foldl (fun t y ht => State.setReg_keeps ‹_›) _ _ ‹_›
  have hx3 : Keeps s0 x3 := State.wf_keeps ‹_›
  have hx6 : Keeps s0 x6 := State.setLink_keeps ‹_›
  clear_value x1 x2 x3 x4 x5 x6
  exact Keeps.foldl (fun t y ht => Keeps.ite (fun _ => State.setLink_keeps ‹_›) (fun _ => ‹_›)) _ _ ‹_›

theorem State.reroute_keeps {s0 s : State} {a2} {a3} (h : Keeps s0 s) : Keeps s0 (s.reroute a2 a3) := by
  unfold State.reroute
  split
  · exact State.linkPut_keeps (Keeps.record ‹_› rfl rfl rfl)
  · exact State.reqAnswer_keeps (Keeps.record ‹_› rfl rfl rfl)

theorem State.cmdsDown_keeps {s0 s : State} {a2} (h : Keeps s0 s) : Keeps s0 (s.cmdsDown a2) := by
  unfold State.cmdsDown
  extract_lets +onlyGivenNames x1 x2
  have hx2 : Keeps s0 x2 := Keeps.ite (fun _ => ‹_›) (fun _ => Keeps.foldl (fun t y ht => State.sendReply_keeps
      (Keeps.record ‹_› rfl rfl rfl)) _ _ ‹_›)
  clear_value x1 x2
  exact Keeps.foldl (fun t y ht => State.applied_keeps ‹_›) _ _ ‹_›

theorem State.goDown_keeps {s0 s : State} {a2} {a3} (h : Keeps s0 s) : Keeps s0 (s.goDown a2 a3) := by
  unfold State.goDown
  extract_lets +onlyGivenNames x1
  clear_value x1
  refine Keeps.ite (fun _ => ?_) (fun _ => ?_)
  · assumption
  · extract_lets +onlyGivenNames x2 x3 x4 x5 x6 x7 x8 x9 x11 x12 x13 x14 x15
    have hx5 : Keeps s0 x5 := State.cmdsDown_keeps ‹_›
    have hx6 : Keeps s0 x6 := Keeps.foldl (fun t y ht => State.freePool_keeps ‹_›) _ _ ‹_›
    have hx7 : Keeps s0 x7 := State.wfs_keeps (State.linkWipe_keeps ‹_›)
    have hx8 : Keeps s0 x8 := State.satf_keeps ‹_›
    have hx9 : Keeps s0 x9.1 := by
      unfold x9
      refine Keeps.foldl_fst (fun t y ht => ?_) _ _ ?_
      · extract_lets +onlyGivenNames x10
        have hx10 : Keeps s0 x10.1 := State.bayLinkDown_keeps ‹_›
        clear_value x10
        dsimp only
        assumption
      · dsimp only
        assumption
    have hx11 : Keeps s0 x11 := State.linkDownRecord_keeps ‹_›
    have hx12 : Keeps s0 x12 := State.fenceBays_keeps ‹_›
    have hx13 : Keeps s0 x13 := Keeps.foldl (fun t y ht => State.reroute_keeps ‹_›) _ _ ‹_›
    have hx14 : Keeps s0 x14 := State.fenceBays_keeps ‹_›
    have hx15 : Keeps s0 x15 := Keeps.foldl (fun t y ht => State.sendCpl_keeps ‹_›) _ _ ‹_›
    clear_value x2 x3 x4 x5 x6 x7 x8 x9 x11 x12 x13 x14 x15
    exact Keeps.ite (fun _ => State.sendNeighbours_keeps ‹_›) (fun _ => ‹_›)

theorem State.setPorch_keeps {s0 s : State} {a2} {a3} (h : Keeps s0 s) : Keeps s0 (s.setPorch a2 a3) := by
  unfold State.setPorch
  exact State.wf_keeps (State.wf_keeps (State.wf_keeps ‹_›))

theorem State.porchRetrain_keeps {s0 s : State} {a2} (h : Keeps s0 s) : Keeps s0 (s.porchRetrain a2) := by
  unfold State.porchRetrain
  refine Keeps.ite (fun _ => ?_) (fun _ => ?_)
  · assumption
  · refine Keeps.foldl (fun t y ht => ?_) _ _ ?_
    · refine Keeps.ite (fun _ => ?_) (fun _ => ?_)
      · extract_lets +onlyGivenNames x1 x2
        have hx1 : Keeps s0 x1.2 := State.draw_keeps ‹_›
        have hx2 : Keeps s0 x2 := State.satf_keeps ‹_›
        clear_value x1 x2
        exact Keeps.ite (fun _ => State.setPorch_keeps ‹_›) (fun _ => ‹_›)
      · assumption
    · assumption

theorem State.snapshotLink_keeps {s0 s : State} {a2} {a3} (h : Keeps s0 s) : Keeps s0 (s.snapshotLink a2 a3) :=
    by
  unfold State.snapshotLink
  extract_lets +onlyGivenNames x1 x2 x3 x4 x5
  have hx1 : Keeps s0 x1 := State.porchRetrain_keeps (State.setLinkState_keeps ‹_›)
  have hx3 : Keeps s0 x3 := by
    unfold x3
    split
    · exact Keeps.ite (fun _ => State.wf_keeps ‹_›) (fun _ => ‹_›)
    · assumption
  have hx4 : Keeps s0 x4 := State.setLink_keeps ‹_›
  have hx5 : Keeps s0 x5 := Keeps.ite (fun _ => State.wf_keeps (State.wf_keeps ‹_›)) (fun _ => ‹_›)
  clear_value x1 x2 x3 x4 x5
  exact State.satf_keeps ‹_›

theorem State.startRetrain_keeps {s0 s : State} {a2} (h : Keeps s0 s) : Keeps s0 (s.startRetrain a2) := by
  unfold State.startRetrain
  exact Keeps.ite (fun _ => State.setLink_keeps (State.snapshotLink_keeps ‹_›)) (fun _ => Keeps.ite (fun _ =>
      State.setLink_keeps ‹_›) (fun _ => ‹_›))

theorem State.audit_keeps {s0 s : State} {a2} {a3} {a4} (h : Keeps s0 s) : Keeps s0 (s.audit a2 a3 a4) := by
  unfold State.audit
  extract_lets +onlyGivenNames x1
  have hx1 : Keeps s0 x1 := Keeps.ite (fun _ => ‹_›) (fun _ => State.ackTo_keeps ‹_›)
  clear_value x1
  exact Keeps.foldl (fun t y ht => State.wfs_keeps ‹_›) _ _ ‹_›

theorem State.wrongPeer_keeps {s0 s : State} {a2} (h : Keeps s0 s) : Keeps s0 (s.wrongPeer a2) := by
  unfold State.wrongPeer
  exact Keeps.ite (fun _ => State.satf_keeps ‹_›) (fun _ => ‹_›)

theorem State.useHeader_keeps {s0 s : State} {a2} {a3} (h : Keeps s0 s) : Keeps s0 (s.useHeader a2 a3) := by
  unfold State.useHeader
  extract_lets +onlyGivenNames x1
  have hx1 : Keeps s0 x1 := Keeps.ite (fun _ => State.ackTo_keeps ‹_›) (fun _ => ‹_›)
  clear_value x1
  exact Keeps.ite (fun _ => State.creditReturn_keeps ‹_›) (fun _ => ‹_›)

theorem State.resume_keeps {s0 s : State} {a2} (h : Keeps s0 s) : Keeps s0 (s.resume a2) := by
  unfold State.resume
  refine Keeps.ite (fun _ => ?_) (fun _ => ?_)
  · extract_lets +onlyGivenNames x1 x2 x3 x4 x5
    have hx1 : Keeps s0 x1 := State.setLinkState_keeps ‹_›
    have hx3 : Keeps s0 x3 := Keeps.foldl (fun t y ht => State.applied_keeps ‹_›) _ _ ‹_›
    have hx5 : Keeps s0 x5 := State.setLink_keeps ‹_›
    clear_value x1 x2 x3 x4 x5
    exact Keeps.ite (fun _ => State.startRetrain_keeps ‹_›) (fun _ => ‹_›)
  · assumption

theorem State.receive_keeps {s0 s : State} {a2} {a3} {a4} (h : Keeps s0 s) : Keeps s0 (s.receive a2 a3 a4).1 :=
    by
  unfold State.receive
  extract_lets +onlyGivenNames x1
  clear_value x1
  split
  · dsimp only
    assumption
  · split
    · dsimp only
      exact State.satf_keeps ‹_›
    · dsimp only
      exact State.satf_keeps ‹_›
    · dsimp only
      exact State.wrongPeer_keeps ‹_›
    · extract_lets +onlyGivenNames x2 x3 x4
      have hx2 : Keeps s0 x2 := State.useHeader_keeps (State.resume_keeps ‹_›)
      clear_value x2 x3 x4
      split
      · split
        · dsimp only
          exact State.startRetrain_keeps (State.satf_keeps ‹_›)
        · extract_lets +onlyGivenNames x5
          have hx5 : Keeps s0 x5 := State.wf_keeps ‹_›
          clear_value x5
          dsimp only
          exact State.addf_keeps ‹_›
      · split
        · dsimp only
          exact State.satf_keeps ‹_›
        · dsimp only
          exact State.satf_keeps ‹_›

theorem State.answer_keeps {s0 s : State} {a2} {a3} {a4} {a5} (h : Keeps s0 s) : Keeps s0 (s.answer a2 a3 a4
    a5) := by
  unfold State.answer
  exact Keeps.ite (fun _ => State.sendCpl_keeps ‹_›) (fun _ => State.linkPut_keeps ‹_›)

theorem State.passOn_keeps {s0 s : State} {a2} {a3} (h : Keeps s0 s) : Keeps s0 (s.passOn a2 a3) := by
  unfold State.passOn
  extract_lets +onlyGivenNames x1
  clear_value x1
  split
  · exact State.linkPutFor_keeps ‹_›
  · exact Keeps.ite (fun _ => State.answer_keeps ‹_›) (fun _ => State.freePool_keeps ‹_›)

theorem State.eccLast_keeps {s0 s : State} {a2} {a3} {a4} (h : Keeps s0 s) : Keeps s0 (s.eccLast a2 a3 a4) :=
    by
  unfold State.eccLast
  exact State.setReg_keeps ‹_›

theorem State.nominate_keeps {s0 s : State} {a2} {a3} (h : Keeps s0 s) : Keeps s0 (s.nominate a2 a3) := by
  unfold State.nominate
  exact Keeps.ite (fun _ => State.loseStack_keeps ‹_›) (fun _ => State.raise_keeps ‹_›)

theorem State.memCe_keeps {s0 s : State} {a2} {a3} (h : Keeps s0 s) : Keeps s0 (s.memCe a2 a3) := by
  unfold State.memCe
  extract_lets +onlyGivenNames x1 x2
  have hx2 : Keeps s0 x2 := State.eccLast_keeps (State.satf_keeps (State.satf_keeps ‹_›))
  clear_value x1 x2
  exact Keeps.ite (fun _ => State.nominate_keeps ‹_›) (fun _ => ‹_›)

theorem State.memUe_keeps {s0 s : State} {a2} {a3} (h : Keeps s0 s) : Keeps s0 (s.memUe a2 a3).1 := by
  unfold State.memUe
  extract_lets +onlyGivenNames x1 x2
  have hx2 : Keeps s0 x2 := State.eccLast_keeps (State.satf_keeps ‹_›)
  clear_value x1 x2
  dsimp only
  assumption

theorem State.poisonLine_keeps {s0 s : State} {a2} {a3} (h : Keeps s0 s) : Keeps s0 (s.poisonLine a2 a3) := by
  unfold State.poisonLine
  split
  · exact State.hostEvent_keeps (State.poison_keeps ‹_› ‹_›)
  · exact State.loseStack_keeps ‹_›

theorem State.memFaultAt_keeps {s0 s : State} {a2} {a3} {a4} {a5} (h : Keeps s0 s) : Keeps s0 (s.memFaultAt a2
    a3 a4 a5) := by
  unfold State.memFaultAt
  refine Keeps.ite (fun _ => ?_) (fun _ => ?_)
  · exact State.report_keeps (State.eccLast_keeps ‹_›)
  · extract_lets +onlyGivenNames x1 x2 x3 x4 x5
    have hx1 : Keeps s0 x1.1 := State.memUe_keeps ‹_›
    have hx2 : Keeps s0 x2.2 := State.draw_keeps ‹_›
    have hx4 : Keeps s0 x4 := State.report_keeps ‹_›
    have hx5 : Keeps s0 x5 := Keeps.ite (fun _ => State.poisonLine_keeps ‹_›) (fun _ => ‹_›)
    clear_value x1 x2 x3 x4 x5
    exact Keeps.ite (fun _ => State.nominate_keeps ‹_›) (fun _ => ‹_›)

theorem State.memFault_keeps {s0 s : State} {a2} {a3} {a4} (h : Keeps s0 s) : Keeps s0 (s.memFault a2 a3 a4) := by
  unfold State.memFault
  generalize s.home a3 = x
  cases x with
  | none => exact h
  | some x => exact State.memFaultAt_keeps h

theorem State.countCe_keeps {s0 s : State} {a2} (h : Keeps s0 s) : Keeps s0 (s.countCe a2) := by
  unfold State.countCe
  refine Keeps.foldl (fun t y ht => ?_) _ _ ?_
  · split
    · exact State.memCe_keeps ‹_›
    · assumption
  · assumption

theorem State.arrayRead_keeps {s0 s : State} {a2} {a3} {a4} (h : Keeps s0 s) : Keeps s0 (s.arrayRead a2 a3
    a4).1 := by
  unfold State.arrayRead
  split
  · dsimp only
    assumption
  · dsimp only
    assumption
  · extract_lets +onlyGivenNames x1
    clear_value x1
    split
    · dsimp only
      exact State.countCe_keeps ‹_›
    · dsimp only
      exact State.countCe_keeps ‹_›

theorem State.copyDone_keeps {s0 s : State} {a2} (h : Keeps s0 s) : Keeps s0 (s.copyDone a2) := by
  unfold State.copyDone
  exact Keeps.ite (fun _ => State.wf_keeps (Keeps.record ‹_› rfl rfl rfl)) (fun _ => ‹_›)

theorem State.patrol_keeps {s0 s : State} {a2} {a3} {a4} {a5} {a6} (h : Keeps s0 s) : Keeps s0 (s.patrol a2 a3
    a4 a5 a6) := by
  unfold State.patrol
  extract_lets +onlyGivenNames x1
  clear_value x1
  extract_lets +onlyGivenNames x2
  clear_value x2
  extract_lets +onlyGivenNames x3
  clear_value x3
  extract_lets +onlyGivenNames x4
  have hx4 : Keeps s0 x4.1 := State.memUe_keeps ‹_›
  clear_value x4
  extract_lets +onlyGivenNames x5
  have hx5 : Keeps s0 x5 := by
    unfold x5
    refine Keeps.ite (fun _ => ?_) (fun _ => ?_)
    · assumption
    · split
      · assumption
      · exact State.eccLast_keeps ‹_›
      · exact State.memCe_keeps ‹_›
      · exact State.memFault_keeps ‹_›
      · exact Keeps.ite (fun _ => State.nominate_keeps ‹_›) (fun _ => ‹_›)
  clear_value x5
  exact Keeps.ite (fun _ => State.wf_keeps ‹_›) (fun _ => ‹_›)

theorem State.putMessage_keeps {s0 s : State} {a2} {a3} {a4} (h : Keeps s0 s) : Keeps s0 (s.putMessage a2 a3
    a4) := by
  unfold State.putMessage
  exact Keeps.foldl (fun t y ht => State.linkPut_keeps ‹_›) _ _ ‹_›

theorem State.flushOutbox_keeps {s0 s : State} (h : Keeps s0 s) : Keeps s0 (s.flushOutbox) := by
  unfold State.flushOutbox
  refine Keeps.foldl (fun t y ht => ?_) _ _ ?_
  · refine Keeps.foldl (fun t y ht => ?_) _ _ ?_
    · split
      · exact State.putMessage_keeps ‹_›
      · exact Keeps.ite (fun _ => ‹_›) (fun _ => Keeps.record ‹_› rfl rfl rfl)
    · assumption
  · exact Keeps.record ‹_› rfl rfl rfl

theorem State.unqueue_keeps {s0 s : State} {a2} (h : Keeps s0 s) : Keeps s0 (s.unqueue a2) := by
  unfold State.unqueue
  split
  · exact Keeps.ite (fun _ => State.dequeue_keeps ‹_› ‹_›) (fun _ => ‹_›)
  · assumption

theorem State.addActive_keeps {s0 s : State} {a2} {a3} (h : Keeps s0 s) : Keeps s0 (s.addActive a2 a3) := by
  unfold State.addActive
  exact Keeps.record (State.dropActive_keeps ‹_›) rfl rfl rfl

theorem State.forwardTo_keeps {s0 s : State} {a2} {a3} (h : Keeps s0 s) : Keeps s0 (s.forwardTo a2 a3) := by
  unfold State.forwardTo
  exact State.sendHearth_keeps ‹_›

theorem State.forward_keeps {s0 s : State} {a2} (h : Keeps s0 s) : Keeps s0 (s.forward a2) := by
  unfold State.forward
  exact State.forwardTo_keeps (State.addActive_keeps ‹_›)

theorem State.resend_keeps {s0 s : State} {a2} (h : Keeps s0 s) : Keeps s0 (s.resend a2) := by
  unfold State.resend
  exact State.sendReply_keeps (State.dropActive_keeps ‹_›)

theorem State.runCmd_keeps {s0 s : State} {a2} {a3} {f4} (h : Keeps s0 s) (hf0 : ∀ y1, Keeps s0 y1 → Keeps s0 (f4 y1))
    : Keeps s0 (s.runCmd a2 a3 f4) := by
  unfold State.runCmd
  refine Keeps.ite (fun _ => ?_) (fun _ => ?_)
  · assumption
  · extract_lets +onlyGivenNames x1 x2
    have hx2 : Keeps s0 x2 := State.unqueue_keeps ‹_›
    clear_value x1 x2
    split
    · exact State.resend_keeps ‹_›
    · refine Keeps.ite (fun _ => ?_) (fun _ => ?_)
      · assumption
      · split
        · exact State.reply_keeps ‹_›
        · exact Keeps.ite (fun _ => State.forward_keeps ‹_›) (fun _ => hf0 _ ‹_›)

theorem State.command_keeps {s0 s : State} {a2} {a3} {f4} (h : Keeps s0 s) (hf0 : ∀ y1, Keeps s0 y1 → Keeps s0 (f4
    y1)) : Keeps s0 (s.command a2 a3 f4) := by
  unfold State.command
  exact State.runCmd_keeps ‹_› (fun t1 ht2 => hf0 _ ‹_›)

theorem State.ringError_keeps {s0 s : State} {a2} (h : Keeps s0 s) : Keeps s0 (s.ringError a2) := by
  unfold State.ringError
  exact State.whf_keeps ‹_›

theorem State.takeCmd_keeps {s0 s : State} {a2} (h : Keeps s0 s) : Keeps s0 (s.takeCmd a2) := by
  unfold State.takeCmd
  extract_lets +onlyGivenNames x1
  clear_value x1
  refine Keeps.ite (fun _ => ?_) (fun _ => ?_)
  · assumption
  · refine Keeps.ite (fun _ => ?_) (fun _ => ?_)
    · exact State.reply_keeps ‹_›
    · refine Keeps.ite (fun _ => ?_) (fun _ => ?_)
      · exact State.addActive_keeps ‹_›
      · split
        · exact State.addActive_keeps (State.enqueue_keeps ‹_› ‹_›)
        · exact State.reply_keeps ‹_›

theorem State.takeOne_keeps {s0 s : State} {a2} (h : Keeps s0 s) {t} (e : s.takeOne a2 = some t) : Keeps s0 t := by
  unfold State.takeOne at e
  extract_lets head avail c need at e
  split at e
  · cases e
  · split at e
    · cases e; exact State.sendReply_keeps (State.ringError_keeps h)
    · split at e
      · cases e
      · cases e; exact State.whf_keeps (State.takeCmd_keeps h)

theorem State.takeRing_keeps {s0 : State} {a3 : RingIdx} : ∀ {a1 : Nat} {s : State}, Keeps s0 s →
    Keeps s0 (State.takeRing a1 s a3)
  | 0, _, h => h
  | _ + 1, s, h => by
    unfold State.takeRing
    split
    · exact h
    · exact State.takeRing_keeps (State.takeOne_keeps h ‹_›)

theorem State.doorbell_keeps {s0 s : State} {a2} {a3} (h : Keeps s0 s) : Keeps s0 (s.doorbell a2 a3) := by
  unfold State.doorbell
  exact Keeps.ite (fun _ => ‹_›) (fun _ => Keeps.ite (fun _ => State.whf_keeps ‹_›) (fun _ => Keeps.ite (fun _ =>
      State.ringError_keeps ‹_›) (fun _ => State.takeRing_keeps (State.whf_keeps ‹_›))))

theorem State.dropChallenges_keeps {s0 s : State} {a2} (h : Keeps s0 s) : Keeps s0 (s.dropChallenges a2) := by
  unfold State.dropChallenges
  exact Keeps.record ‹_› rfl rfl rfl

theorem State.ringOff_keeps {s0 s : State} {a2} (h : Keeps s0 s) : Keeps s0 (s.ringOff a2) := by
  unfold State.ringOff
  extract_lets +onlyGivenNames x1 x2 x3
  have hx2 : Keeps s0 x2 := Keeps.ite (fun _ => ‹_›) (fun _ => State.auditRec_keeps ‹_›)
  have hx3 : Keeps s0 x3 := State.whf_keeps (State.whf_keeps (State.whf_keeps ‹_›))
  clear_value x1 x2 x3
  exact State.dropChallenges_keeps (State.setHreg_keeps ‹_›)

theorem State.ringCfg_keeps {s0 s : State} {a2} {a3} (h : Keeps s0 s) : Keeps s0 (s.ringCfg a2 a3) := by
  unfold State.ringCfg
  refine Keeps.ite (fun _ => ?_) (fun _ => ?_)
  · assumption
  · extract_lets +onlyGivenNames x1
    have hx1 : Keeps s0 x1 := State.whf_keeps ‹_›
    clear_value x1
    exact Keeps.ite (fun _ => State.ringOff_keeps ‹_›) (fun _ => Keeps.ite (fun _ => ‹_›) (fun _ => State.whf_keeps
        (State.whf_keeps (State.ringOff_keeps ‹_›))))

theorem State.haltReply_keeps {s0 s : State} {a2} {a3} (h : Keeps s0 s) : Keeps s0 (s.haltReply a2 a3) := by
  unfold State.haltReply
  extract_lets s1 e s2
  have h2 : Keeps s0 s2 := (State.dropActive_keeps h).remember
  exact Keeps.ite (fun _ => h2) fun _ => State.sendReply_keeps h2

theorem State.haltAnswer_keeps {s0 s : State} {a2} {a3} {a4} (h : Keeps s0 s) : Keeps s0 (s.haltAnswer a2 a3
    a4) := by
  unfold State.haltAnswer
  extract_lets +onlyGivenNames x1 x2
  have hx2 : Keeps s0 x2 := Keeps.record ‹_› rfl rfl rfl
  clear_value x1 x2
  exact Keeps.ite (fun _ => State.haltReply_keeps ‹_›) (fun _ => ‹_›)

theorem State.cmdTimeout_keeps {s0 s : State} {a2} (h : Keeps s0 s) : Keeps s0 (s.cmdTimeout a2) := by
  unfold State.cmdTimeout
  split
  · assumption
  · exact Keeps.ite (fun _ => ‹_›) (fun _ => Keeps.ite (fun _ => State.haltReply_keeps ‹_›) (fun _ =>
        State.sendReply_keeps (Keeps.record ‹_› rfl rfl rfl)))

theorem State.gather_keeps {s0 s : State} {a2} {a3} (h : Keeps s0 s) : Keeps s0 (s.gather a2 a3).1 := by
  unfold State.gather
  extract_lets +onlyGivenNames x1 x2 x3 x4 x5 x6 x7
  clear_value x1 x2 x3 x4 x5 x6 x7
  split
  · dsimp only
    exact State.setLink_keeps ‹_›
  · split
    · dsimp only
      exact State.setLink_keeps ‹_›
    · dsimp only
      exact State.setLink_keeps ‹_›

theorem State.hearthPacket_keeps {s0 s : State} {a2} {a3} {a4} {f5} (h : Keeps s0 s) (hf0 : ∀ y1 y2, Keeps s0 y1 →
    Keeps s0 (f5 y1 y2)) : Keeps s0 (s.hearthPacket a2 a3 a4 f5) := by
  unfold State.hearthPacket
  refine Keeps.ite (fun _ => ?_) (fun _ => ?_)
  · assumption
  · extract_lets +onlyGivenNames x1
    have hx1 : Keeps s0 x1.1 := State.receive_keeps ‹_›
    clear_value x1
    refine Keeps.ite (fun _ => ?_) (fun _ => ?_)
    · assumption
    · refine Keeps.ite (fun _ => ?_) (fun _ => ?_)
      · exact State.passOn_keeps ‹_›
      · extract_lets +onlyGivenNames x2
        have hx2 : Keeps s0 x2 := State.freePool_keeps ‹_›
        clear_value x2
        refine Keeps.ite (fun _ => ?_) (fun _ => ?_)
        · assumption
        · extract_lets +onlyGivenNames x3
          have hx3 : Keeps s0 x3.1 := State.gather_keeps ‹_›
          clear_value x3
          split
          · assumption
          · exact hf0 _ _ ‹_›

theorem State.hearthCommand_keeps {s0 s : State} {a2} (h : Keeps s0 s) : Keeps s0 (s.hearthCommand a2) := by
  unfold State.hearthCommand
  exact Keeps.ite (fun _ => ‹_›) (fun _ => State.takeCmd_keeps (Keeps.record ‹_› rfl rfl rfl))

theorem State.hearthReply_keeps {s0 s : State} {a2} (h : Keeps s0 s) : Keeps s0 (s.hearthReply a2) := by
  unfold State.hearthReply
  extract_lets +onlyGivenNames x1 x2 x3 x4 x5 x6
  clear_value x1 x2 x3 x4 x5
  refine Keeps.ite (fun _ => ?_) (fun _ => ?_)
  · exact Keeps.ite (fun _ => Keeps.ite (fun _ => State.putEvent_keeps ‹_›) (fun _ => ‹_›)) (fun _ =>
        State.putLocal_keeps ‹_›)
  · split
    · assumption
    · exact Keeps.ite (fun _ => State.haltAnswer_keeps ‹_›) (fun _ => Keeps.ite (fun _ => ‹_›) (fun _ => Keeps.ite
          (fun _ => State.dropActive_keeps ‹_›) (fun _ => Keeps.ite (fun _ => Keeps.ite (fun _ => State.putEvent_keeps
          (State.dropActive_keeps ‹_›)) (fun _ => State.dropActive_keeps ‹_›)) (fun _ => State.putLocal_keeps
          (State.dropActive_keeps ‹_›)))))

theorem State.actOnRecord_keeps {s0 s : State} {a2} (h : Keeps s0 s) : Keeps s0 (s.actOnRecord a2) := by
  unfold State.actOnRecord
  extract_lets +onlyGivenNames x1 x2 x3 x4 x5 x6 x7 x8 x9
  have hx9 : Keeps s0 x9 := Keeps.ite (fun _ => Keeps.record ‹_› rfl rfl rfl) (fun _ => State.fenceSteps_keeps ‹_›)
  clear_value x1 x2 x3 x4 x5 x6 x7 x8 x9
  split
  · refine Keeps.ite (fun _ => ?_) (fun _ => ?_)
    · split
      · exact State.forcePlan_keeps ‹_›
      · assumption
    · assumption
  · assumption

theorem State.hearthEvent_keeps {s0 s : State} {a2} (h : Keeps s0 s) : Keeps s0 (s.hearthEvent a2) := by
  unfold State.hearthEvent
  extract_lets +onlyGivenNames x1 x2 x3
  clear_value x1 x2 x3
  refine Keeps.ite (fun _ => ?_) (fun _ => ?_)
  · exact Keeps.ite (fun _ => State.putEvent_keeps ‹_›) (fun _ => ‹_›)
  · extract_lets +onlyGivenNames x4
    clear_value x4
    refine Keeps.ite (fun _ => ?_) (fun _ => ?_)
    · assumption
    · extract_lets +onlyGivenNames x5 x6 x7
      have hx5 : Keeps s0 x5 := Keeps.record ‹_› rfl rfl rfl
      have hx7 : Keeps s0 x7 := Keeps.ite (fun _ => State.putEvent_keeps ‹_›) (fun _ => ‹_›)
      clear_value x5 x6 x7
      exact Keeps.ite (fun _ => State.actOnRecord_keeps (State.sendHearth_keeps ‹_›)) (fun _ => ‹_›)

theorem State.setCsm_keeps {s0 s : State} {a2} {a3} (h : Keeps s0 s) : Keeps s0 (s.setCsm a2 a3) := by
  unfold State.setCsm
  exact Keeps.record ‹_› rfl rfl rfl

theorem State.setChan_keeps {s0 s : State} {a2} {a3} {a4} (h : Keeps s0 s) : Keeps s0 (s.setChan a2 a3 a4) :=
    by
  unfold State.setChan
  exact State.wf_keeps ‹_›

theorem State.setRing_keeps {s0 s : State} {a2} {a3} {a4} (h : Keeps s0 s) : Keeps s0 (s.setRing a2 a3 a4) :=
    by
  unfold State.setRing
  exact State.wf_keeps ‹_›

theorem State.sendLane_keeps {s0 s : State} {a2} {a3} (h : Keeps s0 s) : Keeps s0 (s.sendLane a2 a3) := by
  unfold State.sendLane
  exact State.linkPut_keeps ‹_›

theorem State.askLane_keeps {s0 s : State} {a2} {a3} {a4} (h : Keeps s0 s) : Keeps s0 (s.askLane a2 a3 a4) :=
    by
  unfold State.askLane
  exact Keeps.ite (fun _ => State.sendLane_keeps ‹_›) (fun _ => ‹_›)

theorem State.planMap_keeps {s0 s : State} {a2} {a3} {a4} (h : Keeps s0 s) : Keeps s0 (s.planMap a2 a3 a4) :=
    by
  unfold State.planMap
  exact Keeps.ite (fun _ => ‹_›) (fun _ => Keeps.ite (fun _ => State.wf_keeps (State.setLink_keeps
      (State.sendLane_keeps ‹_›))) (fun _ => State.setLaneMap_keeps ‹_›))

theorem State.planSoon_keeps {s0 s : State} {a2} {a3} (h : Keeps s0 s) : Keeps s0 (s.planSoon a2 a3) := by
  unfold State.planSoon
  exact State.planMap_keeps ‹_›

theorem State.unmove_keeps {s0 s : State} {a2} {a3} {a4} (h : Keeps s0 s) : Keeps s0 (s.unmove a2 a3 a4) := by
  unfold State.unmove
  exact State.setCsm_keeps (Keeps.foldl (fun t y ht => Keeps.ite (fun _ => State.askLane_keeps ‹_›) (fun _ =>
      Keeps.ite (fun _ => State.setLaneMap_keeps ‹_›) (fun _ => State.planSoon_keeps ‹_›))) _ _ ‹_›)

theorem State.skipCal_keeps {s0 s : State} {a2} {a3} (h : Keeps s0 s) : Keeps s0 (s.skipCal a2 a3) := by
  unfold State.skipCal
  extract_lets +onlyGivenNames x1 x2 x3 x4
  have hx2 : Keeps s0 x2 := Keeps.ite (fun _ => State.setRing_keeps ‹_›) (fun _ => ‹_›)
  have hx3 : Keeps s0 x3 := State.wf_keeps (State.satf_keeps ‹_›)
  have hx4 : Keeps s0 x4 := State.unmove_keeps ‹_›
  clear_value x1 x2 x3 x4
  exact State.setCsm_keeps ‹_›

theorem State.takeSpare_keeps {s0 s : State} {a2} {a3} (h : Keeps s0 s) : Keeps s0 (s.takeSpare a2 a3).2 := by
  unfold State.takeSpare
  split
  · dsimp only
    assumption
  · split
    · extract_lets +onlyGivenNames x1
      have hx1 : Keeps s0 x1 := State.skipCal_keeps ‹_›
      clear_value x1
      dsimp only
      assumption
    · extract_lets +onlyGivenNames x2
      have hx2 : Keeps s0 x2 := Keeps.foldl (fun t y ht => State.setLaneMap_keeps ‹_›) _ _ ‹_›
      clear_value x2
      dsimp only
      assumption

theorem State.changeMap_keeps {s0 s : State} {a2} {a3} (h : Keeps s0 s) : Keeps s0 (s.changeMap a2 a3) := by
  unfold State.changeMap
  exact Keeps.ite (fun _ => ‹_›) (fun _ => State.startRetrain_keeps (State.setLaneMap_keeps ‹_›))

theorem State.failTx_keeps {s0 s : State} {a2} {a3} (h : Keeps s0 s) : Keeps s0 (s.failTx a2 a3) := by
  unfold State.failTx
  extract_lets +onlyGivenNames x1
  clear_value x1
  refine Keeps.ite (fun _ => ?_) (fun _ => ?_)
  · assumption
  · extract_lets +onlyGivenNames x2
    have hx2 : Keeps s0 x2.2 := State.takeSpare_keeps ‹_›
    clear_value x2
    exact Keeps.foldl (fun t y ht => State.changeMap_keeps ‹_›) _ _ ‹_›

theorem State.failRx_keeps {s0 s : State} {a2} {a3} (h : Keeps s0 s) : Keeps s0 (s.failRx a2 a3) := by
  unfold State.failRx
  refine Keeps.foldl (fun t y ht => ?_) _ _ ?_
  · extract_lets +onlyGivenNames x1 x2
    have hx2 : Keeps s0 x2 := State.setLink_keeps ‹_›
    clear_value x1 x2
    exact Keeps.ite (fun _ => State.startRetrain_keeps ‹_›) (fun _ => ‹_›)
  · assumption

theorem State.returnTx_keeps {s0 s : State} {a2} {a3} (h : Keeps s0 s) : Keeps s0 (s.returnTx a2 a3) := by
  unfold State.returnTx
  exact Keeps.ite (fun _ => ‹_›) (fun _ => Keeps.foldl (fun t y ht => Keeps.ite (fun _ => ‹_›) (fun _ =>
      State.planSoon_keeps ‹_›)) _ _ ‹_›)

theorem State.returnRx_keeps {s0 s : State} {a2} {a3} (h : Keeps s0 s) : Keeps s0 (s.returnRx a2 a3) := by
  unfold State.returnRx
  exact Keeps.foldl (fun t y ht => Keeps.ite (fun _ => State.askLane_keeps (State.setLink_keeps ‹_›)) (fun _ => ‹_›))
      _ _ ‹_›

theorem State.calReady_keeps {s0 s : State} {a2} (h : Keeps s0 s) : Keeps s0 (s.calReady a2) := by
  unfold State.calReady
  extract_lets +onlyGivenNames x1
  clear_value x1
  split
  · exact Keeps.ite (fun _ => ‹_›) (fun _ => State.setCsm_keeps (State.setRing_keeps ‹_›))
  · assumption

theorem State.setJob_keeps {s0 s : State} {a2} (h : Keeps s0 s) : Keeps s0 (s.setJob a2) := by
  unfold State.setJob
  exact Keeps.record ‹_› rfl rfl rfl

theorem State.dropJob_keeps {s0 s : State} {a2} (h : Keeps s0 s) : Keeps s0 (s.dropJob a2) := by
  unfold State.dropJob
  exact Keeps.record ‹_› rfl rfl rfl

theorem State.rampDown_keeps {s0 s : State} {a2} {a3} (h : Keeps s0 s) : Keeps s0 (s.rampDown a2 a3) := by
  unfold State.rampDown
  split
  · exact Keeps.ite (fun _ => ‹_›) (fun _ => State.setJob_keeps ‹_›)
  · exact State.setJob_keeps ‹_›

theorem State.remapDone_keeps {s0 s : State} {a2} {a3} (h : Keeps s0 s) : Keeps s0 (s.remapDone a2 a3) := by
  unfold State.remapDone
  extract_lets +onlyGivenNames x1
  clear_value x1
  refine Keeps.ite (fun _ => ?_) (fun _ => ?_)
  · extract_lets +onlyGivenNames x2 x3 x4
    have hx3 : Keeps s0 x3 := State.satf_keeps (State.setChan_keeps ‹_›)
    have hx4 : Keeps s0 x4 := Keeps.ite (fun _ => State.rampDown_keeps ‹_›) (fun _ => State.rampDown_keeps
        (State.wf_keeps ‹_›))
    clear_value x2 x3 x4
    exact State.failTx_keeps ‹_›
  · assumption

theorem State.remapsDone_keeps {s0 s : State} {a2} (h : Keeps s0 s) : Keeps s0 (s.remapsDone a2) := by
  unfold State.remapsDone
  exact Keeps.foldl (fun t y ht => State.remapDone_keeps ‹_›) _ _ ‹_›

theorem State.applyTx_keeps {s0 s : State} {a2} (h : Keeps s0 s) : Keeps s0 (s.applyTx a2) := by
  unfold State.applyTx
  split
  · exact Keeps.ite (fun _ => State.setLink_keeps (State.wf_keeps (State.setLaneMap_keeps ‹_›))) (fun _ => ‹_›)
  · assumption

theorem State.applyRx_keeps {s0 s : State} {a2} (h : Keeps s0 s) : Keeps s0 (s.applyRx a2) := by
  unfold State.applyRx
  split
  · exact Keeps.ite (fun _ => State.setLink_keeps (State.wf_keeps (State.setLaneMap_keeps ‹_›))) (fun _ => ‹_›)
  · assumption

theorem State.laneEpoch_keeps {s0 s : State} {a2} (h : Keeps s0 s) : Keeps s0 (s.laneEpoch a2) := by
  unfold State.laneEpoch
  exact Keeps.ite (fun _ => ‹_›) (fun _ => State.remapsDone_keeps (State.calReady_keeps (State.applyRx_keeps
      (State.applyTx_keeps ‹_›))))

theorem State.lanePacket_keeps {s0 s : State} {a2} {a3} {a4} {f5} (h : Keeps s0 s) (hf0 : ∀ y1 y2, Keeps s0 y1 → Keeps
    s0 (f5 y1 y2)) : Keeps s0 (s.lanePacket a2 a3 a4 f5) := by
  unfold State.lanePacket
  extract_lets +onlyGivenNames x1
  clear_value x1
  refine Keeps.ite (fun _ => ?_) (fun _ => ?_)
  · assumption
  · extract_lets +onlyGivenNames x2
    have hx2 : Keeps s0 x2.1 := State.receive_keeps ‹_›
    clear_value x2
    refine Keeps.ite (fun _ => ?_) (fun _ => ?_)
    · assumption
    · extract_lets +onlyGivenNames x3
      have hx3 : Keeps s0 x3 := State.freePool_keeps ‹_›
      clear_value x3
      exact Keeps.ite (fun _ => ‹_›) (fun _ => hf0 _ _ ‹_›)

theorem State.laneNotice_keeps {s0 s : State} {a2} {a3} (h : Keeps s0 s) : Keeps s0 (s.laneNotice a2 a3) := by
  unfold State.laneNotice
  exact Keeps.ite (fun _ => ‹_›) (fun _ => State.wf_keeps (State.setLink_keeps (Keeps.ite (fun _ => State.satf_keeps
      ‹_›) (fun _ => ‹_›))))

theorem State.laneVacate_keeps {s0 s : State} {a2} {a3} (h : Keeps s0 s) : Keeps s0 (s.laneVacate a2 a3) := by
  unfold State.laneVacate
  refine Keeps.ite (fun _ => ?_) (fun _ => ?_)
  · assumption
  · split
    · assumption
    · exact State.planSoon_keeps (State.setLink_keeps ‹_›)

theorem State.laneRestore_keeps {s0 s : State} {a2} {a3} (h : Keeps s0 s) : Keeps s0 (s.laneRestore a2 a3) :=
    by
  unfold State.laneRestore
  extract_lets +onlyGivenNames x1 x2 x3
  have hx3 : Keeps s0 x3 := State.setLink_keeps ‹_›
  clear_value x1 x2 x3
  exact Keeps.ite (fun _ => State.planSoon_keeps ‹_›) (fun _ => ‹_›)

theorem State.laneExclude_keeps {s0 s : State} {a2} {a3} (h : Keeps s0 s) : Keeps s0 (s.laneExclude a2 a3) :=
    by
  unfold State.laneExclude
  extract_lets +onlyGivenNames x1 x2
  have hx2 : Keeps s0 x2 := State.setLink_keeps ‹_›
  clear_value x1 x2
  exact Keeps.ite (fun _ => State.planSoon_keeps ‹_›) (fun _ => ‹_›)

end Sys2Proof.Machine
end

