-- ==== Sys2Proof/Laws/KeepsUnits.lean ====
section
/-!
SUPPORT. Sys2Proof/Laws/KeepsUnits.lean: what the operations over the timebase, slot plans and the bays' units keep.
-/

set_option Elab.async false

namespace Sys2Proof.Machine

theorem State.fixLaunch_keeps {s0 s : State} {a2} {a3} (h : Keeps s0 s) : Keeps s0 (s.fixLaunch a2 a3) := by
  unfold State.fixLaunch
  exact Keeps.ite (fun _ => ‹_›) (fun _ => State.setCsm_keeps (State.wfs_keeps ‹_›))

theorem State.noteDelay_keeps {s0 s : State} {a2} {a3} {a4} (h : Keeps s0 s) : Keeps s0 (s.noteDelay a2 a3 a4)
    := by
  unfold State.noteDelay
  extract_lets +onlyGivenNames x1 x2
  have hx2 : Keeps s0 x2 := State.setCsm_keeps ‹_›
  clear_value x1 x2
  split
  · exact Keeps.ite (fun _ => ‹_›) (fun _ => State.fixLaunch_keeps ‹_›)
  · exact State.fixLaunch_keeps ‹_›

theorem State.noteArrival_keeps {s0 s : State} {a2} {a3} {a4} (h : Keeps s0 s) : Keeps s0 (s.noteArrival a2 a3
    a4) := by
  unfold State.noteArrival
  extract_lets +onlyGivenNames x1
  have hx1 : Keeps s0 x1 := State.wf_keeps ‹_›
  clear_value x1
  refine Keeps.ite (fun _ => ?_) (fun _ => ?_)
  · assumption
  · extract_lets +onlyGivenNames x2 x3 x4
    clear_value x2 x3 x4
    refine Keeps.ite (fun _ => ?_) (fun _ => ?_)
    · exact State.wf_keeps ‹_›
    · split
      · exact State.startRetrain_keeps ‹_›
      · assumption

theorem State.toBeat_keeps {s0 s : State} {a2} (h : Keeps s0 s) : Keeps s0 (s.toBeat a2) := by
  unfold State.toBeat
  exact State.wf_keeps (Keeps.record ‹_› rfl rfl rfl)

theorem State.alignTo_keeps {s0 s : State} {a2} {a3} (h : Keeps s0 s) : Keeps s0 (s.alignTo a2 a3) := by
  unfold State.alignTo
  exact Keeps.record (State.wfs_keeps (State.wf_keeps ‹_›)) rfl rfl rfl

theorem State.seekReference_keeps {s0 s : State} {a2} (h : Keeps s0 s) : Keeps s0 (s.seekReference a2) := by
  unfold State.seekReference
  split
  · exact State.toBeat_keeps (State.alignTo_keeps ‹_›)
  · exact State.note_keeps (State.toBeat_keeps (State.wfs_keeps ‹_›))

theorem State.becomeMaster_keeps {s0 s : State} (h : Keeps s0 s) : Keeps s0 (s.becomeMaster) := by
  unfold State.becomeMaster
  exact State.toBeat_keeps (State.wfs_keeps ‹_›)

theorem State.beatLinksDown_keeps {s0 s : State} (h : Keeps s0 s) : Keeps s0 (s.beatLinksDown) := by
  unfold State.beatLinksDown
  exact Keeps.foldl (fun t y ht => State.goDown_keeps ‹_›) _ _ ‹_›

theorem State.electEnd_keeps {s0 s : State} (h : Keeps s0 s) : Keeps s0 (s.electEnd) := by
  unfold State.electEnd
  refine Keeps.ite (fun _ => ?_) (fun _ => ?_)
  · assumption
  · extract_lets +onlyGivenNames x1 x2
    clear_value x1 x2
    refine Keeps.ite (fun _ => ?_) (fun _ => ?_)
    · exact State.becomeMaster_keeps ‹_›
    · split
      · exact State.seekReference_keeps ‹_›
      · exact State.toBeat_keeps ‹_›

theorem State.holdover_keeps {s0 s : State} (h : Keeps s0 s) : Keeps s0 (s.holdover) := by
  unfold State.holdover
  refine Keeps.ite (fun _ => ?_) (fun _ => ?_)
  · assumption
  · extract_lets +onlyGivenNames x1 x2
    have hx1 : Keeps s0 x1 := State.toBeat_keeps ‹_›
    clear_value x1 x2
    split
    · exact State.wfs_keeps ‹_›
    · exact Keeps.ite (fun _ => Keeps.record ‹_› rfl rfl rfl) (fun _ => ‹_›)

theorem State.holdoverExpiry_keeps {s0 s : State} (h : Keeps s0 s) : Keeps s0 (s.holdoverExpiry) := by
  unfold State.holdoverExpiry
  exact Keeps.ite (fun _ => ‹_›) (fun _ => State.beatLinksDown_keeps (State.note_keeps (State.toBeat_keeps
      (State.wf_keeps ‹_›))))

theorem State.announce_keeps {s0 s : State} (h : Keeps s0 s) : Keeps s0 (s.announce) := by
  unfold State.announce
  refine Keeps.ite (fun _ => ?_) (fun _ => ?_)
  · assumption
  · extract_lets +onlyGivenNames x1
    clear_value x1
    split
    · exact Keeps.record ‹_› rfl rfl rfl
    · assumption

theorem State.handover_keeps {s0 s : State} (h : Keeps s0 s) : Keeps s0 (s.handover) := by
  unfold State.handover
  split
  · assumption
  · refine Keeps.ite (fun _ => ?_) (fun _ => ?_)
    · assumption
    · extract_lets +onlyGivenNames x1 x2
      have hx2 : Keeps s0 x2 := Keeps.record ‹_› rfl rfl rfl
      clear_value x1 x2
      exact Keeps.ite (fun _ => State.becomeMaster_keeps ‹_›) (fun _ => Keeps.ite (fun _ => State.toBeat_keeps
          (State.wfs_keeps (Keeps.record ‹_› rfl rfl rfl))) (fun _ => State.wf_keeps ‹_›))

theorem State.hear_keeps {s0 s : State} {a2} (h : Keeps s0 s) : Keeps s0 (s.hear a2) := by
  unfold State.hear
  exact Keeps.record ‹_› rfl rfl rfl

theorem State.discipline_keeps {s0 s : State} {a2} (h : Keeps s0 s) : Keeps s0 (s.discipline a2) := by
  unfold State.discipline
  extract_lets +onlyGivenNames x1 x2 x3 x4 x5 x6
  have hx3 : Keeps s0 x3 := State.wfs_keeps ‹_›
  have hx6 : Keeps s0 x6 := Keeps.record ‹_› rfl rfl rfl
  clear_value x1 x2 x3 x4 x5 x6
  exact Keeps.ite (fun _ => State.toBeat_keeps ‹_›) (fun _ => Keeps.ite (fun _ => State.toBeat_keeps ‹_›) (fun _ =>
      ‹_›))

theorem State.meets_keeps {s0 s : State} {a2} {a3} (h : Keeps s0 s) : Keeps s0 (s.meets a2 a3) := by
  unfold State.meets
  extract_lets +onlyGivenNames x1 x2 x3
  clear_value x1 x2 x3
  refine Keeps.ite (fun _ => ?_) (fun _ => ?_)
  · assumption
  · refine Keeps.ite (fun _ => ?_) (fun _ => ?_)
    · exact Keeps.ite (fun _ => Keeps.record ‹_› rfl rfl rfl) (fun _ => ‹_›)
    · extract_lets +onlyGivenNames x4 x5 x6
      have hx4 : Keeps s0 x4 := State.wf_keeps ‹_›
      have hx6 : Keeps s0 x6 := by
        unfold x6
        split
        · exact Keeps.record ‹_› rfl rfl rfl
        · assumption
      clear_value x4 x5 x6
      exact State.note_keeps ‹_›

theorem State.hearHandover_keeps {s0 s : State} {a2} (h : Keeps s0 s) : Keeps s0 (s.hearHandover a2) := by
  unfold State.hearHandover
  exact Keeps.ite (fun _ => ‹_›) (fun _ => Keeps.record ‹_› rfl rfl rfl)

theorem State.beatRecord_keeps {s0 s : State} {a2} (h : Keeps s0 s) : Keeps s0 (s.beatRecord a2) := by
  unfold State.beatRecord
  extract_lets +onlyGivenNames x1
  clear_value x1
  refine Keeps.ite (fun _ => ?_) (fun _ => ?_)
  · exact State.toBeat_keeps ‹_›
  · refine Keeps.ite (fun _ => ?_) (fun _ => ?_)
    · extract_lets +onlyGivenNames x2
      clear_value x2
      split
      · exact State.toBeat_keeps (State.alignTo_keeps ‹_›)
      · assumption
    · exact Keeps.ite (fun _ => State.discipline_keeps (Keeps.ite (fun _ => ‹_›) (fun _ => State.wf_keeps ‹_›))) (fun
          _ => ‹_›)

theorem State.fibreRecord_keeps {s0 s : State} {a2} {a3} {a4} (h : Keeps s0 s) : Keeps s0 (s.fibreRecord a2 a3
    a4) := by
  unfold State.fibreRecord
  extract_lets +onlyGivenNames x1 x2 x3 x4 x5 x6
  have hx2 : Keeps s0 x2 := State.wf_keeps ‹_›
  have hx3 : Keeps s0 x3 := Keeps.ite (fun _ => State.note_keeps ‹_›) (fun _ => ‹_›)
  have hx5 : Keeps s0 x5 := State.setCsm_keeps ‹_›
  have hx6 : Keeps s0 x6 := Keeps.ite (fun _ => State.noteDelay_keeps ‹_›) (fun _ => ‹_›)
  clear_value x1 x2 x3 x4 x5 x6
  exact Keeps.ite (fun _ => State.noteArrival_keeps ‹_›) (fun _ => ‹_›)

theorem State.timingRecord_keeps {s0 s : State} {a2} {a3} (h : Keeps s0 s) : Keeps s0 (s.timingRecord a2 a3) :=
    by
  unfold State.timingRecord
  refine Keeps.ite (fun _ => ?_) (fun _ => ?_)
  · assumption
  · refine Keeps.ite (fun _ => ?_) (fun _ => ?_)
    · split
      · exact State.satf_keeps ‹_›
      · assumption
    · extract_lets +onlyGivenNames x1 x2
      have hx1 : Keeps s0 x1 := by
        unfold x1
        split
        · exact State.fibreRecord_keeps ‹_›
        · assumption
      clear_value x1 x2
      exact Keeps.ite (fun _ => ‹_›) (fun _ => State.beatRecord_keeps (State.hearHandover_keeps (State.meets_keeps
          (State.hear_keeps ‹_›))))

theorem State.fsyncEdge_keeps {s0 s : State} {a2} (h : Keeps s0 s) : Keeps s0 (s.fsyncEdge a2) := by
  unfold State.fsyncEdge
  exact Keeps.ite (fun _ => ‹_›) (fun _ => Keeps.ite (fun _ => Keeps.ite (fun _ => ‹_›) (fun _ => State.note_keeps
      (Keeps.record ‹_› rfl rfl rfl))) (fun _ => Keeps.ite (fun _ => ‹_›) (fun _ => Keeps.ite (fun _ =>
      State.discipline_keeps ‹_›) (fun _ => ‹_›))))

theorem State.beatRealign_keeps {s0 s : State} {a2} (h : Keeps s0 s) : Keeps s0 (s.beatRealign a2) := by
  unfold State.beatRealign
  exact Keeps.ite (fun _ => State.reply_keeps ‹_›) (fun _ => State.reply_keeps (State.toBeat_keeps (Keeps.record
      (State.wfs_keeps (State.beatLinksDown_keeps ‹_›)) rfl rfl rfl)))

theorem State.planStat_keeps {s0 s : State} (h : Keeps s0 s) : Keeps s0 (s.planStat) := by
  unfold State.planStat
  exact Keeps.foldl (fun t y ht => State.wfs_keeps ‹_›) _ _ ‹_›

theorem State.takePlan_keeps {s0 s : State} {a2} {a3} (h : Keeps s0 s) : Keeps s0 (s.takePlan a2 a3) := by
  unfold State.takePlan
  exact State.reply_keeps (State.planStat_keeps (Keeps.record ‹_› rfl rfl rfl))

theorem State.planLoad_keeps {s0 s : State} {a2} (h : Keeps s0 s) : Keeps s0 (s.planLoad a2) := by
  unfold State.planLoad
  exact Keeps.ite (fun _ => State.reply_keeps ‹_›) (fun _ => Keeps.ite (fun _ => State.reply_keeps ‹_›) (fun _ =>
      Keeps.ite (fun _ => State.reply_keeps ‹_›) (fun _ => State.takePlan_keeps ‹_›)))

theorem State.planDelta_keeps {s0 s : State} {a2} (h : Keeps s0 s) : Keeps s0 (s.planDelta a2) := by
  unfold State.planDelta
  exact Keeps.ite (fun _ => State.reply_keeps ‹_›) (fun _ => Keeps.ite (fun _ => State.reply_keeps ‹_›) (fun _ =>
      Keeps.ite (fun _ => State.reply_keeps ‹_›) (fun _ => Keeps.ite (fun _ => State.reply_keeps ‹_›) (fun _ =>
      State.takePlan_keeps ‹_›))))

theorem State.setPlanOf_keeps {s0 s : State} {a2} {a3} (h : Keeps s0 s) : Keeps s0 (s.setPlanOf a2 a3) := by
  unfold State.setPlanOf
  exact State.setCsm_keeps (Keeps.foldl (fun t y ht => State.wf_keeps ‹_›) _ _ ‹_›)

theorem State.planApply_keeps {s0 s : State} (h : Keeps s0 s) : Keeps s0 (s.planApply) := by
  unfold State.planApply
  extract_lets +onlyGivenNames x1 x2 x3 x4 x5 x6 x7
  have hx3 : Keeps s0 x3 := Keeps.foldl (fun t y ht => State.setPlanOf_keeps ‹_›) _ _ ‹_›
  have hx4 : Keeps s0 x4 := State.planStat_keeps (Keeps.record ‹_› rfl rfl rfl)
  have hx5 : Keeps s0 x5 := Keeps.foldl (fun t y ht => Keeps.ite (fun _ => ‹_›) (fun _ => State.applied_keeps ‹_›)) _
      _ ‹_›
  have hx7 : Keeps s0 x7 := Keeps.record ‹_› rfl rfl rfl
  clear_value x1 x2 x3 x4 x5 x6 x7
  exact Keeps.foldl (fun t y ht => Keeps.ite (fun _ => State.note_keeps ‹_›) (fun _ => State.setPlanOf_keeps ‹_›)) _ _
      ‹_›

theorem State.recheck_keeps {s0 s : State} {a2} {a3} (h : Keeps s0 s) : Keeps s0 (s.recheck a2 a3) := by
  unfold State.recheck
  extract_lets +onlyGivenNames x1 x2 x3 x4
  have hx4 : Keeps s0 x4 := State.satf_keeps (State.setCsm_keeps ‹_›)
  clear_value x1 x2 x3 x4
  exact Keeps.ite (fun _ => ‹_›) (fun _ => State.hostEvent_keeps ‹_›)

theorem State.refix_keeps {s0 s : State} {a2} (h : Keeps s0 s) : Keeps s0 (s.refix a2) := by
  unfold State.refix
  refine Keeps.ite (fun _ => ?_) (fun _ => ?_)
  · assumption
  · extract_lets +onlyGivenNames x1
    clear_value x1
    refine Keeps.foldl (fun t y ht => ?_) _ _ ?_
    · extract_lets +onlyGivenNames x2 x3
      have hx3 : Keeps s0 x3 := State.fixLaunch_keeps ‹_›
      clear_value x2 x3
      exact Keeps.ite (fun _ => ‹_›) (fun _ => State.recheck_keeps ‹_›)
    · assumption

theorem State.settleStat_keeps {s0 s : State} {a2} (h : Keeps s0 s) : Keeps s0 (s.settleStat a2) := by
  unfold State.settleStat
  exact State.wfs_keeps ‹_›

theorem State.settleSet_keeps {s0 s : State} {a2} (h : Keeps s0 s) : Keeps s0 (s.settleSet a2) := by
  unfold State.settleSet
  extract_lets +onlyGivenNames x1 x2 x3 x4
  clear_value x1 x2 x3 x4
  refine Keeps.ite (fun _ => ?_) (fun _ => ?_)
  · exact State.reply_keeps ‹_›
  · refine Keeps.ite (fun _ => ?_) (fun _ => ?_)
    · exact State.reply_keeps ‹_›
    · extract_lets +onlyGivenNames x5 x6 x7 x8 x9
      have hx8 : Keeps s0 x8 := Keeps.foldl (fun t y ht => State.applied_keeps ‹_›) _ _ ‹_›
      have hx9 : Keeps s0 x9 := Keeps.record ‹_› rfl rfl rfl
      clear_value x5 x6 x7 x8 x9
      exact State.reply_keeps (State.settleStat_keeps ‹_›)

theorem State.settleChange_keeps {s0 s : State} {a2} {a3} (h : Keeps s0 s) : Keeps s0 (s.settleChange a2 a3) :=
    by
  unfold State.settleChange
  split
  · assumption
  · exact Keeps.ite (fun _ => ‹_›) (fun _ => State.applied_keeps (State.settleStat_keeps (Keeps.record (State.wf_keeps
        ‹_›) rfl rfl rfl)))

theorem State.quietEnd_keeps {s0 s : State} {a2} {a3} (h : Keeps s0 s) : Keeps s0 (s.quietEnd a2 a3) := by
  unfold State.quietEnd
  split
  · assumption
  · exact Keeps.ite (fun _ => ‹_›) (fun _ => State.settleStat_keeps (Keeps.record ‹_› rfl rfl rfl))

theorem State.txSlot_keeps {s0 s : State} {a2} {a3} {a4} (h : Keeps s0 s) : Keeps s0 (s.txSlot a2 a3 a4) := by
  unfold State.txSlot
  refine Keeps.ite (fun _ => ?_) (fun _ => ?_)
  · assumption
  · refine Keeps.ite (fun _ => ?_) (fun _ => ?_)
    · split
      · exact Keeps.ite (fun _ => State.fillBurst_keeps ‹_›) (fun _ => ‹_›)
      · assumption
    · refine Keeps.ite (fun _ => ?_) (fun _ => ?_)
      · extract_lets +onlyGivenNames x1
        clear_value x1
        split
        · exact Keeps.ite (fun _ => State.fillBurst_keeps ‹_›) (fun _ => ‹_›)
        · assumption
      · exact Keeps.ite (fun _ => ‹_›) (fun _ => State.fillBurst_keeps ‹_›)

theorem State.expectBurst_keeps {s0 s : State} {a2} {a3} {a4} (h : Keeps s0 s) : Keeps s0 (s.expectBurst a2 a3
    a4) := by
  unfold State.expectBurst
  split
  · exact Keeps.ite (fun _ => State.setLink_keeps ‹_›) (fun _ => ‹_›)
  · assumption

theorem State.porchSlot_keeps {s0 s : State} {a2} {a3} (h : Keeps s0 s) : Keeps s0 (s.porchSlot a2 a3) := by
  unfold State.porchSlot
  exact Keeps.ite (fun _ => State.fillBurst_keeps ‹_›) (fun _ => ‹_›)

theorem State.undark_keeps {s0 s : State} {a2} {a3} (h : Keeps s0 s) : Keeps s0 (s.undark a2 a3) := by
  unfold State.undark
  exact Keeps.ite (fun _ => State.setCsm_keeps ‹_›) (fun _ => ‹_›)

theorem State.slotBoundary_keeps {s0 s : State} {a2} (h : Keeps s0 s) : Keeps s0 (s.slotBoundary a2) := by
  unfold State.slotBoundary
  refine Keeps.ite (fun _ => ?_) (fun _ => ?_)
  · assumption
  · extract_lets +onlyGivenNames x1 x2 x3 x4
    have hx1 : Keeps s0 x1 := State.flushOutbox_keeps ‹_›
    have hx2 : Keeps s0 x2 := Keeps.foldl (fun t y ht => State.undark_keeps ‹_›) _ _ ‹_›
    have hx3 : Keeps s0 x3 := Keeps.foldl (fun t y ht => Keeps.foldl (fun t y ht => State.txSlot_keeps ‹_›) _ _ ‹_›) _
        _ ‹_›
    have hx4 : Keeps s0 x4 := Keeps.foldl (fun t y ht => Keeps.foldl (fun t y ht => State.expectBurst_keeps ‹_›) _ _
        ‹_›) _ _ ‹_›
    clear_value x1 x2 x3 x4
    exact Keeps.foldl (fun t y ht => State.porchSlot_keeps ‹_›) _ _ ‹_›

theorem State.laneResult_keeps {s0 s : State} {a2} {a3} {a4} {a5} (h : Keeps s0 s) : Keeps s0 (s.laneResult a2
    a3 a4 a5) := by
  unfold State.laneResult
  exact State.satf_keeps (State.wf_keeps (State.satf_keeps (State.satf_keeps (State.satf_keeps (State.satf_keeps
      ‹_›)))))

theorem State.dataMiss_keeps {s0 s : State} {a2} {a3} {a4} (h : Keeps s0 s) : Keeps s0 (s.dataMiss a2 a3 a4) :=
    by
  unfold State.dataMiss
  extract_lets +onlyGivenNames x1 x2 x3
  have hx3 : Keeps s0 x3 := State.setCsm_keeps ‹_›
  clear_value x1 x2 x3
  exact Keeps.ite (fun _ => State.note_keeps (State.wf_keeps ‹_›)) (fun _ => ‹_›)

theorem State.dataHit_keeps {s0 s : State} {a2} {a3} (h : Keeps s0 s) : Keeps s0 (s.dataHit a2 a3) := by
  unfold State.dataHit
  exact State.wf_keeps (State.setCsm_keeps ‹_›)

theorem State.burst_keeps {s0 s : State} {a2} {a3} {a4} {a5} (h : Keeps s0 s) : Keeps s0 (s.burst a2 a3 a4 a5)
    := by
  unfold State.burst
  split
  · assumption
  · extract_lets +onlyGivenNames x1 x2
    clear_value x1 x2
    refine Keeps.ite (fun _ => ?_) (fun _ => ?_)
    · assumption
    · split
      · exact Keeps.ite (fun _ => State.dataMiss_keeps (State.satf_keeps ‹_›)) (fun _ => ‹_›)
      · refine Keeps.ite (fun _ => ?_) (fun _ => ?_)
        · exact Keeps.ite (fun _ => State.dataMiss_keeps (State.satf_keeps ‹_›)) (fun _ => ‹_›)
        · extract_lets +onlyGivenNames x3 x4
          have hx4 : Keeps s0 x4 := State.setLink_keeps ‹_›
          clear_value x3 x4
          refine Keeps.ite (fun _ => ?_) (fun _ => ?_)
          · exact State.satf_keeps ‹_›
          · extract_lets +onlyGivenNames x5
            have hx5 : Keeps s0 x5 := Keeps.foldl (fun t y ht => State.laneResult_keeps ‹_›) _ _ ‹_›
            clear_value x5
            refine Keeps.ite (fun _ => ?_) (fun _ => ?_)
            · extract_lets +onlyGivenNames x6
              have hx6 : Keeps s0 x6 := State.satf_keeps ‹_›
              clear_value x6
              exact Keeps.ite (fun _ => State.dataMiss_keeps ‹_›) (fun _ => ‹_›)
            · exact Keeps.ite (fun _ => State.dataHit_keeps ‹_›) (fun _ => ‹_›)

theorem State.degraded_keeps {s0 s : State} {a2} {a3} {a4} (h : Keeps s0 s) : Keeps s0 (s.degraded a2 a3 a4) :=
    by
  unfold State.degraded
  extract_lets +onlyGivenNames x1 x2 x3 x4 x5
  have hx1 : Keeps s0 x1 := State.wf_keeps ‹_›
  clear_value x1 x2 x3 x4 x5
  exact Keeps.ite (fun _ => ‹_›) (fun _ => State.setCsm_keeps ‹_›)

theorem State.drawBytes_keeps {s0 s : State} {a2} (h : Keeps s0 s) : Keeps s0 (s.drawBytes a2).2 := by
  unfold State.drawBytes
  dsimp only
  exact Keeps.record ‹_› rfl rfl rfl

theorem State.runBlock_keeps {s0 s : State} {a2} {a3} {a4} (h : Keeps s0 s) : Keeps s0 (s.runBlock a2 a3 a4).1
    := by
  unfold State.runBlock
  extract_lets +onlyGivenNames x1 x2 x3 x4 x5 x6
  have hx5 : Keeps s0 x5 := State.wf_keeps ‹_›
  have hx6 : Keeps s0 x6 := State.wf_keeps ‹_›
  clear_value x1 x2 x3 x4 x5 x6
  dsimp only
  exact State.addf_keeps ‹_›

theorem State.runBlocks_keeps {s0 s : State} {a2} {a3} {a4} (h : Keeps s0 s) : Keeps s0 (s.runBlocks a2 a3
    a4).1 := by
  unfold State.runBlocks
  refine Keeps.foldl_fst (fun t y ht => ?_) _ _ ?_
  · extract_lets +onlyGivenNames x1
    have hx1 : Keeps s0 x1.1 := State.runBlock_keeps ‹_›
    clear_value x1
    dsimp only
    assumption
  · dsimp only
    assumption

theorem State.jobBlocks_keeps {s0 s : State} {a2} {a3} (h : Keeps s0 s) : Keeps s0 (s.jobBlocks a2 a3).2 := by
  unfold State.jobBlocks
  split
  · dsimp only
    assumption
  · extract_lets +onlyGivenNames x1
    have hx1 : Keeps s0 x1.2 := State.draw_keeps ‹_›
    clear_value x1
    dsimp only
    assumption

theorem State.tileFault_keeps {s0 s : State} {a2} {a3} {a4} (h : Keeps s0 s) : Keeps s0 (s.tileFault a2 a3 a4)
    := by
  unfold State.tileFault
  split
  · assumption
  · exact State.tileLost_keeps (State.unitFault_keeps ‹_›)

theorem State.writeResults_keeps {s0 s : State} {a2} {a3} {a4} {a5} {a6} (h : Keeps s0 s) : Keeps s0
    (s.writeResults a2 a3 a4 a5 a6) := by
  unfold State.writeResults
  refine Keeps.foldl (fun t y ht => ?_) _ _ ?_
  · extract_lets +onlyGivenNames x1
    clear_value x1
    refine Keeps.ite (fun _ => ?_) (fun _ => ?_)
    · extract_lets +onlyGivenNames x2
      have hx2 : Keeps s0 x2.2 := State.drawBytes_keeps ‹_›
      clear_value x2
      exact State.sramWrite_keeps ‹_›
    · exact State.sramWrite_keeps ‹_›
  · assumption

theorem State.flagsOr_keeps {s0 s : State} {a2} {a3} (h : Keeps s0 s) : Keeps s0 (s.flagsOr a2 a3).2 := by
  unfold State.flagsOr
  split
  · extract_lets +onlyGivenNames x1
    have hx1 : Keeps s0 x1.2 := State.draw_keeps ‹_›
    clear_value x1
    dsimp only
    assumption
  · dsimp only
    assumption

theorem State.runUntilUe_keeps {s0 s : State} {a2} {a3} {a4} {a5} {a6} {a7} (h : Keeps s0 s) : Keeps s0
    (s.runUntilUe a2 a3 a4 a5 a6 a7) := by
  unfold State.runUntilUe
  extract_lets +onlyGivenNames x1 x2
  have hx1 : Keeps s0 x1.2 := State.draw_keeps ‹_›
  have hx2 : Keeps s0 x2.1 := State.runBlocks_keeps ‹_›
  clear_value x1 x2
  exact State.sramUe_keeps (State.writeResults_keeps ‹_›)

theorem State.runMatrix_keeps {s0 s : State} {a2} {a3} {a4} {a5} {a6} {a7} (h : Keeps s0 s) : Keeps s0
    (s.runMatrix a2 a3 a4 a5 a6 a7) := by
  unfold State.runMatrix
  extract_lets +onlyGivenNames x1 x2 x3 x4
  have hx1 : Keeps s0 x1.2 := State.jobBlocks_keeps ‹_›
  have hx2 : Keeps s0 x2.1 := State.runBlocks_keeps ‹_›
  have hx3 : Keeps s0 x3 := State.writeResults_keeps ‹_›
  have hx4 : Keeps s0 x4.2 := State.flagsOr_keeps ‹_›
  clear_value x1 x2 x3 x4
  exact State.tileFault_keeps (State.runFlags_keeps ‹_›)

theorem State.matmulRun_keeps {s0 s : State} {a2} {a3} {a4} {a5} {a6} {a7} {a8} (h : Keeps s0 s) : Keeps s0
    (s.matmulRun a2 a3 a4 a5 a6 a7 a8) := by
  unfold State.matmulRun
  extract_lets +onlyGivenNames x1
  clear_value x1
  refine Keeps.ite (fun _ => ?_) (fun _ => ?_)
  · exact State.malformedStop_keeps ‹_›
  · extract_lets +onlyGivenNames x2 x3 x4
    have hx2 : Keeps s0 x2 := State.startHead_keeps ‹_›
    clear_value x2 x3 x4
    split
    · exact State.runUntilUe_keeps (Keeps.fst_eq ‹_› (State.sramErrs_keeps ‹_›))
    · exact State.runMatrix_keeps (Keeps.fst_eq ‹_› (State.sramErrs_keeps ‹_›))

theorem State.convRun_keeps {s0 s : State} {a2} {a3} {a4} {a5} {a6} {a7} {a8} (h : Keeps s0 s) : Keeps s0
    (s.convRun a2 a3 a4 a5 a6 a7 a8) := by
  unfold State.convRun
  extract_lets +onlyGivenNames x1 x2 x3 x4 x5 x6 x7 x8
  have hx2 : Keeps s0 x2 := State.startHead_keeps ‹_›
  have hx5 : Keeps s0 x5 := Keeps.ite (fun _ => Keeps.record ‹_› rfl rfl rfl) (fun _ => ‹_›)
  clear_value x1 x2 x3 x4 x5 x6 x7 x8
  split
  · exact State.runUntilUe_keeps (Keeps.fst_eq ‹_› (State.sramErrs_keeps ‹_›))
  · exact State.runMatrix_keeps (Keeps.fst_eq ‹_› (State.sramErrs_keeps ‹_›))

theorem State.attnStates_keeps {s0 s : State} {a2} {a3} {a4} {a5} (h : Keeps s0 s) : Keeps s0 (s.attnStates a2
    a3 a4 a5) := by
  unfold State.attnStates
  exact State.writeResults_keeps ‹_›

theorem State.vecFlags_keeps {s0 s : State} {a2} {a3} (h : Keeps s0 s) : Keeps s0 (s.vecFlags a2 a3) := by
  unfold State.vecFlags
  exact State.wf_keeps ‹_›

theorem State.setVecGen_keeps {s0 s : State} {a2} {a3} (h : Keeps s0 s) : Keeps s0 (s.setVecGen a2 a3) := by
  unfold State.setVecGen
  exact State.wf_keeps ‹_›

theorem State.laneFault_keeps {s0 s : State} {a2} {a3} {a4} {a5} (h : Keeps s0 s) : Keeps s0 (s.laneFault a2 a3
    a4 a5) := by
  unfold State.laneFault
  extract_lets +onlyGivenNames x1 x2 x3 x4
  have hx2 : Keeps s0 x2 := State.unitFault_keeps ‹_›
  have hx4 : Keeps s0 x4 := State.setBay_keeps ‹_›
  clear_value x1 x2 x3 x4
  exact Keeps.ite (fun _ => State.loseBay_keeps ‹_›) (fun _ => ‹_›)

theorem State.attnOut_keeps {s0 s : State} {a2} {a3} {a4} {a5} {a6} {a7} {a8} {a9} {a10} (h : Keeps s0 s) : Keeps s0
    (s.attnOut a2 a3 a4 a5 a6 a7 a8 a9 a10).1 := by
  unfold State.attnOut
  extract_lets +onlyGivenNames x1 x2 x3
  have hx2 : Keeps s0 x2.1 := State.runBlocks_keeps ‹_›
  have hx3 : Keeps s0 x3 := State.attnStates_keeps ‹_›
  clear_value x1 x2 x3
  split
  · extract_lets +onlyGivenNames x4 x5
    have hx5 : Keeps s0 x5 := State.vecFlags_keeps (State.setVecGen_keeps ‹_›)
    clear_value x4 x5
    dsimp only
    exact State.writeResults_keeps ‹_›
  · dsimp only
    exact State.writeResults_keeps ‹_›

theorem State.attnRun_keeps {s0 s : State} {a2} {a3} {a4} {a5} {a6} {a7} {a8} {a9} {a10} (h : Keeps s0 s) : Keeps s0
    (s.attnRun a2 a3 a4 a5 a6 a7 a8 a9 a10) := by
  unfold State.attnRun
  extract_lets +onlyGivenNames x1 x2 x3 x4 x5 x6
  have hx4 : Keeps s0 x4.2 := State.jobBlocks_keeps ‹_›
  have hx5 : Keeps s0 x5.1 := State.runBlocks_keeps ‹_›
  have hx6 : Keeps s0 x6 := ‹_›
  clear_value x1 x2 x3 x4 x5 x6
  split
  · exact State.tileFault_keeps ‹_›
  · exact State.laneFault_keeps ‹_›
  · extract_lets +onlyGivenNames x7 x8 x9 x10 x11 x12 x13
    have hx11 : Keeps s0 x11 := State.vecFlags_keeps (State.setVecGen_keeps ‹_›)
    have hx12 : Keeps s0 x12.1 := State.attnOut_keeps ‹_›
    have hx13 : Keeps s0 x13.2 := State.flagsOr_keeps ‹_›
    clear_value x7 x8 x9 x10 x11 x12 x13
    exact State.runFlags_keeps ‹_›

theorem State.attnStart_keeps {s0 s : State} {a2} {a3} {a4} (h : Keeps s0 s) : Keeps s0 (s.attnStart a2 a3 a4)
    := by
  unfold State.attnStart
  extract_lets +onlyGivenNames x1
  clear_value x1
  split
  · extract_lets +onlyGivenNames x2
    have hx2 : Keeps s0 x2 := State.startHead_keeps (State.startHead_keeps ‹_›)
    clear_value x2
    split
    · exact State.sramUe_keeps (Keeps.fst_eq ‹_› (State.sramErrs_keeps ‹_›))
    · exact State.attnRun_keeps (Keeps.fst_eq ‹_› (State.sramErrs_keeps ‹_›))
  · assumption

theorem State.vset_keeps {s0 s : State} {a2} {a3} {a4} (h : Keeps s0 s) : Keeps s0 (s.vset a2 a3 a4) := by
  unfold State.vset
  exact State.setBay_keeps ‹_›

theorem State.microResult_keeps {s0 s : State} {a2} {a3} {a4} {a5} (h : Keeps s0 s) : Keeps s0 (s.microResult
    a2 a3 a4 a5) := by
  unfold State.microResult
  exact State.vecFlags_keeps (State.vset_keeps ‹_›)

theorem State.setCtx_keeps {s0 s : State} {a2} {a3} (h : Keeps s0 s) : Keeps s0 (s.setCtx a2 a3) := by
  unfold State.setCtx
  exact State.setBay_keeps ‹_›

theorem State.nextMicro_keeps {s0 s : State} {a2} (h : Keeps s0 s) : Keeps s0 (s.nextMicro a2) := by
  unfold State.nextMicro
  exact State.setCtx_keeps ‹_›

theorem State.microLanes_keeps {s0 s : State} {a2} {a3} {a4} {a5} (h : Keeps s0 s) : Keeps s0 (s.microLanes a2
    a3 a4 a5) := by
  unfold State.microLanes
  exact State.microResult_keeps (State.setVecGen_keeps ‹_›)

theorem State.microSum_keeps {s0 s : State} {a2} {a3} {a4} {a5} (h : Keeps s0 s) : Keeps s0 (s.microSum a2 a3
    a4 a5) := by
  unfold State.microSum
  exact State.microResult_keeps (State.setVecGen_keeps ‹_›)

theorem State.microPick_keeps {s0 s : State} {a2} {a3} {a4} (h : Keeps s0 s) : Keeps s0 (s.microPick a2 a3 a4)
    := by
  unfold State.microPick
  exact State.microResult_keeps ‹_›

theorem State.microMap_keeps {s0 s : State} {a2} {a3} {a4} (h : Keeps s0 s) : Keeps s0 (s.microMap a2 a3 a4) :=
    by
  unfold State.microMap
  exact State.microResult_keeps ‹_›

theorem State.advance_keeps {s0 s : State} {a2} {a3} (h : Keeps s0 s) : Keeps s0 (s.advance a2 a3) := by
  unfold State.advance
  exact State.setCtx_keeps ‹_›

theorem State.microLoad_keeps {s0 s : State} {a2} {a3} (h : Keeps s0 s) : Keeps s0 (s.microLoad a2 a3) := by
  unfold State.microLoad
  exact State.advance_keeps (State.microMap_keeps ‹_›)

theorem State.microStore_keeps {s0 s : State} {a2} {a3} {a4} {a5} (h : Keeps s0 s) : Keeps s0 (s.microStore a2
    a3 a4 a5) := by
  unfold State.microStore
  exact State.advance_keeps (State.sramWrite_keeps (State.vecFlags_keeps (State.setVecGen_keeps ‹_›)))

theorem State.microGather_keeps {s0 s : State} {a2} {a3} (h : Keeps s0 s) : Keeps s0 (s.microGather a2 a3) :=
    by
  unfold State.microGather
  exact State.microMap_keeps ‹_›

theorem State.microRand_keeps {s0 s : State} {a2} {a3} (h : Keeps s0 s) : Keeps s0 (s.microRand a2 a3) := by
  unfold State.microRand
  exact State.microResult_keeps (State.setVecGen_keeps ‹_›)

theorem State.microData_keeps {s0 s : State} {a2} {a3} {a4} {a5} (h : Keeps s0 s) : Keeps s0 (s.microData a2 a3
    a4 a5) := by
  unfold State.microData
  extract_lets +onlyGivenNames x1
  clear_value x1
  refine Keeps.ite (fun _ => ?_) (fun _ => ?_)
  · exact State.microLanes_keeps ‹_›
  · split
    · exact State.microSum_keeps ‹_›
    · exact State.microPick_keeps ‹_›
    · exact State.microPick_keeps ‹_›
    · exact State.microMap_keeps ‹_›
    · exact State.microMap_keeps ‹_›
    · exact State.microMap_keeps ‹_›
    · exact State.microMap_keeps ‹_›
    · exact State.microMap_keeps ‹_›
    · exact State.microLoad_keeps ‹_›
    · exact State.microStore_keeps ‹_›
    · exact State.microGather_keeps ‹_›
    · exact State.microRand_keeps ‹_›
    · assumption

theorem State.micro_keeps {s0 s : State} {a2} {a3} {a4} {a5} (h : Keeps s0 s) : Keeps s0 (s.micro a2 a3 a4 a5)
    := by
  unfold State.micro
  split
  · exact State.setCtx_keeps ‹_›
  · exact State.setCtx_keeps ‹_›
  · exact State.setCtx_keeps ‹_›
  · exact State.nextMicro_keeps (State.microData_keeps ‹_›)

theorem State.microCmd_keeps {s0 s : State} {a2} {a3} (h : Keeps s0 s) : Keeps s0 (s.microCmd a2 a3) := by
  unfold State.microCmd
  split
  · exact State.laneFault_keeps ‹_›
  · exact State.micro_keeps ‹_›

theorem State.vecGroup_keeps {s0 s : State} {a2} {a3} {a4} {a5} {a6} {a7} {a8} {a9} {a10} {a11} {a12} (h : Keeps s0 s)
    : Keeps s0 (s.vecGroup a2 a3 a4 a5 a6 a7 a8 a9 a10 a11 a12).1 := by
  unfold State.vecGroup
  extract_lets +onlyGivenNames x1 x2 x3 x4 x5 x6 x7 x8 x9 x10 x11 x12
  have hx6 : Keeps s0 x6 := State.setVecGen_keeps ‹_›
  have hx10 : Keeps s0 x10.2 := State.drawBytes_keeps ‹_›
  have hx11 : Keeps s0 x11 := Keeps.ite (fun _ => State.sramWrite_keeps ‹_›) (fun _ => State.sramWrite_keeps ‹_›)
  have hx12 : Keeps s0 x12.2 := State.flagsOr_keeps ‹_›
  clear_value x1 x2 x3 x4 x5 x6 x7 x8 x9 x10 x11 x12
  dsimp only
  exact State.vecFlags_keeps ‹_›

theorem State.vecGroups_keeps {s0 s : State} {a2} {a3} {a4} {a5} {a6} {a7} {a8} {a9} {a10} (h : Keeps s0 s) : Keeps s0
    (s.vecGroups a2 a3 a4 a5 a6 a7 a8 a9 a10).1 := by
  unfold State.vecGroups
  refine Keeps.foldl_fst (fun t y ht => ?_) _ _ ?_
  · extract_lets +onlyGivenNames x1
    have hx1 : Keeps s0 x1.1 := State.vecGroup_keeps ‹_›
    clear_value x1
    dsimp only
    assumption
  · dsimp only
    assumption

theorem State.vecStop_keeps {s0 s : State} {a2} {a3} {a4} (h : Keeps s0 s) : Keeps s0 (s.vecStop a2 a3 a4) :=
    by
  unfold State.vecStop
  split
  · exact State.sramUe_keeps ‹_›
  · exact State.laneFault_keeps ‹_›
  · assumption

theorem State.vecRun_keeps {s0 s : State} {a2} {a3} {a4} {a5} {a6} {a7} {a8} (h : Keeps s0 s) : Keeps s0
    (s.vecRun a2 a3 a4 a5 a6 a7 a8) := by
  unfold State.vecRun
  extract_lets +onlyGivenNames x1 x2 x3 x4 x5 x6
  have hx2 : Keeps s0 x2.1 := State.sramErrs_keeps ‹_›
  have hx4 : Keeps s0 x4.2 := by
    unfold x4
    split
    · exact State.draw_keeps ‹_›
    · dsimp only
      assumption
  have hx6 : Keeps s0 x6.1 := State.vecGroups_keeps ‹_›
  clear_value x1 x2 x3 x4 x5 x6
  exact State.vecStop_keeps (State.runFlags_keeps ‹_›)

theorem State.runMicro_keeps {s0 : State} {a3 : BayId} {a4 : List W32} {a5 : RMode} {a6 : Bool} : ∀ {a1 : Nat} {s : State},
    Keeps s0 s → Keeps s0 (State.runMicro a1 s a3 a4 a5 a6)
  | 0, _, h => h
  | _ + 1, s, h => by
    unfold State.runMicro
    exact Keeps.ite (fun _ => h) fun _ => State.runMicro_keeps (State.micro_keeps h)

theorem State.runProgram_keeps {s0 s : State} {a2} {a3} {a4} {a5} (h : Keeps s0 s) : Keeps s0 (s.runProgram a2
    a3 a4 a5) := by
  unfold State.runProgram
  exact State.runFlags_keeps (State.wf_keeps (State.runMicro_keeps (State.wf_keeps ‹_›)))

theorem State.vecMicroRun_keeps {s0 s : State} {a2} {a3} {a4} (h : Keeps s0 s) : Keeps s0 (s.vecMicroRun a2 a3
    a4) := by
  unfold State.vecMicroRun
  extract_lets +onlyGivenNames x1 x2 x3 x4 x5 x6
  have hx3 : Keeps s0 x3 := State.setCtx_keeps ‹_›
  have hx4 : Keeps s0 x4.1 := State.sramErrs_keeps ‹_›
  have hx6 : Keeps s0 x6.2 := by
    unfold x6
    split
    · exact State.draw_keeps ‹_›
    · dsimp only
      assumption
  clear_value x1 x2 x3 x4 x5 x6
  exact State.vecStop_keeps (State.runProgram_keeps ‹_›)

theorem State.setDataGen_keeps {s0 s : State} {a2} {a3} (h : Keeps s0 s) : Keeps s0 (s.setDataGen a2 a3) := by
  unfold State.setDataGen
  exact State.wf_keeps ‹_›

theorem State.sramPut_keeps {s0 s : State} {a2} {a3} {a4} {a5} (h : Keeps s0 s) : Keeps s0 (s.sramPut a2 a3 a4
    a5) := by
  unfold State.sramPut
  refine Keeps.ite (fun _ => ?_) (fun _ => ?_)
  · extract_lets +onlyGivenNames x1
    have hx1 : Keeps s0 x1.2 := State.drawBytes_keeps ‹_›
    clear_value x1
    exact State.sramWrite_keeps ‹_›
  · exact State.sramWrite_keeps ‹_›

theorem State.partDone_keeps {s0 s : State} {a2} {a3} {a4} (h : Keeps s0 s) : Keeps s0 (s.partDone a2 a3 a4).2
    := by
  unfold State.partDone
  split
  · dsimp only
    assumption
  · extract_lets +onlyGivenNames x1
    have hx1 : Keeps s0 x1.2 := State.draw_keeps ‹_›
    clear_value x1
    dsimp only
    assumption

theorem State.dataUe_keeps {s0 s : State} {a2} {a3} (h : Keeps s0 s) : Keeps s0 (s.dataUe a2 a3) := by
  unfold State.dataUe
  split
  · exact State.sramUe_keeps ‹_›
  · assumption

theorem State.convertRun_keeps {s0 s : State} {a2} {a3} {a4} {a5} {a6} {a7} (h : Keeps s0 s) : Keeps s0
    (s.convertRun a2 a3 a4 a5 a6 a7) := by
  unfold State.convertRun
  extract_lets +onlyGivenNames x1 x2 x3 x4 x5 x6 x7 x8
  have hx1 : Keeps s0 x1.1 := State.sramErrs_keeps ‹_›
  have hx2 : Keeps s0 x2.2 := State.partDone_keeps ‹_›
  have hx3 : Keeps s0 x3 := ‹_›
  have hx6 : Keeps s0 x6 := State.sramPut_keeps (State.setDataGen_keeps ‹_›)
  have hx7 : Keeps s0 x7 := State.sramPut_keeps ‹_›
  have hx8 : Keeps s0 x8.2 := State.flagsOr_keeps ‹_›
  clear_value x1 x2 x3 x4 x5 x6 x7 x8
  exact State.dataUe_keeps (State.runFlags_keeps ‹_›)

theorem State.reduceRun_keeps {s0 s : State} {a2} {a3} {a4} {a5} {a6} {a7} (h : Keeps s0 s) : Keeps s0
    (s.reduceRun a2 a3 a4 a5 a6 a7) := by
  unfold State.reduceRun
  extract_lets +onlyGivenNames x1 x2 x3 x4 x5 x6 x7
  have hx1 : Keeps s0 x1.1 := State.sramErrs_keeps ‹_›
  have hx2 : Keeps s0 x2.2 := State.partDone_keeps ‹_›
  have hx3 : Keeps s0 x3 := ‹_›
  have hx6 : Keeps s0 x6 := State.sramPut_keeps (State.setDataGen_keeps ‹_›)
  have hx7 : Keeps s0 x7.2 := State.flagsOr_keeps ‹_›
  clear_value x1 x2 x3 x4 x5 x6 x7
  exact State.dataUe_keeps (State.runFlags_keeps ‹_›)

theorem State.setLarderWays_keeps {s0 s : State} {a2} {a3} {a4} (h : Keeps s0 s) : Keeps s0 (s.setLarderWays a2
    a3 a4) := by
  unfold State.setLarderWays
  exact Keeps.record ‹_› rfl rfl rfl

theorem State.larderGet_keeps {s0 s : State} {a2} {a3} (h : Keeps s0 s) : Keeps s0 (s.larderGet a2 a3).1 := by
  unfold State.larderGet
  extract_lets +onlyGivenNames x1
  clear_value x1
  split
  · dsimp only
    exact State.addf_keeps (State.setLarderWays_keeps ‹_›)
  · dsimp only
    exact State.addf_keeps ‹_›

theorem State.larderFill_keeps {s0 s : State} {a2} {a3} {a4} (h : Keeps s0 s) : Keeps s0 (s.larderFill a2 a3
    a4) := by
  unfold State.larderFill
  exact State.setLarderWays_keeps ‹_›

theorem State.larderEnable_keeps {s0 s : State} {a2} {a3} (h : Keeps s0 s) : Keeps s0 (s.larderEnable a2 a3) :=
    by
  unfold State.larderEnable
  exact Keeps.record (State.wf_keeps ‹_›) rfl rfl rfl

theorem State.land_keeps {s0 s : State} {a2} {a3} {a4} (h : Keeps s0 s) : Keeps s0 (s.land a2 a3 a4) := by
  unfold State.land
  split
  · exact State.setBay_keeps ‹_›
  · exact State.runFlags_keeps (State.sramPut_keeps (State.setDataGen_keeps ‹_›))
  · exact State.sramPut_keeps ‹_›

theorem State.sendReq_keeps {s0 s : State} {a2} (h : Keeps s0 s) : Keeps s0 (s.sendReq a2).1 := by
  unfold State.sendReq
  split
  · dsimp only
    assumption
  · extract_lets +onlyGivenNames x1 x2 x3
    have hx2 : Keeps s0 x2 := Keeps.record ‹_› rfl rfl rfl
    have hx3 : Keeps s0 x3 := State.linkPut_keeps ‹_›
    clear_value x2 x3
    dsimp only
    exact Keeps.ite (fun _ => State.setBay_keeps ‹_›) (fun _ => ‹_›)

theorem State.dataStatus_keeps {s0 s : State} {a2} {a3} (h : Keeps s0 s) : Keeps s0 (s.dataStatus a2 a3) := by
  unfold State.dataStatus
  exact State.setBay_keeps ‹_›

theorem State.dataError_keeps {s0 s : State} {a2} {a3} (h : Keeps s0 s) : Keeps s0 (s.dataError a2 a3) := by
  unfold State.dataError
  split
  · exact State.unitFault_keeps ‹_›
  · exact State.unitFault_keeps ‹_›
  · exact State.unitFault_keeps ‹_›
  · extract_lets +onlyGivenNames x1
    have hx1 : Keeps s0 x1 := State.fenceBays_keeps (State.dataStatus_keeps ‹_›)
    clear_value x1
    exact Keeps.ite (fun _ => State.stopBay_keeps ‹_›) (fun _ => ‹_›)
  · extract_lets +onlyGivenNames x2
    have hx2 : Keeps s0 x2 := State.memFault_keeps (State.dataStatus_keeps ‹_›)
    clear_value x2
    exact Keeps.ite (fun _ => State.stopBay_keeps ‹_›) (fun _ => ‹_›)

theorem State.landRes_keeps {s0 s : State} {a2} {a3} {a4} {a5} (h : Keeps s0 s) : Keeps s0 (s.landRes a2 a3 a4
    a5).1 := by
  unfold State.landRes
  split
  · dsimp only
    exact State.land_keeps ‹_›
  · dsimp only
    assumption
  · dsimp only
    assumption

theorem State.readPiece_keeps {s0 s : State} {a2} {a3} {a4} {a5} {a6} (h : Keeps s0 s) : Keeps s0 (s.readPiece
    a2 a3 a4 a5 a6).1 := by
  unfold State.readPiece
  extract_lets +onlyGivenNames x1
  clear_value x1
  split
  · dsimp only
    assumption
  · split
    · extract_lets +onlyGivenNames x2 x3
      have hx3 : Keeps s0 x3.1 := State.larderGet_keeps ‹_›
      clear_value x2 x3
      split
      · dsimp only
        exact State.land_keeps ‹_›
      · split
        · extract_lets +onlyGivenNames x4 x5 x6
          have hx6 : Keeps s0 x6.1 := State.sendReq_keeps ‹_›
          clear_value x4 x5 x6
          split
          · dsimp only
            assumption
          · dsimp only
            assumption
        · extract_lets +onlyGivenNames x7
          have hx7 : Keeps s0 x7.1 := State.arrayRead_keeps ‹_›
          clear_value x7
          split
          · dsimp only
            exact State.land_keeps (State.larderFill_keeps ‹_›)
          · exact State.landRes_keeps ‹_›
    · split
      · extract_lets +onlyGivenNames x8 x9 x10 x11 x12
        have hx12 : Keeps s0 x12.1 := State.sendReq_keeps ‹_›
        clear_value x8 x9 x10 x11 x12
        split
        · dsimp only
          assumption
        · dsimp only
          assumption
      · extract_lets +onlyGivenNames x13
        have hx13 : Keeps s0 x13.1 := State.arrayRead_keeps ‹_›
        clear_value x13
        exact State.landRes_keeps ‹_›

theorem State.readPieces_keeps {s0 : State} {a1 : BayId} {a2 : List MemErr} {a3 : Landing} {a4 : Nat} :
    ∀ {a5 : List (Nat × Nat)} {s : State}, Keeps s0 s → Keeps s0 (State.readPieces a1 a2 a3 a4 a5 s).1
  | [], _, h => h
  | (a, n) :: rest, s, h => by
    unfold State.readPieces
    split
    · exact h
    · extract_lets r
      have hr : Keeps s0 r.1 := State.readPiece_keeps h
      clear_value r
      split
      · exact State.readPieces_keeps hr
      · exact hr

theorem State.readRow_keeps {s0 s : State} {a2} {a3} {a4} {a5} {a6} (h : Keeps s0 s) : Keeps s0 (s.readRow a2
    a3 a4 a5 a6).1 := by
  unfold State.readRow
  exact State.readPieces_keeps ‹_›

theorem State.readRows_keeps {s0 : State} {a1 : BayId} {a2 : List MemErr} : ∀ {a3 : List (Nat × Nat × Landing)} {s : State},
    Keeps s0 s → Keeps s0 (State.readRows a1 a2 a3 s).1
  | [], _, h => h
  | (a, n, t) :: rest, s, h => by
    unfold State.readRows
    extract_lets r
    have hr : Keeps s0 r.1 := State.readRow_keeps h
    clear_value r
    split
    · exact State.readRows_keeps hr
    · exact hr

theorem State.settleRead_keeps {s0 s : State} {a2} {a3} (h : Keeps s0 s) : Keeps s0 (s.settleRead a2 a3) := by
  unfold State.settleRead
  split
  · assumption
  · exact State.dataError_keeps ‹_›

theorem State.placeProgram_keeps {s0 s : State} {a2} (h : Keeps s0 s) : Keeps s0 (s.placeProgram a2) := by
  unfold State.placeProgram
  split
  · assumption
  · extract_lets +onlyGivenNames x1
    clear_value x1
    refine Keeps.ite (fun _ => ?_) (fun _ => ?_)
    · assumption
    · extract_lets +onlyGivenNames x2
      clear_value x2
      split
      · exact State.wf_keeps (State.setBay_keeps ‹_›)
      · exact State.malformedStop_keeps (State.setBay_keeps ‹_›)

theorem State.storeBytes_keeps {s0 s : State} {a2} {a3} {a4} {a5} (h : Keeps s0 s) : Keeps s0 (s.storeBytes a2
    a3 a4 a5).1 := by
  unfold State.storeBytes
  extract_lets +onlyGivenNames x1
  clear_value x1
  split
  · extract_lets +onlyGivenNames x2
    clear_value x2
    dsimp only
    exact State.runFlags_keeps (State.setDataGen_keeps ‹_›)
  · dsimp only
    assumption

theorem State.jrnlCommit_keeps {s0 s : State} {a2} {a3} (h : Keeps s0 s) : Keeps s0 (s.jrnlCommit a2 a3) := by
  unfold State.jrnlCommit
  exact State.memStore_keeps ‹_›

theorem State.writeRow_keeps {s0 s : State} {a2} {a3} {a4} {a5} (h : Keeps s0 s) : Keeps s0 (s.writeRow a2 a3
    a4 a5).1 := by
  unfold State.writeRow
  extract_lets +onlyGivenNames x1 x2
  have hx2 : Keeps s0 x2.1 := State.storeBytes_keeps ‹_›
  clear_value x1 x2
  split
  · split
    · dsimp only
      exact State.localWrite_keeps ‹_› ‹_›
    · dsimp only
      assumption
    · dsimp only
      assumption
    · dsimp only
      assumption
  · split
    · dsimp only
      assumption
    · refine Keeps.foldl_fst (fun t y ht => ?_) _ _ ?_
      · split
        · dsimp only
          assumption
        · extract_lets +onlyGivenNames x3
          have hx3 : Keeps s0 x3.1 := State.sendReq_keeps ‹_›
          clear_value x3
          split
          · dsimp only
            assumption
          · dsimp only
            assumption
      · dsimp only
        assumption

theorem State.preImage_keeps {s0 s : State} {a2} {a3} {a4} {a5} {a6} (h : Keeps s0 s) : Keeps s0 (s.preImage a2
    a3 a4 a5 a6).1 := by
  unfold State.preImage
  extract_lets +onlyGivenNames x1 x2 x3
  clear_value x1 x2 x3
  split
  · dsimp only
    assumption
  · split
    · dsimp only
      assumption
    · dsimp only
      assumption
    · split
      · extract_lets +onlyGivenNames x4
        have hx4 : Keeps s0 x4.1 := State.arrayRead_keeps (State.engineWrite_keeps ‹_› ‹_›)
        clear_value x4
        split
        · dsimp only
          assumption
        · dsimp only
          assumption
        · split
          · dsimp only
            exact State.jrnlCommit_keeps (State.engineWrite_keeps ‹_› ‹_›)
          · dsimp only
            assumption
          · dsimp only
            assumption
      · split
        · dsimp only
          exact State.engineWrite_keeps ‹_› ‹_›
        · extract_lets +onlyGivenNames x5
          have hx5 : Keeps s0 x5.1 := by
            unfold x5
            refine Keeps.foldl_fst (fun t y ht => ?_) _ _ ?_
            · split
              · dsimp only
                assumption
              · extract_lets +onlyGivenNames x6 x7
                have hx7 : Keeps s0 x7.1 := State.sendReq_keeps ‹_›
                clear_value x6 x7
                split
                · dsimp only
                  assumption
                · dsimp only
                  assumption
            · dsimp only
              exact State.engineWrite_keeps ‹_› ‹_›
          clear_value x5
          dsimp only
          assumption

theorem State.storeRows_keeps {s0 : State} {a1 : BayId} {a2 : List MemErr} {a3 : Desc} {a4 : MoveD} :
    ∀ {a5 a6 : Nat} {s : State}, Keeps s0 s → Keeps s0 (State.storeRows a1 a2 a3 a4 a5 a6 s).1
  | 0, _, _, h => h
  | _ + 1, r, s, h => by
    unfold State.storeRows
    split
    · exact h
    · extract_lets p o
      have hp : Keeps s0 p.1 := by
        unfold p
        split
        · exact State.preImage_keeps h
        · exact h
      have ho : Keeps s0 o.1 := State.writeRow_keeps hp
      clear_value o
      clear_value p
      split
      · exact hp
      · exact hp
      · split
        · exact ho
        · exact State.storeRows_keeps ho

theorem State.storeStart_keeps {s0 s : State} {a2} {a3} {a4} (h : Keeps s0 s) : Keeps s0 (s.storeStart a2 a3
    a4) := by
  unfold State.storeStart
  extract_lets +onlyGivenNames x1 x2
  have hx2 : Keeps s0 x2 := State.startHead_keeps ‹_›
  clear_value x1 x2
  refine Keeps.ite (fun _ => ?_) (fun _ => ?_)
  · exact State.dataError_keeps ‹_›
  · extract_lets +onlyGivenNames x3 x4 x5
    have hx3 : Keeps s0 x3.1 := State.sramErrs_keeps ‹_›
    have hx4 : Keeps s0 x4.2 := State.partDone_keeps ‹_›
    have hx5 : Keeps s0 x5.1 := State.storeRows_keeps ‹_›
    clear_value x3 x4 x5
    split
    · exact State.dataUe_keeps ‹_›
    · exact State.dataError_keeps ‹_›

theorem State.selectRun_keeps {s0 s : State} {a2} {a3} {a4} (h : Keeps s0 s) : Keeps s0 (s.selectRun a2 a3 a4)
    := by
  unfold State.selectRun
  extract_lets +onlyGivenNames x1 x2 x3 x4 x5 x6 x7
  have hx4 : Keeps s0 x4.1 := State.sramErrs_keeps ‹_›
  have hx5 : Keeps s0 x5.2 := State.partDone_keeps ‹_›
  have hx7 : Keeps s0 x7.1 := State.readRows_keeps ‹_›
  clear_value x1 x2 x3 x4 x5 x6 x7
  split
  · exact State.dataError_keeps ‹_›
  · exact State.sramUe_keeps ‹_›
  · exact State.sramPut_keeps ‹_›

theorem State.remoteUe_keeps {s0 s : State} {a2} (h : Keeps s0 s) : Keeps s0 (s.remoteUe a2) := by
  unfold State.remoteUe
  extract_lets +onlyGivenNames x1
  have hx1 : Keeps s0 x1 := State.report_keeps (State.dataStatus_keeps ‹_›)
  clear_value x1
  exact Keeps.ite (fun _ => State.stopBay_keeps ‹_›) (fun _ => ‹_›)

theorem State.readAnswer_keeps {s0 s : State} {a2} {a3} (h : Keeps s0 s) : Keeps s0 (s.readAnswer a2 a3) := by
  unfold State.readAnswer
  extract_lets +onlyGivenNames x1 x2
  have hx2 : Keeps s0 x2 := by
    unfold x2
    split
    · exact State.larderFill_keeps ‹_›
    · assumption
  clear_value x1 x2
  split
  · exact State.placeProgram_keeps (State.land_keeps ‹_›)
  · split
    · exact State.dataError_keeps ‹_›
    · exact State.dataError_keeps ‹_›
    · refine Keeps.ite (fun _ => ?_) (fun _ => ?_)
      · exact State.engineWrite_keeps ‹_› ‹_›
      · extract_lets +onlyGivenNames x3 x4 x5 x6 x7
        have hx5 : Keeps s0 x5 := State.jrnlCommit_keeps (State.engineWrite_keeps ‹_› ‹_›)
        have hx6 : Keeps s0 x6.1 := State.writeRow_keeps ‹_›
        have hx7 : Keeps s0 x7.1 := by
          unfold x7
          split
          · exact State.storeRows_keeps ‹_›
          · dsimp only
            assumption
        clear_value x3 x4 x5 x6 x7
        exact State.settleRead_keeps ‹_›

theorem State.annexAnswer_keeps {s0 s : State} {a2} {a3} {a4} (h : Keeps s0 s) : Keeps s0 (s.annexAnswer a2 a3
    a4) := by
  unfold State.annexAnswer
  split
  · assumption
  · extract_lets +onlyGivenNames x1 x2
    have hx1 : Keeps s0 x1 := Keeps.record ‹_› rfl rfl rfl
    have hx2 : Keeps s0 x2 := State.reqAnswer_keeps ‹_›
    clear_value x1 x2
    exact Keeps.ite (fun _ => ‹_›) (fun _ => Keeps.ite (fun _ => State.remoteUe_keeps ‹_›) (fun _ => Keeps.ite (fun _
        => State.dataError_keeps ‹_›) (fun _ => Keeps.ite (fun _ => ‹_›) (fun _ => State.readAnswer_keeps ‹_›))))

theorem State.sendRestores_keeps {s0 s : State} (h : Keeps s0 s) : Keeps s0 (s.sendRestores) := by
  unfold State.sendRestores
  exact Keeps.foldl (fun t y ht => Keeps.ite (fun _ => Keeps.record ‹_› rfl rfl rfl) (fun _ => Keeps.foldl (fun t y ht
      => State.sendReq_keeps ‹_›) _ _ ‹_›)) _ _ (Keeps.record ‹_› rfl rfl rfl)

end Sys2Proof.Machine
end

