-- ==== Sys2Proof/Laws/KeepsHost.lean ====
section
/-!
SUPPORT. Sys2Proof/Laws/KeepsHost.lean: what the operations over the host bridge, recovery, steps and link training keep.
-/

set_option Elab.async false

namespace Sys2Proof.Machine

theorem State.evqOff_keeps {s0 s : State} {a2} (h : Keeps s0 s) : Keeps s0 (s.evqOff a2) := by
  unfold State.evqOff
  exact Keeps.record (State.dropQueue_keeps (State.setHreg_keeps (State.whf_keeps ‹_›))) rfl rfl rfl

theorem State.rearm_keeps {s0 s : State} {a2} (h : Keeps s0 s) : Keeps s0 (s.rearm a2) := by
  unfold State.rearm
  exact Keeps.ite (fun _ => State.whf_keeps ‹_›) (fun _ => State.msix_keeps ‹_›)

theorem State.drainEvq_keeps {s0 s : State} {a2} (h : Keeps s0 s) : Keeps s0 (s.drainEvq a2) := by
  unfold State.drainEvq
  exact State.noticeFrom_keeps (State.deliverAll_keeps ‹_›)

theorem State.evqCfgWrite_keeps {s0 s : State} {a2} {a3} (h : Keeps s0 s) : Keeps s0 (s.evqCfgWrite a2 a3) :=
    by
  unfold State.evqCfgWrite
  refine Keeps.ite (fun _ => ?_) (fun _ => ?_)
  · assumption
  · extract_lets +onlyGivenNames x1 x2 x3 x4
    have hx1 : Keeps s0 x1 := State.whf_keeps (State.whf_keeps ‹_›)
    have hx3 : Keeps s0 x3 := Keeps.ite (fun _ => State.evqOff_keeps ‹_›) (fun _ => State.whf_keeps ‹_›)
    have hx4 : Keeps s0 x4 := Keeps.ite (fun _ => State.rearm_keeps ‹_›) (fun _ => ‹_›)
    clear_value x1 x2 x3 x4
    exact Keeps.ite (fun _ => State.drainEvq_keeps ‹_›) (fun _ => ‹_›)

theorem State.evqHead_keeps {s0 s : State} {a2} {a3} (h : Keeps s0 s) : Keeps s0 (s.evqHead a2 a3) := by
  unfold State.evqHead
  exact Keeps.ite (fun _ => State.drainEvq_keeps (State.whf_keeps ‹_›)) (fun _ => ‹_›)

theorem State.recordFail_keeps {s0 s : State} {a2} {a3} {a4} (h : Keeps s0 s) : Keeps s0 (s.recordFail a2 a3
    a4) := by
  unfold State.recordFail
  split
  · exact State.raise_keeps ‹_›
  · exact State.raise_keeps ‹_›
  · exact Keeps.ite (fun _ => State.memFault_keeps ‹_›) (fun _ => State.raise_keeps ‹_›)
  · assumption

theorem State.peerAccess_keeps {s0 s : State} {a2} {a3} {a4} {a5} {a6} (h : Keeps s0 s) : Keeps s0 (State.peerAccess
    s a2 a3 a4 a5 a6).1 := by
  unfold State.peerAccess
  split
  · dsimp only
    assumption
  · split
    · dsimp only
      assumption
    · extract_lets +onlyGivenNames x1
      have hx1 : Keeps s0 x1 := Keeps.foldl (fun t y ht => State.sendReq_keeps ‹_›) _ _ ‹_›
      clear_value x1
      dsimp only
      assumption

theorem State.hostWrite_keeps {s0 s : State} {a2} {a3} {a4} (h : Keeps s0 s) : Keeps s0 (s.hostWrite a2 a3
    a4).1 := by
  unfold State.hostWrite
  split
  · exact State.peerAccess_keeps ‹_›
  · split
    · dsimp only
      exact State.localWrite_keeps ‹_› ‹_›
    · dsimp only
      assumption
    · dsimp only
      assumption
    · dsimp only
      assumption
    · dsimp only
      assumption

theorem State.hostRead_keeps {s0 s : State} {a2} {a3} {a4} {a5} (h : Keeps s0 s) : Keeps s0 (s.hostRead a2 a3
    a4 a5).1 := by
  unfold State.hostRead
  split
  · extract_lets +onlyGivenNames x1
    have hx1 : Keeps s0 x1.1 := State.peerAccess_keeps ‹_›
    clear_value x1
    split
    · dsimp only
      assumption
    · dsimp only
      assumption
  · extract_lets +onlyGivenNames x2 x3
    have hx3 : Keeps s0 x3.1 := State.arrayRead_keeps ‹_›
    clear_value x2 x3
    split
    · dsimp only
      assumption
    · dsimp only
      assumption
    · dsimp only
      assumption

theorem State.hatchAdvance_keeps {s0 s : State} {a2} (h : Keeps s0 s) : Keeps s0 (s.hatchAdvance a2) := by
  unfold State.hatchAdvance
  exact State.whf_keeps ‹_›

theorem State.hatchStop_keeps {s0 s : State} {a2} {a3} (h : Keeps s0 s) : Keeps s0 (s.hatchStop a2 a3) := by
  unfold State.hatchStop
  exact State.setHreg_keeps ‹_›

theorem State.hatchWrite_keeps {s0 s : State} {a2} {a3} {a4} (h : Keeps s0 s) : Keeps s0 (s.hatchWrite a2 a3
    a4) := by
  unfold State.hatchWrite
  refine Keeps.ite (fun _ => ?_) (fun _ => ?_)
  · assumption
  · refine Keeps.ite (fun _ => ?_) (fun _ => ?_)
    · exact State.hatchStop_keeps ‹_›
    · extract_lets +onlyGivenNames x1
      have hx1 : Keeps s0 x1.1 := State.hostWrite_keeps ‹_›
      clear_value x1
      split
      · exact State.hatchAdvance_keeps ‹_›
      · exact State.hatchStop_keeps (State.recordFail_keeps ‹_›)

theorem State.hatchRead_keeps {s0 s : State} {a2} {a3} {a4} (h : Keeps s0 s) : Keeps s0 (s.hatchRead a2 a3 a4)
    := by
  unfold State.hatchRead
  refine Keeps.ite (fun _ => ?_) (fun _ => ?_)
  · assumption
  · refine Keeps.ite (fun _ => ?_) (fun _ => ?_)
    · exact State.hatchStop_keeps ‹_›
    · extract_lets +onlyGivenNames x1
      have hx1 : Keeps s0 x1.1 := State.hostRead_keeps ‹_›
      clear_value x1
      split
      · exact State.hatchAdvance_keeps ‹_›
      · exact State.hatchStop_keeps (State.recordFail_keeps ‹_›)

theorem State.dmaState_keeps {s0 s : State} {a2} (h : Keeps s0 s) : Keeps s0 (s.dmaState a2) := by
  unfold State.dmaState
  exact State.whf_keeps ‹_›

theorem State.dmaDoorbell_keeps {s0 s : State} {a2} {a3} (h : Keeps s0 s) : Keeps s0 (s.dmaDoorbell a2 a3) :=
    by
  unfold State.dmaDoorbell
  refine Keeps.ite (fun _ => ?_) (fun _ => ?_)
  · assumption
  · extract_lets +onlyGivenNames x1
    have hx1 : Keeps s0 x1 := State.whf_keeps ‹_›
    clear_value x1
    exact Keeps.ite (fun _ => ‹_›) (fun _ => State.dmaState_keeps ‹_›)

theorem State.dmaW3_keeps {s0 s : State} {a2} {a3} {a4} (h : Keeps s0 s) : Keeps s0 (s.dmaW3 a2 a3 a4) :=
  h.setHostMem (wf_memPutWord _ _)

theorem State.dmaMove_keeps {s0 s : State} {a2} {a3} {a4} {a5} (h : Keeps s0 s) : Keeps s0 (s.dmaMove a2 a3 a4 a5).1 := by
  unfold State.dmaMove
  split
  · exact h
  · split
    · extract_lets r
      have hr : Keeps s0 r.1 := State.hostRead_keeps h
      clear_value r
      split
      · exact hr.setHostMem (wf_memWrite _ _)
      · exact hr
    · exact State.hostWrite_keeps h

theorem State.dmaRun_keeps {s0 s : State} {a2} {a3} {a4} {a5} (h : Keeps s0 s) : Keeps s0 (s.dmaRun a2 a3 a4
    a5).1 := by
  unfold State.dmaRun
  split
  · dsimp only
    assumption
  · split
    · extract_lets +onlyGivenNames x1 x2 x3
      have hx1 : Keeps s0 x1.2 := State.draw_keeps ‹_›
      have hx3 : Keeps s0 x3.1 := State.dmaMove_keeps ‹_›
      clear_value x1 x2 x3
      dsimp only
      assumption
    · extract_lets +onlyGivenNames x4
      have hx4 : Keeps s0 x4.1 := State.dmaMove_keeps ‹_›
      clear_value x4
      split
      · dsimp only
        assumption
      · extract_lets +onlyGivenNames x5 x6
        have hx6 : Keeps s0 x6.1 := State.dmaMove_keeps ‹_›
        clear_value x5 x6
        dsimp only
        exact State.recordFail_keeps ‹_›

theorem State.dmaComplete_keeps {s0 s : State} {a2} {a3} {a4} {a5} (h : Keeps s0 s) : Keeps s0 (s.dmaComplete
    a2 a3 a4 a5) := by
  unfold State.dmaComplete
  refine Keeps.ite (fun _ => ?_) (fun _ => ?_)
  · assumption
  · extract_lets +onlyGivenNames x1 x2 x3
    have hx2 : Keeps s0 x2.1 := State.dmaRun_keeps ‹_›
    have hx3 : Keeps s0 x3 := State.dmaW3_keeps ‹_›
    clear_value x1 x2 x3
    refine Keeps.ite (fun _ => ?_) (fun _ => ?_)
    · extract_lets +onlyGivenNames x4
      have hx4 : Keeps s0 x4 := State.dmaState_keeps (State.whf_keeps ‹_›)
      clear_value x4
      exact Keeps.ite (fun _ => State.msix_keeps ‹_›) (fun _ => ‹_›)
    · exact State.whf_keeps ‹_›

theorem State.dmaResume_keeps {s0 s : State} {a2} (h : Keeps s0 s) : Keeps s0 (s.dmaResume a2) := by
  unfold State.dmaResume
  exact Keeps.ite (fun _ => State.dmaState_keeps (State.whf_keeps ‹_›)) (fun _ => ‹_›)

theorem State.dmaOff_keeps {s0 s : State} {a2} {a3} (h : Keeps s0 s) : Keeps s0 (s.dmaOff a2 a3) := by
  unfold State.dmaOff
  refine Keeps.ite (fun _ => ?_) (fun _ => ?_)
  · assumption
  · extract_lets +onlyGivenNames x1 x2 x3 x4 x5
    have hx3 : Keeps s0 x3.1 := State.dmaMove_keeps ‹_›
    have hx4 : Keeps s0 x4 := Keeps.ite (fun _ => Keeps.ite (fun _ => State.dmaW3_keeps ‹_›) (fun _ =>
        State.dmaW3_keeps ‹_›)) (fun _ => ‹_›)
    have hx5 : Keeps s0 x5 := State.whf_keeps (State.whf_keeps ‹_›)
    clear_value x1 x2 x3 x4 x5
    exact State.whf_keeps ‹_›

theorem State.dmaStop_keeps {s0 s : State} {a2} (h : Keeps s0 s) : Keeps s0 (s.dmaStop a2) := by
  unfold State.dmaStop
  extract_lets +onlyGivenNames x1
  have hx1 : Keeps s0 x1.2 := State.draw_keeps ‹_›
  clear_value x1
  exact State.dmaOff_keeps ‹_›

theorem State.functionReset_keeps {s0 s : State} (h : Keeps s0 s) : Keeps s0 (s.functionReset) := by
  unfold State.functionReset
  extract_lets s1 s2 s3 s4
  have h1 : Keeps s0 s1 := Keeps.foldl (fun t y ht => State.ringOff_keeps ht) _ _ h
  have h2 : Keeps s0 s2 := Keeps.foldl (fun t y ht => State.evqOff_keeps ht) _ _ h1
  have h3 : Keeps s0 s3 := Keeps.foldl (fun t y ht => Keeps.ite (fun _ => State.dmaStop_keeps ht) fun _ => ht) _ _ h2
  have h4 : Keeps s0 s4 := State.setHreg_keeps (State.setHreg_keeps h3)
  clear_value s4
  exact Keeps.record (t := { s4 with hb := _ }) (h4.setHb (sparseWf_filter _)) rfl rfl rfl

theorem State.pcieTrain_keeps {s0 s : State} (h : Keeps s0 s) : Keeps s0 (s.pcieTrain) := by
  unfold State.pcieTrain
  refine Keeps.ite (fun _ => ?_) (fun _ => ?_)
  · assumption
  · extract_lets +onlyGivenNames x1 x2 x3 x4 x5
    have hx1 : Keeps s0 x1.2 := State.draw_keeps ‹_›
    have hx4 : Keeps s0 x4 := State.wfs_keeps ‹_›
    clear_value x1 x2 x3 x4 x5
    exact Keeps.foldl (fun t y ht => State.setPorch_keeps (State.satf_keeps ‹_›)) _ _ ‹_›

theorem State.perst_keeps {s0 s : State} {a2} (h : Keeps s0 s) : Keeps s0 (s.perst a2) := by
  unfold State.perst
  refine Keeps.ite (fun _ => ?_) (fun _ => ?_)
  · extract_lets +onlyGivenNames x1
    have hx1 : Keeps s0 x1 := State.wfs_keeps (Keeps.ite (fun _ => State.functionReset_keeps ‹_›) (fun _ => ‹_›))
    clear_value x1
    exact Keeps.foldl (fun t y ht => State.setPorch_keeps ‹_›) _ _ ‹_›
  · exact State.pcieTrain_keeps (State.wf_keeps ‹_›)

theorem State.configRequest_keeps {s0 s : State} {a2} {a3} (h : Keeps s0 s) : Keeps s0 (s.configRequest a2 a3)
    := by
  unfold State.configRequest
  split
  · assumption
  · refine Keeps.ite (fun _ => ?_) (fun _ => ?_)
    · assumption
    · extract_lets +onlyGivenNames x1
      have hx1 : Keeps s0 x1 := Keeps.record ‹_› rfl rfl rfl
      clear_value x1
      exact Keeps.ite (fun _ => Keeps.foldl (fun t y ht => State.drainEvq_keeps ‹_›) _ _ ‹_›) (fun _ => ‹_›)

theorem State.i3cWrite_keeps {s0 s : State} {a2} {a3} (h : Keeps s0 s) : Keeps s0 (s.i3cWrite a2 a3) := by
  unfold State.i3cWrite
  refine Keeps.ite (fun _ => ?_) (fun _ => ?_)
  · assumption
  · extract_lets +onlyGivenNames x1
    have hx1 : Keeps s0 x1.1 := State.hostWrite_keeps ‹_›
    clear_value x1
    split
    · exact Keeps.record ‹_› rfl rfl rfl
    · exact State.recordFail_keeps ‹_›

theorem State.cmdWrite_keeps {s0 s : State} {a2} {a3} (h : Keeps s0 s) {t} (e : s.cmdWrite a2 a3 = some t) :
    Keeps s0 t := by
  unfold State.cmdWrite at e
  extract_lets r at e
  have hr : Keeps s0 r.1 := State.hostWrite_keeps h
  split at e
  · cases e
  · cases e; exact hr

theorem State.replyWritten_keeps {s0 s : State} {a2} {a3} {a4} (h : Keeps s0 s) (hr : ∀ t, a3 = some t → Keeps s0 t) :
    Keeps s0 (s.replyWritten a2 a3 a4) := by
  unfold State.replyWritten
  split
  · exact State.reply_keeps (hr _ rfl)
  · exact State.reply_keeps h

theorem State.faultRead_keeps {s0 s : State} {a2} (h : Keeps s0 s) : Keeps s0 (s.faultRead a2) := by
  unfold State.faultRead
  extract_lets is bs
  refine State.replyWritten_keeps h fun t ht => ?_
  split at ht
  · cases ht; exact h
  · exact State.cmdWrite_keeps h ht

theorem State.clearCode_keeps {s0 s : State} {a2} (h : Keeps s0 s) : Keeps s0 (s.clearCode a2) := by
  unfold State.clearCode
  exact State.refreshFlt_keeps (Keeps.record ‹_› rfl rfl rfl)

theorem State.faultClear_keeps {s0 s : State} {a2} (h : Keeps s0 s) : Keeps s0 (s.faultClear a2) := by
  unfold State.faultClear
  split
  · exact State.reply_keeps ‹_›
  · exact Keeps.ite (fun _ => State.reply_keeps ‹_›) (fun _ => State.reply_keeps (State.clearCode_keeps ‹_›))

theorem State.reactionSet_keeps {s0 s : State} {a2} (h : Keeps s0 s) : Keeps s0 (s.reactionSet a2) := by
  unfold State.reactionSet
  split
  · exact State.reply_keeps ‹_›
  · exact Keeps.ite (fun _ => State.reply_keeps ‹_›) (fun _ => State.reply_keeps (State.wf_keeps ‹_›))

theorem State.setPlan_keeps {s0 s : State} {a2} {a3} {a4} (h : Keeps s0 s) : Keeps s0 (s.setPlan a2 a3 a4) :=
    by
  unfold State.setPlan
  exact State.setReg_keeps (State.setReg_keeps (State.setReg_keeps ‹_›))

theorem State.dropPlan_keeps {s0 s : State} {a2} (h : Keeps s0 s) : Keeps s0 (s.dropPlan a2) := by
  unfold State.dropPlan
  exact State.setReg_keeps (State.setReg_keeps (State.setReg_keeps (State.setReg_keeps ‹_›)))

theorem State.fallbackLoad_keeps {s0 s : State} {a2} (h : Keeps s0 s) : Keeps s0 (s.fallbackLoad a2) := by
  unfold State.fallbackLoad
  extract_lets +onlyGivenNames x1 x2 x3 x4
  clear_value x1 x2 x3 x4
  refine Keeps.ite (fun _ => ?_) (fun _ => ?_)
  · exact State.reply_keeps ‹_›
  · refine Keeps.ite (fun _ => ?_) (fun _ => ?_)
    · exact State.reply_keeps ‹_›
    · refine Keeps.ite (fun _ => ?_) (fun _ => ?_)
      · exact State.reply_keeps ‹_›
      · refine Keeps.ite (fun _ => ?_) (fun _ => ?_)
        · refine State.reply_keeps ?_
          split
          · exact State.dropPlan_keeps ‹_›
          · assumption
        · split
          · exact State.reply_keeps (State.setPlan_keeps ‹_›)
          · split
            · exact State.reply_keeps (State.setPlan_keeps ‹_›)
            · exact State.reply_keeps ‹_›

theorem State.dropPlans_keeps {s0 s : State} (h : Keeps s0 s) : Keeps s0 (s.dropPlans) := by
  unfold State.dropPlans
  exact Keeps.foldl (fun t y ht => Keeps.ite (fun _ => ‹_›) (fun _ => State.dropPlan_keeps ‹_›)) _ _ ‹_›

theorem State.resumeStep_keeps {s0 s : State} {a2} (h : Keeps s0 s) : Keeps s0 (s.resumeStep a2) := by
  unfold State.resumeStep
  exact Keeps.record (State.spread_keeps (State.noteStep_keeps ‹_›)) rfl rfl rfl

theorem State.stepResume_keeps {s0 s : State} (h : Keeps s0 s) : Keeps s0 (s.stepResume) := by
  unfold State.stepResume
  exact Keeps.ite (fun _ => ‹_›) (fun _ => Keeps.foldl (fun t y ht => State.resumeStep_keeps ‹_›) _ _ ‹_›)

theorem State.stepStart_keeps {s0 s : State} {a2} (h : Keeps s0 s) : Keeps s0 (s.stepStart a2) := by
  unfold State.stepStart
  extract_lets +onlyGivenNames x1
  clear_value x1
  split
  · exact State.reply_keeps ‹_›
  · exact State.reply_keeps (Keeps.record ‹_› rfl rfl rfl)

theorem State.launchBay_keeps {s0 s : State} {a2} {a3} (h : Keeps s0 s) : Keeps s0 (s.launchBay a2 a3) := by
  unfold State.launchBay
  exact State.setBay_keeps (State.wf_keeps (State.wf_keeps (State.clearEvts_keeps (State.wfs_keeps (State.wfs_keeps
      (State.wf_keeps (State.wfs_keeps (State.wf_keeps (State.jrnlHeader_keeps ‹_›)))))))))

theorem State.setStep_keeps {s0 s : State} {a2} (h : Keeps s0 s) : Keeps s0 (s.setStep a2) := by
  unfold State.setStep
  exact Keeps.record ‹_› rfl rfl rfl

theorem State.launchStep_keeps {s0 s : State} {a2} (h : Keeps s0 s) : Keeps s0 (s.launchStep a2) := by
  unfold State.launchStep
  exact Keeps.foldl (fun t y ht => State.launchBay_keeps ‹_›) _ _ (State.setStep_keeps ‹_›)

theorem State.closeRegions_keeps {s0 s : State} (h : Keeps s0 s) : Keeps s0 (s.closeRegions) := by
  unfold State.closeRegions
  exact Keeps.foldl (fun t y ht => State.wf_keeps ‹_›) _ _ ‹_›

theorem State.stepBegins_keeps {s0 s : State} {a2} (h : Keeps s0 s) : Keeps s0 (s.stepBegins a2) := by
  unfold State.stepBegins
  split
  · assumption
  · exact Keeps.ite (fun _ => State.applied_keeps (State.launchStep_keeps (State.closeRegions_keeps ‹_›))) (fun _ =>
        ‹_›)

theorem State.stepCommits_keeps {s0 s : State} {a2} (h : Keeps s0 s) : Keeps s0 (s.stepCommits a2) := by
  unfold State.stepCommits
  split
  · assumption
  · refine Keeps.ite (fun _ => ?_) (fun _ => ?_)
    · extract_lets +onlyGivenNames x1 x2 x3
      have hx1 : Keeps s0 x1 := Keeps.foldl (fun t y ht => State.jrnlState_keeps ‹_›) _ _ ‹_›
      have hx2 : Keeps s0 x2 := Keeps.foldl (fun t y ht => State.setBay_keeps ‹_›) _ _ ‹_›
      have hx3 : Keeps s0 x3 := Keeps.record ‹_› rfl rfl rfl
      clear_value x1 x2 x3
      exact State.hostEvent_keeps ‹_›
    · assumption

theorem State.stepReplays_keeps {s0 s : State} {a2} (h : Keeps s0 s) : Keeps s0 (s.stepReplays a2) := by
  unfold State.stepReplays
  split
  · assumption
  · exact Keeps.ite (fun _ => State.refreshFlt_keeps (State.launchStep_keeps ‹_›)) (fun _ => ‹_›)

theorem State.stepLate_keeps {s0 s : State} {a2} (h : Keeps s0 s) : Keeps s0 (s.stepLate a2) := by
  unfold State.stepLate
  split
  · assumption
  · exact Keeps.ite (fun _ => State.endStep_keeps (State.spread_keeps (State.noteStep_keeps ‹_›))) (fun _ => ‹_›)

theorem State.stepAbort_keeps {s0 s : State} {a2} (h : Keeps s0 s) : Keeps s0 (s.stepAbort a2) := by
  unfold State.stepAbort
  split
  · exact State.reply_keeps ‹_›
  · exact State.reply_keeps (State.fenceStep_keeps ‹_›)

theorem State.pumpReload_keeps {s0 s : State} {a2} (h : Keeps s0 s) : Keeps s0 (s.pumpReload a2) := by
  unfold State.pumpReload
  refine Keeps.ite (fun _ => ?_) (fun _ => ?_)
  · assumption
  · split
    · assumption
    · exact State.linkPut_keeps (Keeps.record ‹_› rfl rfl rfl)

theorem State.pumpReloads_keeps {s0 s : State} (h : Keeps s0 s) : Keeps s0 (s.pumpReloads) := by
  unfold State.pumpReloads
  exact Keeps.foldl (fun t y ht => State.pumpReload_keeps ‹_›) _ _ ‹_›

theorem State.reloadAnswer_keeps {s0 s : State} {a2} {a3} {a4} (h : Keeps s0 s) : Keeps s0 (s.reloadAnswer a2
    a3 a4) := by
  unfold State.reloadAnswer
  refine Keeps.ite (fun _ => ?_) (fun _ => ?_)
  · assumption
  · extract_lets +onlyGivenNames x1
    have hx1 : Keeps s0 x1 := by
      unfold x1
      split
      · exact State.engineWrite_keeps ‹_› ‹_›
      · assumption
    clear_value x1
    exact Keeps.record ‹_› rfl rfl rfl

theorem State.reloadsDone_keeps {s0 s : State} (h : Keeps s0 s) : Keeps s0 (s.reloadsDone) := by
  unfold State.reloadsDone
  exact Keeps.ite (fun _ => ‹_›) (fun _ => State.stepResume_keeps (Keeps.record ‹_› rfl rfl rfl))

theorem State.openBytes_keeps {s0 s : State} {a2} (h : Keeps s0 s) : Keeps s0 (s.openBytes a2).2 := by
  unfold State.openBytes
  dsimp only
  exact Keeps.record ‹_› rfl rfl rfl

theorem State.opWrite_keeps {s0 s : State} {a2} {a3} {a4} (h : Keeps s0 s) : Keeps s0 (s.opWrite a2 a3 a4).1 :=
    by
  unfold State.opWrite
  extract_lets +onlyGivenNames x1
  have hx1 : Keeps s0 x1.1 := State.hostWrite_keeps ‹_›
  clear_value x1
  split
  · dsimp only
    assumption
  · extract_lets +onlyGivenNames x2
    have hx2 : Keeps s0 x2.1 := State.hostWrite_keeps ‹_›
    clear_value x2
    dsimp only
    exact State.recordFail_keeps ‹_›

theorem State.opRun_keeps {s0 s : State} {a2} {a3} {a4} {a5} (h : Keeps s0 s) : Keeps s0 (s.opRun a2 a3 a4
    a5).1 := by
  unfold State.opRun
  split
  · dsimp only
    assumption
  · split
    · exact State.opWrite_keeps ‹_›
    · extract_lets +onlyGivenNames x1
      have hx1 : Keeps s0 x1.1 := State.hostRead_keeps ‹_›
      clear_value x1
      split
      · extract_lets +onlyGivenNames x2
        have hx2 : Keeps s0 x2.2 := State.openBytes_keeps ‹_›
        clear_value x2
        split
        · exact State.opWrite_keeps ‹_›
        · exact State.opWrite_keeps ‹_›
      · extract_lets +onlyGivenNames x3 x4 x5 x6
        have hx4 : Keeps s0 x4.2 := State.openBytes_keeps ‹_›
        have hx6 : Keeps s0 x6.1 := State.opWrite_keeps ‹_›
        clear_value x3 x4 x5 x6
        dsimp only
        exact State.recordFail_keeps ‹_›

theorem State.opDone_keeps {s0 s : State} {a2} {a3} {a4} {a5} (h : Keeps s0 s) : Keeps s0 (s.opDone a2 a3 a4
    a5) := by
  unfold State.opDone
  split
  · assumption
  · refine Keeps.ite (fun _ => ?_) (fun _ => ?_)
    · assumption
    · extract_lets +onlyGivenNames x1
      have hx1 : Keeps s0 x1.1 := State.opRun_keeps (Keeps.record ‹_› rfl rfl rfl)
      clear_value x1
      exact State.applied_keeps ‹_›

theorem State.addOp_keeps {s0 s : State} {a2} {a3} {a4} {a5} {a6} (h : Keeps s0 s) : Keeps s0 (s.addOp a2 a3 a4
    a5 a6) := by
  unfold State.addOp
  exact Keeps.ite (fun _ => State.reply_keeps ‹_›) (fun _ => State.reply_keeps (Keeps.record ‹_› rfl rfl rfl))

theorem State.haltOps_keeps {s0 s : State} (h : Keeps s0 s) : Keeps s0 (s.haltOps) := by
  unfold State.haltOps
  refine Keeps.foldl (fun t y ht => ?_) _ _ ?_
  · extract_lets +onlyGivenNames x1 x2 x3
    have hx1 : Keeps s0 x1.2 := State.draw_keeps ‹_›
    have hx3 : Keeps s0 x3 := State.opRun_keeps ‹_›
    clear_value x1 x2 x3
    exact State.applied_keeps ‹_›
  · exact Keeps.record ‹_› rfl rfl rfl

theorem State.abandonSky_keeps {s0 s : State} (h : Keeps s0 s) : Keeps s0 (s.abandonSky) := by
  unfold State.abandonSky
  exact Keeps.foldl (fun t y ht => Keeps.record ‹_› rfl rfl rfl) _ _ ‹_›

theorem State.haltHere_keeps {s0 s : State} (h : Keeps s0 s) : Keeps s0 (s.haltHere) := by
  unfold State.haltHere
  extract_lets +onlyGivenNames x1 x2 x3 x4
  have hx2 : Keeps s0 x2 := Keeps.foldl (fun t y ht => Keeps.ite (fun _ => State.quellStep_keeps ‹_›) (fun _ => ‹_›))
      _ _ ‹_›
  have hx3 : Keeps s0 x3 := Keeps.foldl (fun t y ht => State.stopBay_keeps ‹_›) _ _ ‹_›
  have hx4 : Keeps s0 x4 := Keeps.foldl (fun t y ht => State.endStep_keeps ‹_›) _ _ ‹_›
  clear_value x1 x2 x3 x4
  exact State.abandonSky_keeps (State.haltOps_keeps ‹_›)

theorem State.haltAll_keeps {s0 s : State} {a2} (h : Keeps s0 s) : Keeps s0 (s.haltAll a2) := by
  unfold State.haltAll
  extract_lets +onlyGivenNames x1 x2 x3 x4 x5
  have hx2 : Keeps s0 x2 := State.addActive_keeps ‹_›
  have hx3 : Keeps s0 x3 := Keeps.foldl (fun t y ht => State.forwardTo_keeps ‹_›) _ _ ‹_›
  have hx5 : Keeps s0 x5 := Keeps.record ‹_› rfl rfl rfl
  clear_value x1 x2 x3 x4 x5
  refine Keeps.ite (fun _ => ?_) (fun _ => ?_)
  · split
    · exact State.haltReply_keeps ‹_›
    · assumption
  · assumption

theorem State.halt_keeps {s0 s : State} {a2} (h : Keeps s0 s) : Keeps s0 (s.halt a2) := by
  unfold State.halt
  extract_lets +onlyGivenNames x1
  have hx1 : Keeps s0 x1 := State.haltHere_keeps ‹_›
  clear_value x1
  exact Keeps.ite (fun _ => State.haltAll_keeps ‹_›) (fun _ => State.reply_keeps ‹_›)

theorem State.reachCheck_keeps {s0 s : State} {a2} (h : Keeps s0 s) : Keeps s0 (s.reachCheck a2) := by
  unfold State.reachCheck
  refine Keeps.foldl (fun t y ht => ?_) _ _ ?_
  · extract_lets +onlyGivenNames x1 x2 x3 x4
    have hx4 : Keeps s0 x4 := State.wf_keeps ‹_›
    clear_value x1 x2 x3 x4
    exact Keeps.ite (fun _ => State.note_keeps ‹_›) (fun _ => ‹_›)
  · assumption

theorem State.trainStart_keeps {s0 s : State} {a2} (h : Keeps s0 s) : Keeps s0 (s.trainStart a2) := by
  unfold State.trainStart
  extract_lets +onlyGivenNames x1
  have hx1 : Keeps s0 x1 := Keeps.ite (fun _ => State.reachCheck_keeps ‹_›) (fun _ => Keeps.ite (fun _ =>
      State.porchRetrain_keeps ‹_›) (fun _ => ‹_›))
  clear_value x1
  refine Keeps.ite (fun _ => ?_) (fun _ => ?_)
  · assumption
  · extract_lets +onlyGivenNames x2 x3 x4
    have hx2 : Keeps s0 x2 := State.setLinkState_keeps ‹_›
    have hx4 : Keeps s0 x4 := State.setLink_keeps ‹_›
    clear_value x2 x3 x4
    exact Keeps.ite (fun _ => ‹_›) (fun _ => Keeps.foldl (fun t y ht => State.wf_keeps ‹_›) _ _ ‹_›)

theorem State.trainDrop_keeps {s0 s : State} {a2} {a3} (h : Keeps s0 s) : Keeps s0 (s.trainDrop a2 a3) := by
  unfold State.trainDrop
  exact Keeps.ite (fun _ => State.satf_keeps ‹_›) (fun _ => State.satf_keeps ‹_›)

theorem State.askExclusions_keeps {s0 s : State} {a2} (h : Keeps s0 s) : Keeps s0 (s.askExclusions a2) := by
  unfold State.askExclusions
  exact Keeps.foldl (fun t y ht => Keeps.ite (fun _ => State.askLane_keeps ‹_›) (fun _ => ‹_›)) _ _ ‹_›

theorem State.trained_keeps {s0 s : State} {a2} {a3} (h : Keeps s0 s) : Keeps s0 (s.trained a2 a3) := by
  unfold State.trained
  extract_lets +onlyGivenNames x1 x2 x3 x4 x5 x6 x7 x8 x9 x10 x11
  have hx1 : Keeps s0 x1 := State.setLinkState_keeps ‹_›
  have hx2 : Keeps s0 x2 := State.wfs_keeps ‹_›
  have hx3 : Keeps s0 x3 := State.setReg_keeps ‹_›
  have hx4 : Keeps s0 x4 := Keeps.foldl (fun t y ht => State.setReg_keeps ‹_›) _ _ ‹_›
  have hx6 : Keeps s0 x6 := State.setReg_keeps ‹_›
  have hx9 : Keeps s0 x9 := State.setLink_keeps ‹_›
  have hx10 : Keeps s0 x10 := Keeps.ite (fun _ => State.setLaneMap_keeps ‹_›) (fun _ => ‹_›)
  have hx11 : Keeps s0 x11 := Keeps.foldl (fun t y ht => State.recheck_keeps ‹_›) _ _ ‹_›
  clear_value x1 x2 x3 x4 x5 x6 x7 x8 x9 x10 x11
  exact State.sendNeighbours_keeps (State.askExclusions_keeps ‹_›)

theorem State.maybeUp_keeps {s0 s : State} {a2} (h : Keeps s0 s) : Keeps s0 (s.maybeUp a2) := by
  unfold State.maybeUp
  extract_lets +onlyGivenNames x1
  clear_value x1
  split
  · exact State.trained_keeps ‹_›
  · assumption

theorem State.offer_keeps {s0 s : State} {a2} {a3} (h : Keeps s0 s) : Keeps s0 (s.offer a2 a3) := by
  unfold State.offer
  exact Keeps.ite (fun _ => State.note_keeps ‹_›) (fun _ => Keeps.ite (fun _ => State.wrongPeer_keeps ‹_›) (fun _ =>
      Keeps.ite (fun _ => State.note_keeps ‹_›) (fun _ => Keeps.ite (fun _ => State.note_keeps ‹_›) (fun _ =>
      Keeps.ite (fun _ => State.note_keeps ‹_›) (fun _ => State.maybeUp_keeps (State.setLink_keeps ‹_›))))))

theorem State.accept_keeps {s0 s : State} {a2} {a3} (h : Keeps s0 s) : Keeps s0 (s.accept a2 a3) := by
  unfold State.accept
  exact Keeps.ite (fun _ => ‹_›) (fun _ => State.maybeUp_keeps (State.setLink_keeps ‹_›))

theorem State.trainHeader_keeps {s0 s : State} {a2} {a3} {a4} (h : Keeps s0 s) : Keeps s0 (s.trainHeader a2 a3
    a4).1 := by
  unfold State.trainHeader
  split
  · dsimp only
    exact State.satf_keeps ‹_›
  · dsimp only
    exact State.satf_keeps ‹_›
  · dsimp only
    exact State.wrongPeer_keeps ‹_›
  · split
    · dsimp only
      exact State.useHeader_keeps ‹_›
    · dsimp only
      assumption

theorem State.exclude_keeps {s0 s : State} {a2} {a3} (h : Keeps s0 s) : Keeps s0 (s.exclude a2 a3) := by
  unfold State.exclude
  extract_lets +onlyGivenNames x1 x2
  have hx2 : Keeps s0 x2 := State.setLink_keeps ‹_›
  clear_value x1 x2
  refine Keeps.ite (fun _ => ?_) (fun _ => ?_)
  · assumption
  · refine Keeps.foldl (fun t y ht => ?_) _ _ ?_
    · refine Keeps.ite (fun _ => ?_) (fun _ => ?_)
      · extract_lets +onlyGivenNames x3
        have hx3 : Keeps s0 x3.2 := by
          unfold x3
          split
          · dsimp only
            assumption
          · exact State.takeSpare_keeps ‹_›
        clear_value x3
        exact State.setLaneMap_keeps ‹_›
      · assumption
    · assumption

theorem State.adopt_keeps {s0 s : State} {a2} {a3} (h : Keeps s0 s) : Keeps s0 (s.adopt a2 a3) := by
  unfold State.adopt
  refine Keeps.ite (fun _ => ?_) (fun _ => ?_)
  · assumption
  · extract_lets +onlyGivenNames x1 x2 x3
    have hx1 : Keeps s0 x1 := State.setLaneMap_keeps ‹_›
    clear_value x1 x2 x3
    exact Keeps.ite (fun _ => State.skipCal_keeps ‹_›) (fun _ => ‹_›)

theorem State.agree_keeps {s0 s : State} {a2} {a3} (h : Keeps s0 s) : Keeps s0 (s.agree a2 a3) := by
  unfold State.agree
  extract_lets +onlyGivenNames x1 x2 x3 x4 x5 x6
  have hx5 : Keeps s0 x5 := Keeps.ite (fun _ => State.wf_keeps ‹_›) (fun _ => ‹_›)
  have hx6 : Keeps s0 x6 := Keeps.ite (fun _ => Keeps.foldl (fun t y ht => State.wf_keeps (State.wf_keeps ‹_›)) _ _
      ‹_›) (fun _ => ‹_›)
  clear_value x1 x2 x3 x4 x5 x6
  exact Keeps.ite (fun _ => State.setLink_keeps ‹_›) (fun _ => ‹_›)

theorem State.takeTrain_keeps {s0 s : State} {a2} {a3} (h : Keeps s0 s) : Keeps s0 (s.takeTrain a2 a3) := by
  unfold State.takeTrain
  exact State.refix_keeps (State.agree_keeps (State.audit_keeps (State.adopt_keeps (State.exclude_keeps ‹_›))))

theorem State.retrainReq_keeps {s0 s : State} {a2} {a3} (h : Keeps s0 s) : Keeps s0 (s.retrainReq a2 a3) := by
  unfold State.retrainReq
  extract_lets +onlyGivenNames x1
  clear_value x1
  refine Keeps.ite (fun _ => ?_) (fun _ => ?_)
  · assumption
  · refine Keeps.ite (fun _ => ?_) (fun _ => ?_)
    · assumption
    · refine Keeps.ite (fun _ => ?_) (fun _ => ?_)
      · extract_lets +onlyGivenNames x2 x3 x4
        have hx2 : Keeps s0 x2 := Keeps.ite (fun _ => State.snapshotLink_keeps ‹_›) (fun _ => State.setLinkState_keeps
            ‹_›)
        have hx4 : Keeps s0 x4 := State.setLink_keeps ‹_›
        clear_value x2 x3 x4
        exact State.takeTrain_keeps ‹_›
      · assumption

theorem State.retrainAck_keeps {s0 s : State} {a2} {a3} (h : Keeps s0 s) : Keeps s0 (s.retrainAck a2 a3) := by
  unfold State.retrainAck
  refine Keeps.ite (fun _ => ?_) (fun _ => ?_)
  · assumption
  · extract_lets +onlyGivenNames x1 x2 x3 x4 x5 x6 x7
    have hx2 : Keeps s0 x2 := State.takeTrain_keeps ‹_›
    have hx3 : Keeps s0 x3 := State.setLinkState_keeps ‹_›
    have hx5 : Keeps s0 x5 := Keeps.foldl (fun t y ht => State.applied_keeps ‹_›) _ _ ‹_›
    have hx7 : Keeps s0 x7 := State.setLink_keeps ‹_›
    clear_value x1 x2 x3 x4 x5 x6 x7
    exact Keeps.ite (fun _ => ‹_›) (fun _ => State.startRetrain_keeps ‹_›)

theorem State.replayTimer_keeps {s0 s : State} {a2} (h : Keeps s0 s) : Keeps s0 (s.replayTimer a2) := by
  unfold State.replayTimer
  refine Keeps.ite (fun _ => ?_) (fun _ => ?_)
  · assumption
  · extract_lets +onlyGivenNames x1 x2 x3 x4 x5
    have hx4 : Keeps s0 x4 := State.satf_keeps (State.satf_keeps ‹_›)
    have hx5 : Keeps s0 x5 := State.setLink_keeps ‹_›
    clear_value x1 x2 x3 x4 x5
    exact Keeps.ite (fun _ => State.goDown_keeps ‹_›) (fun _ => Keeps.ite (fun _ => State.startRetrain_keeps ‹_›) (fun
        _ => ‹_›))

theorem State.ackOnly_keeps {s0 s : State} {a2} {a3} (h : Keeps s0 s) : Keeps s0 (s.ackOnly a2 a3) := by
  unfold State.ackOnly
  refine Keeps.ite (fun _ => ?_) (fun _ => ?_)
  · assumption
  · split
    · exact State.satf_keeps ‹_›
    · exact State.satf_keeps ‹_›
    · exact State.wrongPeer_keeps ‹_›
    · extract_lets +onlyGivenNames x1
      have hx1 : Keeps s0 x1 := State.useHeader_keeps (State.resume_keeps ‹_›)
      clear_value x1
      exact Keeps.ite (fun _ => ‹_›) (fun _ => Keeps.foldl (fun t y ht => State.creditReturn_keeps ‹_›) _ _ ‹_›)

theorem State.accepted_keeps {s0 s : State} {a2} {a3} {a4} {f5} (h : Keeps s0 s) (hf0 : ∀ y1, Keeps s0 y1 → Keeps s0
    (f5 y1)) : Keeps s0 (s.accepted a2 a3 a4 f5) := by
  unfold State.accepted
  extract_lets +onlyGivenNames x1
  have hx1 : Keeps s0 x1.1 := State.receive_keeps ‹_›
  clear_value x1
  exact Keeps.ite (fun _ => hf0 _ ‹_›) (fun _ => ‹_›)

theorem State.sendData_keeps {s0 s : State} {a2} {a3} (h : Keeps s0 s) : Keeps s0 (s.sendData a2 a3) := by
  unfold State.sendData
  exact Keeps.ite (fun _ => State.freePool_keeps ‹_›) (fun _ => State.arriveBay_keeps ‹_›)

theorem State.orRelay_keeps {s0 s : State} {a2} {a3} {f4} (h : Keeps s0 s) (hf0 : ∀ y1, Keeps s0 y1 → Keeps s0 (f4
    y1)) : Keeps s0 (s.orRelay a2 a3 f4) := by
  unfold State.orRelay
  exact Keeps.ite (fun _ => State.passOn_keeps ‹_›) (fun _ => hf0 _ ‹_›)

theorem State.peerFail_keeps {s0 s : State} {a2} {a3} (h : Keeps s0 s) : Keeps s0 (s.peerFail a2 a3) := by
  unfold State.peerFail
  split
  · exact State.note_keeps ‹_›
  · exact State.note_keeps ‹_›
  · exact State.memFault_keeps ‹_›
  · assumption

theorem State.memRd_keeps {s0 s : State} {a2} {a3} {a4} (h : Keeps s0 s) : Keeps s0 (s.memRd a2 a3 a4) := by
  unfold State.memRd
  extract_lets +onlyGivenNames x1 x2 x3
  have hx3 : Keeps s0 x3.1 := State.arrayRead_keeps ‹_›
  clear_value x1 x2 x3
  split
  · exact State.answer_keeps ‹_›
  · exact State.answer_keeps (State.peerFail_keeps ‹_›)
  · exact State.answer_keeps (State.memFault_keeps ‹_›)

theorem State.memWr_keeps {s0 s : State} {a2} {a3} (h : Keeps s0 s) : Keeps s0 (s.memWr a2 a3) := by
  unfold State.memWr
  split
  · exact State.answer_keeps (State.localWrite_keeps ‹_› ‹_›)
  · exact State.answer_keeps (State.peerFail_keeps ‹_›)
  · exact State.answer_keeps (State.peerFail_keeps ‹_›)
  · exact State.answer_keeps (State.peerFail_keeps ‹_›)

theorem State.memCpl_keeps {s0 s : State} {a2} {a3} (h : Keeps s0 s) : Keeps s0 (s.memCpl a2 a3) := by
  unfold State.memCpl
  extract_lets +onlyGivenNames x1 x2 x3
  have hx3 : Keeps s0 x3 := by
    unfold x3
    split
    · exact State.reloadAnswer_keeps (Keeps.record ‹_› rfl rfl rfl)
    · exact State.annexAnswer_keeps ‹_›
  clear_value x1 x2 x3
  exact State.freePool_keeps ‹_›

theorem State.takeNeighbours_keeps {s0 s : State} {a2} {a3} (h : Keeps s0 s) : Keeps s0 (s.takeNeighbours a2
    a3) := by
  unfold State.takeNeighbours
  extract_lets +onlyGivenNames x1 x2
  have hx2 : Keeps s0 x2 := State.freePool_keeps ‹_›
  clear_value x1 x2
  exact Keeps.ite (fun _ => ‹_›) (fun _ => State.showRelay_keeps (State.setLink_keeps ‹_›))

theorem State.linkSet_keeps {s0 s : State} {a2} (h : Keeps s0 s) : Keeps s0 (s.linkSet a2) := by
  unfold State.linkSet
  extract_lets +onlyGivenNames x1
  clear_value x1
  refine Keeps.ite (fun _ => ?_) (fun _ => ?_)
  · exact State.reply_keeps ‹_›
  · refine Keeps.ite (fun _ => ?_) (fun _ => ?_)
    · exact Keeps.ite (fun _ => State.reply_keeps ‹_›) (fun _ => State.reply_keeps (State.wfs_keeps ‹_›))
    · extract_lets +onlyGivenNames x2 x3
      have hx2 : Keeps s0 x2 := State.setReg_keeps ‹_›
      have hx3 : Keeps s0 x3 := State.setReg_keeps ‹_›
      clear_value x2 x3
      exact State.reply_keeps (Keeps.ite (fun _ => State.setLinkState_keeps ‹_›) (fun _ => ‹_›))

theorem State.linkWidth_keeps {s0 s : State} {a2} (h : Keeps s0 s) : Keeps s0 (s.linkWidth a2) := by
  unfold State.linkWidth
  extract_lets +onlyGivenNames x1 x2 x3 x4 x5 x6 x7
  clear_value x1 x2 x3 x4 x5 x6 x7
  refine Keeps.ite (fun _ => ?_) (fun _ => ?_)
  · exact State.reply_keeps ‹_›
  · refine Keeps.ite (fun _ => ?_) (fun _ => ?_)
    · exact State.reply_keeps ‹_›
    · extract_lets +onlyGivenNames x8
      have hx8 : Keeps s0 x8 := by
        unfold x8
        split
        · exact State.applied_keeps ‹_›
        · assumption
      clear_value x8
      exact State.reply_keeps (State.setLink_keeps ‹_›)

theorem State.linkRetrain_keeps {s0 s : State} {a2} (h : Keeps s0 s) : Keeps s0 (s.linkRetrain a2) := by
  unfold State.linkRetrain
  exact Keeps.ite (fun _ => State.reply_keeps ‹_›) (fun _ => State.reply_keeps (State.startRetrain_keeps
      (State.setLink_keeps ‹_›)))

theorem State.linkStateSet_keeps {s0 s : State} {a2} (h : Keeps s0 s) : Keeps s0 (s.linkStateSet a2) := by
  unfold State.linkStateSet
  extract_lets +onlyGivenNames x1 x2
  clear_value x1 x2
  refine Keeps.ite (fun _ => ?_) (fun _ => ?_)
  · exact State.reply_keeps ‹_›
  · extract_lets +onlyGivenNames x3 x4
    have hx4 : Keeps s0 x4 := by
      unfold x4
      split
      · exact State.applied_keeps (State.setLink_keeps ‹_›)
      · assumption
    clear_value x3 x4
    exact Keeps.ite (fun _ => State.reply_keeps ‹_›) (fun _ => State.reply_keeps (State.setLink_keeps ‹_›))

theorem State.applyWant_keeps {s0 s : State} {a2} (h : Keeps s0 s) : Keeps s0 (s.applyWant a2) := by
  unfold State.applyWant
  split
  · assumption
  · extract_lets +onlyGivenNames x1 x2 x3 x4
    have hx2 : Keeps s0 x2 := State.setLink_keeps ‹_›
    have hx3 : Keeps s0 x3 := State.wf_keeps ‹_›
    have hx4 : Keeps s0 x4 := Keeps.ite (fun _ => Keeps.ite (fun _ => State.setLinkState_keeps ‹_›) (fun _ => ‹_›))
        (fun _ => Keeps.ite (fun _ => State.setLinkState_keeps ‹_›) (fun _ => State.goDown_keeps ‹_›))
    clear_value x1 x2 x3 x4
    exact State.applied_keeps ‹_›

theorem State.applyWidth_keeps {s0 s : State} {a2} (h : Keeps s0 s) : Keeps s0 (s.applyWidth a2) := by
  unfold State.applyWidth
  split
  · assumption
  · extract_lets +onlyGivenNames x1
    clear_value x1
    refine Keeps.ite (fun _ => ?_) (fun _ => ?_)
    · exact State.startRetrain_keeps (State.setLink_keeps ‹_›)
    · refine Keeps.ite (fun _ => ?_) (fun _ => ?_)
      · assumption
      · extract_lets +onlyGivenNames x2 x3 x4
        have hx2 : Keeps s0 x2 := State.setLink_keeps ‹_›
        have hx3 : Keeps s0 x3 := State.wf_keeps ‹_›
        have hx4 : Keeps s0 x4 := Keeps.foldl (fun t y ht => State.wf_keeps ‹_›) _ _ ‹_›
        clear_value x2 x3 x4
        exact State.applied_keeps ‹_›

theorem State.linkFrame_keeps {s0 s : State} {a2} (h : Keeps s0 s) : Keeps s0 (s.linkFrame a2) := by
  unfold State.linkFrame
  exact State.applyWidth_keeps (State.applyWant_keeps (Keeps.ite (fun _ => ‹_›) (fun _ => State.setLink_keeps ‹_›)))

end Sys2Proof.Machine
end

