-- ==== Sys2Proof/Laws/KeepsOptics.lean ====
section
/-!
SUPPORT. Sys2Proof/Laws/KeepsOptics.lean: what the operations over lasers and rings, power and the Hearth pair keep.
-/

set_option Elab.async false

namespace Sys2Proof.Machine

theorem State.atticShow_keeps {s0 s : State} {a2} (h : Keeps s0 s) : Keeps s0 (s.atticShow a2) := by
  unfold State.atticShow
  exact State.wfs_keeps ‹_›

theorem State.setAttic_keeps {s0 s : State} {a2} {a3} {a4} (h : Keeps s0 s) : Keeps s0 (s.setAttic a2 a3 a4) :=
    by
  unfold State.setAttic
  exact State.atticShow_keeps (State.wf_keeps ‹_›)

theorem State.spareRemap_keeps {s0 s : State} {a2} {a3} (h : Keeps s0 s) : Keeps s0 (s.spareRemap a2 a3) := by
  unfold State.spareRemap
  refine Keeps.ite (fun _ => ?_) (fun _ => ?_)
  · assumption
  · split
    · assumption
    · extract_lets +onlyGivenNames x1 x2
      have hx2 : Keeps s0 x2 := State.setChan_keeps ‹_›
      clear_value x1 x2
      exact State.remapsDone_keeps (Keeps.foldl (fun t y ht => State.planMap_keeps ‹_›) _ _ ‹_›)

theorem State.wakeAttic_keeps {s0 s : State} {a2} {a3} {a4} (h : Keeps s0 s) : Keeps s0 (s.wakeAttic a2 a3 a4)
    := by
  unfold State.wakeAttic
  exact State.setAttic_keeps (State.wfs_keeps (State.setCsm_keeps ‹_›))

theorem State.swapAction_keeps {s0 s : State} {a2} {a3} (h : Keeps s0 s) : Keeps s0 (s.swapAction a2 a3) := by
  unfold State.swapAction
  refine Keeps.ite (fun _ => ?_) (fun _ => ?_)
  · assumption
  · split
    · exact State.wakeAttic_keeps (State.setChan_keeps ‹_›)
    · exact State.spareRemap_keeps ‹_›

theorem State.nextAttic_keeps {s0 s : State} {a2} {a3} (h : Keeps s0 s) : Keeps s0 (s.nextAttic a2 a3) := by
  unfold State.nextAttic
  split
  · exact State.wakeAttic_keeps ‹_›
  · exact Keeps.ite (fun _ => State.spareRemap_keeps (State.setChan_keeps ‹_›)) (fun _ => ‹_›)

theorem State.endSwap_keeps {s0 s : State} {a2} {a3} (h : Keeps s0 s) : Keeps s0 (s.endSwap a2 a3) := by
  unfold State.endSwap
  exact State.setCsm_keeps ‹_›

theorem State.setStage_keeps {s0 s : State} {a2} {a3} {a4} (h : Keeps s0 s) : Keeps s0 (s.setStage a2 a3 a4) :=
    by
  unfold State.setStage
  exact State.setCsm_keeps ‹_›

theorem State.fenceAttic_keeps {s0 s : State} {a2} {a3} (h : Keeps s0 s) : Keeps s0 (s.fenceAttic a2 a3) := by
  unfold State.fenceAttic
  exact State.setAttic_keeps (Keeps.record ‹_› rfl rfl rfl)

theorem State.floorAction_keeps {s0 s : State} {a2} {a3} (h : Keeps s0 s) : Keeps s0 (s.floorAction a2 a3) :=
    by
  unfold State.floorAction
  refine Keeps.ite (fun _ => ?_) (fun _ => ?_)
  · assumption
  · extract_lets +onlyGivenNames x1 x2 x3
    have hx2 : Keeps s0 x2 := State.setChan_keeps ‹_›
    have hx3 : Keeps s0 x3 := Keeps.ite (fun _ => ‹_›) (fun _ => State.fenceAttic_keeps ‹_›)
    clear_value x1 x2 x3
    exact State.failTx_keeps (State.note_keeps ‹_›)

theorem State.fadeCross_keeps {s0 s : State} {a2} {a3} {a4} (h : Keeps s0 s) : Keeps s0 (s.fadeCross a2 a3 a4)
    := by
  unfold State.fadeCross
  extract_lets +onlyGivenNames x1 x2
  have hx2 : Keeps s0 x2 := Keeps.ite (fun _ => State.hostEvent_keeps (State.wf_keeps ‹_›)) (fun _ => ‹_›)
  clear_value x1 x2
  split
  · assumption
  · exact State.swapAction_keeps ‹_›
  · exact State.floorAction_keeps ‹_›

theorem State.fadeOf_keeps {s0 s : State} {a2} {a3} (h : Keeps s0 s) : Keeps s0 (s.fadeOf a2 a3).2 := by
  unfold State.fadeOf
  split
  · dsimp only
    assumption
  · extract_lets +onlyGivenNames x1
    clear_value x1
    split
    · split
      dsimp only
      exact Keeps.snd_eq ‹_› (State.draw_keeps ‹_›)
    · dsimp only
      assumption

theorem State.noteReading_keeps {s0 s : State} {a2} {a3} (h : Keeps s0 s) : Keeps s0 (s.noteReading a2 a3) :=
    by
  unfold State.noteReading
  extract_lets +onlyGivenNames x1 x2 x3 x4 x5 x6 x7 x8
  have hx2 : Keeps s0 x2.2 := State.fadeOf_keeps ‹_›
  have hx3 : Keeps s0 x3 := ‹_›
  have hx7 : Keeps s0 x7 := State.setCsm_keeps ‹_›
  clear_value x1 x2 x3 x4 x5 x6 x7
  refine Keeps.ite (fun _ => ?_) (fun _ => ?_)
  · exact Keeps.ite (fun _ => State.wfs_keeps ‹_›) (fun _ => ‹_›)
  · refine Keeps.ite (fun _ => ?_) (fun _ => ?_)
    · extract_lets +onlyGivenNames x9 x10
      have hx10 : Keeps s0 x10 := State.wfs_keeps ‹_›
      clear_value x9 x10
      exact Keeps.ite (fun _ => State.wfs_keeps ‹_›) (fun _ => ‹_›)
    · exact State.wfs_keeps ‹_›

theorem State.setCarrier_keeps {s0 s : State} {a2} {a3} {a4} (h : Keeps s0 s) : Keeps s0 (s.setCarrier a2 a3
    a4) := by
  unfold State.setCarrier
  exact State.wf_keeps ‹_›

theorem State.wakeSpareCarrier_keeps {s0 s : State} {a2} {a3} (h : Keeps s0 s) : Keeps s0 (s.wakeSpareCarrier
    a2 a3) := by
  unfold State.wakeSpareCarrier
  exact Keeps.ite (fun _ => State.setJob_keeps ‹_›) (fun _ => ‹_›)

theorem State.fadeMeasure_keeps {s0 s : State} {a2} {a3} (h : Keeps s0 s) : Keeps s0 (s.fadeMeasure a2 a3) :=
    by
  unfold State.fadeMeasure
  refine Keeps.ite (fun _ => ?_) (fun _ => ?_)
  · assumption
  · extract_lets +onlyGivenNames x1 x2 x3 x4
    have hx3 : Keeps s0 x3 := Keeps.foldl (fun t y ht => State.noteReading_keeps ‹_›) _ _ ‹_›
    have hx4 : Keeps s0 x4 := Keeps.foldl (fun t y ht => Keeps.ite (fun _ => Keeps.foldl (fun t y ht =>
        State.fadeCross_keeps ‹_›) _ _ ‹_›) (fun _ => ‹_›)) _ _ ‹_›
    clear_value x1 x2 x3 x4
    exact State.wakeSpareCarrier_keeps (State.wakeSpareCarrier_keeps ‹_›)

theorem State.atticVerify_keeps {s0 s : State} {a2} {a3} {a4} (h : Keeps s0 s) : Keeps s0 (s.atticVerify a2 a3
    a4) := by
  unfold State.atticVerify
  split
  · assumption
  · refine Keeps.ite (fun _ => ?_) (fun _ => ?_)
    · assumption
    · refine Keeps.ite (fun _ => ?_) (fun _ => ?_)
      · exact State.setAttic_keeps (State.wf_keeps (State.setStage_keeps ‹_›))
      · extract_lets +onlyGivenNames x1 x2
        have hx2 : Keeps s0 x2 := State.wf_keeps ‹_›
        clear_value x1 x2
        exact Keeps.ite (fun _ => State.setStage_keeps ‹_›) (fun _ => State.nextAttic_keeps (State.raise_keeps
            (State.fenceAttic_keeps (State.endSwap_keeps ‹_›))))

theorem State.retireGrid_keeps {s0 s : State} {a2} {a3} {a4} (h : Keeps s0 s) : Keeps s0 (s.retireGrid a2 a3
    a4) := by
  unfold State.retireGrid
  exact Keeps.record (Keeps.ite (fun _ => ‹_›) (fun _ => State.recordRetired_keeps ‹_›)) rfl rfl rfl

theorem State.relight_keeps {s0 s : State} {a2} {a3} (h : Keeps s0 s) : Keeps s0 (s.relight a2 a3) := by
  unfold State.relight
  exact Keeps.foldl (fun t y ht => Keeps.ite (fun _ => ‹_›) (fun _ => State.changeMap_keeps ‹_›)) _ _ ‹_›

theorem State.switchIn_keeps {s0 s : State} {a2} (h : Keeps s0 s) : Keeps s0 (s.switchIn a2) := by
  unfold State.switchIn
  split
  · assumption
  · extract_lets +onlyGivenNames x1 x2 x3 x4 x5 x6 x7
    have hx4 : Keeps s0 x4 := State.endSwap_keeps ‹_›
    have hx5 : Keeps s0 x5 := State.wfs_keeps ‹_›
    have hx6 : Keeps s0 x6 := State.setAttic_keeps (State.wfs_keeps ‹_›)
    have hx7 : Keeps s0 x7 := State.satf_keeps ‹_›
    clear_value x1 x2 x3 x4 x5 x6 x7
    refine Keeps.ite (fun _ => ?_) (fun _ => ?_)
    · exact State.relight_keeps (State.retireGrid_keeps ‹_›)
    · extract_lets +onlyGivenNames x8 x9
      have hx9 : Keeps s0 x9 := State.setCsm_keeps ‹_›
      clear_value x8 x9
      exact Keeps.ite (fun _ => State.rampDown_keeps ‹_›) (fun _ => State.rampDown_keeps (State.setAttic_keeps
          (State.retireGrid_keeps ‹_›)))

theorem State.dropAttic_keeps {s0 s : State} {a2} {a3} (h : Keeps s0 s) : Keeps s0 (s.dropAttic a2 a3) := by
  unfold State.dropAttic
  split
  · exact State.nextAttic_keeps (State.setAttic_keeps (State.endSwap_keeps ‹_›))
  · assumption

theorem State.beginLaser_keeps {s0 s : State} {a2} {a3} {a4} {a5} (h : Keeps s0 s) : Keeps s0 (s.beginLaser a2
    a3 a4 a5).1 := by
  unfold State.beginLaser
  extract_lets +onlyGivenNames x1 x2
  clear_value x1
  split
  · extract_lets +onlyGivenNames x3 x4
    clear_value x3 x4
    split
    · dsimp only
      exact State.setCsm_keeps ‹_›
    · extract_lets +onlyGivenNames x5
      have hx5 : Keeps s0 x5 := State.setCsm_keeps ‹_›
      clear_value x5
      split
      · dsimp only
        exact State.setJob_keeps (State.dropAttic_keeps ‹_›)
      · dsimp only
        assumption
  · split
    · dsimp only
      exact State.setJob_keeps ‹_›
    · split
      · dsimp only
        exact State.setJob_keeps (State.failTx_keeps (State.setChan_keeps ‹_›))
      · dsimp only
        exact State.setJob_keeps (State.setCarrier_keeps ‹_›)

theorem State.appliedTo_keeps {s0 s : State} {a2} {a3} (h : Keeps s0 s) : Keeps s0 (s.appliedTo a2 a3) := by
  unfold State.appliedTo
  split
  · exact State.applied_keeps ‹_›
  · assumption

theorem State.deferJob_keeps {s0 s : State} {a2} {a3} {a4} (h : Keeps s0 s) : Keeps s0 (s.deferJob a2 a3 a4) :=
    by
  unfold State.deferJob
  exact State.setJob_keeps (State.appliedTo_keeps ‹_›)

theorem State.laserReq_keeps {s0 s : State} {a2} {a3} {a4} {a5} (h : Keeps s0 s) : Keeps s0 (s.laserReq a2 a3
    a4 a5).1 := by
  unfold State.laserReq
  split
  · dsimp only
    exact State.deferJob_keeps ‹_›
  · split
    · dsimp only
      assumption
    · exact State.beginLaser_keeps ‹_›

theorem State.endLaser_keeps {s0 s : State} {a2} {a3} {a4} (h : Keeps s0 s) : Keeps s0 (s.endLaser a2 a3 a4) :=
    by
  unfold State.endLaser
  extract_lets +onlyGivenNames x1
  have hx1 : Keeps s0 x1 := State.appliedTo_keeps (State.dropJob_keeps ‹_›)
  clear_value x1
  split
  · assumption
  · refine Keeps.ite (fun _ => ?_) (fun _ => ?_)
    · exact State.appliedTo_keeps ‹_›
    · extract_lets +onlyGivenNames x2
      have hx2 : Keeps s0 x2.1 := State.beginLaser_keeps ‹_›
      clear_value x2
      exact Keeps.ite (fun _ => ‹_›) (fun _ => State.appliedTo_keeps ‹_›)

theorem State.rampEnd_keeps {s0 s : State} {a2} {a3} (h : Keeps s0 s) : Keeps s0 (s.rampEnd a2 a3) := by
  unfold State.rampEnd
  split
  · assumption
  · refine Keeps.ite (fun _ => ?_) (fun _ => ?_)
    · assumption
    · extract_lets +onlyGivenNames x1 x2 x3
      have hx1 : Keeps s0 x1 := State.wf_keeps ‹_›
      have hx3 : Keeps s0 x3 := Keeps.ite (fun _ => Keeps.ite (fun _ => State.retireGrid_keeps ‹_›) (fun _ => ‹_›))
          (fun _ => Keeps.ite (fun _ => Keeps.ite (fun _ => State.setAttic_keeps ‹_›) (fun _ => State.fenceAttic_keeps
          ‹_›)) (fun _ => Keeps.ite (fun _ => State.setCarrier_keeps ‹_›) (fun _ => State.setCarrier_keeps
          (Keeps.record ‹_› rfl rfl rfl))))
      clear_value x1 x3
      exact State.endLaser_keeps ‹_›

theorem State.turnOnEnd_keeps {s0 s : State} {a2} {a3} (h : Keeps s0 s) : Keeps s0 (s.turnOnEnd a2 a3) := by
  unfold State.turnOnEnd
  split
  · assumption
  · exact Keeps.ite (fun _ => ‹_›) (fun _ => State.endLaser_keeps (Keeps.ite (fun _ => Keeps.ite (fun _ =>
        State.returnTx_keeps (State.setChan_keeps ‹_›)) (fun _ => ‹_›)) (fun _ => Keeps.ite (fun _ =>
        State.setCarrier_keeps ‹_›) (fun _ => ‹_›))))

theorem State.vacateTx_keeps {s0 s : State} {a2} {a3} (h : Keeps s0 s) : Keeps s0 (s.vacateTx a2 a3) := by
  unfold State.vacateTx
  exact Keeps.foldl (fun t y ht => Keeps.ite (fun _ => State.planSoon_keeps ‹_›) (fun _ => ‹_›)) _ _ ‹_›

theorem State.excludeRx_keeps {s0 s : State} {a2} {a3} (h : Keeps s0 s) : Keeps s0 (s.excludeRx a2 a3) := by
  unfold State.excludeRx
  exact Keeps.foldl (fun t y ht => State.askLane_keeps (State.setLink_keeps ‹_›)) _ _ ‹_›

theorem State.retireRing_keeps {s0 s : State} {a2} {a3} (h : Keeps s0 s) : Keeps s0 (s.retireRing a2 a3) := by
  unfold State.retireRing
  extract_lets +onlyGivenNames x1 x2 x3 x4
  have hx1 : Keeps s0 x1 := State.wfs_keeps ‹_›
  have hx3 : Keeps s0 x3 := State.recordRetired_keeps (Keeps.record ‹_› rfl rfl rfl)
  have hx4 : Keeps s0 x4 := State.raise_keeps ‹_›
  clear_value x1 x3 x4
  exact Keeps.ite (fun _ => State.vacateTx_keeps ‹_›) (fun _ => Keeps.ite (fun _ => State.excludeRx_keeps ‹_›) (fun _
      => State.floorAction_keeps ‹_›))

theorem State.mislock_keeps {s0 s : State} {a2} {a3} {a4} (h : Keeps s0 s) : Keeps s0 (s.mislock a2 a3 a4) :=
    by
  unfold State.mislock
  extract_lets +onlyGivenNames x1 x2 x3 x4
  have hx3 : Keeps s0 x3 := State.satf_keeps ‹_›
  have hx4 : Keeps s0 x4 := State.wfs_keeps ‹_›
  clear_value x1 x2 x3 x4
  exact Keeps.ite (fun _ => State.retireRing_keeps ‹_›) (fun _ => State.wf_keeps ‹_›)

theorem State.locked_keeps {s0 s : State} {a2} {a3} (h : Keeps s0 s) : Keeps s0 (s.locked a2 a3) := by
  unfold State.locked
  extract_lets a k s1 v s2
  have h1 : Keeps s0 s1 := State.wfs_keeps h
  have h2 : Keeps s0 s2 := Keeps.record h1 rfl rfl rfl
  exact Keeps.ite (fun _ => State.returnTx_keeps h2) fun _ => Keeps.ite (fun _ => State.returnRx_keeps h2) fun _ => h2

theorem State.ringVerify_keeps {s0 s : State} {a2} {a3} {a4} (h : Keeps s0 s) : Keeps s0 (s.ringVerify a2 a3
    a4) := by
  unfold State.ringVerify
  refine Keeps.ite (fun _ => ?_) (fun _ => ?_)
  · assumption
  · extract_lets +onlyGivenNames x1
    have hx1 : Keeps s0 x1 := by
      unfold x1
      split
      · exact State.wf_keeps ‹_›
      · assumption
    clear_value x1
    split
    · exact State.mislock_keeps ‹_›
    · exact Keeps.ite (fun _ => State.locked_keeps ‹_›) (fun _ => State.mislock_keeps ‹_›)

theorem State.loseLock_keeps {s0 s : State} {a2} {a3} (h : Keeps s0 s) : Keeps s0 (s.loseLock a2 a3) := by
  unfold State.loseLock
  extract_lets +onlyGivenNames x1
  have hx1 : Keeps s0 x1 := State.note_keeps (State.setRing_keeps ‹_›)
  clear_value x1
  exact Keeps.ite (fun _ => State.failTx_keeps ‹_›) (fun _ => Keeps.ite (fun _ => State.failRx_keeps ‹_›) (fun _ =>
      ‹_›))

theorem State.toneAudit_keeps {s0 s : State} {a2} {a3} (h : Keeps s0 s) : Keeps s0 (s.toneAudit a2 a3) := by
  unfold State.toneAudit
  refine Keeps.ite (fun _ => ?_) (fun _ => ?_)
  · assumption
  · split
    · assumption
    · extract_lets +onlyGivenNames x1 x2 x3
      have hx2 : Keeps s0 x2 := State.setCsm_keeps ‹_›
      have hx3 : Keeps s0 x3 := by
        unfold x3
        split
        · exact State.wf_keeps ‹_›
        · assumption
      clear_value x1 x2 x3
      exact Keeps.ite (fun _ => ‹_›) (fun _ => State.loseLock_keeps ‹_›)

theorem State.casementCheck_keeps {s0 s : State} {a2} (h : Keeps s0 s) : Keeps s0 (s.casementCheck a2) := by
  unfold State.casementCheck
  exact Keeps.ite (fun _ => State.raise_keeps ‹_›) (fun _ => ‹_›)

theorem State.meshFail_keeps {s0 s : State} {a2} {a3} {a4} (h : Keeps s0 s) : Keeps s0 (s.meshFail a2 a3 a4) :=
    by
  unfold State.meshFail
  extract_lets +onlyGivenNames x1 x2
  clear_value x1 x2
  refine Keeps.ite (fun _ => ?_) (fun _ => ?_)
  · assumption
  · extract_lets +onlyGivenNames x3 x4 x5
    have hx3 : Keeps s0 x3 := State.wf_keeps ‹_›
    clear_value x3 x4 x5
    exact Keeps.ite (fun _ => Keeps.ite (fun _ => ‹_›) (fun _ => State.casementCheck_keeps (State.raise_keeps
        (State.wf_keeps (State.setCsm_keeps ‹_›))))) (fun _ => State.raise_keeps (State.setCsm_keeps ‹_›))

theorem State.calNext_keeps {s0 s : State} {a2} (h : Keeps s0 s) : Keeps s0 (s.calNext a2).2 := by
  unfold State.calNext
  extract_lets +onlyGivenNames x1
  clear_value x1
  split
  · dsimp only
    exact State.setCsm_keeps ‹_›
  · extract_lets +onlyGivenNames x2
    have hx2 : Keeps s0 x2 := State.setCsm_keeps ‹_›
    clear_value x2
    dsimp only
    exact Keeps.ite (fun _ => State.addf_keeps ‹_›) (fun _ => ‹_›)

theorem State.calBegin_keeps {s0 s : State} {a2} {a3} (h : Keeps s0 s) : Keeps s0 (s.calBegin a2 a3) := by
  unfold State.calBegin
  extract_lets +onlyGivenNames x1 x2 x3 x4
  clear_value x1 x2
  refine Keeps.ite (fun _ => ?_) (fun _ => ?_)
  · exact State.satf_keeps ‹_›
  · refine Keeps.ite (fun _ => ?_) (fun _ => ?_)
    · exact State.setRing_keeps (State.wf_keeps (State.setCsm_keeps ‹_›))
    · extract_lets +onlyGivenNames x5
      clear_value x5
      refine Keeps.ite (fun _ => ?_) (fun _ => ?_)
      · split
        · exact State.satf_keeps ‹_›
        · exact State.wf_keeps (State.setCsm_keeps (Keeps.foldl (fun t y ht => State.planMap_keeps ‹_›) _ _ ‹_›))
      · exact State.wf_keeps (State.setCsm_keeps (Keeps.foldl (fun t y ht => State.askLane_keeps ‹_›) _ _ ‹_›))

theorem State.calStart_keeps {s0 s : State} {a2} (h : Keeps s0 s) : Keeps s0 (s.calStart a2) := by
  unfold State.calStart
  extract_lets +onlyGivenNames x1
  clear_value x1
  refine Keeps.ite (fun _ => ?_) (fun _ => ?_)
  · assumption
  · extract_lets +onlyGivenNames x2 x3
    have hx2 : Keeps s0 x2 := State.setCsm_keeps ‹_›
    have hx3 : Keeps s0 x3.2 := State.calNext_keeps ‹_›
    clear_value x2 x3
    exact State.calBegin_keeps (State.wf_keeps ‹_›)

theorem State.undegrade_keeps {s0 s : State} {a2} {a3} (h : Keeps s0 s) : Keeps s0 (s.undegrade a2 a3) := by
  unfold State.undegrade
  exact Keeps.ite (fun _ => ‹_›) (fun _ => Keeps.foldl (fun t y ht => Keeps.ite (fun _ => State.wf_keeps ‹_›) (fun _
      => ‹_›)) _ _ ‹_›)

theorem State.calReturn_keeps {s0 s : State} {a2} {a3} (h : Keeps s0 s) : Keeps s0 (s.calReturn a2 a3) := by
  unfold State.calReturn
  exact State.setCsm_keeps (Keeps.foldl (fun t y ht => Keeps.ite (fun _ => State.askLane_keeps ‹_›) (fun _ =>
      State.planMap_keeps ‹_›)) _ _ ‹_›)

theorem State.calDone_keeps {s0 s : State} {a2} {a3} (h : Keeps s0 s) : Keeps s0 (s.calDone a2 a3) := by
  unfold State.calDone
  refine Keeps.ite (fun _ => ?_) (fun _ => ?_)
  · assumption
  · extract_lets +onlyGivenNames x1 x2 x3
    have hx3 : Keeps s0 x3 := State.wf_keeps (State.setCsm_keeps ‹_›)
    clear_value x1 x2 x3
    exact Keeps.ite (fun _ => State.calReturn_keeps (State.undegrade_keeps (State.setRing_keeps ‹_›))) (fun _ =>
        State.loseLock_keeps (State.setCsm_keeps ‹_›))

theorem State.calTimeout_keeps {s0 s : State} {a2} (h : Keeps s0 s) : Keeps s0 (s.calTimeout a2) := by
  unfold State.calTimeout
  split
  · exact Keeps.ite (fun _ => ‹_›) (fun _ => State.skipCal_keeps ‹_›)
  · assumption

theorem State.faOpen_keeps {s0 s : State} {a2} (h : Keeps s0 s) : Keeps s0 (s.faOpen a2) := by
  unfold State.faOpen
  extract_lets +onlyGivenNames x1 x2 x3
  have hx1 : Keeps s0 x1 := State.wf_keeps (State.wf_keeps ‹_›)
  have hx3 : Keeps s0 x3 := State.setCsm_keeps ‹_›
  clear_value x1 x2 x3
  refine Keeps.ite (fun _ => ?_) (fun _ => ?_)
  · assumption
  · extract_lets +onlyGivenNames x4 x5
    have hx4 : Keeps s0 x4 := State.satf_keeps (State.wf_keeps ‹_›)
    have hx5 : Keeps s0 x5 := State.note_keeps ‹_›
    clear_value x4 x5
    exact Keeps.foldl (fun t y ht => State.goDown_keeps ‹_›) _ _ ‹_›

theorem State.faFrame_keeps {s0 s : State} {a2} (h : Keeps s0 s) : Keeps s0 (s.faFrame a2) := by
  unfold State.faFrame
  exact Keeps.ite (fun _ => State.setCsm_keeps (State.wf_keeps ‹_›)) (fun _ => ‹_›)

theorem State.laserSet_keeps {s0 s : State} {a2} (h : Keeps s0 s) : Keeps s0 (s.laserSet a2) := by
  unfold State.laserSet
  extract_lets +onlyGivenNames x1 x2 x3
  clear_value x1 x2 x3
  refine Keeps.ite (fun _ => ?_) (fun _ => ?_)
  · exact State.reply_keeps ‹_›
  · extract_lets +onlyGivenNames x4 x5
    clear_value x4 x5
    refine Keeps.ite (fun _ => ?_) (fun _ => ?_)
    · exact State.reply_keeps ‹_›
    · refine Keeps.ite (fun _ => ?_) (fun _ => ?_)
      · exact State.reply_keeps ‹_›
      · extract_lets +onlyGivenNames x6
        have hx6 : Keeps s0 x6.1 := State.laserReq_keeps ‹_›
        clear_value x6
        exact State.reply_keeps ‹_›

theorem State.laserSwap_keeps {s0 s : State} {a2} (h : Keeps s0 s) : Keeps s0 (s.laserSwap a2) := by
  unfold State.laserSwap
  exact Keeps.ite (fun _ => State.reply_keeps ‹_›) (fun _ => Keeps.ite (fun _ => State.reply_keeps ‹_›) (fun _ =>
      State.reply_keeps (State.fadeCross_keeps ‹_›)))

theorem State.setComm_keeps {s0 s : State} {a2} {a3} {a4} (h : Keeps s0 s) : Keeps s0 (s.setComm a2 a3 a4) :=
    by
  unfold State.setComm
  exact State.wf_keeps (Keeps.record ‹_› rfl rfl rfl)

theorem State.laserCommission_keeps {s0 s : State} {a2} (h : Keeps s0 s) : Keeps s0 (s.laserCommission a2) :=
    by
  unfold State.laserCommission
  extract_lets +onlyGivenNames x1
  clear_value x1
  refine Keeps.ite (fun _ => ?_) (fun _ => ?_)
  · exact State.reply_keeps ‹_›
  · extract_lets +onlyGivenNames x2 x3 x5
    have hx3 : Keeps s0 x3 := Keeps.foldl (fun t y ht => Keeps.ite (fun _ => State.setComm_keeps ‹_›) (fun _ => ‹_›))
        _ _ ‹_›
    have hx5 : Keeps s0 x5 := Keeps.foldl (fun t y ht => Keeps.ite (fun _ => State.setComm_keeps ‹_›) (fun _ => ‹_›))
        _ _ ‹_›
    clear_value x3 x5
    exact State.reply_keeps ‹_›

theorem State.threshSet_keeps {s0 s : State} {a2} (h : Keeps s0 s) : Keeps s0 (s.threshSet a2) := by
  unfold State.threshSet
  extract_lets +onlyGivenNames x1
  clear_value x1
  refine Keeps.ite (fun _ => ?_) (fun _ => ?_)
  · exact State.reply_keeps ‹_›
  · extract_lets +onlyGivenNames x2 x3 x4
    have hx3 : Keeps s0 x3 := State.wfs_keeps ‹_›
    have hx4 : Keeps s0 x4 := Keeps.foldl (fun t y ht => Keeps.ite (fun _ => Keeps.foldl (fun t y ht =>
        State.fadeCross_keeps ‹_›) _ _ ‹_›) (fun _ => ‹_›)) _ _ ‹_›
    clear_value x2 x3 x4
    exact State.reply_keeps ‹_›

theorem State.calSet_keeps {s0 s : State} {a2} (h : Keeps s0 s) : Keeps s0 (s.calSet a2) := by
  unfold State.calSet
  exact Keeps.ite (fun _ => State.reply_keeps ‹_›) (fun _ => State.reply_keeps (State.setCsm_keeps (State.wfs_keeps
      ‹_›)))

theorem State.appliedAs_keeps {s0 s : State} {a2} {a3} (h : Keeps s0 s) : Keeps s0 (s.appliedAs a2 a3) := by
  unfold State.appliedAs
  split
  · exact State.applied_keeps ‹_›
  · assumption

theorem State.unitReq_keeps {s0 s : State} {a2} {a3} {a4} (h : Keeps s0 s) : Keeps s0 (s.unitReq a2 a3 a4).1 :=
    by
  unfold State.unitReq
  split
  · exact State.laserReq_keeps ‹_›
  · extract_lets +onlyGivenNames x1
    split
    · unfold x1
      split
      · split
        · dsimp only
          assumption
        · dsimp only
          exact State.setJob_keeps ‹_›
      · split
        · dsimp only
          assumption
        · dsimp only
          exact State.setJob_keeps ‹_›
    · split
      · dsimp only
        exact State.deferJob_keeps ‹_›
      · unfold x1
        split
        · split
          · dsimp only
            exact State.appliedTo_keeps (State.dropJob_keeps ‹_›)
          · dsimp only
            exact State.setJob_keeps (State.appliedTo_keeps (State.dropJob_keeps ‹_›))
        · split
          · dsimp only
            exact State.appliedTo_keeps (State.dropJob_keeps ‹_›)
          · dsimp only
            exact State.setJob_keeps (State.appliedTo_keeps (State.dropJob_keeps ‹_›))

theorem State.unitPower_keeps {s0 s : State} {a2} (h : Keeps s0 s) : Keeps s0 (s.unitPower a2) := by
  unfold State.unitPower
  extract_lets +onlyGivenNames x1
  clear_value x1
  split
  · exact State.reply_keeps ‹_›
  · split
    · exact State.reply_keeps ‹_›
    · extract_lets +onlyGivenNames x2
      have hx2 : Keeps s0 x2.1 := State.unitReq_keeps ‹_›
      clear_value x2
      exact State.reply_keeps ‹_›

theorem State.bayPowerReq_keeps {s0 s : State} {a2} {a3} (h : Keeps s0 s) : Keeps s0 (s.bayPowerReq a2 a3) :=
    by
  unfold State.bayPowerReq
  exact State.unitReq_keeps (State.wf_keeps ‹_›)

theorem State.csmPowerReq_keeps {s0 s : State} {a2} {a3} (h : Keeps s0 s) : Keeps s0 (s.csmPowerReq a2 a3) :=
    by
  unfold State.csmPowerReq
  exact State.unitReq_keeps (State.wf_keeps ‹_›)

theorem State.wipeBay_keeps {s0 s : State} {a2} (h : Keeps s0 s) : Keeps s0 (s.wipeBay a2) := by
  unfold State.wipeBay
  extract_lets x lo s1 v s2
  have h2 : Keeps s0 s2 := State.setBay_keeps (h.setSramMem (wf_memFilter _))
  exact Keeps.foldl (fun t y ht => State.setReg_keeps ht) _ _ (State.setReg_keeps h2)

theorem State.seedBay_keeps {s0 s : State} {a2} (h : Keeps s0 s) : Keeps s0 (s.seedBay a2) := by
  unfold State.seedBay
  extract_lets +onlyGivenNames x1 x3 x4 x5
  have hx1 : Keeps s0 x1 := by
    unfold x1
    refine Keeps.foldl (fun t y ht => ?_) _ _ ?_
    · extract_lets +onlyGivenNames x2
      have hx2 : Keeps s0 x2.2 := State.drawSr_keeps ‹_›
      clear_value x2
      exact State.wf_keeps ‹_›
    · assumption
  have hx3 : Keeps s0 x3.2 := State.drawSr_keeps ‹_›
  have hx4 : Keeps s0 x4 := State.wf_keeps ‹_›
  have hx5 : Keeps s0 x5.2 := State.drawSr_keeps ‹_›
  clear_value x1 x3 x4 x5
  exact State.wf_keeps ‹_›

theorem State.setBayPower_keeps {s0 s : State} {a2} {a3} (h : Keeps s0 s) : Keeps s0 (s.setBayPower a2 a3) :=
    by
  unfold State.setBayPower
  exact State.wf_keeps ‹_›

theorem State.bayOff_keeps {s0 s : State} {a2} (h : Keeps s0 s) : Keeps s0 (s.bayOff a2) := by
  unfold State.bayOff
  exact State.setBayPower_keeps (State.wipeBay_keeps ‹_›)

theorem State.bayOn_keeps {s0 s : State} {a2} (h : Keeps s0 s) : Keeps s0 (s.bayOn a2) := by
  unfold State.bayOn
  exact State.setBayPower_keeps (State.seedBay_keeps (State.wipeBay_keeps ‹_›))

theorem State.setDie_keeps {s0 s : State} {a2} {a3} (h : Keeps s0 s) : Keeps s0 (s.setDie a2 a3) := by
  unfold State.setDie
  exact Keeps.foldl (fun t y ht => State.setBayPower_keeps ‹_›) _ _ (State.wf_keeps ‹_›)

theorem State.dieOff_keeps {s0 s : State} {a2} (h : Keeps s0 s) : Keeps s0 (s.dieOff a2) := by
  unfold State.dieOff
  exact Keeps.foldl (fun t y ht => State.bayOff_keeps ‹_›) _ _ (State.wf_keeps ‹_›)

theorem State.dieOn_keeps {s0 s : State} {a2} (h : Keeps s0 s) : Keeps s0 (s.dieOn a2) := by
  unfold State.dieOn
  exact Keeps.foldl (fun t y ht => State.bayOn_keeps ‹_›) _ _ (State.wf_keeps ‹_›)

theorem State.setSky_keeps {s0 s : State} {a2} {a3} (h : Keeps s0 s) : Keeps s0 (s.setSky a2 a3) := by
  unfold State.setSky
  exact Keeps.record ‹_› rfl rfl rfl

theorem State.skyShow_keeps {s0 s : State} {a2} (h : Keeps s0 s) : Keeps s0 (s.skyShow a2) := by
  unfold State.skyShow
  exact State.wf_keeps ‹_›

theorem State.skyWipe_keeps {s0 s : State} {a2} (h : Keeps s0 s) : Keeps s0 (s.skyWipe a2) := by
  unfold State.skyWipe
  exact Keeps.foldl (fun t y ht => State.setReg_keeps ‹_›) _ _ (State.setSky_keeps ‹_›)

theorem State.showEngines_keeps {s0 s : State} {a2} (h : Keeps s0 s) : Keeps s0 (s.showEngines a2) := by
  unfold State.showEngines
  exact State.wfs_keeps ‹_›

theorem State.csmDown_keeps {s0 s : State} {a2} (h : Keeps s0 s) : Keeps s0 (s.csmDown a2) := by
  unfold State.csmDown
  extract_lets +onlyGivenNames x1 x2 x3
  have hx1 : Keeps s0 x1 := State.wf_keeps ‹_›
  have hx2 : Keeps s0 x2 := Keeps.foldl (fun t y ht => State.goDown_keeps ‹_›) _ _ ‹_›
  have hx3 : Keeps s0 x3 := Keeps.foldl (fun t y ht => Keeps.ite (fun _ => State.rampDown_keeps ‹_›) (fun _ => ‹_›)) _
      _ ‹_›
  clear_value x1 x2 x3
  exact State.showEngines_keeps ‹_›

theorem State.setAttach_keeps {s0 s : State} {a2} {a3} (h : Keeps s0 s) : Keeps s0 (s.setAttach a2 a3) := by
  unfold State.setAttach
  exact Keeps.record ‹_› rfl rfl rfl

theorem State.csmDark_keeps {s0 s : State} {a2} (h : Keeps s0 s) : Keeps s0 (s.csmDark a2) := by
  unfold State.csmDark
  extract_lets +onlyGivenNames x1 x2 x3
  have hx1 : Keeps s0 x1 := State.setAttach_keeps (State.wf_keeps (State.wf_keeps ‹_›))
  have hx2 : Keeps s0 x2 := Keeps.foldl (fun t y ht => Keeps.ite (fun _ => ‹_›) (fun _ => State.setRing_keeps ‹_›)) _
      _ ‹_›
  have hx3 : Keeps s0 x3 := Keeps.foldl (fun t y ht => Keeps.ite (fun _ => State.setChan_keeps ‹_›) (fun _ => ‹_›)) _
      _ ‹_›
  clear_value x1 x2 x3
  exact State.showEngines_keeps (State.skyShow_keeps (State.skyWipe_keeps ‹_›))

theorem State.csmWake_keeps {s0 s : State} {a2} (h : Keeps s0 s) : Keeps s0 (s.csmWake a2) := by
  unfold State.csmWake
  extract_lets +onlyGivenNames x1 x2 x3
  have hx1 : Keeps s0 x1 := State.wf_keeps ‹_›
  have hx2 : Keeps s0 x2 := Keeps.foldl (fun t y ht => Keeps.ite (fun _ => State.setRing_keeps ‹_›) (fun _ => ‹_›)) _
      _ ‹_›
  have hx3 : Keeps s0 x3 := Keeps.foldl (fun t y ht => Keeps.ite (fun _ => State.beginLaser_keeps ‹_›) (fun _ => ‹_›))
      _ _ ‹_›
  clear_value x1 x2 x3
  exact Keeps.ite (fun _ => State.beginLaser_keeps ‹_›) (fun _ => ‹_›)

theorem State.beginUnit_keeps {s0 s : State} {a2} {a3} (h : Keeps s0 s) : Keeps s0 (s.beginUnit a2 a3) := by
  unfold State.beginUnit
  split
  · exact State.setBayPower_keeps ‹_›
  · exact State.setDie_keeps ‹_›
  · exact Keeps.foldl (fun t y ht => Keeps.ite (fun _ => State.setDie_keeps ‹_›) (fun _ => ‹_›)) _ _ ‹_›
  · exact Keeps.ite (fun _ => State.csmWake_keeps ‹_›) (fun _ => State.csmDown_keeps ‹_›)
  · exact Keeps.ite (fun _ => State.wf_keeps ‹_›) (fun _ => State.wf_keeps ‹_›)
  · assumption
  · exact Keeps.ite (fun _ => ‹_›) (fun _ => State.showEngines_keeps (Keeps.record ‹_› rfl rfl rfl))
  · exact Keeps.ite (fun _ => ‹_›) (fun _ => State.showEngines_keeps (Keeps.record ‹_› rfl rfl rfl))
  · exact Keeps.ite (fun _ => ‹_›) (fun _ => State.skyShow_keeps (Keeps.record ‹_› rfl rfl rfl))

theorem State.finishUnit_keeps {s0 s : State} {a2} {a3} (h : Keeps s0 s) : Keeps s0 (s.finishUnit a2 a3) := by
  unfold State.finishUnit
  split
  · exact Keeps.ite (fun _ => State.bayOn_keeps ‹_›) (fun _ => State.bayOff_keeps ‹_›)
  · exact Keeps.ite (fun _ => State.dieOn_keeps ‹_›) (fun _ => State.dieOff_keeps ‹_›)
  · exact Keeps.foldl (fun t y ht => Keeps.ite (fun _ => Keeps.ite (fun _ => State.dieOn_keeps ‹_›) (fun _ =>
        State.dieOff_keeps ‹_›)) (fun _ => ‹_›)) _ _ ‹_›
  · exact Keeps.ite (fun _ => State.skyShow_keeps (State.showEngines_keeps (State.wf_keeps ‹_›))) (fun _ =>
        State.csmDark_keeps ‹_›)
  · exact Keeps.ite (fun _ => ‹_›) (fun _ => State.setAttach_keeps (State.wf_keeps ‹_›))
  · assumption
  · exact Keeps.ite (fun _ => State.showEngines_keeps (Keeps.record ‹_› rfl rfl rfl)) (fun _ => ‹_›)
  · exact Keeps.ite (fun _ => State.showEngines_keeps (Keeps.record ‹_› rfl rfl rfl)) (fun _ => ‹_›)
  · exact Keeps.ite (fun _ => State.skyShow_keeps (State.setSky_keeps (Keeps.record ‹_› rfl rfl rfl))) (fun _ => ‹_›)

theorem State.plannedChange_keeps {s0 s : State} {a2} (h : Keeps s0 s) : Keeps s0 (s.plannedChange a2) := by
  unfold State.plannedChange
  split
  · assumption
  · exact Keeps.ite (fun _ => ‹_›) (fun _ => Keeps.ite (fun _ => State.appliedTo_keeps (State.dropJob_keeps ‹_›)) (fun
        _ => Keeps.ite (fun _ => State.appliedAs_keeps (State.dropJob_keeps ‹_›)) (fun _ => Keeps.ite (fun _ =>
        State.setJob_keeps (State.beginUnit_keeps ‹_›)) (fun _ => ‹_›))))

theorem State.changeDone_keeps {s0 s : State} {a2} (h : Keeps s0 s) : Keeps s0 (s.changeDone a2) := by
  unfold State.changeDone
  split
  · exact Keeps.ite (fun _ => State.turnOnEnd_keeps ‹_›) (fun _ => State.rampEnd_keeps ‹_›)
  · split
    · assumption
    · extract_lets +onlyGivenNames x1
      clear_value x1
      refine Keeps.ite (fun _ => ?_) (fun _ => ?_)
      · assumption
      · extract_lets +onlyGivenNames x2
        have hx2 : Keeps s0 x2 := State.appliedTo_keeps (State.dropJob_keeps (State.finishUnit_keeps ‹_›))
        clear_value x2
        split
        · assumption
        · exact Keeps.ite (fun _ => State.appliedTo_keeps ‹_›) (fun _ => State.setJob_keeps ‹_›)

theorem State.blockReset_keeps {s0 s : State} {a2} (h : Keeps s0 s) : Keeps s0 (s.blockReset a2) := by
  unfold State.blockReset
  refine Keeps.ite (fun _ => ?_) (fun _ => ?_)
  · extract_lets +onlyGivenNames x1
    clear_value x1
    refine Keeps.ite (fun _ => ?_) (fun _ => ?_)
    · assumption
    · extract_lets +onlyGivenNames x2
      have hx2 : Keeps s0 x2 := State.setRing_keeps ‹_›
      clear_value x2
      exact Keeps.ite (fun _ => State.failTx_keeps ‹_›) (fun _ => State.failRx_keeps ‹_›)
  · split
    · assumption
    · refine Keeps.ite (fun _ => ?_) (fun _ => ?_)
      · assumption
      · extract_lets +onlyGivenNames x3
        have hx3 : Keeps s0 x3 := State.unitReq_keeps ‹_›
        clear_value x3
        split
        · exact Keeps.ite (fun _ => ‹_›) (fun _ => State.setJob_keeps ‹_›)
        · assumption

theorem State.blockResetsDue_keeps {s0 s : State} (h : Keeps s0 s) : Keeps s0 (s.blockResetsDue) := by
  unfold State.blockResetsDue
  exact Keeps.foldl (fun t y ht => State.blockReset_keeps ‹_›) _ _ (Keeps.record ‹_› rfl rfl rfl)

theorem State.dropPoint_keeps {s0 s : State} {a2} (h : Keeps s0 s) : Keeps s0 (s.dropPoint a2) := by
  unfold State.dropPoint
  exact State.wfs_keeps (Keeps.record ‹_› rfl rfl rfl)

theorem State.pointReq_keeps {s0 s : State} {a2} {a3} {a4} (h : Keeps s0 s) : Keeps s0 (s.pointReq a2 a3 a4).1
    := by
  unfold State.pointReq
  extract_lets +onlyGivenNames x1
  have hx1 : Keeps s0 x1 := by
    unfold x1
    split
    · exact State.appliedTo_keeps (State.dropPoint_keeps ‹_›)
    · assumption
  clear_value x1
  split
  · dsimp only
    assumption
  · dsimp only
    exact State.wfs_keeps (Keeps.record ‹_› rfl rfl rfl)

theorem State.pointSet_keeps {s0 s : State} {a2} (h : Keeps s0 s) : Keeps s0 (s.pointSet a2) := by
  unfold State.pointSet
  extract_lets +onlyGivenNames x1
  clear_value x1
  refine Keeps.ite (fun _ => ?_) (fun _ => ?_)
  · exact State.reply_keeps ‹_›
  · extract_lets +onlyGivenNames x2
    have hx2 : Keeps s0 x2.1 := State.pointReq_keeps ‹_›
    clear_value x2
    exact State.reply_keeps ‹_›

theorem State.pointDone_keeps {s0 s : State} {a2} (h : Keeps s0 s) : Keeps s0 (s.pointDone a2) := by
  unfold State.pointDone
  split
  · assumption
  · exact Keeps.ite (fun _ => ‹_›) (fun _ => State.appliedTo_keeps (State.wf_keeps (State.dropPoint_keeps ‹_›)))

theorem State.roleSet_keeps {s0 s : State} {a2} (h : Keeps s0 s) : Keeps s0 (s.roleSet a2) := by
  unfold State.roleSet
  extract_lets +onlyGivenNames x1 x2 x3 x4 x5
  have hx2 : Keeps s0 x2 := Keeps.record ‹_› rfl rfl rfl
  have hx3 : Keeps s0 x3 := by
    unfold x3
    split
    · exact Keeps.ite (fun _ => State.applied_keeps ‹_›) (fun _ => ‹_›)
    · assumption
  have hx5 : Keeps s0 x5 := State.wf_keeps (Keeps.record ‹_› rfl rfl rfl)
  clear_value x1 x2 x3 x4 x5
  exact State.reply_keeps ‹_›

theorem State.enterRole_keeps {s0 s : State} {a2} {a3} {a4} (h : Keeps s0 s) : Keeps s0 (s.enterRole a2 a3 a4)
    := by
  unfold State.enterRole
  extract_lets +onlyGivenNames x1
  clear_value x1
  refine Keeps.ite (fun _ => ?_) (fun _ => ?_)
  · extract_lets +onlyGivenNames x2 x3 x4
    have hx2 : Keeps s0 x2 := by
      unfold x2
      split
      · exact State.appliedTo_keeps (State.dropPoint_keeps ‹_›)
      · assumption
    have hx3 : Keeps s0 x3 := State.wf_keeps ‹_›
    have hx4 : Keeps s0 x4 := Keeps.record ‹_› rfl rfl rfl
    clear_value x2 x3 x4
    exact Keeps.foldl (fun t y ht => State.unitReq_keeps ‹_›) _ _ ‹_›
  · exact Keeps.ite (fun _ => Keeps.foldl (fun t y ht => State.unitReq_keeps ‹_›) _ _ (State.wf_keeps ‹_›)) (fun _ =>
        ‹_›)

theorem State.roleChange_keeps {s0 s : State} {a2} (h : Keeps s0 s) : Keeps s0 (s.roleChange a2) := by
  unfold State.roleChange
  split
  · assumption
  · refine Keeps.ite (fun _ => ?_) (fun _ => ?_)
    · assumption
    · extract_lets +onlyGivenNames x1 x2 x3 x4
      have hx2 : Keeps s0 x2 := Keeps.record ‹_› rfl rfl rfl
      have hx3 : Keeps s0 x3 := State.wf_keeps (State.wf_keeps ‹_›)
      have hx4 : Keeps s0 x4 := State.enterRole_keeps ‹_›
      clear_value x1 x2 x3 x4
      exact Keeps.ite (fun _ => State.applied_keeps ‹_›) (fun _ => ‹_›)

theorem State.capSet_keeps {s0 s : State} {a2} (h : Keeps s0 s) : Keeps s0 (s.capSet a2) := by
  unfold State.capSet
  exact Keeps.ite (fun _ => State.reply_keeps ‹_›) (fun _ => State.reply_keeps (State.wf_keeps ‹_›))

theorem State.capFrame_keeps {s0 s : State} {a2} (h : Keeps s0 s) : Keeps s0 (s.capFrame a2) := by
  unfold State.capFrame
  exact State.wfs_keeps (Keeps.record ‹_› rfl rfl rfl)

theorem State.capDrop_keeps {s0 s : State} (h : Keeps s0 s) : Keeps s0 (s.capDrop) := by
  unfold State.capDrop
  refine Keeps.ite (fun _ => ?_) (fun _ => ?_)
  · assumption
  · extract_lets +onlyGivenNames x1
    have hx1 : Keeps s0 x1 := State.wf_keeps (Keeps.record ‹_› rfl rfl rfl)
    clear_value x1
    exact Keeps.foldl (fun t y ht => Keeps.ite (fun _ => ‹_›) (fun _ => State.raise_keeps (State.pointReq_keeps ‹_›)))
        _ _ ‹_›

theorem State.clampDie_keeps {s0 s : State} {a2} (h : Keeps s0 s) : Keeps s0 (s.clampDie a2) := by
  unfold State.clampDie
  exact State.dieOff_keeps (Keeps.record (Keeps.foldl (fun t y ht => State.appliedAs_keeps (State.appliedAs_keeps
      ‹_›)) _ _ ‹_›) rfl rfl rfl)

theorem State.dieUv_keeps {s0 s : State} {a2} {a3} {a4} (h : Keeps s0 s) : Keeps s0 (s.dieUv a2 a3 a4) := by
  unfold State.dieUv
  exact Keeps.ite (fun _ => ‹_›) (fun _ => State.clampDie_keeps (State.raise_keeps ‹_›))

theorem State.excludeSensor_keeps {s0 s : State} {a2} {a3} (h : Keeps s0 s) : Keeps s0 (s.excludeSensor a2 a3) := by
  unfold State.excludeSensor
  extract_lets s1 s2 s3
  have h1 : Keeps s0 s1 := Keeps.record h rfl rfl rfl
  have h2 : Keeps s0 s2 := State.satf_keeps (State.satf_keeps h1)
  have h3 : Keeps s0 s3 := State.raise_keeps (State.satf_keeps h2)
  exact Keeps.ite (fun _ => h) fun _ => Keeps.ite (fun _ => State.clampDie_keeps (State.raise_keeps h3)) fun _ => h3

theorem State.thermalStep_keeps {s0 s : State} {a2} {a3} (h : Keeps s0 s) : Keeps s0 (s.thermalStep a2 a3) :=
    by
  unfold State.thermalStep
  exact State.wfs_keeps ‹_›

theorem State.chmUnit_keeps {s0 s : State} {a2} {a3} (h : Keeps s0 s) : Keeps s0 (s.chmUnit a2 a3) := by
  unfold State.chmUnit
  split
  · assumption
  · exact State.wfs_keeps ‹_›

theorem State.chmMax_keeps {s0 s : State} {a2} {a3} (h : Keeps s0 s) : Keeps s0 (s.chmMax a2 a3) := by
  unfold State.chmMax
  split
  · assumption
  · exact State.wfs_keeps ‹_›

theorem State.csmThermal_keeps {s0 s : State} {a2} (h : Keeps s0 s) : Keeps s0 (s.csmThermal a2) := by
  unfold State.csmThermal
  exact Keeps.ite (fun _ => ‹_›) (fun _ => State.showEngines_keeps (State.plannedChange_keeps (State.unitReq_keeps
      (State.raise_keeps (State.wf_keeps ‹_›)))))

theorem State.chimney_keeps {s0 s : State} {a2} (h : Keeps s0 s) : Keeps s0 (s.chimney a2) := by
  unfold State.chimney
  extract_lets +onlyGivenNames x1 x2 x3 x4 x5 x6
  have hx1 : Keeps s0 x1 := Keeps.foldl (fun t y ht => Keeps.ite (fun _ => State.excludeSensor_keeps ‹_›) (fun _ =>
      ‹_›)) _ _ ‹_›
  have hx3 : Keeps s0 x3 := Keeps.foldl (fun t y ht => State.chmUnit_keeps ‹_›) _ _ ‹_›
  have hx4 : Keeps s0 x4 := Keeps.foldl (fun t y ht => State.chmMax_keeps ‹_›) _ _ ‹_›
  have hx5 : Keeps s0 x5 := State.chmMax_keeps ‹_›
  have hx6 : Keeps s0 x6 := Keeps.foldl (fun t y ht => State.thermalStep_keeps ‹_›) _ _ ‹_›
  clear_value x1 x2 x3 x4 x5 x6
  exact Keeps.foldl (fun t y ht => Keeps.ite (fun _ => State.csmThermal_keeps ‹_›) (fun _ => ‹_›)) _ _ ‹_›

theorem State.showTrip_keeps {s0 s : State} (h : Keeps s0 s) : Keeps s0 (s.showTrip) := by
  unfold State.showTrip
  exact State.setReg_keeps ‹_›

theorem State.clamp_keeps {s0 s : State} (h : Keeps s0 s) : Keeps s0 (s.clamp) := by
  unfold State.clamp
  extract_lets +onlyGivenNames x1 x2
  have hx1 : Keeps s0 x1 := Keeps.foldl (fun t y ht => State.dieOff_keeps ‹_›) _ _ ‹_›
  have hx2 : Keeps s0 x2 := by
    unfold x2
    refine Keeps.foldl (fun t y ht => ?_) _ _ ?_
    · extract_lets +onlyGivenNames x3 x4
      have hx3 : Keeps s0 x3 := Keeps.foldl (fun t y ht => Keeps.ite (fun _ => State.setChan_keeps ‹_›) (fun _ =>
          ‹_›)) _ _ ‹_›
      have hx4 : Keeps s0 x4 := State.wf_keeps (State.setCarrier_keeps (State.setCarrier_keeps ‹_›))
      clear_value x3 x4
      exact State.showEngines_keeps ‹_›
    · assumption
  clear_value x1 x2
  exact Keeps.record ‹_› rfl rfl rfl

theorem Keeps.tripRecord {s0 s : State} {r} (h : Keeps s0 s) :
    Keeps s0 ({ s with nv := { s.nv with trip := r, trips := s.nv.trips + 1 }, mode := .off } : State).showTrip :=
  State.showTrip_keeps (Keeps.record h rfl rfl rfl
    ⟨Nat.le_succ _, le_refl _, le_refl _, le_refl _, le_refl _, List.prefix_refl _⟩)

theorem State.trip_keeps {s0 s : State} {a2} {a3} {a4} (h : Keeps s0 s) : Keeps s0 (s.trip a2 a3 a4) := by
  unfold State.trip
  split
  · exact h
  · exact Keeps.ite (fun _ => h) fun _ => Keeps.ite (fun _ => State.clamp_keeps (State.wf_keeps h)) fun _ =>
      Keeps.tripRecord (State.clamp_keeps (State.raise_keeps (State.wf_keeps h)))

theorem State.powerFrame_keeps {s0 s : State} {a2} (h : Keeps s0 s) : Keeps s0 (s.powerFrame a2) := by
  unfold State.powerFrame
  extract_lets +onlyGivenNames x1 x2 x3 x4
  have hx1 : Keeps s0 x1 := Keeps.foldl (fun t y ht => State.wfs_keeps ‹_›) _ _ ‹_›
  have hx2 : Keeps s0 x2 := Keeps.foldl (fun t y ht => State.wf_keeps ‹_›) _ _ ‹_›
  have hx3 : Keeps s0 x3 := Keeps.foldl (fun t y ht => State.wfs_keeps ‹_›) _ _ ‹_›
  have hx4 : Keeps s0 x4 := State.chimney_keeps (State.capFrame_keeps ‹_›)
  clear_value x1 x2 x3 x4
  exact Keeps.record ‹_› rfl rfl rfl

theorem State.setHearth_keeps {s0 s : State} {a2} {a3} (h : Keeps s0 s) : Keeps s0 (s.setHearth a2 a3) := by
  unfold State.setHearth
  exact State.wf_keeps ‹_›

theorem State.loseHearth_keeps {s0 s : State} {a2} (h : Keeps s0 s) : Keeps s0 (s.loseHearth a2) := by
  unfold State.loseHearth
  exact State.wf_keeps (State.setHearth_keeps (State.raise_keeps ‹_›))

theorem State.loseHearths_keeps {s0 s : State} (h : Keeps s0 s) : Keeps s0 (s.loseHearths) := by
  unfold State.loseHearths
  exact State.raise_keeps (State.wf_keeps (State.setHearth_keeps (State.setHearth_keeps ‹_›)))

theorem State.secSwap_keeps {s0 s : State} {a2} (h : Keeps s0 s) : Keeps s0 (s.secSwap a2) := by
  unfold State.secSwap
  exact State.wfs_keeps (State.setReg_keeps (Keeps.record ‹_› rfl rfl rfl))

theorem State.takeover_keeps {s0 s : State} (h : Keeps s0 s) : Keeps s0 (s.takeover) := by
  unfold State.takeover
  exact State.loseHearth_keeps (State.setHearth_keeps (State.secSwap_keeps (State.satf_keeps (State.wf_keeps
      (Keeps.record (State.wf_keeps ‹_›) rfl rfl rfl)))))

theorem State.heartbeat_keeps {s0 s : State} {a2} {a3} (h : Keeps s0 s) : Keeps s0 (s.heartbeat a2 a3) := by
  unfold State.heartbeat
  exact Keeps.ite (fun _ => ‹_›) (fun _ => Keeps.ite (fun _ => Keeps.ite (fun _ => Keeps.record ‹_› rfl rfl rfl) (fun
      _ => ‹_›)) (fun _ => Keeps.ite (fun _ => State.setHearth_keeps (State.unfence_keeps (Keeps.record ‹_› rfl rfl
      rfl))) (fun _ => ‹_›)))

theorem State.mismatch_keeps {s0 s : State} (h : Keeps s0 s) : Keeps s0 (s.mismatch) := by
  unfold State.mismatch
  exact State.setHearth_keeps (State.setHearth_keeps ‹_›)

theorem State.selfcheck_keeps {s0 s : State} {a2} {a3} (h : Keeps s0 s) : Keeps s0 (s.selfcheck a2 a3) := by
  unfold State.selfcheck
  extract_lets +onlyGivenNames x1
  clear_value x1
  refine Keeps.ite (fun _ => ?_) (fun _ => ?_)
  · assumption
  · refine Keeps.ite (fun _ => ?_) (fun _ => ?_)
    · exact Keeps.ite (fun _ => State.setHearth_keeps ‹_›) (fun _ => State.loseHearth_keeps ‹_›)
    · split
      · exact State.raise_keeps (State.satf_keeps (State.wf_keeps (State.setHearth_keeps (State.setHearth_keeps
            ‹_›))))
      · exact State.loseHearth_keeps (State.setHearth_keeps ‹_›)
      · exact Keeps.record (State.takeover_keeps ‹_›) rfl rfl rfl
      · exact State.loseHearths_keeps ‹_›

theorem State.heartbeatMissing_keeps {s0 s : State} (h : Keeps s0 s) : Keeps s0 (s.heartbeatMissing) := by
  unfold State.heartbeatMissing
  exact Keeps.ite (fun _ => ‹_›) (fun _ => Keeps.ite (fun _ => State.takeover_keeps ‹_›) (fun _ =>
      State.loseHearths_keeps ‹_›))

theorem State.pairFrame_keeps {s0 s : State} (h : Keeps s0 s) : Keeps s0 (s.pairFrame) := by
  unfold State.pairFrame
  exact Keeps.record ‹_› rfl rfl rfl

end Sys2Proof.Machine
end

