-- ==== Sys2Proof/Laws/KeepsAttach.lean ====
section
/-!
SUPPORT. Sys2Proof/Laws/KeepsAttach.lean: what the operations over attachments, the Pantry, security, the Cellar and Skylight keep.
-/

set_option Elab.async false

namespace Sys2Proof.Machine

theorem State.setMods_keeps {s0 s : State} {a2} {a3} {a4} (h : Keeps s0 s) : Keeps s0 (s.setMods a2 a3 a4) :=
    by
  unfold State.setMods
  exact Keeps.ite (fun _ => State.wf_keeps (State.wf_keeps ‹_›)) (fun _ => State.wfs_keeps ‹_›)

theorem State.siteState_keeps {s0 s : State} {a2} {a3} (h : Keeps s0 s) : Keeps s0 (s.siteState a2 a3) := by
  unfold State.siteState
  exact State.wf_keeps ‹_›

theorem State.flitCrc_keeps {s0 s : State} {a2} (h : Keeps s0 s) : Keeps s0 (s.flitCrc a2) := by
  unfold State.flitCrc
  exact Keeps.ite (fun _ => State.satf_keeps ‹_›) (fun _ => State.satf_keeps ‹_›)

theorem State.widthCount_keeps {s0 s : State} {a2} (h : Keeps s0 s) : Keeps s0 (s.widthCount a2) := by
  unfold State.widthCount
  exact Keeps.ite (fun _ => State.satf_keeps ‹_›) (fun _ => State.satf_keeps ‹_›)

theorem State.guestDrop_keeps {s0 s : State} {a2} (h : Keeps s0 s) : Keeps s0 (s.guestDrop a2) := by
  unfold State.guestDrop
  exact Keeps.record (State.setAttach_keeps ‹_›) rfl rfl rfl

theorem State.framePush_keeps {s0 s : State} (h : Keeps s0 s) : Keeps s0 (s.framePush) := by
  unfold State.framePush
  exact State.wf_keeps ‹_›

theorem State.siteDown_keeps {s0 s : State} {a2} {a3} (h : Keeps s0 s) : Keeps s0 (s.siteDown a2 a3) := by
  unfold State.siteDown
  extract_lets +onlyGivenNames x1
  have hx1 : Keeps s0 x1 := State.wfs_keeps (State.guestDrop_keeps ‹_›)
  clear_value x1
  refine State.framePush_keeps ?_
  split
  · exact State.appliedAs_keeps (State.dropJob_keeps ‹_›)
  · assumption

theorem State.siteFail_keeps {s0 s : State} {a2} {a3} {a4} (h : Keeps s0 s) : Keeps s0 (s.siteFail a2 a3 a4) :=
    by
  unfold State.siteFail
  exact State.siteDown_keeps (State.raise_keeps ‹_›)

theorem State.admitSite_keeps {s0 s : State} {a2} {a3} (h : Keeps s0 s) : Keeps s0 (s.admitSite a2 a3) := by
  unfold State.admitSite
  extract_lets +onlyGivenNames x1 x2 x3
  have hx3 : Keeps s0 x3 := State.wf_keeps (State.setReg_keeps (State.setReg_keeps ‹_›))
  clear_value x1 x2 x3
  split
  · exact State.siteFail_keeps ‹_›
  · exact State.framePush_keeps (State.siteState_keeps (State.wf_keeps (State.setReg_keeps ‹_›)))

theorem State.guestReset_keeps {s0 s : State} {a2} (h : Keeps s0 s) : Keeps s0 (s.guestReset a2) := by
  unfold State.guestReset
  exact State.siteState_keeps (State.wfs_keeps (State.guestDrop_keeps ‹_›))

theorem State.pumpAttach_keeps {s0 : State} {a3 : Nat} : ∀ {a1 : Nat} {s : State}, Keeps s0 s →
    Keeps s0 (State.pumpAttach a1 s a3)
  | 0, _, h => h
  | _ + 1, s, h => by
    unfold State.pumpAttach
    extract_lets x
    clear_value x
    split
    · exact h
    · split
      · exact State.pumpAttach_keeps (State.setAttach_keeps h)
      · split
        · exact h
        · exact State.pumpAttach_keeps (State.setAttach_keeps h)

theorem State.pump_keeps {s0 s : State} {a2} (h : Keeps s0 s) : Keeps s0 (s.pump a2) := by
  unfold State.pump
  exact State.pumpAttach_keeps ‹_›

theorem State.guestSend_keeps {s0 s : State} {a2} {a3} {a4} (h : Keeps s0 s) : Keeps s0 (s.guestSend a2 a3 a4)
    := by
  unfold State.guestSend
  exact State.pump_keeps (State.setAttach_keeps ‹_›)

theorem State.guestReplies_keeps {s0 s : State} {a2} (h : Keeps s0 s) : Keeps s0 (s.guestReplies a2) := by
  unfold State.guestReplies
  exact Keeps.ite (fun _ => ‹_›) (fun _ => Keeps.foldl (fun t y ht => State.guestSend_keeps ‹_›) _ _ (Keeps.record ‹_›
      rfl rfl rfl))

theorem State.flitHead_keeps {s0 s : State} {a2} {a3} {a4} (h : Keeps s0 s) : Keeps s0 (s.flitHead a2 a3 a4).1
    := by
  unfold State.flitHead
  extract_lets +onlyGivenNames x1 x2
  clear_value x1 x2
  split
  · dsimp only
    assumption
  · split
    · dsimp only
      exact State.flitCrc_keeps ‹_›
    · split
      · dsimp only
        assumption
      · dsimp only
        assumption

theorem State.flitAck_keeps {s0 s : State} {a2} {a3} (h : Keeps s0 s) : Keeps s0 (s.flitAck a2 a3) := by
  unfold State.flitAck
  exact State.pump_keeps (State.setAttach_keeps ‹_›)

theorem State.flitSeq_keeps {s0 s : State} {a2} {a3} {a4} (h : Keeps s0 s) : Keeps s0 (s.flitSeq a2 a3 a4).1 :=
    by
  unfold State.flitSeq
  extract_lets +onlyGivenNames x1
  have hx1 : Keeps s0 x1.1 := State.flitHead_keeps ‹_›
  clear_value x1
  split
  · dsimp only
    assumption
  · extract_lets +onlyGivenNames x2
    clear_value x2
    split
    · dsimp only
      assumption
    · dsimp only
      exact State.flitAck_keeps (State.setAttach_keeps ‹_›)

theorem State.guestCpl_keeps {s0 s : State} {a2} {a3} {a4} {a5} (h : Keeps s0 s) : Keeps s0 (s.guestCpl a2 a3
    a4 a5) := by
  unfold State.guestCpl
  exact State.guestSend_keeps ‹_›

theorem State.guestBad_keeps {s0 s : State} {a2} {a3} {a4} (h : Keeps s0 s) : Keeps s0 (s.guestBad a2 a3 a4) :=
    by
  unfold State.guestBad
  exact State.note_keeps ‹_›

theorem State.guestRd_keeps {s0 s : State} {a2} {a3} (h : Keeps s0 s) : Keeps s0 (s.guestRd a2 a3) := by
  unfold State.guestRd
  extract_lets +onlyGivenNames x1
  have hx1 : Keeps s0 x1.1 := State.arrayRead_keeps ‹_›
  clear_value x1
  split
  · exact State.guestCpl_keeps ‹_›
  · exact State.guestCpl_keeps (State.guestBad_keeps ‹_›)
  · exact State.guestCpl_keeps (State.memFault_keeps ‹_›)

theorem State.guestWr_keeps {s0 s : State} {a2} {a3} (h : Keeps s0 s) : Keeps s0 (s.guestWr a2 a3) := by
  unfold State.guestWr
  split
  · exact State.guestCpl_keeps (State.localWrite_keeps ‹_› ‹_›)
  · exact State.guestCpl_keeps (State.guestBad_keeps ‹_›)
  · exact State.guestCpl_keeps (State.memFault_keeps ‹_›)
  · exact State.guestCpl_keeps (State.guestBad_keeps ‹_›)
  · exact State.guestCpl_keeps ‹_›

theorem State.guestHearth_keeps {s0 s : State} {a2} {a3} (h : Keeps s0 s) : Keeps s0 (s.guestHearth a2 a3) :=
    by
  unfold State.guestHearth
  exact Keeps.ite (fun _ => ‹_›) (fun _ => Keeps.ite (fun _ => State.setAttach_keeps ‹_›) (fun _ => Keeps.ite (fun _
      => State.takeCmd_keeps (State.setAttach_keeps ‹_›)) (fun _ => State.setAttach_keeps ‹_›)))

theorem State.guestPkt_keeps {s0 s : State} {a2} {a3} (h : Keeps s0 s) : Keeps s0 (s.guestPkt a2 a3) := by
  unfold State.guestPkt
  exact Keeps.ite (fun _ => State.guestRd_keeps ‹_›) (fun _ => Keeps.ite (fun _ => State.guestWr_keeps ‹_›) (fun _ =>
      Keeps.ite (fun _ => State.guestHearth_keeps ‹_›) (fun _ => ‹_›)))

theorem State.guestUnit_keeps {s0 s : State} {a2} {a3} {a4} (h : Keeps s0 s) : Keeps s0 (s.guestUnit a2 a3 a4)
    := by
  unfold State.guestUnit
  exact Keeps.ite (fun _ => ‹_›) (fun _ => Keeps.ite (fun _ => State.guestPkt_keeps (State.setAttach_keeps ‹_›)) (fun
      _ => State.setAttach_keeps ‹_›))

theorem State.dataFlit_keeps {s0 s : State} {a2} {a3} (h : Keeps s0 s) : Keeps s0 (s.dataFlit a2 a3) := by
  unfold State.dataFlit
  extract_lets +onlyGivenNames x1
  have hx1 : Keeps s0 x1.1 := State.flitSeq_keeps ‹_›
  clear_value x1
  exact Keeps.ite (fun _ => ‹_›) (fun _ => State.guestReplies_keeps (Keeps.foldl (fun t y ht => State.guestUnit_keeps
      ‹_›) _ _ ‹_›))

theorem State.attachFrame_keeps {s0 s : State} (h : Keeps s0 s) : Keeps s0 (s.attachFrame) := by
  unfold State.attachFrame
  exact Keeps.foldl (fun t y ht => Keeps.ite (fun _ => ‹_›) (fun _ => State.guestReplies_keeps (Keeps.ite (fun _ =>
      State.pump_keeps (State.setAttach_keeps ‹_›)) (fun _ => ‹_›)))) _ _ ‹_›

theorem State.attRetrain_keeps {s0 s : State} {a2} {a3} (h : Keeps s0 s) : Keeps s0 (s.attRetrain a2 a3) := by
  unfold State.attRetrain
  extract_lets +onlyGivenNames x1 x2
  have hx2 : Keeps s0 x2 := State.setAttach_keeps ‹_›
  clear_value x1 x2
  exact Keeps.ite (fun _ => ‹_›) (fun _ => State.siteState_keeps (State.satf_keeps ‹_›))

theorem State.flitReplay_keeps {s0 s : State} {a2} (h : Keeps s0 s) : Keeps s0 (s.flitReplay a2) := by
  unfold State.flitReplay
  extract_lets +onlyGivenNames x1
  clear_value x1
  refine Keeps.ite (fun _ => ?_) (fun _ => ?_)
  · assumption
  · extract_lets +onlyGivenNames x2
    have hx2 : Keeps s0 x2 := Keeps.ite (fun _ => ‹_›) (fun _ => State.satf_keeps ‹_›)
    clear_value x2
    exact Keeps.ite (fun _ => State.setAttach_keeps ‹_›) (fun _ => State.attRetrain_keeps ‹_›)

theorem State.attUp_keeps {s0 s : State} {a2} (h : Keeps s0 s) : Keeps s0 (s.attUp a2) := by
  unfold State.attUp
  extract_lets +onlyGivenNames x1 x2
  have hx2 : Keeps s0 x2 := State.setAttach_keeps ‹_›
  clear_value x1 x2
  exact Keeps.ite (fun _ => ‹_›) (fun _ => State.pump_keeps (State.framePush_keeps (State.siteState_keeps ‹_›)))

theorem State.widthFail_keeps {s0 s : State} {a2} (h : Keeps s0 s) : Keeps s0 (s.widthFail a2) := by
  unfold State.widthFail
  extract_lets +onlyGivenNames x1 x2
  have hx2 : Keeps s0 x2 := State.setMods_keeps (State.raise_keeps ‹_›)
  clear_value x1 x2
  refine Keeps.ite (fun _ => ?_) (fun _ => ?_)
  · exact Keeps.ite (fun _ => State.raise_keeps (State.setAttach_keeps ‹_›)) (fun _ => State.siteDown_keeps
        (State.fence_keeps ‹_›))
  · extract_lets +onlyGivenNames x3 x4
    have hx4 : Keeps s0 x4 := State.setAttach_keeps ‹_›
    clear_value x3 x4
    exact Keeps.ite (fun _ => ‹_›) (fun _ => State.siteState_keeps (State.wf_keeps ‹_›))

theorem State.widthDiffers_keeps {s0 s : State} {a2} {a3} {a4} (h : Keeps s0 s) : Keeps s0 (s.widthDiffers a2
    a3 a4) := by
  unfold State.widthDiffers
  extract_lets +onlyGivenNames x1
  have hx1 : Keeps s0 x1 := State.widthCount_keeps ‹_›
  clear_value x1
  exact Keeps.ite (fun _ => State.widthFail_keeps ‹_›) (fun _ => State.attRetrain_keeps (State.setMods_keeps ‹_›))

theorem State.widthCompare_keeps {s0 s : State} {a2} (h : Keeps s0 s) : Keeps s0 (s.widthCompare a2) := by
  unfold State.widthCompare
  split
  · exact Keeps.ite (fun _ => Keeps.ite (fun _ => State.attUp_keeps ‹_›) (fun _ => Keeps.ite (fun _ => ‹_›) (fun _ =>
        State.guestReset_keeps ‹_›))) (fun _ => State.widthDiffers_keeps ‹_›)
  · assumption

theorem State.attTrained_keeps {s0 s : State} {a2} {a3} {a4} (h : Keeps s0 s) : Keeps s0 (s.attTrained a2 a3
    a4) := by
  unfold State.attTrained
  extract_lets +onlyGivenNames x1 x2 x3 x4 x5 x6
  have hx4 : Keeps s0 x4 := State.setMods_keeps (State.setAttach_keeps ‹_›)
  have hx6 : Keeps s0 x6 := Keeps.ite (fun _ => State.wfs_keeps ‹_›) (fun _ => State.wfs_keeps ‹_›)
  clear_value x1 x2 x3 x4 x5 x6
  exact State.widthCompare_keeps ‹_›

theorem State.widthReport_keeps {s0 s : State} {a2} {a3} (h : Keeps s0 s) : Keeps s0 (s.widthReport a2 a3) :=
    by
  unfold State.widthReport
  extract_lets +onlyGivenNames x1 x2 x3 x4 x5
  clear_value x1 x2 x3 x4 x5
  refine Keeps.ite (fun _ => ?_) (fun _ => ?_)
  · assumption
  · extract_lets +onlyGivenNames x6 x7
    have hx6 : Keeps s0 x6 := State.setAttach_keeps ‹_›
    have hx7 : Keeps s0 x7 := Keeps.ite (fun _ => ‹_›) (fun _ => State.wfs_keeps ‹_›)
    clear_value x6 x7
    exact State.widthCompare_keeps ‹_›

theorem State.moduleDown_keeps {s0 s : State} {a2} {a3} (h : Keeps s0 s) : Keeps s0 (s.moduleDown a2 a3) := by
  unfold State.moduleDown
  extract_lets +onlyGivenNames x1
  clear_value x1
  refine Keeps.ite (fun _ => ?_) (fun _ => ?_)
  · assumption
  · extract_lets +onlyGivenNames x2
    have hx2 : Keeps s0 x2 := State.setMods_keeps ‹_›
    clear_value x2
    exact Keeps.ite (fun _ => ‹_›) (fun _ => Keeps.ite (fun _ => State.setAttach_keeps ‹_›) (fun _ =>
        State.guestReset_keeps ‹_›))

theorem State.fullResetEnd_keeps {s0 s : State} {a2} {a3} (h : Keeps s0 s) : Keeps s0 (s.fullResetEnd a2 a3) :=
    by
  unfold State.fullResetEnd
  extract_lets +onlyGivenNames x1
  clear_value x1
  refine Keeps.ite (fun _ => ?_) (fun _ => ?_)
  · assumption
  · extract_lets +onlyGivenNames x2
    have hx2 : Keeps s0 x2 := State.setAttach_keeps ‹_›
    clear_value x2
    refine Keeps.ite (fun _ => ?_) (fun _ => ?_)
    · assumption
    · extract_lets +onlyGivenNames x3
      have hx3 : Keeps s0 x3 := State.siteState_keeps ‹_›
      clear_value x3
      split
      · exact State.admitSite_keeps ‹_›
      · exact State.siteFail_keeps ‹_›

theorem State.guestAccess_keeps {s0 s : State} {a2} {a3} {a4} {a5} (h : Keeps s0 s) : Keeps s0 (s.guestAccess
    a2 a3 a4 a5) := by
  unfold State.guestAccess
  extract_lets +onlyGivenNames x1 x2 x3
  have hx3 : Keeps s0 x3 := Keeps.record ‹_› rfl rfl rfl
  clear_value x1 x2 x3
  refine Keeps.ite (fun _ => ?_) (fun _ => ?_)
  · exact State.mgmtError_keeps ‹_›
  · refine Keeps.ite (fun _ => ?_) (fun _ => ?_)
    · exact Keeps.ite (fun _ => ‹_›) (fun _ => ‹_›)
    · split
      · exact State.satf_keeps (Keeps.ite (fun _ => ‹_›) (fun _ => ‹_›))
      · exact Keeps.ite (fun _ => ‹_›) (fun _ => Keeps.record ‹_› rfl rfl rfl)

theorem State.porchFail_keeps {s0 s : State} {a2} (h : Keeps s0 s) : Keeps s0 (s.porchFail a2) := by
  unfold State.porchFail
  split
  · assumption
  · exact Keeps.ite (fun _ => ‹_›) (fun _ => Keeps.ite (fun _ => State.goDown_keeps (State.setPorch_keeps ‹_›)) (fun _
        => State.setPorch_keeps (State.startRetrain_keeps ‹_›)))

theorem State.seamDown_keeps {s0 s : State} {a2} (h : Keeps s0 s) : Keeps s0 (s.seamDown a2) := by
  unfold State.seamDown
  extract_lets +onlyGivenNames x1 x2 x3
  have hx1 : Keeps s0 x1 := State.wf_keeps (State.wf_keeps ‹_›)
  have hx2 : Keeps s0 x2 := State.raise_keeps ‹_›
  clear_value x1 x2 x3
  exact Keeps.foldl (fun t y ht => State.raise_keeps ‹_›) _ _ ‹_›

theorem State.setEntry_keeps {s0 s : State} {a2} {a3} (h : Keeps s0 s) : Keeps s0 (s.setEntry a2 a3) := by
  unfold State.setEntry
  exact Keeps.record ‹_› rfl rfl rfl

theorem State.checkEntry_keeps {s0 s : State} {a2} (h : Keeps s0 s) : Keeps s0 (s.checkEntry a2) := by
  unfold State.checkEntry
  exact Keeps.ite (fun _ => ‹_›) (fun _ => State.hostEvent_keeps (State.wfs_keeps (State.satf_keeps
      (State.setEntry_keeps ‹_›))))

theorem State.readSet_keeps {s0 s : State} {a2} (h : Keeps s0 s) : Keeps s0 (s.readSet a2) := by
  unfold State.readSet
  exact Keeps.foldl (fun t y ht => State.checkEntry_keeps ‹_›) _ _ ‹_›

theorem State.freedEvent_keeps {s0 s : State} {a2} (h : Keeps s0 s) : Keeps s0 (s.freedEvent a2) := by
  unfold State.freedEvent
  exact State.hostEvent_keeps ‹_›

theorem State.evictDone_keeps {s0 s : State} {a2} {a3} {a4} (h : Keeps s0 s) : Keeps s0 (s.evictDone a2 a3 a4)
    := by
  unfold State.evictDone
  exact Keeps.foldl (fun t y ht => State.applied_keeps ‹_›) _ _ (Keeps.record ‹_› rfl rfl rfl)

theorem State.unpin_keeps {s0 s : State} {a2} {a3} (h : Keeps s0 s) : Keeps s0 (s.unpin a2 a3) := by
  unfold State.unpin
  extract_lets s1 e e' s2
  have h1 : Keeps s0 s1 := State.checkEntry_keeps h
  have h2 : Keeps s0 s2 := Keeps.ite (fun _ => State.freedEvent_keeps (State.setEntry_keeps h1)) fun _ =>
    State.setEntry_keeps h1
  exact Keeps.ite (fun _ => State.evictDone_keeps h1) fun _ => Keeps.ite (fun _ => State.evictDone_keeps h2) fun _ => h2

theorem State.insertKey_keeps {s0 s : State} {a2} {a3} (h : Keeps s0 s) : Keeps s0 (s.insertKey a2 a3).1 := by
  unfold State.insertKey
  extract_lets +onlyGivenNames x1 x2
  clear_value x1 x2
  split
  · dsimp only
    exact State.setEntry_keeps ‹_›
  · dsimp only
    exact State.setEntry_keeps ‹_›
  · dsimp only
    exact State.setEntry_keeps (State.freedEvent_keeps ‹_›)
  · dsimp only
    assumption

theorem State.publishOne_keeps {s0 s : State} {a2} (h : Keeps s0 s) : Keeps s0 (s.publishOne a2).1 := by
  unfold State.publishOne
  extract_lets +onlyGivenNames x1
  clear_value x1
  split
  · dsimp only
    assumption
  · split
    · dsimp only
      assumption
    · extract_lets +onlyGivenNames x2
      have hx2 : Keeps s0 x2 := State.readSet_keeps ‹_›
      clear_value x2
      split
      · exact State.insertKey_keeps ‹_›
      · extract_lets +onlyGivenNames x3 x4
        clear_value x3 x4
        split
        · dsimp only
          exact State.setEntry_keeps ‹_›
        · split
          · dsimp only
            exact State.setEntry_keeps (State.freedEvent_keeps ‹_›)
          · dsimp only
            assumption

theorem State.putResult_keeps {s0 s : State} {a2} {a3} {a4} (h : Keeps s0 s) : Keeps s0 (s.putResult a2 a3 a4)
    := by
  unfold State.putResult
  extract_lets +onlyGivenNames x1
  clear_value x1
  split
  · exact State.engineWrite_keeps ‹_› ‹_›
  · assumption

theorem State.applyList_keeps {s0 s : State} {a2} {a3} {f4} (h : Keeps s0 s) (hf0 : ∀ y1 y2, Keeps s0 y1 → Keeps s0
    (f4 y1 y2).1) : Keeps s0 (s.applyList a2 a3 f4).1 := by
  unfold State.applyList
  refine Keeps.foldl_fst (fun t y ht => ?_) _ _ ?_
  · extract_lets +onlyGivenNames x1
    have hx1 : Keeps s0 x1.1 := hf0 _ _ ‹_›
    clear_value x1
    dsimp only
    exact State.putResult_keeps ‹_›
  · dsimp only
    assumption

theorem State.pantryPublish_keeps {s0 s : State} {a2} (h : Keeps s0 s) : Keeps s0 (s.pantryPublish a2) := by
  unfold State.pantryPublish
  extract_lets +onlyGivenNames x1 x2
  clear_value x1 x2
  refine Keeps.ite (fun _ => ?_) (fun _ => ?_)
  · exact State.reply_keeps ‹_›
  · refine Keeps.ite (fun _ => ?_) (fun _ => ?_)
    · exact State.reply_keeps ‹_›
    · refine Keeps.ite (fun _ => ?_) (fun _ => ?_)
      · exact State.reply_keeps ‹_›
      · extract_lets +onlyGivenNames x3
        have hx3 : Keeps s0 x3.1 := State.applyList_keeps ‹_› (fun t4 t5 ht6 => State.publishOne_keeps ‹_›)
        clear_value x3
        exact State.reply_keeps ‹_›

theorem State.publishAway_keeps {s0 s : State} {a2} (h : Keeps s0 s) : Keeps s0 (s.publishAway a2).1 := by
  unfold State.publishAway
  split
  · dsimp only
    assumption
  · extract_lets +onlyGivenNames x1
    have hx1 : Keeps s0 x1.2 := State.draw_keeps ‹_›
    clear_value x1
    dsimp only
    assumption

theorem State.applyPublish_keeps {s0 s : State} {a2} (h : Keeps s0 s) : Keeps s0 (s.applyPublish a2) := by
  unfold State.applyPublish
  extract_lets +onlyGivenNames x1
  clear_value x1
  refine Keeps.ite (fun _ => ?_) (fun _ => ?_)
  · exact State.hostEvent_keeps ‹_›
  · extract_lets +onlyGivenNames x2
    have hx2 : Keeps s0 x2.1 := by
      unfold x2
      refine State.applyList_keeps ?_ ?_
      · assumption
      · intro t3 t4 ht5
        split
        · exact State.publishOne_keeps ‹_›
        · exact State.publishAway_keeps ‹_›
    clear_value x2
    exact State.hostEvent_keeps ‹_›

theorem State.publishStep_keeps {s0 s : State} {a2} (h : Keeps s0 s) : Keeps s0 (s.publishStep a2) := by
  unfold State.publishStep
  split
  · assumption
  · exact State.applyPublish_keeps (Keeps.record ‹_› rfl rfl rfl)

theorem State.blockPath_keeps {s0 s : State} {a2} {a3} (h : Keeps s0 s) : Keeps s0 (s.blockPath a2 a3).1 := by
  unfold State.blockPath
  split
  · dsimp only
    assumption
  · split
    · split
      · dsimp only
        assumption
      · dsimp only
        assumption
    · extract_lets +onlyGivenNames x1
      have hx1 : Keeps s0 x1.2 := State.draw_keeps ‹_›
      clear_value x1
      dsimp only
      assumption

theorem State.countLookup_keeps {s0 s : State} {a2} {a3} (h : Keeps s0 s) : Keeps s0 (s.countLookup a2 a3) :=
    by
  unfold State.countLookup
  exact Keeps.ite (fun _ => State.addf_keeps ‹_›) (fun _ => State.addf_keeps ‹_›)

theorem State.resolveReady_keeps {s0 s : State} {a2} {a3} {a4} {a5} (h : Keeps s0 s) :
    Keeps s0 (s.resolveReady a2 a3 a4 a5).s := by
  unfold State.resolveReady
  extract_lets e' r
  have hr : Keeps s0 r.1 := State.blockPath_keeps h
  clear_value e' r
  split
  · dsimp only; exact State.countLookup_keeps (State.setEntry_keeps hr)
  · dsimp only; exact State.countLookup_keeps (State.setEntry_keeps hr)

theorem State.resolveKey_keeps {s0 s : State} {a2} {a3} (h : Keeps s0 s) : Keeps s0 (s.resolveKey a2 a3).s := by
  unfold State.resolveKey
  split
  · exact h
  · extract_lets s1 no
    have h1 : Keeps s0 s1 := State.readSet_keeps h
    have hno : ∀ r p, Keeps s0 (no r p).s := fun r p => by
      dsimp only [no]; exact State.countLookup_keeps h1
    clear_value no s1
    split
    · exact hno _ _
    · extract_lets e
      split
      · exact hno _ _
      · split
        · exact hno _ _
        · split
          · exact hno _ _
          · exact State.resolveReady_keeps h1

theorem State.resolveKeys_keeps {s0 s : State} {a2} {a3} (h : Keeps s0 s) : Keeps s0 (s.resolveKeys a2 a3).1 :=
  Keeps.foldl_fst (fun _ _ ht => State.resolveKey_keeps ht) _ _ h

theorem State.newHandle_keeps {s0 s : State} (h : Keeps s0 s) : Keeps s0 (s.newHandle).2 := by
  unfold State.newHandle
  extract_lets +onlyGivenNames x1 x2 x3
  have hx1 : Keeps s0 x1.2 := State.draw_keeps ‹_›
  clear_value x1 x2 x3
  dsimp only
  assumption

theorem State.addLease_keeps {s0 s : State} {a2} (h : Keeps s0 s) : Keeps s0 (s.addLease a2).2 := by
  unfold State.addLease
  extract_lets +onlyGivenNames x1
  have hx1 : Keeps s0 x1.2 := State.newHandle_keeps ‹_›
  clear_value x1
  dsimp only
  exact Keeps.record ‹_› rfl rfl rfl

theorem State.writeTable_keeps {s0 s : State} {a2} {a3} (h : Keeps s0 s) : Keeps s0 (s.writeTable a2 a3) := by
  have hw : ∀ {s da bs}, Keeps s0 s → Keeps s0 ((State.cmdWrite s da bs).getD s) := by
    intro s da bs h
    cases e : State.cmdWrite s da bs with
    | none => exact h
    | some t => exact State.cmdWrite_keeps h e
  unfold State.writeTable
  extract_lets s1
  exact Keeps.ite (fun _ => h) fun _ => hw (hw h)

theorem State.pantryResolve_keeps {s0 s : State} {a2} (h : Keeps s0 s) : Keeps s0 (s.pantryResolve a2) := by
  unfold State.pantryResolve
  refine Keeps.ite (fun _ => ?_) (fun _ => ?_)
  · exact State.reply_keeps ‹_›
  · refine Keeps.ite (fun _ => ?_) (fun _ => ?_)
    · exact State.reply_keeps ‹_›
    · refine Keeps.ite (fun _ => ?_) (fun _ => ?_)
      · exact State.reply_keeps ‹_›
      · refine Keeps.ite (fun _ => ?_) (fun _ => ?_)
        · exact Keeps.ite (fun _ => ‹_›) (fun _ => Keeps.record ‹_› rfl rfl rfl)
        · extract_lets +onlyGivenNames x1 x2
          have hx1 : Keeps s0 x1.1 := State.resolveKeys_keeps ‹_›
          have hx2 : Keeps s0 x2 := State.writeTable_keeps ‹_›
          clear_value x1 x2
          refine Keeps.ite (fun _ => ?_) (fun _ => ?_)
          · exact State.reply_keeps ‹_›
          · extract_lets +onlyGivenNames x3
            have hx3 : Keeps s0 x3.2 := State.addLease_keeps ‹_›
            clear_value x3
            exact State.reply_keeps ‹_›

theorem State.endLease_keeps {s0 s : State} {a2} (h : Keeps s0 s) : Keeps s0 (s.endLease a2) := by
  unfold State.endLease
  exact Keeps.foldl (fun t y ht => State.unpin_keeps ‹_›) _ _ (Keeps.record ‹_› rfl rfl rfl)

theorem State.pantryRelease_keeps {s0 s : State} {a2} (h : Keeps s0 s) : Keeps s0 (s.pantryRelease a2) := by
  unfold State.pantryRelease
  split
  · exact State.reply_keeps ‹_›
  · exact State.reply_keeps (State.endLease_keeps ‹_›)

theorem State.leaseExpires_keeps {s0 s : State} {a2} (h : Keeps s0 s) : Keeps s0 (s.leaseExpires a2) := by
  unfold State.leaseExpires
  split
  · assumption
  · exact Keeps.ite (fun _ => State.endLease_keeps ‹_›) (fun _ => ‹_›)

theorem State.pantryEvict_keeps {s0 s : State} {a2} (h : Keeps s0 s) : Keeps s0 (s.pantryEvict a2) := by
  unfold State.pantryEvict
  extract_lets +onlyGivenNames x1 x2
  have hx2 : Keeps s0 x2 := State.readSet_keeps ‹_›
  clear_value x1 x2
  split
  · exact State.reply_keeps ‹_›
  · exact Keeps.ite (fun _ => State.reply_keeps (State.setEntry_keeps ‹_›)) (fun _ => State.reply_keeps (Keeps.record
        (State.setEntry_keeps ‹_›) rfl rfl rfl))

theorem State.sweepOne_keeps {s0 s : State} {a2} (h : Keeps s0 s) : Keeps s0 (s.sweepOne a2) := by
  unfold State.sweepOne
  extract_lets +onlyGivenNames x1 x2
  have hx1 : Keeps s0 x1 := State.checkEntry_keeps ‹_›
  clear_value x1 x2
  exact Keeps.ite (fun _ => State.setEntry_keeps ‹_›) (fun _ => ‹_›)

theorem State.ageSweep_keeps {s0 s : State} {a2} (h : Keeps s0 s) : Keeps s0 (s.ageSweep a2) := by
  unfold State.ageSweep
  exact Keeps.foldl (fun t y ht => State.sweepOne_keeps ‹_›) _ _ ‹_›

theorem State.showSec_keeps {s0 s : State} (h : Keeps s0 s) : Keeps s0 (s.showSec) := by
  unfold State.showSec
  exact State.wf_keeps (State.setReg_keeps (State.wfs_keeps ‹_›))

theorem State.setEntropy_keeps {s0 s : State} {a2} {a3} (h : Keeps s0 s) : Keeps s0 (s.setEntropy a2 a3) := by
  unfold State.setEntropy
  extract_lets +onlyGivenNames x1
  have hx1 : Keeps s0 x1 := Keeps.ite (fun _ => Keeps.record ‹_› rfl rfl rfl) (fun _ => Keeps.record ‹_› rfl rfl rfl)
  clear_value x1
  exact Keeps.ite (fun _ => State.wf_keeps ‹_›) (fun _ => ‹_›)

theorem State.entropyCount_keeps {s0 s : State} {a2} {a3} {a4} (h : Keeps s0 s) : Keeps s0 (s.entropyCount a2
    a3 a4) := by
  unfold State.entropyCount
  exact Keeps.ite (fun _ => State.setReg_keeps ‹_›) (fun _ => Keeps.record ‹_› rfl rfl rfl)

theorem State.waitDrbg_keeps {s0 s : State} {a2} (h : Keeps s0 s) : Keeps s0 (s.waitDrbg a2) := by
  unfold State.waitDrbg
  exact Keeps.ite (fun _ => ‹_›) (fun _ => Keeps.record ‹_› rfl rfl rfl)

theorem State.drawWords_keeps {s0 : State} : ∀ {a2 : Nat} {s : State}, Keeps s0 s → Keeps s0 (State.drawWords s a2).2
  | 0, _, h => h
  | n + 1, _, h => State.drawWords_keeps (a2 := n) (State.draw_keeps h)

theorem State.authChallenge_keeps {s0 s : State} {a2} (h : Keeps s0 s) : Keeps s0 (s.authChallenge a2) := by
  unfold State.authChallenge
  refine Keeps.ite (fun _ => ?_) (fun _ => ?_)
  · exact State.reply_keeps ‹_›
  · refine Keeps.ite (fun _ => ?_) (fun _ => ?_)
    · exact State.reply_keeps ‹_›
    · refine Keeps.ite (fun _ => ?_) (fun _ => ?_)
      · exact State.waitDrbg_keeps ‹_›
      · extract_lets +onlyGivenNames x1 x2 x3
        have hx1 : Keeps s0 x1.2 := State.drawWords_keeps ‹_›
        have hx2 : Keeps s0 x2 := State.dropChallenges_keeps ‹_›
        have hx3 : Keeps s0 x3 := Keeps.record ‹_› rfl rfl rfl
        clear_value x1 x2 x3
        exact State.reply_keeps ‹_›

theorem State.setRole_keeps {s0 s : State} {a2} {a3} (h : Keeps s0 s) : Keeps s0 (s.setRole a2 a3) := by
  unfold State.setRole
  split
  · exact State.whf_keeps ‹_›
  · exact Keeps.record ‹_› rfl rfl rfl
  · assumption

theorem State.authDenied_keeps {s0 s : State} {a2} (h : Keeps s0 s) : Keeps s0 (s.authDenied a2) := by
  unfold State.authDenied
  extract_lets +onlyGivenNames x1 x2
  have hx1 : Keeps s0 x1 := State.satf_keeps ‹_›
  have hx2 : Keeps s0 x2 := State.reply_keeps ‹_›
  clear_value x1 x2
  refine Keeps.ite (fun _ => ?_) (fun _ => ?_)
  · assumption
  · extract_lets +onlyGivenNames x3 x4
    have hx4 : Keeps s0 x4 := State.wf_keeps (Keeps.record ‹_› rfl rfl rfl)
    clear_value x3 x4
    exact Keeps.ite (fun _ => ‹_›) (fun _ => State.auditRec_keeps (State.wf_keeps (Keeps.record ‹_› rfl rfl rfl)))

theorem State.authResponse_keeps {s0 s : State} {a2} (h : Keeps s0 s) : Keeps s0 (s.authResponse a2) := by
  unfold State.authResponse
  extract_lets x t
  have ht : Keeps s0 t := State.dropChallenges_keeps h
  clear_value x t
  refine Keeps.ite (fun _ => State.reply_keeps h) fun _ => ?_
  split
  · exact State.authDenied_keeps ht
  · refine Keeps.ite (fun _ => ?_) fun _ => State.authDenied_keeps ht
    exact State.reply_keeps (State.auditRec_keeps (Keeps.record (State.wf_keeps (State.setRole_keeps ht)) rfl rfl rfl))

theorem State.authDrop_keeps {s0 s : State} {a2} (h : Keeps s0 s) : Keeps s0 (s.authDrop a2) := by
  unfold State.authDrop
  exact Keeps.ite (fun _ => State.reply_keeps ‹_›) (fun _ => State.reply_keeps (State.setRole_keeps
      (State.auditRec_keeps ‹_›)))

/-- A transition of a package that is not RETIRED already (R513). -/
theorem State.moveLife_keeps {s0 s : State} {a2} {a3} {a4} {a5} (h : Keeps s0 s) (hn : s0.retired = true → False) :
    Keeps s0 (s.moveLife a2 a3 a4 a5) := by
  unfold State.moveLife
  extract_lets s1 s2
  have h1 : Keeps s0 s1 := State.auditRec_keeps h
  have h2 : Keeps s0 s2 := Keeps.ite (fun _ => State.refreshFlt_keeps (Keeps.record h1 rfl rfl rfl)) fun _ => h1
  clear_value s2
  have hg : NvGrows s2.nv (lifeChange a2 s2.nv) := by
    unfold lifeChange
    split <;> exact NvGrows.of_eq rfl rfl rfl rfl rfl rfl
  refine State.showSec_keeps ⟨h2.pending, h2.fuse, h2.nv.trans hg, fun x => (hn x).elim, h2.clamp, fun x =>
    { h2.sound x with history := ?_, audit := ?_, repairs := ?_ }⟩
  · have hl := (h2.sound x).history
    unfold lifeChange
    split
    · exact hl
    · exact Nat.zero_le _
    · exact hl
    · exact hl
  · have hl := (h2.sound x).audit
    unfold lifeChange
    split <;> exact hl
  · have hl := (h2.sound x).repairs
    unfold lifeChange
    split <;> exact hl

theorem State.dropLife_keeps {s0 s : State} (h : Keeps s0 s) : Keeps s0 (s.dropLife) := by
  unfold State.dropLife
  split
  · assumption
  · refine State.applied_keeps (Keeps.record h rfl rfl rfl (h5 := fun x => ?_))
    rw [Bool.and_eq_true] at x ⊢
    exact ⟨x.1, rfl⟩

theorem State.lifecycleSet_keeps {s0 s : State} {a2} (h : Keeps s0 s) : Keeps s0 (s.lifecycleSet a2) := by
  unfold State.lifecycleSet
  refine Keeps.ite (fun _ => State.reply_keeps ‹_›) fun h5 => Keeps.ite (fun _ => State.reply_keeps (State.dropLife_keeps ‹_›))
    fun hne => Keeps.ite (fun _ => State.reply_keeps ‹_›) fun hm => ?_
  have hno : s0.retired = true → False := by
    intro hr
    have hr' := h.retired hr
    rw [State.retired, Bool.and_eq_true, beq_iff_eq] at hr'
    apply hm
    generalize a2.pf 0 2 0 = new at *
    unfold State.mayMove
    rw [hr'.1] at hne ⊢
    split <;> simp_all
  refine Keeps.ite (fun _ => State.moveLife_keeps (State.reply_keeps (State.dropLife_keeps ‹_›)) hno) fun _ => ?_
  have hd := State.dropLife_keeps h
  refine State.reply_keeps ⟨hd.pending, hd.fuse, hd.nv, fun x => (hno x).elim, hd.clamp, fun x => ?_⟩
  exact { hd.sound x with }

theorem State.readImage_keeps {s0 s : State} {a2} {a3} (h : Keeps s0 s) {t} (e : s.readImage a2 a3 = some t) :
    Keeps s0 t.2 := by
  unfold State.readImage at e
  repeat' split at e
  all_goals cases e
  · exact State.openBytes_keeps h
  · exact h

theorem State.fwInstall_keeps {s0 s : State} {a2} (h : Keeps s0 s) : Keeps s0 (s.fwInstall a2) := by
  unfold State.fwInstall
  refine Keeps.ite (fun _ => ?_) (fun _ => ?_)
  · exact State.reply_keeps ‹_›
  · split
    · exact State.reply_keeps ‹_›
    · exact Keeps.ite (fun _ => State.reply_keeps (State.readImage_keeps ‹_› ‹_›)) (fun _ => Keeps.ite (fun _ =>
          State.reply_keeps (State.readImage_keeps ‹_› ‹_›)) (fun _ => State.replyWith_keeps (Keeps.ite (fun _ =>
          Keeps.record (State.readImage_keeps ‹_› ‹_›) rfl rfl rfl) (fun _ => Keeps.record (State.readImage_keeps ‹_›
          ‹_›) rfl rfl rfl))))

theorem State.configWrite_keeps {s0 s : State} {a2} (h : Keeps s0 s) : Keeps s0 (s.configWrite a2) := by
  unfold State.configWrite
  split
  · exact State.reply_keeps ‹_›
  · exact Keeps.ite (fun _ => State.reply_keeps (State.readImage_keeps ‹_› ‹_›)) (fun _ => State.replyWith_keeps
        (State.showSec_keeps (Keeps.record (State.readImage_keeps ‹_› ‹_›) rfl rfl rfl)))

theorem State.configRead_keeps {s0 s : State} {a2} (h : Keeps s0 s) : Keeps s0 (s.configRead a2) := by
  unfold State.configRead
  exact Keeps.ite (fun _ => State.reply_keeps ‹_›) (fun _ => State.replyWritten_keeps ‹_› (fun t2 t3 =>
      State.cmdWrite_keeps ‹_› ‹_›))

theorem State.useLeaf_keeps {s0 s : State} (h : Keeps s0 s) : Keeps s0 (s.useLeaf) := by
  unfold State.useLeaf
  extract_lets +onlyGivenNames x1 x2
  have hx2 : Keeps s0 x2 := State.showSec_keeps (Keeps.record ‹_› rfl rfl rfl
    ⟨le_refl _, le_refl _, le_refl _, Nat.le_succ _, le_refl _, List.prefix_refl _⟩)
  clear_value x2
  exact Keeps.ite (fun _ => State.auditRec_keeps ‹_›) (fun _ => ‹_›)

theorem State.attest_keeps {s0 s : State} {a2} (h : Keeps s0 s) : Keeps s0 (s.attest a2) := by
  unfold State.attest
  extract_lets +onlyGivenNames x1
  clear_value x1
  split
  · exact State.reply_keeps ‹_›
  · refine Keeps.ite (fun _ => ?_) (fun _ => ?_)
    · exact State.reply_keeps ‹_›
    · refine Keeps.ite (fun _ => ?_) (fun _ => ?_)
      · exact State.reply_keeps ‹_›
      · refine Keeps.ite (fun _ => ?_) (fun _ => ?_)
        · exact State.reply_keeps ‹_›
        · refine Keeps.ite (fun _ => ?_) (fun _ => ?_)
          · exact State.waitDrbg_keeps ‹_›
          · extract_lets +onlyGivenNames x2 x3 x4
            have hx3 : Keeps s0 x3 := State.useLeaf_keeps ‹_›
            clear_value x2 x3 x4
            exact State.replyWritten_keeps ‹_› (fun t5 t6 => State.cmdWrite_keeps ‹_› ‹_›)

theorem State.auditRead_keeps {s0 s : State} {a2} (h : Keeps s0 s) : Keeps s0 (s.auditRead a2) := by
  unfold State.auditRead
  extract_lets n rs bs
  refine State.replyWritten_keeps h fun t ht => ?_
  split at ht
  · cases ht; exact h
  · exact State.cmdWrite_keeps h ht

theorem State.drbgServe_keeps {s0 s : State} {a2} (h : Keeps s0 s) : Keeps s0 (s.drbgServe a2) := by
  unfold State.drbgServe
  exact Keeps.ite (fun _ => State.authChallenge_keeps ‹_›) (fun _ => Keeps.ite (fun _ => State.pantryResolve_keeps
      ‹_›) (fun _ => State.attest_keeps ‹_›))

theorem State.reseeded_keeps {s0 s : State} {a2} (h : Keeps s0 s) : Keeps s0 (s.reseeded a2) := by
  unfold State.reseeded
  extract_lets +onlyGivenNames x1
  have hx1 : Keeps s0 x1 := State.entropyCount_keeps (State.setEntropy_keeps ‹_›)
  clear_value x1
  exact Keeps.ite (fun _ => ‹_›) (fun _ => Keeps.foldl (fun t y ht => State.drbgServe_keeps ‹_›) _ _ (Keeps.record ‹_›
      rfl rfl rfl))

theorem State.drbgReseed_keeps {s0 s : State} {a2} {a3} (h : Keeps s0 s) : Keeps s0 (s.drbgReseed a2 a3) := by
  unfold State.drbgReseed
  refine Keeps.ite (fun _ => ?_) (fun _ => ?_)
  · assumption
  · refine Keeps.ite (fun _ => ?_) (fun _ => ?_)
    · exact State.reseeded_keeps ‹_›
    · extract_lets +onlyGivenNames x1
      have hx1 : Keeps s0 x1.2 := State.draw_keeps ‹_›
      clear_value x1
      exact State.entropyCount_keeps (State.setEntropy_keeps ‹_›)

theorem State.freeSegs_keeps {s0 s : State} {a2} (h : Keeps s0 s) : Keeps s0 (s.freeSegs a2) := by
  unfold State.freeSegs
  exact Keeps.ite (fun _ => ‹_›) (fun _ => State.wf_keeps ‹_›)

theorem State.lineLost_keeps {s0 s : State} {a2} (h : Keeps s0 s) : Keeps s0 (s.lineLost a2) := by
  unfold State.lineLost
  exact Keeps.ite (fun _ => State.goDown_keeps ‹_›) (fun _ => Keeps.ite (fun _ => State.dropQueue_keeps ‹_›) (fun _ =>
      State.noticeFrom_keeps (State.satf_keeps (State.freeSegs_keeps (State.setQueue_keeps ‹_›)))))

theorem State.cellarUe_keeps {s0 s : State} {a2} {a3} {a4} (h : Keeps s0 s) : Keeps s0 (s.cellarUe a2 a3 a4) :=
    by
  unfold State.cellarUe
  extract_lets +onlyGivenNames x1 x2 x3 x4
  have hx1 : Keeps s0 x1 := State.satf_keeps ‹_›
  have hx2 : Keeps s0 x2 := State.setReg_keeps ‹_›
  have hx3 : Keeps s0 x3 := State.raise_keeps ‹_›
  have hx4 : Keeps s0 x4 := by
    unfold x4
    refine Keeps.ite (fun _ => ?_) (fun _ => ?_)
    · split
      · extract_lets +onlyGivenNames x5
        have hx5 : Keeps s0 x5.1 := State.memUe_keeps ‹_›
        clear_value x5
        exact Keeps.ite (fun _ => State.nominate_keeps ‹_›) (fun _ => ‹_›)
      · assumption
    · assumption
  clear_value x1 x2 x3 x4
  exact State.lineLost_keeps ‹_›

theorem State.refilled_keeps {s0 s : State} {a2} (h : Keeps s0 s) : Keeps s0 (s.refilled a2) := by
  unfold State.refilled
  exact Keeps.ite (fun _ => State.linkRefill_keeps ‹_›) (fun _ => Keeps.ite (fun _ => State.drainEvq_keeps ‹_›) (fun _
      => ‹_›))

theorem State.queueRefill_keeps {s0 s : State} {a2} {a3} (h : Keeps s0 s) : Keeps s0 (s.queueRefill a2 a3) :=
    by
  unfold State.queueRefill
  extract_lets +onlyGivenNames x1
  clear_value x1
  split
  · assumption
  · refine Keeps.ite (fun _ => ?_) (fun _ => ?_)
    · assumption
    · extract_lets +onlyGivenNames x2 x3
      have hx3 : Keeps s0 x3 := State.satf_keeps (State.satf_keeps ‹_›)
      clear_value x2 x3
      split
      · exact State.cellarUe_keeps ‹_›
      · exact State.refilled_keeps (State.freeSegs_keeps (State.setQueue_keeps ‹_›))

theorem State.celQwm_keeps {s0 s : State} {a2} {a3} (h : Keeps s0 s) : Keeps s0 (s.celQwm a2 a3) := by
  unfold State.celQwm
  refine Keeps.ite (fun _ => ?_) (fun _ => ?_)
  · exact State.mgmtError_keeps ‹_›
  · extract_lets +onlyGivenNames x1 x2 x3 x4
    have hx4 : Keeps s0 x4.1 := State.crossingsW_keeps (State.setReg_keeps ‹_›)
    clear_value x1 x2 x3 x4
    exact State.notices_keeps ‹_›

theorem State.crossedClear_keeps {s0 s : State} {a2} {a3} {a4} (h : Keeps s0 s) : Keeps s0 (s.crossedClear a2
    a3 a4) := by
  unfold State.crossedClear
  extract_lets +onlyGivenNames x1
  have hx1 : Keeps s0 x1 := Keeps.ite (fun _ => State.wf_keeps ‹_›) (fun _ => ‹_›)
  clear_value x1
  exact Keeps.ite (fun _ => State.wf_keeps ‹_›) (fun _ => ‹_›)

theorem State.celCntClear_keeps {s0 s : State} {a2} (h : Keeps s0 s) : Keeps s0 (s.celCntClear a2) := by
  unfold State.celCntClear
  exact State.wfs_keeps ‹_›

theorem State.skyStart_keeps {s0 s : State} {a2} (h : Keeps s0 s) : Keeps s0 (s.skyStart a2) := by
  unfold State.skyStart
  extract_lets +onlyGivenNames x1
  clear_value x1
  split
  · split
    · exact State.wf_keeps (State.setSky_keeps ‹_›)
    · exact State.setSky_keeps ‹_›
  · assumption

theorem State.skyScan_keeps {s0 s : State} {a2} (h : Keeps s0 s) : Keeps s0 (s.skyScan a2) := by
  unfold State.skyScan
  exact Keeps.ite (fun _ => ‹_›) (fun _ => State.skyStart_keeps (State.setSky_keeps ‹_›))

theorem State.skySignal_keeps {s0 s : State} {a2} {a3} {a4} (h : Keeps s0 s) : Keeps s0 (s.skySignal a2 a3 a4)
    := by
  unfold State.skySignal
  exact Keeps.ite (fun _ => ‹_›) (fun _ => Keeps.ite (fun _ => State.note_keeps ‹_›) (fun _ => State.bumpEvt_keeps
      ‹_›))

theorem State.skyNotify_keeps {s0 s : State} {a2} (h : Keeps s0 s) : Keeps s0 (s.skyNotify a2) := by
  unfold State.skyNotify
  exact Keeps.ite (fun _ => State.skySignal_keeps ‹_›) (fun _ => Keeps.ite (fun _ => ‹_›) (fun _ =>
      State.sendHearth_keeps ‹_›))

theorem State.skyEnd_keeps {s0 s : State} {a2} {a3} (h : Keeps s0 s) : Keeps s0 (s.skyEnd a2 a3) := by
  unfold State.skyEnd
  exact State.setSky_keeps (State.memStore_keeps ‹_›)

theorem State.skyDone1_keeps {s0 s : State} {a2} {a3} {a4} {a5} {a6} (h : Keeps s0 s) : Keeps s0 (s.skyDone1 a2
    a3 a4 a5 a6) := by
  unfold State.skyDone1
  extract_lets +onlyGivenNames x1 x2 x3 x4
  have hx1 : Keeps s0 x1 := State.skyEnd_keeps ‹_›
  have hx2 : Keeps s0 x2 := State.satf_keeps ‹_›
  have hx3 : Keeps s0 x3 := Keeps.ite (fun _ => State.satf_keeps ‹_›) (fun _ => ‹_›)
  have hx4 : Keeps s0 x4 := Keeps.ite (fun _ => State.satf_keeps ‹_›) (fun _ => ‹_›)
  clear_value x1 x2 x3 x4
  exact Keeps.ite (fun _ => State.skyNotify_keeps ‹_›) (fun _ => ‹_›)

theorem State.skyReject_keeps {s0 s : State} {a2} {a3} (h : Keeps s0 s) : Keeps s0 (s.skyReject a2 a3) := by
  unfold State.skyReject
  exact State.raise_keeps (State.satf_keeps (State.skyEnd_keeps ‹_›))

theorem State.skyRead_keeps {s0 s : State} {a2} {a3} (h : Keeps s0 s) {t} (e : s.skyRead a2 a3 = some t) :
    Keeps s0 t.2 := by
  unfold State.skyRead at e
  extract_lets r at e
  have hr : Keeps s0 r.1 := State.peerAccess_keeps h
  repeat' split at e
  all_goals cases e
  · exact State.openBytes_keeps hr
  · exact h

theorem State.skyBytes_keeps {s0 s : State} {a2} {a3} (h : Keeps s0 s) : Keeps s0 (s.skyBytes a2 a3).2 := by
  unfold State.skyBytes
  cases e : State.skyRead s a2 a3 with
  | none => exact State.openBytes_keeps h
  | some t => exact State.skyRead_keeps h e

theorem State.skyValid_keeps {s0 s : State} {a2} (h : Keeps s0 s) : Keeps s0 (s.skyValid a2).2 := by
  unfold State.skyValid
  split
  · dsimp only
    assumption
  · extract_lets +onlyGivenNames x1
    have hx1 : Keeps s0 x1.2 := State.skyBytes_keeps ‹_›
    clear_value x1
    dsimp only
    assumption

theorem SkyJob.readKeys_keeps {s0 : State} {a1 : SkyJob} : ∀ {a2 : Nat} {s : State} {a4 a5 : Nat}, Keeps s0 s →
    Keeps s0 (SkyJob.readKeys a1 a2 s a4 a5).2
  | 0, _, _, _, h => h
  | _ + 1, s, _, _, h => by
    unfold SkyJob.readKeys
    split
    · exact h
    · rename_i key t ht
      have h1 : Keeps s0 t := State.skyRead_keeps h ht
      split
      · exact h1
      · rename_i scl u hu
        have h2 : Keeps s0 u := by
          split at hu
          · exact State.skyRead_keeps h1 hu
          · cases hu; exact h1
        exact SkyJob.readKeys_keeps h2

theorem State.skyScore_keeps {s0 s : State} {a2} {a3} {a4} {a5} {a6} (h : Keeps s0 s) : Keeps s0 (s.skyScore a2
    a3 a4 a5 a6).2 := by
  unfold State.skyScore
  extract_lets +onlyGivenNames x1 x2
  have hx1 : Keeps s0 x1.2 := SkyJob.readKeys_keeps ‹_›
  have hx2 : Keeps s0 x2 := ‹_›
  clear_value x1 x2
  split
  · dsimp only
    assumption
  · split
    · dsimp only
      assumption
    · split
      · dsimp only
        assumption
      · dsimp only
        exact Keeps.record ‹_› rfl rfl rfl

theorem State.skyScores_keeps {s0 : State} {a2 : SkyJob} {a3 : ScoreEnv} {a4 a5 : Bytes} : ∀ {a6 : List Nat} {s : State},
    Keeps s0 s → Keeps s0 (State.skyScores s a2 a3 a4 a5 a6).2
  | [], _, h => h
  | _ :: ns, _, h => State.skyScores_keeps (a6 := ns) (State.skyScore_keeps h)

theorem State.skyWrite_keeps {s0 s : State} {a2} {a3} (h : Keeps s0 s) : Keeps s0 (s.skyWrite a2 a3).1 := by
  unfold State.skyWrite
  extract_lets +onlyGivenNames x1
  have hx1 : Keeps s0 x1.1 := State.hostWrite_keeps ‹_›
  clear_value x1
  dsimp only
  assumption

theorem State.skyFallback_keeps {s0 s : State} {a2} {a3} {a4} {a5} (h : Keeps s0 s) : Keeps s0 (s.skyFallback
    a2 a3 a4 a5) := by
  unfold State.skyFallback
  extract_lets +onlyGivenNames x1
  clear_value x1
  refine Keeps.ite (fun _ => ?_) (fun _ => ?_)
  · exact State.skyDone1_keeps (State.wf_keeps ‹_›)
  · extract_lets +onlyGivenNames x2 x3
    have hx2 : Keeps s0 x2.2 := State.skyValid_keeps ‹_›
    have hx3 : Keeps s0 x3.1 := State.skyWrite_keeps ‹_›
    clear_value x2 x3
    exact State.skyDone1_keeps ‹_›

theorem State.skyEnds_keeps {s0 s : State} {a2} (h : Keeps s0 s) : Keeps s0 (s.skyEnds a2).2.2 := by
  unfold State.skyEnds
  split
  · extract_lets +onlyGivenNames x1
    have hx1 : Keeps s0 x1.2 := State.draw_keeps ‹_›
    clear_value x1
    dsimp only
    assumption
  · dsimp only
    assumption

theorem State.skySelect_keeps {s0 s : State} {a2} {a3} {a4} {a5} (h : Keeps s0 s) : Keeps s0 (s.skySelect a2 a3
    a4 a5) := by
  unfold State.skySelect
  extract_lets +onlyGivenNames x1 x2 x3 x4 x5 x6 x7 x8 x9 x10 x11 x12 x13 x14 x15 x16 x17 x18
  have hx2 : Keeps s0 x2.2 := State.skyValid_keeps ‹_›
  have hx3 : Keeps s0 x3.2 := State.skyBytes_keeps ‹_›
  have hx5 : Keeps s0 x5.2 := State.skyScores_keeps ‹_›
  have hx6 : Keeps s0 x6 := ‹_›
  have hx9 : Keeps s0 x9.2.2 := State.skyEnds_keeps ‹_›
  have hx10 : Keeps s0 x10 := ‹_›
  have hx13 : Keeps s0 x13.1 := State.skyWrite_keeps ‹_›
  have hx14 : Keeps s0 x14 := State.wf_keeps ‹_›
  have hx15 : Keeps s0 x15 := Keeps.ite (fun _ => State.satf_keeps ‹_›) (fun _ => ‹_›)
  have hx16 : Keeps s0 x16 := State.satf_keeps ‹_›
  have hx18 : Keeps s0 x18 := Keeps.ite (fun _ => State.setSky_keeps ‹_›) (fun _ => ‹_›)
  clear_value x1 x2 x3 x4 x5 x6 x7 x8 x9 x10 x11 x12 x13 x14 x15 x16 x17 x18
  exact State.skyDone1_keeps ‹_›

theorem State.skyRun_keeps {s0 s : State} {a2 a3 a4 : Nat} {f5 : State → List Word → Nat → State} (h : Keeps s0 s)
    (hf0 : ∀ y1 y2 y3, Keeps s0 y1 → Keeps s0 (f5 y1 y2 y3)) : Keeps s0 (s.skyRun a2 a3 a4 f5) := by
  unfold State.skyRun
  extract_lets s1
  have h1 : Keeps s0 s1 := Keeps.ite (fun _ => State.skyStart_keeps h) fun _ => h
  clear_value s1
  split
  · refine Keeps.ite (fun _ => h1) fun _ => Keeps.ite (fun _ => State.skyReject_keeps h1) fun _ =>
      Keeps.ite (fun _ => h1) fun _ => hf0 _ _ _ (State.skyShow_keeps h1)
  · exact h1

theorem State.skyLoad_keeps {s0 s : State} {a2} {a3} {a4} (h : Keeps s0 s) : Keeps s0 (s.skyLoad a2 a3 a4) :=
    by
  unfold State.skyLoad
  extract_lets +onlyGivenNames x1
  clear_value x1
  refine Keeps.ite (fun _ => ?_) (fun _ => ?_)
  · exact State.skyFallback_keeps ‹_›
  · refine Keeps.ite (fun _ => ?_) (fun _ => ?_)
    · exact State.skyFallback_keeps ‹_›
    · extract_lets +onlyGivenNames x2 x3 x4
      have hx2 : Keeps s0 x2.2 := State.skyBytes_keeps ‹_›
      have hx4 : Keeps s0 x4 := State.setSky_keeps ‹_›
      clear_value x2 x3 x4
      exact State.skyDone1_keeps (State.setReg_keeps ‹_›)

theorem State.skyScoreJob_keeps {s0 s : State} {a2} {a3} {a4} {a5} (h : Keeps s0 s) : Keeps s0 (s.skyScoreJob
    a2 a3 a4 a5) := by
  unfold State.skyScoreJob
  exact Keeps.ite (fun _ => State.skyFallback_keeps ‹_›) (fun _ => Keeps.ite (fun _ => State.skyFallback_keeps ‹_›)
      (fun _ => Keeps.ite (fun _ => ‹_›) (fun _ => Keeps.ite (fun _ => State.skyFallback_keeps (State.skyShow_keeps
      (State.raise_keeps ‹_›))) (fun _ => State.skySelect_keeps ‹_›))))

theorem State.skyDue_keeps {s0 s : State} {a2} (h : Keeps s0 s) : Keeps s0 (s.skyDue a2) := by
  unfold State.skyDue
  exact Keeps.ite (fun _ => State.setSky_keeps ‹_›) (fun _ => ‹_›)

theorem State.skyCalibrate_keeps {s0 s : State} {a2} (h : Keeps s0 s) : Keeps s0 (s.skyCalibrate a2) := by
  unfold State.skyCalibrate
  extract_lets +onlyGivenNames x1
  clear_value x1
  split
  · assumption
  · exact Keeps.ite (fun _ => ‹_›) (fun _ => State.skyShow_keeps (State.setSky_keeps ‹_›))

theorem State.skyCalibrated_keeps {s0 s : State} {a2} {a3} (h : Keeps s0 s) : Keeps s0 (s.skyCalibrated a2 a3)
    := by
  unfold State.skyCalibrated
  extract_lets +onlyGivenNames x1
  clear_value x1
  split
  · assumption
  · extract_lets +onlyGivenNames x2 x3 x4 x5
    have hx2 : Keeps s0 x2 := State.setSky_keeps ‹_›
    have hx3 : Keeps s0 x3 := State.wf_keeps (State.satf_keeps ‹_›)
    have hx4 : Keeps s0 x4 := State.wf_keeps ‹_›
    have hx5 : Keeps s0 x5 := Keeps.foldl (fun t y ht => State.applied_keeps ‹_›) _ _ (State.skyShow_keeps ‹_›)
    clear_value x2 x3 x4 x5
    split
    · exact Keeps.ite (fun _ => State.skyFallback_keeps ‹_›) (fun _ => ‹_›)
    · assumption

theorem State.skyHandover_keeps {s0 s : State} {a2} (h : Keeps s0 s) : Keeps s0 (s.skyHandover a2) := by
  unfold State.skyHandover
  extract_lets +onlyGivenNames x1 x2 x3
  clear_value x1 x2 x3
  split
  · assumption
  · refine Keeps.ite (fun _ => ?_) (fun _ => ?_)
    · assumption
    · extract_lets +onlyGivenNames x4 x5
      have hx4 : Keeps s0 x4 := Keeps.ite (fun _ => State.rampDown_keeps ‹_›) (fun _ => ‹_›)
      have hx5 : Keeps s0 x5 := State.wf_keeps (State.setCarrier_keeps ‹_›)
      clear_value x4 x5
      exact State.skyShow_keeps (State.setSky_keeps ‹_›)

theorem State.skySet_keeps {s0 s : State} {a2} (h : Keeps s0 s) : Keeps s0 (s.skySet a2) := by
  unfold State.skySet
  extract_lets +onlyGivenNames x1
  clear_value x1
  refine Keeps.ite (fun _ => ?_) (fun _ => ?_)
  · exact State.reply_keeps ‹_›
  · extract_lets +onlyGivenNames x2 x3
    have hx2 : Keeps s0 x2 := State.wfs_keeps ‹_›
    have hx3 : Keeps s0 x3 := Keeps.ite (fun _ => State.setReg_keeps (State.setReg_keeps ‹_›)) (fun _ => ‹_›)
    clear_value x2 x3
    exact State.reply_keeps (State.wf_keeps ‹_›)

theorem State.skyCalCmd_keeps {s0 s : State} {a2} (h : Keeps s0 s) : Keeps s0 (s.skyCalCmd a2) := by
  unfold State.skyCalCmd
  exact Keeps.ite (fun _ => State.reply_keeps ‹_›) (fun _ => State.reply_keeps (State.setSky_keeps ‹_›))

theorem State.takeSkyDone_keeps {s0 s : State} {a2} (h : Keeps s0 s) : Keeps s0 (s.takeSkyDone a2) := by
  unfold State.takeSkyDone
  exact State.skySignal_keeps ‹_›

end Sys2Proof.Machine
end

