-- ==== Sys2Proof/Laws/KeepsStart.lean ====
section
/-!
SUPPORT. Sys2Proof/Laws/KeepsStart.lean: what the operations over management accesses, self-test, start-up and the sideband keep.
-/

set_option Elab.async false

namespace Sys2Proof.Machine

theorem State.mixOpen_keeps {s0 s : State} {a2} {a3} (h : Keeps s0 s) : Keeps s0 (s.mixOpen a2 a3).2 := by
  unfold State.mixOpen
  split
  · dsimp only
    assumption
  · extract_lets +onlyGivenNames x1
    have hx1 : Keeps s0 x1.2 := State.draw_keeps ‹_›
    clear_value x1
    dsimp only
    assumption

theorem State.regRead_keeps {s0 s : State} {a2} {a3} {a4} {a5} (h : Keeps s0 s) : Keeps s0 (s.regRead a2 a3 a4
    a5).2 := by
  unfold State.regRead
  split
  · dsimp only
    assumption
  · exact State.mixOpen_keeps ‹_›

theorem State.mgmtRead_keeps {s0 s : State} {a2} (h : Keeps s0 s) : Keeps s0 (s.mgmtRead a2).2 := by
  unfold State.mgmtRead
  split
  · dsimp only
    exact State.mgmtError_keeps ‹_›
  · split
    · dsimp only
      exact State.mgmtError_keeps ‹_›
    · dsimp only
      assumption
    · extract_lets +onlyGivenNames x1 x2 x3
      have hx1 : Keeps s0 x1.2 := State.draw_keeps ‹_›
      have hx2 : Keeps s0 x2.2 := State.draw_keeps ‹_›
      have hx3 : Keeps s0 x3 := State.guestAccess_keeps ‹_›
      clear_value x1 x2 x3
      dsimp only
      assumption
    · split
      · dsimp only
        exact State.mgmtError_keeps ‹_›
      · exact State.regRead_keeps ‹_›

theorem State.eccClear_keeps {s0 s : State} {a2} (h : Keeps s0 s) : Keeps s0 (s.eccClear a2) := by
  unfold State.eccClear
  exact State.setReg_keeps ‹_›

theorem State.csmClear_keeps {s0 s : State} {a2} (h : Keeps s0 s) : Keeps s0 (s.csmClear a2) := by
  unfold State.csmClear
  extract_lets +onlyGivenNames x1
  have hx1 : Keeps s0 x1 := Keeps.foldl (fun t y ht => State.setReg_keeps (State.setReg_keeps (State.setReg_keeps
      (State.setReg_keeps ‹_›)))) _ _ ‹_›
  clear_value x1
  exact Keeps.foldl (fun t y ht => State.wf_keeps ‹_›) _ _ ‹_›

theorem State.strClear_keeps {s0 s : State} (h : Keeps s0 s) : Keeps s0 (s.strClear) := by
  unfold State.strClear
  exact Keeps.foldl (fun t y ht => State.wf_keeps (Keeps.foldl (fun t y ht => State.wfs_keeps ‹_›) _ _ ‹_›)) _ _ ‹_›

theorem State.drlClear_keeps {s0 s : State} {a2} (h : Keeps s0 s) : Keeps s0 (s.drlClear a2) := by
  unfold State.drlClear
  exact Keeps.foldl (fun t y ht => State.setReg_keeps (State.setReg_keeps ‹_›)) _ _ ‹_›

theorem State.skyClear_keeps {s0 s : State} {a2} (h : Keeps s0 s) : Keeps s0 (s.skyClear a2) := by
  unfold State.skyClear
  exact State.wfs_keeps (State.setReg_keeps ‹_›)

theorem State.regPut_keeps {s0 s : State} {a2} {a3} {a4} (h : Keeps s0 s) : Keeps s0 (s.regPut a2 a3 a4) := by
  unfold State.regPut
  exact State.setReg_keeps ‹_›

theorem State.engineEnables_keeps {s0 s : State} {a2} {a3} {a4} (h : Keeps s0 s) : Keeps s0 (s.engineEnables a2
    a3 a4) := by
  unfold State.engineEnables
  extract_lets +onlyGivenNames x1
  have hx1 : Keeps s0 x1 := by
    unfold x1
    refine Keeps.foldl (fun t y ht => ?_) _ _ ?_
    · extract_lets +onlyGivenNames x2
      have hx2 : Keeps s0 x2 := Keeps.ite (fun _ => ‹_›) (fun _ => State.unitReq_keeps ‹_›)
      clear_value x2
      exact Keeps.ite (fun _ => ‹_›) (fun _ => State.unitReq_keeps ‹_›)
    · assumption
  clear_value x1
  exact State.showEngines_keeps ‹_›

theorem State.drlCfg_keeps {s0 s : State} {a2} {a3} {a4} {a5} (h : Keeps s0 s) : Keeps s0 (s.drlCfg a2 a3 a4
    a5) := by
  unfold State.drlCfg
  extract_lets +onlyGivenNames x1 x2 x3
  have hx2 : Keeps s0 x2 := State.regPut_keeps ‹_›
  clear_value x1 x2 x3
  exact Keeps.ite (fun _ => ‹_›) (fun _ => Keeps.ite (fun _ => Keeps.ite (fun _ => State.setLinkState_keeps ‹_›) (fun
      _ => ‹_›)) (fun _ => Keeps.ite (fun _ => State.setLinkState_keeps ‹_›) (fun _ => State.goDown_keeps ‹_›)))

theorem State.setSr_keeps {s0 s : State} {a2} {a3} (h : Keeps s0 s) : Keeps s0 (s.setSr a2 a3) := by
  unfold State.setSr
  exact Keeps.ite (fun _ => ‹_›) (fun _ => State.wf_keeps ‹_›)

theorem State.bayWrite_keeps {s0 s : State} {a2} {a3} {a4} {a5} {a6} {a7} (h : Keeps s0 s) : Keeps s0 (State.bayWrite
    s a2 a3 a4 a5 a6 a7) := by
  unfold State.bayWrite
  refine Keeps.ite (fun _ => ?_) (fun _ => ?_)
  · extract_lets +onlyGivenNames x1
    have hx1 : Keeps s0 x1 := State.bayPowerReq_keeps (State.regPut_keeps ‹_›)
    clear_value x1
    exact Keeps.ite (fun _ => State.eccClear_keeps ‹_›) (fun _ => ‹_›)
  · refine Keeps.ite (fun _ => ?_) (fun _ => ?_)
    · exact State.setSr_keeps ‹_›
    · refine Keeps.ite (fun _ => ?_) (fun _ => ?_)
      · extract_lets +onlyGivenNames x2
        have hx2 : Keeps s0 x2 := State.regPut_keeps ‹_›
        clear_value x2
        exact Keeps.ite (fun _ => State.runSequencer_keeps ‹_›) (fun _ => ‹_›)
      · exact State.regPut_keeps ‹_›

theorem State.csmWrite_keeps {s0 s : State} {a2} {a3} {a4} {a5} {a6} {a7} (h : Keeps s0 s) : Keeps s0 (State.csmWrite
    s a2 a3 a4 a5 a6 a7) := by
  unfold State.csmWrite
  split
  · refine Keeps.ite (fun _ => ?_) (fun _ => ?_)
    · extract_lets +onlyGivenNames x1 x2
      have hx2 : Keeps s0 x2 := State.engineEnables_keeps (State.csmPowerReq_keeps (State.regPut_keeps ‹_›))
      clear_value x1 x2
      exact Keeps.ite (fun _ => State.csmClear_keeps ‹_›) (fun _ => ‹_›)
    · exact State.regPut_keeps ‹_›
  · exact Keeps.ite (fun _ => State.mgmtError_keeps ‹_›) (fun _ => State.regPut_keeps ‹_›)
  · extract_lets +onlyGivenNames x3
    have hx3 : Keeps s0 x3 := State.regPut_keeps ‹_›
    clear_value x3
    exact Keeps.ite (fun _ => State.strClear_keeps ‹_›) (fun _ => ‹_›)
  · extract_lets +onlyGivenNames x4
    have hx4 : Keeps s0 x4 := State.regPut_keeps ‹_›
    clear_value x4
    exact Keeps.ite (fun _ => State.skyClear_keeps ‹_›) (fun _ => ‹_›)
  · exact State.regPut_keeps ‹_›

theorem State.drlWrite_keeps {s0 s : State} {a2} {a3} {a4} {a5} {a6} (h : Keeps s0 s) : Keeps s0 (s.drlWrite a2
    a3 a4 a5 a6) := by
  unfold State.drlWrite
  exact Keeps.ite (fun _ => Keeps.ite (fun _ => State.drlClear_keeps ‹_›) (fun _ => ‹_›)) (fun _ => Keeps.ite (fun _
      => State.drlCfg_keeps ‹_›) (fun _ => Keeps.ite (fun _ => Keeps.ite (fun _ => State.mgmtError_keeps ‹_›) (fun _
      => State.regPut_keeps ‹_›)) (fun _ => State.regPut_keeps ‹_›)))

theorem State.celWrite_keeps {s0 s : State} {a2} {a3} {a4} {a5} (h : Keeps s0 s) : Keeps s0 (s.celWrite a2 a3
    a4 a5) := by
  unfold State.celWrite
  extract_lets +onlyGivenNames x1
  clear_value x1
  refine Keeps.ite (fun _ => ?_) (fun _ => ?_)
  · exact State.regPut_keeps ‹_›
  · refine Keeps.ite (fun _ => ?_) (fun _ => ?_)
    · assumption
    · refine Keeps.ite (fun _ => ?_) (fun _ => ?_)
      · exact State.celQwm_keeps ‹_›
      · refine Keeps.ite (fun _ => ?_) (fun _ => ?_)
        · extract_lets +onlyGivenNames x2
          have hx2 : Keeps s0 x2 := State.crossedClear_keeps ‹_›
          clear_value x2
          exact Keeps.ite (fun _ => State.celCntClear_keeps ‹_›) (fun _ => ‹_›)
        · exact State.regPut_keeps ‹_›

theorem State.regWrite_keeps {s0 s : State} {a2} {a3} {a4} {a5} {a6} {a7} (h : Keeps s0 s) : Keeps s0 (State.regWrite
    s a2 a3 a4 a5 a6 a7) := by
  unfold State.regWrite
  split
  · assumption
  · extract_lets +onlyGivenNames x1
    clear_value x1
    split
    · exact State.bayWrite_keeps ‹_›
    · exact Keeps.ite (fun _ => State.setSr_keeps ‹_›) (fun _ => State.regPut_keeps ‹_›)
    · exact Keeps.ite (fun _ => State.larderEnable_keeps ‹_›) (fun _ => State.regPut_keeps ‹_›)
    · exact State.csmWrite_keeps ‹_›
    · exact State.csmWrite_keeps ‹_›
    · exact State.csmWrite_keeps ‹_›
    · exact State.csmWrite_keeps ‹_›
    · exact State.csmWrite_keeps ‹_›
    · exact State.drlWrite_keeps ‹_›
    · exact State.celWrite_keeps ‹_›
    · exact Keeps.ite (fun _ => State.unitReq_keeps (State.wf_keeps ‹_›)) (fun _ => State.regPut_keeps ‹_›)
    · exact Keeps.ite (fun _ => State.wf_keeps ‹_›) (fun _ => State.regPut_keeps ‹_›)
    · exact Keeps.ite (fun _ => State.wf_keeps (State.wf_keeps ‹_›)) (fun _ => State.regPut_keeps ‹_›)
    · exact State.regPut_keeps ‹_›

theorem State.powerWrite_keeps {s0 s : State} {a2} {a3} {a4} {a5} (h : Keeps s0 s) : Keeps s0 (s.powerWrite a2
    a3 a4 a5) := by
  unfold State.powerWrite
  split
  · exact Keeps.ite (fun _ => State.bayPowerReq_keeps ‹_›) (fun _ => ‹_›)
  · exact Keeps.ite (fun _ => State.csmPowerReq_keeps ‹_›) (fun _ => ‹_›)
  · assumption

theorem State.mgmtWrite_keeps {s0 s : State} {a2} {a3} {a4} {a5} (h : Keeps s0 s) : Keeps s0 (s.mgmtWrite a2 a3
    a4 a5) := by
  unfold State.mgmtWrite
  split
  · exact State.mgmtError_keeps ‹_›
  · assumption
  · extract_lets +onlyGivenNames x1
    have hx1 : Keeps s0 x1.2 := State.draw_keeps ‹_›
    clear_value x1
    exact State.guestAccess_keeps ‹_›
  · split
    · extract_lets +onlyGivenNames x2
      have hx2 : Keeps s0 x2 := State.mgmtError_keeps ‹_›
      clear_value x2
      exact Keeps.ite (fun _ => State.powerWrite_keeps ‹_›) (fun _ => ‹_›)
    · exact Keeps.ite (fun _ => State.regWrite_keeps ‹_›) (fun _ => Keeps.ite (fun _ => State.regWrite_keeps ‹_›) (fun
          _ => ‹_›))

theorem State.mgmtAccess_keeps {s0 s : State} {a2} {a3} {a4} {a5} {a6} (h : Keeps s0 s) : Keeps s0 (State.mgmtAccess
    s a2 a3 a4 a5 a6) := by
  unfold State.mgmtAccess
  exact Keeps.ite (fun _ => State.mgmtError_keeps ‹_›) (fun _ => State.mgmtWrite_keeps ‹_›)

theorem State.dmaCfg_keeps {s0 s : State} {a2} {a3} (h : Keeps s0 s) : Keeps s0 (s.dmaCfg a2 a3) := by
  unfold State.dmaCfg
  refine Keeps.ite (fun _ => ?_) (fun _ => ?_)
  · assumption
  · extract_lets +onlyGivenNames x1 x2
    have hx1 : Keeps s0 x1 := State.whf_keeps (State.whf_keeps ‹_›)
    have hx2 : Keeps s0 x2 := Keeps.ite (fun _ => State.dmaStop_keeps ‹_›) (fun _ => Keeps.ite (fun _ => ‹_›) (fun _
        => State.dmaState_keeps (State.whf_keeps ‹_›)))
    clear_value x1 x2
    exact Keeps.ite (fun _ => State.dmaResume_keeps ‹_›) (fun _ => ‹_›)

theorem State.baseWrite_keeps {s0 s : State} {a2} {a3} {a4} {a5} (h : Keeps s0 s) : Keeps s0 (s.baseWrite a2 a3
    a4 a5) := by
  unfold State.baseWrite
  exact Keeps.ite (fun _ => ‹_›) (fun _ => State.whf_keeps ‹_›)

theorem State.bridgeWrite_keeps {s0 s : State} {a2} {a3} (h : Keeps s0 s) : Keeps s0 (s.bridgeWrite a2 a3) :=
    by
  unfold State.bridgeWrite
  extract_lets +onlyGivenNames x1 x2
  clear_value x1 x2
  refine Keeps.ite (fun _ => ?_) (fun _ => ?_)
  · exact Keeps.ite (fun _ => State.ringCfg_keeps ‹_›) (fun _ => State.doorbell_keeps ‹_›)
  · refine Keeps.ite (fun _ => ?_) (fun _ => ?_)
    · split
      · exact State.baseWrite_keeps ‹_›
      · exact State.evqCfgWrite_keeps ‹_›
      · exact State.evqHead_keeps ‹_›
      · assumption
    · refine Keeps.ite (fun _ => ?_) (fun _ => ?_)
      · exact State.whf_keeps ‹_›
      · refine Keeps.ite (fun _ => ?_) (fun _ => ?_)
        · exact Keeps.ite (fun _ => State.setHreg_keeps ‹_›) (fun _ => ‹_›)
        · refine Keeps.ite (fun _ => ?_) (fun _ => ?_)
          · split
            · exact State.baseWrite_keeps ‹_›
            · exact State.dmaCfg_keeps ‹_›
            · exact State.dmaDoorbell_keeps ‹_›
            · assumption
          · exact Keeps.ite (fun _ => State.whf_keeps ‹_›) (fun _ => ‹_›)

theorem State.msixWrite_keeps {s0 s : State} {a2} {a3} {a4} (h : Keeps s0 s) : Keeps s0 (s.msixWrite a2 a3 a4)
    := by
  unfold State.msixWrite
  extract_lets +onlyGivenNames x1 x2 x3
  clear_value x1 x2 x3
  refine Keeps.ite (fun _ => ?_) (fun _ => ?_)
  · assumption
  · refine Keeps.ite (fun _ => ?_) (fun _ => ?_)
    · exact State.setHreg_keeps ‹_›
    · extract_lets +onlyGivenNames x4 x5
      have hx4 : Keeps s0 x4 := State.setHreg_keeps ‹_›
      clear_value x4 x5
      exact Keeps.ite (fun _ => State.msix_keeps (Keeps.record ‹_› rfl rfl rfl)) (fun _ => ‹_›)

theorem State.bar0Write_keeps {s0 s : State} {a2} {a3} {a4} (h : Keeps s0 s) : Keeps s0 (s.bar0Write a2 a3 a4) := by
  unfold State.bar0Write
  refine Keeps.ite (fun _ => h) fun _ => Keeps.ite (fun _ => ?_) fun _ => Keeps.ite (fun _ => ?_) fun _ =>
    Keeps.ite (fun _ => State.msixWrite_keeps h) fun _ => Keeps.ite (fun _ => h) fun _ => State.mgmtAccess_keeps h
  · exact Keeps.ite (fun _ => h.setRingMem (wf_memWrite _ _)) fun _ => h
  · exact Keeps.ite (fun _ => State.mgmtError_keeps h) fun _ => State.bridgeWrite_keeps h

theorem State.registerWrite_keeps {s0 s : State} {a2} {a3} {a4} {a5} {a6} (h : Keeps s0 s) : Keeps s0
    (s.registerWrite a2 a3 a4 a5 a6) := by
  unfold State.registerWrite
  refine Keeps.ite (fun _ => ?_) (fun _ => ?_)
  · assumption
  · split
    · exact Keeps.ite (fun _ => State.bar0Write_keeps ‹_›) (fun _ => ‹_›)
    · split
      · exact Keeps.ite (fun _ => State.mgmtAccess_keeps ‹_›) (fun _ => ‹_›)
      · exact State.mgmtAccess_keeps ‹_›

theorem State.identify_keeps {s0 s : State} {a2} (h : Keeps s0 s) : Keeps s0 (s.identify a2) := by
  unfold State.identify
  exact State.reply_keeps ‹_›

theorem State.podList_keeps {s0 s : State} {a2} (h : Keeps s0 s) : Keeps s0 (s.podList a2) := by
  unfold State.podList
  exact Keeps.ite (fun _ => State.reply_keeps ‹_›) (fun _ => State.replyWritten_keeps ‹_› (fun t3 t4 =>
      State.cmdWrite_keeps ‹_› ‹_›))

theorem State.mgmtReads_keeps {s0 : State} : ∀ {a3 : Nat} {s : State} {a2 : Nat}, Keeps s0 s →
    Keeps s0 (State.mgmtReads s a2 a3).2
  | 0, _, _, h => h
  | n + 1, _, _, h => State.mgmtReads_keeps (a3 := n) (State.mgmtRead_keeps h)

theorem State.podCmd_keeps {s0 s : State} {a2} {f3} (h : Keeps s0 s) (hf0 : ∀ y1, Keeps s0 y1 → Keeps s0 (f3 y1)) :
    Keeps s0 (s.podCmd a2 f3) := by
  unfold State.podCmd
  exact Keeps.ite (fun _ => State.reply_keeps ‹_›) (fun _ => Keeps.ite (fun _ => hf0 _ ‹_›) (fun _ => Keeps.ite (fun _
      => State.reply_keeps ‹_›) (fun _ => Keeps.ite (fun _ => State.forwardTo_keeps (State.addActive_keeps ‹_›)) (fun
      _ => State.reply_keeps ‹_›))))

theorem State.mgmtReadCmd_keeps {s0 s : State} {a2} (h : Keeps s0 s) : Keeps s0 (s.mgmtReadCmd a2) := by
  unfold State.mgmtReadCmd
  extract_lets +onlyGivenNames x1
  clear_value x1
  refine Keeps.ite (fun _ => ?_) (fun _ => ?_)
  · exact State.reply_keeps ‹_›
  · refine State.podCmd_keeps ?_ ?_
    · assumption
    · intro t2 ht3
      extract_lets +onlyGivenNames x4
      have hx4 : Keeps s0 x4.2 := State.mgmtReads_keeps ‹_›
      clear_value x4
      exact State.reply_keeps ‹_›

theorem State.mgmtWriteCmd_keeps {s0 s : State} {a2} (h : Keeps s0 s) : Keeps s0 (s.mgmtWriteCmd a2) := by
  unfold State.mgmtWriteCmd
  exact State.podCmd_keeps ‹_› (fun t1 ht2 => State.reply_keeps (State.mgmtAccess_keeps ‹_›))

theorem State.sliceRan_keeps {s0 s : State} {a2} (h : Keeps s0 s) : Keeps s0 (s.sliceRan a2) := by
  unfold State.sliceRan
  exact State.satf_keeps (Keeps.record ‹_› rfl rfl rfl)

theorem State.sliceSkipped_keeps {s0 s : State} (h : Keeps s0 s) : Keeps s0 (s.sliceSkipped) := by
  unfold State.sliceSkipped
  exact State.satf_keeps ‹_›

theorem State.sliceFailed_keeps {s0 s : State} {a2} {a3} {a4} {a5} {a6} (h : Keeps s0 s) : Keeps s0
    (s.sliceFailed a2 a3 a4 a5 a6) := by
  unfold State.sliceFailed
  exact State.setReg_keeps (State.satf_keeps ‹_›)

theorem State.rotate_keeps {s0 s : State} {a2} (h : Keeps s0 s) : Keeps s0 (s.rotate a2) := by
  unfold State.rotate
  extract_lets +onlyGivenNames x1
  clear_value x1
  split
  · split
    · exact State.remapTiles_keeps (State.setBay_keeps (State.wf_keeps (State.wf_keeps ‹_›)))
    · assumption
  · assumption

theorem State.tilePasses_keeps {s0 s : State} {a2} {a3} (h : Keeps s0 s) : Keeps s0 (s.tilePasses a2 a3) := by
  unfold State.tilePasses
  exact State.remapTiles_keeps (State.wf_keeps ‹_›)

theorem State.tileFails_keeps {s0 s : State} {a2} {a3} {a4} {a5} (h : Keeps s0 s) : Keeps s0 (s.tileFails a2 a3
    a4 a5) := by
  unfold State.tileFails
  exact State.raise_keeps (State.sliceFailed_keeps (State.remapTiles_keeps (State.wfs_keeps ‹_›)))

theorem State.tileSlice_keeps {s0 s : State} {a2} {a3} {a4} (h : Keeps s0 s) : Keeps s0 (s.tileSlice a2 a3 a4)
    := by
  unfold State.tileSlice
  split
  · extract_lets +onlyGivenNames x1 x2
    have hx2 : Keeps s0 x2 := State.setBay_keeps ‹_›
    clear_value x1 x2
    refine Keeps.ite (fun _ => ?_) (fun _ => ?_)
    · exact State.sliceSkipped_keeps ‹_›
    · extract_lets +onlyGivenNames x3
      have hx3 : Keeps s0 x3 := State.sliceRan_keeps ‹_›
      clear_value x3
      split
      · exact State.tilePasses_keeps ‹_›
      · exact State.tileFails_keeps ‹_›
  · assumption

theorem State.rowsTested_keeps {s0 s : State} {a2} (h : Keeps s0 s) : Keeps s0 (s.rowsTested a2) := by
  unfold State.rowsTested
  exact State.setBay_keeps (Keeps.record ‹_› rfl rfl rfl)

theorem State.sramSlice_keeps {s0 s : State} {a2} {a3} (h : Keeps s0 s) : Keeps s0 (s.sramSlice a2 a3) := by
  unfold State.sramSlice
  extract_lets +onlyGivenNames x1 x2
  clear_value x1 x2
  refine Keeps.ite (fun _ => ?_) (fun _ => ?_)
  · assumption
  · refine Keeps.ite (fun _ => ?_) (fun _ => ?_)
    · exact State.sliceSkipped_keeps ‹_›
    · extract_lets +onlyGivenNames x3
      have hx3 : Keeps s0 x3 := State.rowsTested_keeps (State.sliceRan_keeps ‹_›)
      clear_value x3
      split
      · assumption
      · exact State.raise_keeps (State.sliceFailed_keeps (State.setBay_keeps ‹_›))

theorem State.baseSlice_keeps {s0 s : State} {a2} {a3} {a4} {a5} {f6} (h : Keeps s0 s) (hf0 : ∀ y1 y2, Keeps s0 y1 →
    Keeps s0 (f6 y1 y2)) : Keeps s0 (s.baseSlice a2 a3 a4 a5 f6) := by
  unfold State.baseSlice
  extract_lets +onlyGivenNames x1
  clear_value x1
  refine Keeps.ite (fun _ => ?_) (fun _ => ?_)
  · assumption
  · refine Keeps.ite (fun _ => ?_) (fun _ => ?_)
    · exact State.sliceSkipped_keeps ‹_›
    · extract_lets +onlyGivenNames x2 x3
      have hx2 : Keeps s0 x2 := hf0 _ _ (State.sliceRan_keeps ‹_›)
      have hx3 : Keeps s0 x3 := Keeps.record ‹_› rfl rfl rfl
      clear_value x2 x3
      split
      · assumption
      · exact State.raise_keeps (State.sliceFailed_keeps (Keeps.record ‹_› rfl rfl rfl))

theorem State.repairBay_keeps {s0 s : State} {a2} (h : Keeps s0 s) : Keeps s0 (s.repairBay a2) := by
  unfold State.repairBay
  split
  · assumption
  · exact Keeps.ite (fun _ => State.retireRow_keeps (State.setBay_keeps ‹_›)) (fun _ => ‹_›)

theorem State.larderOff_keeps {s0 s : State} {a2} (h : Keeps s0 s) : Keeps s0 (s.larderOff a2) := by
  unfold State.larderOff
  exact State.larderEnable_keeps (Keeps.record (State.addRepair_keeps ‹_›) rfl rfl rfl)

theorem State.pantryOff_keeps {s0 s : State} {a2} (h : Keeps s0 s) : Keeps s0 (s.pantryOff a2) := by
  unfold State.pantryOff
  exact State.note_keeps (Keeps.record (State.addRepair_keeps ‹_›) rfl rfl rfl)

theorem State.repairBase_keeps {s0 s : State} {a2} {a3} {f4} (h : Keeps s0 s) (hf0 : ∀ y1, Keeps s0 y1 → Keeps s0 (f4
    y1)) : Keeps s0 (s.repairBase a2 a3 f4) := by
  unfold State.repairBase
  split
  · assumption
  · refine Keeps.ite (fun _ => ?_) (fun _ => ?_)
    · extract_lets +onlyGivenNames x1 x2 x3
      have hx2 : Keeps s0 x2 := Keeps.record ‹_› rfl rfl rfl
      have hx3 : Keeps s0 x3.1 := State.addRepair_keeps ‹_›
      clear_value x1 x2 x3
      exact Keeps.ite (fun _ => hf0 _ ‹_›) (fun _ => Keeps.record ‹_› rfl rfl rfl)
    · assumption

theorem State.scrubCe_keeps {s0 s : State} {a2} {a3} (h : Keeps s0 s) : Keeps s0 (s.scrubCe a2 a3) := by
  unfold State.scrubCe
  extract_lets +onlyGivenNames x1 x2 x3 x4
  have hx4 : Keeps s0 x4 := State.setBay_keeps (State.sramEcc_keeps ‹_›)
  clear_value x1 x2 x3 x4
  exact Keeps.ite (fun _ => Keeps.record ‹_› rfl rfl rfl) (fun _ => ‹_›)

theorem State.scrubUe_keeps {s0 s : State} {a2} {a3} (h : Keeps s0 s) : Keeps s0 (s.scrubUe a2 a3) := by
  unfold State.scrubUe
  exact State.retireRow_keeps (State.raise_keeps (State.sramEcc_keeps ‹_›))

theorem State.scrub_keeps {s0 s : State} {a2} {a3} (h : Keeps s0 s) : Keeps s0 (s.scrub a2 a3) := by
  unfold State.scrub
  exact Keeps.ite (fun _ => State.setBay_keeps (Keeps.foldl (fun t y ht => Keeps.ite (fun _ => State.scrubCe_keeps
      ‹_›) (fun _ => State.scrubUe_keeps ‹_›)) _ _ ‹_›)) (fun _ => ‹_›)

theorem State.wiped_keeps {s0 s : State} (h : Keeps s0 s) : Keeps s0 (s.wiped) := by
  unfold State.wiped
  refine State.wf_keeps ⟨h.pending, h.fuse, h.nv, fun x => ?_, h.clamp, fun x => ?_⟩
  · have y := h.retired x
    rw [State.retired, Bool.and_eq_true] at y ⊢
    exact ⟨y.1, rfl⟩
  have y := h.sound x
  exact { mem := rfl, sram := rfl, hostMem := y.hostMem, ringMem := rfl, mgmt := rfl, hb := rfl, history := y.history,
          audit := y.audit, repairs := y.repairs, dups := fun _ _ => Nat.zero_le _,
          log := ⟨List.Perm.refl _, Nat.zero_le _⟩ }

theorem State.i3cShow_keeps {s0 s : State} {a2} {a3} {a4} (h : Keeps s0 s) : Keeps s0 (s.i3cShow a2 a3 a4) :=
    by
  unfold State.i3cShow
  exact Keeps.record ‹_› rfl rfl rfl

theorem State.enterStage_keeps {s0 s : State} {a2} (h : Keeps s0 s) : Keeps s0 (s.enterStage a2) := by
  unfold State.enterStage
  exact State.wf_keeps ‹_›

theorem State.stageUs_keeps {s0 s : State} {a2} {a3} (h : Keeps s0 s) : Keeps s0 (s.stageUs a2 a3) := by
  unfold State.stageUs
  exact State.wf_keeps ‹_›

theorem State.applyRoles_keeps {s0 s : State} (h : Keeps s0 s) : Keeps s0 (s.applyRoles) := by
  unfold State.applyRoles
  extract_lets +onlyGivenNames x1 x2 x3
  have hx2 : Keeps s0 x2 := State.setReg_keeps ‹_›
  have hx3 : Keeps s0 x3 := Keeps.foldl (fun t y ht => State.wf_keeps ‹_›) _ _ ‹_›
  clear_value x1 x2 x3
  exact State.pcieTrain_keeps (State.wf_keeps ‹_›)

theorem State.stage1_keeps {s0 s : State} (h : Keeps s0 s) : Keeps s0 (s.stage1) := by
  unfold State.stage1
  extract_lets +onlyGivenNames x1 x2 x3 x4 x5 x7
  have hx2 : Keeps s0 x2 := State.wfs_keeps ‹_›
  have hx3 : Keeps s0 x3 := State.setReg_keeps ‹_›
  have hx4 : Keeps s0 x4 := State.wfs_keeps ‹_›
  have hx5 : Keeps s0 x5 := Keeps.foldl (fun t y ht => State.wfs_keeps ‹_›) _ _ ‹_›
  have hx7 : Keeps s0 x7 := State.setHearth_keeps (State.setHearth_keeps ‹_›)
  clear_value x1 x2 x3 x4 x5 x7
  exact State.enterStage_keeps (State.i3cShow_keeps (State.applyRoles_keeps ‹_›))

theorem State.stage2_keeps {s0 s : State} {a2} (h : Keeps s0 s) : Keeps s0 (s.stage2 a2) := by
  unfold State.stage2
  exact State.wf_keeps (State.wf_keeps (State.setHearth_keeps (State.setHearth_keeps (State.wfs_keeps (State.wfs_keeps
      ‹_›)))))

theorem State.fwHold_keeps {s0 s : State} {a2} (h : Keeps s0 s) : Keeps s0 (s.fwHold a2) := by
  unfold State.fwHold
  exact State.i3cShow_keeps (State.wf_keeps (State.wfs_keeps ‹_›))

theorem State.load_keeps {s0 s : State} {a2} {a3} (h : Keeps s0 s) : Keeps s0 (s.load a2 a3) := by
  unfold State.load
  split
  · exact State.wfs_keeps ‹_›
  · assumption

theorem State.loadRow_keeps {s0 s : State} {a2} {a3} {a4} (h : Keeps s0 s) : Keeps s0 (s.loadRow a2 a3 a4) :=
    by
  unfold State.loadRow
  exact Keeps.foldl (fun t y ht => State.load_keeps ‹_›) _ _ ‹_›

theorem State.loadPool_keeps {s0 s : State} {a2} (h : Keeps s0 s) : Keeps s0 (s.loadPool a2) := by
  unfold State.loadPool
  split
  · exact Keeps.ite (fun _ => State.mgmtError_keeps ‹_›) (fun _ => State.load_keeps ‹_›)
  · assumption

theorem State.loadPackage_keeps {s0 s : State} (h : Keeps s0 s) : Keeps s0 (s.loadPackage) := by
  unfold State.loadPackage
  extract_lets +onlyGivenNames x1 x2 x3 x4 x5 x6 x7 x8 x9 x10 x11 x12 x13 x14
  have hx1 : Keeps s0 x1 := State.load_keeps ‹_›
  have hx2 : Keeps s0 x2 := State.load_keeps ‹_›
  have hx3 : Keeps s0 x3 := State.load_keeps ‹_›
  have hx4 : Keeps s0 x4 := State.wf_keeps ‹_›
  have hx5 : Keeps s0 x5 := State.load_keeps ‹_›
  have hx6 : Keeps s0 x6 := State.wf_keeps ‹_›
  have hx7 : Keeps s0 x7 := State.load_keeps (State.wf_keeps ‹_›)
  have hx8 : Keeps s0 x8 := State.wf_keeps ‹_›
  have hx9 : Keeps s0 x9 := State.load_keeps (State.wf_keeps ‹_›)
  have hx10 : Keeps s0 x10 := State.load_keeps ‹_›
  have hx11 : Keeps s0 x11 := State.load_keeps ‹_›
  have hx12 : Keeps s0 x12 := State.loadRow_keeps ‹_›
  have hx13 : Keeps s0 x13 := State.loadRow_keeps ‹_›
  have hx14 : Keeps s0 x14 := State.setHreg_keeps ‹_›
  clear_value x1 x2 x3 x4 x5 x6 x7 x8 x9 x10 x11 x12 x13 x14
  split
  · split
    · exact Keeps.record ‹_› rfl rfl rfl
    · assumption
  · assumption

theorem State.loadUnits_keeps {s0 s : State} (h : Keeps s0 s) : Keeps s0 (s.loadUnits) := by
  unfold State.loadUnits
  extract_lets +onlyGivenNames x1 x2 x3 x4 x5
  have hx1 : Keeps s0 x1 := Keeps.foldl (fun t y ht => State.load_keeps ‹_›) _ _ ‹_›
  have hx2 : Keeps s0 x2 := Keeps.foldl (fun t y ht => State.loadRow_keeps ‹_›) _ _ ‹_›
  have hx3 : Keeps s0 x3 := State.load_keeps ‹_›
  have hx4 : Keeps s0 x4 := State.loadRow_keeps ‹_›
  have hx5 : Keeps s0 x5 := Keeps.foldl (fun t y ht => State.loadPool_keeps ‹_›) _ _ ‹_›
  clear_value x1 x2 x3 x4 x5
  exact Keeps.foldl (fun t y ht => State.load_keeps (State.load_keeps ‹_›)) _ _ ‹_›

theorem State.priorRecords_keeps {s0 s : State} (h : Keeps s0 s) : Keeps s0 (s.priorRecords) := by
  unfold State.priorRecords
  refine State.refreshFlt_keeps (Keeps.foldl (fun t ws ht => Keeps.ite (fun _ => ht) fun _ => ?_) _ _ h)
  split
  · rename_i i hi
    refine State.putRecord_keeps ht ?_
    unfold State.logSlot at hi
    split at hi
    · cases hi; exact .inl ⟨rfl, ‹_›⟩
    · exact .inr (List.mem_of_find?_eq_some hi)
  · exact State.satf_keeps ht

theorem State.bootConfig_keeps {s0 s : State} {a2} (h : Keeps s0 s) : Keeps s0 (s.bootConfig a2) := by
  unfold State.bootConfig
  exact Keeps.ite (fun _ => Keeps.record ‹_› rfl rfl rfl) (fun _ => State.wf_keeps (Keeps.record ‹_› rfl rfl rfl))

theorem State.bootEpoch_keeps {s0 s : State} (h : Keeps s0 s) : Keeps s0 (s.bootEpoch) := by
  unfold State.bootEpoch
  exact State.wf_keeps (Keeps.record ‹_› rfl rfl rfl)

theorem State.bootAudit_keeps {s0 s : State} (h : Keeps s0 s) : Keeps s0 (s.bootAudit) := by
  unfold State.bootAudit
  extract_lets +onlyGivenNames x1 x2 x3
  have hx2 : Keeps s0 x2 := Keeps.ite (fun _ => ‹_›) (fun _ => State.setReg_keeps ‹_›)
  have hx3 : Keeps s0 x3 := State.wf_keeps ‹_›
  clear_value x1 x2 x3
  exact Keeps.ite (fun _ => State.auditRec_keeps (Keeps.record ‹_› rfl rfl rfl)) (fun _ => ‹_›)

theorem State.bootRail_keeps {s0 s : State} (h : Keeps s0 s) : Keeps s0 (s.bootRail) := by
  unfold State.bootRail
  exact Keeps.ite (fun _ => ‹_›) (fun _ => State.raise_keeps (State.wf_keeps (Keeps.record ‹_› rfl rfl rfl)))

theorem State.stage3_keeps {s0 s : State} {a2} (h : Keeps s0 s) : Keeps s0 (s.stage3 a2) := by
  unfold State.stage3
  exact State.bootRail_keeps (State.bootAudit_keeps (State.showSec_keeps (State.showTrip_keeps
      (State.priorRecords_keeps (State.bootEpoch_keeps (State.loadUnits_keeps (State.loadPackage_keeps
      (State.bootConfig_keeps ‹_›))))))))

theorem State.holdSafe_keeps {s0 s : State} {a2} {a3} (h : Keeps s0 s) : Keeps s0 (s.holdSafe a2 a3) := by
  unfold State.holdSafe
  exact State.i3cShow_keeps (State.refreshFlt_keeps (State.enterStage_keeps (Keeps.record (State.wfs_keeps
      (State.note_keeps ‹_›)) rfl rfl rfl)))

theorem State.applyRepair_keeps {s0 s : State} {a2} (h : Keeps s0 s) : Keeps s0 (s.applyRepair a2) := by
  unfold State.applyRepair
  extract_lets +onlyGivenNames x1 x2 x3
  clear_value x1 x2 x3
  split
  · exact State.wf_keeps ‹_›
  · exact Keeps.ite (fun _ => Keeps.record ‹_› rfl rfl rfl) (fun _ => Keeps.ite (fun _ => Keeps.record ‹_› rfl rfl
        rfl) (fun _ => State.setBay_keeps ‹_›))
  · exact State.larderEnable_keeps (Keeps.record ‹_› rfl rfl rfl)
  · exact Keeps.record ‹_› rfl rfl rfl
  · assumption

theorem State.bistTile_keeps {s0 s : State} {a2} {a3} (h : Keeps s0 s) : Keeps s0 (s.bistTile a2 a3) := by
  unfold State.bistTile
  refine Keeps.ite (fun _ => ?_) (fun _ => ?_)
  · assumption
  · extract_lets +onlyGivenNames x1
    have hx1 : Keeps s0 x1.1 := State.addRepair_keeps ‹_›
    clear_value x1
    exact State.wf_keeps ‹_›

theorem State.bistBase_keeps {s0 s : State} {a2} {a3} {a4} {a5} {f6} (h : Keeps s0 s) (hf0 : ∀ y1, Keeps s0 y1 → Keeps
    s0 (f6 y1)) : Keeps s0 (s.bistBase a2 a3 a4 a5 f6) := by
  unfold State.bistBase
  exact State.repairBase_keeps (Keeps.record ‹_› rfl rfl rfl) (fun t1 ht2 => hf0 _ ‹_›)

theorem State.bistFail_keeps {s0 s : State} {a2} (h : Keeps s0 s) : Keeps s0 (s.bistFail a2) := by
  unfold State.bistFail
  split
  · exact Keeps.ite (fun _ => ‹_›) (fun _ => Keeps.ite (fun _ => Keeps.record (State.takeover_keeps ‹_›) rfl rfl rfl)
        (fun _ => State.loseHearth_keeps ‹_›))
  · assumption
  · assumption
  · exact Keeps.ite (fun _ => State.seamDown_keeps ‹_›) (fun _ => ‹_›)
  · exact State.bistTile_keeps ‹_›
  · exact State.retireRow_keeps ‹_›
  · exact State.bistBase_keeps ‹_› (fun t2 ht3 => State.larderOff_keeps ‹_›)
  · exact State.bistBase_keeps ‹_› (fun t4 ht5 => State.pantryOff_keeps ‹_›)
  · exact State.larderOff_keeps ‹_›
  · exact State.pantryOff_keeps ‹_›
  · exact State.loseBay_keeps ‹_›
  · exact Keeps.foldl (fun t y ht => State.loseBay_keeps ‹_›) _ _ (State.fence_keeps ‹_›)
  · exact State.raise_keeps ‹_›

theorem State.settleTiles_keeps {s0 s : State} {a2} (h : Keeps s0 s) : Keeps s0 (s.settleTiles a2) := by
  unfold State.settleTiles
  extract_lets +onlyGivenNames x1
  clear_value x1
  refine Keeps.ite (fun _ => ?_) (fun _ => ?_)
  · assumption
  · extract_lets +onlyGivenNames x2
    have hx2 : Keeps s0 x2 := State.remapTiles_keeps (Keeps.ite (fun _ => State.wf_keeps ‹_›) (fun _ => ‹_›))
    clear_value x2
    exact Keeps.ite (fun _ => ‹_›) (fun _ => State.loseBay_keeps ‹_›)

/-- Registers at rising addresses. -/
theorem pairwise_regs {α : Type} {n : Nat} {f : Nat → Nat} {g : Nat → α} (hf : ∀ i j, i < j → j < n → f i < f j) :
    ((List.range n).map (fun i => (f i, g i))).Pairwise (fun a b => a.1 < b.1) := by
  rw [List.pairwise_map]
  refine List.Pairwise.imp_of_mem ?_ List.pairwise_lt_range
  intro a b _ hb hab
  exact hf a b hab (List.mem_range.mp hb)

theorem State.seedAll_keeps {s0 s : State} {a2} (h : Keeps s0 s) : Keeps s0 (s.seedAll a2) := by
  unfold State.seedAll
  extract_lets v
  refine State.setRegs_keeps (Keeps.record h rfl rfl rfl) ?_
  rw [List.pairwise_append]
  refine ⟨?_, pairwise_regs fun i j hij _ => ?_, ?_⟩
  · simp [BAY_VSR_STATE, BAY_DSR_STATE]
  · simp only [TIL_SR_STATE, tileBase]; omega
  · intro a ha b hb
    obtain ⟨t, -, rfl⟩ := List.mem_map.mp hb
    simp only [List.mem_cons, List.not_mem_nil, or_false] at ha
    rcases ha with rfl | rfl <;> simp only [BAY_VSR_STATE, BAY_DSR_STATE, TIL_SR_STATE, tileBase] <;> omega

theorem State.powerDies_keeps {s0 s : State} (h : Keeps s0 s) : Keeps s0 (s.powerDies) := by
  unfold State.powerDies
  extract_lets +onlyGivenNames x1
  have hx1 : Keeps s0 x1 := Keeps.foldl (fun t y ht => State.wf_keeps ‹_›) _ _ ‹_›
  clear_value x1
  exact Keeps.foldl (fun t y ht => Keeps.ite (fun _ => State.dieOff_keeps ‹_›) (fun _ => Keeps.foldl (fun t y ht =>
      State.seedAll_keeps ‹_›) _ _ (State.wf_keeps ‹_›))) _ _ ‹_›

theorem State.stage4_keeps {s0 s : State} {a2} (h : Keeps s0 s) : Keeps s0 (s.stage4 a2).1 := by
  unfold State.stage4
  extract_lets +onlyGivenNames x1
  have hx1 : Keeps s0 x1 := State.i3cShow_keeps (State.enterStage_keeps ‹_›)
  clear_value x1
  split
  · dsimp only
    exact State.holdSafe_keeps ‹_›
  · extract_lets +onlyGivenNames x2 x3 x4
    have hx2 : Keeps s0 x2 := Keeps.foldl (fun t y ht => State.applyRepair_keeps ‹_›) _ _ ‹_›
    have hx3 : Keeps s0 x3 := Keeps.foldl (fun t y ht => State.bistFail_keeps ‹_›) _ _ ‹_›
    have hx4 : Keeps s0 x4 := Keeps.foldl (fun t y ht => State.settleTiles_keeps ‹_›) _ _ ‹_›
    clear_value x2 x3 x4
    dsimp only
    exact State.wf_keeps (State.powerDies_keeps ‹_›)

theorem State.showRetired_keeps {s0 s : State} (h : Keeps s0 s) : Keeps s0 (s.showRetired) := by
  unfold State.showRetired
  extract_lets +onlyGivenNames x1 x2 x3 x4 x5 x6
  have hx3 : Keeps s0 x3 := Keeps.record ‹_› rfl rfl rfl
  have hx4 : Keeps s0 x4 := Keeps.foldl (fun t y ht => State.setReg_keeps ‹_›) _ _ ‹_›
  have hx5 : Keeps s0 x5 := State.wf_keeps ‹_›
  have hx6 : Keeps s0 x6 := Keeps.foldl (fun t y ht => State.wfs_keeps ‹_›) _ _ ‹_›
  clear_value x1 x3 x4 x5 x6
  exact State.wf_keeps ‹_›

theorem State.stage5_keeps {s0 s : State} {a2} (h : Keeps s0 s) : Keeps s0 (s.stage5 a2).1 := by
  unfold State.stage5
  extract_lets +onlyGivenNames x1
  have hx1 : Keeps s0 x1 := State.i3cShow_keeps (State.enterStage_keeps ‹_›)
  clear_value x1
  split
  · dsimp only
    exact State.holdSafe_keeps ‹_›
  · extract_lets +onlyGivenNames x2 x3
    have hx2 : Keeps s0 x2 := State.showRetired_keeps ‹_›
    have hx3 : Keeps s0 x3 := Keeps.foldl (fun t y ht => Keeps.foldl (fun t y ht => State.nominate_keeps ‹_›) _ _ ‹_›)
        _ _ ‹_›
    clear_value x2 x3
    dsimp only
    exact Keeps.foldl (fun t y ht => State.copyDone_keeps ‹_›) _ _ ‹_›

theorem State.startCasement_keeps {s0 s : State} {a2} {a3} (h : Keeps s0 s) : Keeps s0 (s.startCasement a2 a3)
    := by
  unfold State.startCasement
  extract_lets +onlyGivenNames x1
  have hx1 : Keeps s0 x1 := Keeps.ite (fun _ => State.raise_keeps ‹_›) (fun _ => ‹_›)
  clear_value x1
  exact Keeps.ite (fun _ => ‹_›) (fun _ => State.widthReport_keeps (State.attTrained_keeps (State.wfs_keeps
      (State.wfs_keeps ‹_›))))

theorem State.startSite_keeps {s0 s : State} {a2} {a3} (h : Keeps s0 s) : Keeps s0 (s.startSite a2 a3) := by
  unfold State.startSite
  refine Keeps.ite (fun _ => ?_) (fun _ => ?_)
  · assumption
  · extract_lets +onlyGivenNames x1
    have hx1 : Keeps s0 x1 := State.siteState_keeps ‹_›
    clear_value x1
    split
    · exact State.admitSite_keeps ‹_›
    · exact State.siteFail_keeps ‹_›

theorem State.startLane_keeps {s0 s : State} {a2} {a3} (h : Keeps s0 s) : Keeps s0 (s.startLane a2 a3) := by
  unfold State.startLane
  exact Keeps.ite (fun _ => State.setPorch_keeps (State.satf_keeps ‹_›)) (fun _ => ‹_›)

theorem State.stage6_keeps {s0 s : State} {a2} (h : Keeps s0 s) : Keeps s0 (s.stage6 a2) := by
  unfold State.stage6
  extract_lets +onlyGivenNames x1 x2 x3 x4 x5
  have hx1 : Keeps s0 x1 := State.enterStage_keeps ‹_›
  have hx3 : Keeps s0 x3 := Keeps.foldl (fun t y ht => Keeps.ite (fun _ => Keeps.ite (fun _ => ‹_›) (fun _ =>
      State.wf_keeps ‹_›)) (fun _ => State.wf_keeps (Keeps.ite (fun _ => ‹_›) (fun _ => State.wf_keeps ‹_›)))) _ _ ‹_›
  have hx4 : Keeps s0 x4 := Keeps.foldl (fun t y ht => State.startCasement_keeps ‹_›) _ _ ‹_›
  have hx5 : Keeps s0 x5 := Keeps.foldl (fun t y ht => State.startSite_keeps ‹_›) _ _ ‹_›
  clear_value x1 x3 x4 x5
  exact Keeps.foldl (fun t y ht => State.startLane_keeps ‹_›) _ _ (State.framePush_keeps ‹_›)

/-- The laser registers of a Casement, at rising addresses. -/
theorem lasers_rise {α : Type} (c : Nat) (g1 g2 g3 g4 : Nat → α) :
    ((List.range 18).map (fun k => (LSR_GRID c k, g1 k)) ++ (List.range 4).map (fun a => (LSR_ATTIC c a, g2 a)) ++
      (List.range 2).map (fun i => (LSR_CARRIER c i, g3 i)) ++
      (List.range 24).map (fun n => (LSR_COMM c n, g4 n))).Pairwise (fun a b => a.1 < b.1) := by
  have hm : ∀ {n} {f : Nat → Nat} {g : Nat → α} {e}, e ∈ (List.range n).map (fun i => (f i, g i)) →
      ∃ i, i < n ∧ e.1 = f i := by
    intro n f g e he
    obtain ⟨i, hi, rfl⟩ := List.mem_map.mp he
    exact ⟨i, List.mem_range.mp hi, rfl⟩
  simp only [List.pairwise_append, List.mem_append]
  refine ⟨⟨⟨pairwise_regs ?_, pairwise_regs ?_, ?_⟩, pairwise_regs ?_, ?_⟩, pairwise_regs ?_, ?_⟩
  · intro i j _ _; simp only [LSR_GRID]; omega
  · intro i j _ _; simp only [LSR_ATTIC]; omega
  · intro a ha b hb
    obtain ⟨i, hi, ha⟩ := hm ha
    obtain ⟨j, hj, hb⟩ := hm hb
    rw [ha, hb]; simp only [LSR_GRID, LSR_ATTIC]; omega
  · intro i j _ _; simp only [LSR_CARRIER]; omega
  · rintro a (ha | ha) b hb <;> obtain ⟨i, hi, ha⟩ := hm ha <;> obtain ⟨j, hj, hb⟩ := hm hb <;> rw [ha, hb] <;>
      simp only [LSR_GRID, LSR_ATTIC, LSR_CARRIER] <;> omega
  · intro i j _ _; simp only [LSR_COMM]; omega
  · rintro a ((ha | ha) | ha) b hb <;> obtain ⟨i, hi, ha⟩ := hm ha <;> obtain ⟨j, hj, hb⟩ := hm hb <;> rw [ha, hb] <;>
      simp only [LSR_GRID, LSR_ATTIC, LSR_CARRIER, LSR_COMM] <;> omega

theorem State.startLasers_keeps {s0 s : State} {a2} {a3} (h : Keeps s0 s) : Keeps s0 (s.startLasers a2 a3) := by
  unfold State.startLasers
  split
  · exact h
  · extract_lets s1 s2 v s3 s4 weak
    have h1 : Keeps s0 s1 := State.setRegs_keeps h (lasers_rise ..)
    have h2 : Keeps s0 s2 := State.wf_keeps (State.atticShow_keeps h1)
    have h3 : Keeps s0 s3 := State.setSky_keeps h2
    have h4 : Keeps s0 s4 := Keeps.foldl (fun t k ht => Keeps.ite (fun _ => State.failTx_keeps ht) fun _ => ht) _ _ h3
    exact Keeps.foldl (fun t k ht => State.fadeCross_keeps (State.setCsm_keeps ht)) _ _ h4

theorem State.stage7_keeps {s0 s : State} {a2} (h : Keeps s0 s) : Keeps s0 (s.stage7 a2) := by
  unfold State.stage7
  exact Keeps.foldl (fun t y ht => State.startLasers_keeps ‹_›) _ _ (State.enterStage_keeps ‹_›)

theorem State.retiredRing_keeps {s0 s : State} {a2} {a3} (h : Keeps s0 s) : Keeps s0 (s.retiredRing a2 a3) :=
    by
  unfold State.retiredRing
  split
  · exact State.vacateTx_keeps ‹_›
  · exact Keeps.foldl (fun t y ht => State.setLink_keeps ‹_›) _ _ ‹_›
  · exact State.failTx_keeps (State.setChan_keeps ‹_›)

/-- The ring and mesh registers of a Casement, at rising addresses. -/
theorem rings_rise {α : Type} (c : Nat) (g1 g2 g3 : Nat → α) :
    ((List.range 306).map (fun r => (ringReg c r, g1 r)) ++ (List.range 232).map (fun i => (TUN_TXMESH c i, g2 i)) ++
      (List.range 232).map (fun i => (TUN_RXMESH c i, g3 i))).Pairwise (fun a b => a.1 < b.1) := by
  have hm : ∀ {n} {f : Nat → Nat} {g : Nat → α} {e}, e ∈ (List.range n).map (fun i => (f i, g i)) →
      ∃ i, i < n ∧ e.1 = f i := by
    intro n f g e he
    obtain ⟨i, hi, rfl⟩ := List.mem_map.mp he
    exact ⟨i, List.mem_range.mp hi, rfl⟩
  simp only [List.pairwise_append, List.mem_append]
  refine ⟨⟨pairwise_regs ?_, pairwise_regs ?_, ?_⟩, pairwise_regs ?_, ?_⟩
  · intro i j _ _; simp only [ringReg, TUN_RING, TUN_LOCK]; split <;> split <;> omega
  · intro i j _ _; simp only [TUN_TXMESH]; omega
  · intro a ha b hb
    obtain ⟨i, hi, ha⟩ := hm ha
    obtain ⟨j, hj, hb⟩ := hm hb
    rw [ha, hb]; simp only [ringReg, TUN_RING, TUN_LOCK, TUN_TXMESH]; split <;> omega
  · intro i j _ _; simp only [TUN_RXMESH]; omega
  · rintro a (ha | ha) b hb <;> obtain ⟨i, hi, ha⟩ := hm ha <;> obtain ⟨j, hj, hb⟩ := hm hb <;> rw [ha, hb]
    · simp only [ringReg, TUN_RING, TUN_LOCK, TUN_RXMESH]; split <;> omega
    · simp only [TUN_TXMESH, TUN_RXMESH]; omega

theorem State.startRings_keeps {s0 s : State} {a2} {a3} (h : Keeps s0 s) : Keeps s0 (s.startRings a2 a3) := by
  unfold State.startRings
  split
  · exact h
  · extract_lets n w s1 s2 s3
    have h1 : Keeps s0 s1 := State.setRegs_keeps (Keeps.record h rfl rfl rfl) (rings_rise ..)
    have h2 : Keeps s0 s2 := Keeps.foldl (fun t x ht => State.retiredRing_keeps ht) _ _ h1
    have h3 : Keeps s0 s3 := Keeps.foldl (fun t x ht => Keeps.ite (fun _ => ht) fun _ => State.retireRing_keeps ht) _ _ h2
    exact State.skyShow_keeps (State.showEngines_keeps h3)

theorem State.stage8_keeps {s0 s : State} {a2} (h : Keeps s0 s) : Keeps s0 (s.stage8 a2) := by
  unfold State.stage8
  extract_lets +onlyGivenNames x1 x2
  have hx1 : Keeps s0 x1 := Keeps.foldl (fun t y ht => State.startRings_keeps ‹_›) _ _ (State.enterStage_keeps ‹_›)
  have hx2 : Keeps s0 x2 := Keeps.foldl (fun t y ht => Keeps.ite (fun _ => State.setLinkState_keeps ‹_›) (fun _ =>
      ‹_›)) _ _ ‹_›
  clear_value x1 x2
  exact Keeps.ite (fun _ => State.toBeat_keeps ‹_›) (fun _ => ‹_›)

theorem State.timeStage_keeps {s0 s : State} {a2} (h : Keeps s0 s) : Keeps s0 (s.timeStage a2) := by
  unfold State.timeStage
  extract_lets +onlyGivenNames x1 x2
  have hx2 : Keeps s0 x2.2 := State.draw_keeps ‹_›
  clear_value x1 x2
  exact Keeps.ite (fun _ => ‹_›) (fun _ => State.stageUs_keeps ‹_›)

theorem State.bootPlan_keeps {s0 s : State} {a2} (h : Keeps s0 s) : Keeps s0 (s.bootPlan a2) := by
  unfold State.bootPlan
  exact Keeps.ite (fun _ => State.note_keeps ‹_›) (fun _ => State.planStat_keeps (Keeps.record ‹_› rfl rfl rfl))

theorem State.becomeReady_keeps {s0 s : State} (h : Keeps s0 s) : Keeps s0 (s.becomeReady) := by
  unfold State.becomeReady
  exact State.i3cShow_keeps (State.enterStage_keeps (State.showSec_keeps (Keeps.record (State.stageUs_keeps ‹_›) rfl
      rfl rfl ⟨le_refl _, le_max_left _ _, le_max_left _ _, le_refl _, le_refl _, List.prefix_refl _⟩)))

theorem State.bootAdvance_keeps {s0 s : State} {a2} (h : Keeps s0 s) : Keeps s0 (s.bootAdvance a2) := by
  unfold State.bootAdvance
  refine Keeps.ite (fun _ => ?_) (fun _ => ?_)
  · assumption
  · extract_lets +onlyGivenNames x1 x2 x3
    have hx2 : Keeps s0 x2 := Keeps.ite (fun _ => ‹_›) (fun _ => Keeps.ite (fun _ => State.enterStage_keeps
        (State.timeStage_keeps ‹_›)) (fun _ => Keeps.ite (fun _ => State.enterStage_keeps (State.timeStage_keeps
        (State.wf_keeps (State.note_keeps ‹_›)))) (fun _ => ‹_›)))
    have hx3 : Keeps s0 x3 := Keeps.ite (fun _ => ‹_›) (fun _ => Keeps.ite (fun _ => Keeps.foldl (fun t y ht =>
        State.bootPlan_keeps ‹_›) _ _ (State.enterStage_keeps (State.timeStage_keeps ‹_›))) (fun _ => Keeps.ite (fun _
        => Keeps.foldl (fun t y ht => State.bootPlan_keeps ‹_›) _ _ (State.enterStage_keeps (State.timeStage_keeps
        (State.wf_keeps ‹_›)))) (fun _ => ‹_›)))
    clear_value x1 x2 x3
    exact Keeps.ite (fun _ => State.becomeReady_keeps ‹_›) (fun _ => ‹_›)

theorem State.afterS3_keeps {s0 s : State} {a2} (h : Keeps s0 s) : Keeps s0 (s.afterS3 a2) := by
  unfold State.afterS3
  extract_lets +onlyGivenNames x1
  have hx1 : Keeps s0 x1.1 := State.stage4_keeps ‹_›
  clear_value x1
  refine Keeps.ite (fun _ => ?_) (fun _ => ?_)
  · assumption
  · extract_lets +onlyGivenNames x2
    have hx2 : Keeps s0 x2.1 := State.stage5_keeps ‹_›
    clear_value x2
    refine Keeps.ite (fun _ => ?_) (fun _ => ?_)
    · assumption
    · extract_lets +onlyGivenNames x3 x4
      have hx3 : Keeps s0 x3 := State.enterStage_keeps (State.stage8_keeps (State.stage7_keeps (State.stage6_keeps
          ‹_›)))
      have hx4 : Keeps s0 x4 := Keeps.foldl (fun t y ht => State.stageUs_keeps ‹_›) _ _ ‹_›
      clear_value x3 x4
      exact Keeps.record ‹_› rfl rfl rfl

theorem State.startUp_keeps {s0 s : State} {a2} (h : Keeps s0 s) : Keeps s0 (s.startUp a2) := by
  unfold State.startUp
  refine Keeps.ite (fun _ => ?_) (fun _ => ?_)
  · assumption
  · extract_lets +onlyGivenNames x1 x2
    have hx1 : Keeps s0 x1 := State.stage1_keeps (State.wiped_keeps (Keeps.record ‹_› rfl rfl rfl))
    clear_value x1 x2
    refine Keeps.ite (fun _ => ?_) (fun _ => ?_)
    · exact State.fwHold_keeps ‹_›
    · extract_lets +onlyGivenNames x3 x4 x5 x6 x7
      have hx4 : Keeps s0 x4 := State.stage3_keeps (State.stage2_keeps ‹_›)
      have hx6 : Keeps s0 x6 := Keeps.foldl (fun t y ht => State.loseHearth_keeps ‹_›) _ _ ‹_›
      have hx7 : Keeps s0 x7 := Keeps.foldl (fun t y ht => State.note_keeps ‹_›) _ _ ‹_›
      clear_value x3 x4 x5 x6 x7
      exact Keeps.ite (fun _ => State.i3cShow_keeps (State.enterStage_keeps (Keeps.record ‹_› rfl rfl rfl))) (fun _ =>
          State.afterS3_keeps ‹_›)

theorem State.tripAck_keeps {s0 s : State} {a2} (h : Keeps s0 s) : Keeps s0 (s.tripAck a2) := by
  unfold State.tripAck
  refine Keeps.ite (fun _ => ?_) (fun _ => ?_)
  · exact State.reply_keeps ‹_›
  · extract_lets +onlyGivenNames x1 x2 x3 x4
    have hx3 : Keeps s0 x3 := State.showTrip_keeps (Keeps.record ‹_› rfl rfl rfl)
    have hx4 : Keeps s0 x4 := State.reply_keeps (Keeps.record ‹_› rfl rfl rfl)
    clear_value x1 x3 x4
    split
    · exact State.afterS3_keeps ‹_›
    · assumption

theorem State.jtagLoad_keeps {s0 s : State} {a2} {a3} (h : Keeps s0 s) : Keeps s0 (s.jtagLoad a2 a3) := by
  unfold State.jtagLoad
  exact Keeps.ite (fun _ => ‹_›) (fun _ => Keeps.record ‹_› rfl rfl rfl)

theorem State.leaveScan_keeps {s0 s : State} (h : Keeps s0 s) : Keeps s0 (s.leaveScan) := by
  unfold State.leaveScan
  exact Keeps.ite (fun _ => ‹_›) (fun _ => State.wiped_keeps (Keeps.record ‹_› rfl rfl rfl))

theorem State.wiped_clamped (u : State) (c : Bool) : { u.wiped with clamped := c } = ({ u with clamped := c } : State).wiped := by
  unfold State.wiped
  rfl

/-- The removal of input power releases the thermal-trip clamp (R467), and keeps the rest. -/
theorem State.powerRemoved_keeps {s0 s : State} (h : Keeps s0 s) :
    Keeps s0 { s.powerRemoved with clamped := s.leaveScan.clamped } := by
  have h1 : Keeps s0 s.leaveScan := State.leaveScan_keeps h
  rw [State.powerRemoved, State.wiped_clamped]
  exact State.wiped_keeps (Keeps.record (t := s.leaveScan) h1 rfl rfl rfl)

theorem State.assignAddr_keeps {s0 s : State} {a2} (h : Keeps s0 s) : Keeps s0 (s.assignAddr a2) := by
  unfold State.assignAddr
  exact Keeps.ite (fun _ => ‹_›) (fun _ => Keeps.record ‹_› rfl rfl rfl)

end Sys2Proof.Machine
end

