-- ==== Sys2Proof/Laws/KeepsExec.lean ====
section
/-!
SUPPORT. Sys2Proof/Laws/KeepsExec.lean: what the operations over the fault commands, regions, boundaries and the exchange unit; then one lemma for each command, and the lemma about exec keep.
-/

set_option Elab.async false

namespace Sys2Proof.Machine

theorem State.hearthFails_keeps {s0 s : State} {a2} (h : Keeps s0 s) : Keeps s0 (s.hearthFails a2) := by
  unfold State.hearthFails
  exact Keeps.ite (fun _ => State.raise_keeps ‹_›) (fun _ => Keeps.ite (fun _ => State.loseHearth_keeps ‹_›) (fun _ =>
      Keeps.ite (fun _ => Keeps.record (State.takeover_keeps ‹_›) rfl rfl rfl) (fun _ => State.loseHearths_keeps
      ‹_›)))

theorem State.meshReport_keeps {s0 s : State} {a2} {a3} (h : Keeps s0 s) : Keeps s0 (s.meshReport a2 a3) := by
  unfold State.meshReport
  exact Keeps.ite (fun _ => State.meshFail_keeps ‹_›) (fun _ => Keeps.ite (fun _ => State.casementCheck_keeps
      (State.showEngines_keeps (State.raise_keeps (Keeps.ite (fun _ => ‹_›) (fun _ => State.setCsm_keeps ‹_›))))) (fun
      _ => State.raise_keeps ‹_›))

theorem State.detectBay_keeps {s0 s : State} {a2} {a3} {a4} (h : Keeps s0 s) : Keeps s0 (s.detectBay a2 a3 a4)
    := by
  unfold State.detectBay
  exact Keeps.ite (fun _ => Keeps.ite (fun _ => State.clampDie_keeps (State.raise_keeps ‹_›)) (fun _ =>
      State.raise_keeps ‹_›)) (fun _ => Keeps.ite (fun _ => State.tileLost_keeps (State.raise_keeps ‹_›)) (fun _ =>
      Keeps.ite (fun _ => State.raise_keeps (State.remapTiles_keeps (State.wfs_keeps ‹_›))) (fun _ =>
      State.raise_keeps ‹_›)))

theorem State.detectStack_keeps {s0 s : State} {a2} {a3} {a4} (h : Keeps s0 s) : Keeps s0 (s.detectStack a2 a3
    a4) := by
  unfold State.detectStack
  exact Keeps.ite (fun _ => State.nominate_keeps ‹_›) (fun _ => Keeps.ite (fun _ => State.loseStack_keeps ‹_›) (fun _
      => State.raise_keeps ‹_›))

theorem State.detectCsm_keeps {s0 s : State} {a2} {a3} {a4} (h : Keeps s0 s) : Keeps s0 (s.detectCsm a2 a3 a4)
    := by
  unfold State.detectCsm
  extract_lets +onlyGivenNames x1 x2
  clear_value x1 x2
  refine Keeps.ite (fun _ => ?_) (fun _ => ?_)
  · exact State.meshReport_keeps ‹_›
  · refine Keeps.ite (fun _ => ?_) (fun _ => ?_)
    · exact State.faOpen_keeps ‹_›
    · refine Keeps.ite (fun _ => ?_) (fun _ => ?_)
      · exact State.goDown_keeps ‹_›
      · refine Keeps.ite (fun _ => ?_) (fun _ => ?_)
        · exact State.widthFail_keeps ‹_›
        · refine Keeps.ite (fun _ => ?_) (fun _ => ?_)
          · exact State.csmThermal_keeps ‹_›
          · refine Keeps.ite (fun _ => ?_) (fun _ => ?_)
            · exact State.skyShow_keeps (State.raise_keeps ‹_›)
            · refine Keeps.ite (fun _ => ?_) (fun _ => ?_)
              · exact State.floorAction_keeps ‹_›
              · refine Keeps.ite (fun _ => ?_) (fun _ => ?_)
                · exact State.raise_keeps (State.fenceAttic_keeps ‹_›)
                · refine Keeps.ite (fun _ => ?_) (fun _ => ?_)
                  · split
                    · exact State.retireRing_keeps ‹_›
                    · exact State.raise_keeps ‹_›
                  · refine Keeps.ite (fun _ => ?_) (fun _ => ?_)
                    · split
                      · exact State.loseLock_keeps ‹_›
                      · exact State.raise_keeps ‹_›
                    · exact State.raise_keeps ‹_›

theorem State.detectGuest_keeps {s0 s : State} {a2} {a3} {a4} (h : Keeps s0 s) : Keeps s0 (s.detectGuest a2 a3
    a4) := by
  unfold State.detectGuest
  exact Keeps.ite (fun _ => State.widthFail_keeps ‹_›) (fun _ => Keeps.ite (fun _ => State.siteFail_keeps ‹_›) (fun _
      => Keeps.ite (fun _ => State.siteFail_keeps ‹_›) (fun _ => Keeps.ite (fun _ => State.siteFail_keeps ‹_›) (fun _
      => Keeps.ite (fun _ => State.siteFail_keeps ‹_›) (fun _ => Keeps.ite (fun _ => State.siteFail_keeps ‹_›) (fun _
      => State.raise_keeps ‹_›))))))

theorem State.detectWing_keeps {s0 s : State} {a2} {a3} {a4} (h : Keeps s0 s) : Keeps s0 (s.detectWing a2 a3
    a4) := by
  unfold State.detectWing
  exact Keeps.ite (fun _ => State.seamDown_keeps ‹_›) (fun _ => Keeps.ite (fun _ => State.raise_keeps
      (State.pointReq_keeps ‹_›)) (fun _ => State.raise_keeps ‹_›))

theorem State.detectControl_keeps {s0 s : State} {a2} {a3} {a4} (h : Keeps s0 s) : Keeps s0 (s.detectControl a2
    a3 a4) := by
  unfold State.detectControl
  exact Keeps.ite (fun _ => State.loseHearths_keeps ‹_›) (fun _ => Keeps.ite (fun _ => State.hearthFails_keeps ‹_›)
      (fun _ => State.raise_keeps ‹_›))

theorem State.detect_keeps {s0 s : State} {a2} {a3} {a4} (h : Keeps s0 s) : Keeps s0 (s.detect a2 a3 a4) := by
  unfold State.detect
  refine Keeps.ite (fun _ => ?_) (fun _ => ?_)
  · split
    · exact State.excludeSensor_keeps ‹_›
    · exact State.raise_keeps ‹_›
  · split
    · exact State.detectBay_keeps ‹_›
    · exact State.detectStack_keeps ‹_›
    · exact State.detectCsm_keeps ‹_›
    · exact State.detectGuest_keeps ‹_›
    · exact State.detectWing_keeps ‹_›
    · exact State.detectControl_keeps ‹_›

theorem State.faultInject_keeps {s0 s : State} {a2} (h : Keeps s0 s) : Keeps s0 (s.faultInject a2) := by
  unfold State.faultInject
  exact Keeps.ite (fun _ => State.reply_keeps ‹_›) (fun _ => State.reply_keeps (Keeps.record (State.detect_keeps
      (Keeps.record ‹_› rfl rfl rfl)) rfl rfl rfl))

theorem State.tileBack_keeps {s0 s : State} {a2} {a3} (h : Keeps s0 s) : Keeps s0 (s.tileBack a2 a3) := by
  unfold State.tileBack
  refine Keeps.ite (fun _ => ?_) (fun _ => ?_)
  · assumption
  · refine Keeps.ite (fun _ => ?_) (fun _ => ?_)
    · split
      exact State.remapTiles_keeps (State.wf_keeps (State.wf_keeps (Keeps.snd_eq ‹_› (State.drawSr_keeps ‹_›))))
    · exact State.remapTiles_keeps (State.wf_keeps ‹_›)

theorem State.meshBack_keeps {s0 s : State} {a2} {a3} {a4} {a5} (h : Keeps s0 s) : Keeps s0 (s.meshBack a2 a3
    a4 a5) := by
  unfold State.meshBack
  extract_lets +onlyGivenNames x1 x3 x4
  have hx1 : Keeps s0 x1 := Keeps.foldl (fun t y ht => Keeps.ite (fun _ => State.wf_keeps ‹_›) (fun _ => ‹_›)) _ _ ‹_›
  have hx4 : Keeps s0 x4 := Keeps.ite (fun _ => State.setCsm_keeps ‹_›) (fun _ => State.setCsm_keeps ‹_›)
  clear_value x1 x3 x4
  exact State.showEngines_keeps ‹_›

theorem State.csmBack_keeps {s0 s : State} {a2} (h : Keeps s0 s) : Keeps s0 (s.csmBack a2) := by
  unfold State.csmBack
  extract_lets +onlyGivenNames x1 x2 x3
  clear_value x1 x2 x3
  split
  · exact State.skyShow_keeps (State.showEngines_keeps ‹_›)
  · exact Keeps.ite (fun _ => State.meshBack_keeps ‹_›) (fun _ => State.skyShow_keeps ‹_›)
  · exact Keeps.ite (fun _ => State.setAttic_keeps (Keeps.record ‹_› rfl rfl rfl)) (fun _ => ‹_›)
  · exact Keeps.ite (fun _ => State.meshBack_keeps ‹_›) (fun _ => ‹_›)
  · assumption

theorem State.bringBack_keeps {s0 s : State} {a2} (h : Keeps s0 s) : Keeps s0 (s.bringBack a2) := by
  unfold State.bringBack
  split
  · exact Keeps.ite (fun _ => State.tileBack_keeps ‹_›) (fun _ => Keeps.ite (fun _ => Keeps.foldl (fun t y ht =>
        State.tileBack_keeps ‹_›) _ _ ‹_›) (fun _ => ‹_›))
  · exact State.csmBack_keeps ‹_›
  · exact State.framePush_keeps ‹_›
  · exact Keeps.ite (fun _ => State.wf_keeps (State.wf_keeps ‹_›)) (fun _ => ‹_›)
  · exact Keeps.ite (fun _ => Keeps.ite (fun _ => State.setHearth_keeps ‹_›) (fun _ => ‹_›)) (fun _ => ‹_›)
  · assumption

theorem State.plansBack_keeps {s0 s : State} {a2} (h : Keeps s0 s) : Keeps s0 (s.plansBack a2) := by
  unfold State.plansBack
  exact Keeps.foldl (fun t y ht => Keeps.ite (fun _ => State.setReg_keeps ‹_›) (fun _ => ‹_›)) _ _ ‹_›

theorem State.lift_keeps {s0 s : State} {a2} (h : Keeps s0 s) : Keeps s0 (s.lift a2) := by
  unfold State.lift
  exact State.plansBack_keeps (State.bringBack_keeps (State.unfence_keeps ‹_›))

theorem State.liftOn_keeps {s0 s : State} {a2} {a3} (h : Keeps s0 s) : Keeps s0 (s.liftOn a2 a3).1 := by
  unfold State.liftOn
  extract_lets +onlyGivenNames x1
  have hx1 : Keeps s0 x1 := State.lift_keeps ‹_›
  clear_value x1
  split
  · split
    · exact State.unitReq_keeps ‹_›
    · dsimp only
      assumption
  · dsimp only
    assumption

theorem State.unfenceCmd_keeps {s0 s : State} {a2} (h : Keeps s0 s) : Keeps s0 (s.unfenceCmd a2) := by
  unfold State.unfenceCmd
  extract_lets +onlyGivenNames x1
  clear_value x1
  refine Keeps.ite (fun _ => ?_) (fun _ => ?_)
  · exact State.reply_keeps ‹_›
  · refine Keeps.ite (fun _ => ?_) (fun _ => ?_)
    · exact State.reply_keeps (Keeps.record ‹_› rfl rfl rfl)
    · extract_lets +onlyGivenNames x2
      have hx2 : Keeps s0 x2.1 := State.liftOn_keeps ‹_›
      clear_value x2
      exact State.reply_keeps ‹_›

theorem State.unfencesDue_keeps {s0 s : State} (h : Keeps s0 s) : Keeps s0 (s.unfencesDue) := by
  unfold State.unfencesDue
  refine Keeps.ite (fun _ => ?_) (fun _ => ?_)
  · assumption
  · extract_lets +onlyGivenNames x1
    clear_value x1
    refine Keeps.foldl (fun t y ht => ?_) _ _ ?_
    · extract_lets +onlyGivenNames x2
      clear_value x2
      refine Keeps.ite (fun _ => ?_) (fun _ => ?_)
      · exact State.appliedAs_keeps ‹_›
      · extract_lets +onlyGivenNames x3
        have hx3 : Keeps s0 x3.1 := State.liftOn_keeps ‹_›
        clear_value x3
        exact Keeps.ite (fun _ => ‹_›) (fun _ => State.appliedTo_keeps ‹_›)
    · exact Keeps.record ‹_› rfl rfl rfl

theorem State.changeRegs_keeps {s0 s : State} {a2} (h : Keeps s0 s) : Keeps s0 (s.changeRegs a2) := by
  unfold State.changeRegs
  split
  · exact State.setReg_keeps (State.setReg_keeps ‹_›)
  · exact State.setReg_keeps (State.setReg_keeps ‹_›)
  · exact State.setReg_keeps (State.setReg_keeps (State.setReg_keeps ‹_›))
  · exact State.setReg_keeps (State.setReg_keeps (State.setReg_keeps ‹_›))
  · assumption

theorem State.tables_keeps {s0 s : State} (h : Keeps s0 s) : Keeps s0 (s.tables) := by
  unfold State.tables
  exact Keeps.foldl (fun t y ht => State.changeRegs_keeps ‹_›) _ _ ‹_›

theorem State.rebuildPool_keeps {s0 s : State} (h : Keeps s0 s) : Keeps s0 (s.rebuildPool) := by
  unfold State.rebuildPool
  exact State.wfs_keeps ‹_›

theorem State.regionDrop_keeps {s0 s : State} {a2} (h : Keeps s0 s) : Keeps s0 (s.regionDrop a2) := by
  unfold State.regionDrop
  exact Keeps.ite (fun _ => State.larderDrop_keeps ‹_›) (fun _ => ‹_›)

theorem State.applyRegion_keeps {s0 s : State} {a2} {a3} (h : Keeps s0 s) : Keeps s0 (s.applyRegion a2 a3) :=
    by
  unfold State.applyRegion
  extract_lets +onlyGivenNames x1
  have hx1 : Keeps s0 x1 := State.changeRegs_keeps (State.regionDrop_keeps ‹_›)
  clear_value x1
  exact Keeps.ite (fun _ => State.rebuildPool_keeps ‹_›) (fun _ => ‹_›)

theorem State.applyChange_keeps {s0 s : State} {a2} (h : Keeps s0 s) : Keeps s0 (s.applyChange a2) := by
  unfold State.applyChange
  split
  · exact State.applyRegion_keeps ‹_›
  · exact State.applyRegion_keeps ‹_›
  · exact State.changeRegs_keeps (State.larderDrop_keeps ‹_›)
  · exact State.changeRegs_keeps (State.larderDrop_keeps ‹_›)
  · exact Keeps.ite (fun _ => State.wf_keeps (State.larderDrop_keeps ‹_›)) (fun _ => ‹_›)

theorem State.applyAll_keeps {s0 s : State} {a2} (h : Keeps s0 s) : Keeps s0 (s.applyAll a2) := by
  unfold State.applyAll
  refine Keeps.foldl (fun t y ht => ?_) _ _ ?_
  · extract_lets +onlyGivenNames x1
    have hx1 : Keeps s0 x1 := State.applyChange_keeps ‹_›
    clear_value x1
    exact Keeps.ite (fun _ => State.applied_keeps ‹_›) (fun _ => ‹_›)
  · assumption

theorem State.applyChanges_keeps {s0 s : State} (h : Keeps s0 s) : Keeps s0 (s.applyChanges) := by
  unfold State.applyChanges
  exact Keeps.ite (fun _ => ‹_›) (fun _ => State.dropPlans_keeps (State.applyAll_keeps (Keeps.record ‹_› rfl rfl
      rfl)))

theorem State.takeChanges_keeps {s0 s : State} {a2} {a3} {a4} (h : Keeps s0 s) : Keeps s0 (s.takeChanges a2 a3
    a4) := by
  unfold State.takeChanges
  exact State.reply_keeps (Keeps.record ‹_› rfl rfl rfl)

theorem State.regionSet_keeps {s0 s : State} {a2} (h : Keeps s0 s) : Keeps s0 (s.regionSet a2) := by
  unfold State.regionSet
  extract_lets +onlyGivenNames x1 x2 x3 x4
  have hx1 : Keeps s0 x1 := State.tables_keeps ‹_›
  clear_value x1 x2 x3 x4
  refine Keeps.ite (fun _ => ?_) (fun _ => ?_)
  · exact State.reply_keeps ‹_›
  · split
    · exact State.reply_keeps ‹_›
    · exact Keeps.ite (fun _ => State.reply_keeps ‹_›) (fun _ => Keeps.ite (fun _ => State.reply_keeps ‹_›) (fun _ =>
          State.takeChanges_keeps ‹_›))

theorem State.regionClear_keeps {s0 s : State} {a2} (h : Keeps s0 s) : Keeps s0 (s.regionClear a2) := by
  unfold State.regionClear
  exact Keeps.ite (fun _ => State.reply_keeps ‹_›) (fun _ => Keeps.ite (fun _ => State.reply_keeps ‹_›) (fun _ =>
      State.takeChanges_keeps ‹_›))

theorem State.larderFlush_keeps {s0 s : State} {a2} (h : Keeps s0 s) : Keeps s0 (s.larderFlush a2) := by
  unfold State.larderFlush
  exact Keeps.ite (fun _ => State.reply_keeps ‹_›) (fun _ => State.reply_keeps (Keeps.record ‹_› rfl rfl rfl))

theorem State.annexSet_keeps {s0 s : State} {a2} (h : Keeps s0 s) : Keeps s0 (s.annexSet a2) := by
  unfold State.annexSet
  exact Keeps.ite (fun _ => State.reply_keeps ‹_›) (fun _ => Keeps.ite (fun _ => State.reply_keeps ‹_›) (fun _ =>
      State.takeChanges_keeps ‹_›))

theorem State.annexClear_keeps {s0 s : State} {a2} (h : Keeps s0 s) : Keeps s0 (s.annexClear a2) := by
  unfold State.annexClear
  extract_lets +onlyGivenNames x1 x2
  have hx2 : Keeps s0 x2 := State.tables_keeps ‹_›
  clear_value x1 x2
  exact Keeps.ite (fun _ => State.reply_keeps ‹_›) (fun _ => Keeps.ite (fun _ => State.reply_keeps ‹_›) (fun _ =>
      State.takeChanges_keeps ‹_›))

theorem State.placeModel_keeps {s0 s : State} {a2} {a3} (h : Keeps s0 s) : Keeps s0 (s.placeModel a2 a3) := by
  unfold State.placeModel
  extract_lets +onlyGivenNames x1
  have hx1 : Keeps s0 x1 := by
    unfold x1
    refine State.tables_keeps ?_
    assumption
  clear_value x1
  extract_lets +onlyGivenNames x2
  clear_value x2
  extract_lets +onlyGivenNames x3
  clear_value x3
  refine Keeps.ite (fun _ => ?_) (fun _ => ?_)
  · refine State.reply_keeps ?_
    assumption
  · refine Keeps.ite (fun _ => ?_) (fun _ => ?_)
    · refine State.reply_keeps ?_
      assumption
    · split
      · refine State.reply_keeps ?_
        assumption
      · refine State.takeChanges_keeps ?_
        refine State.cmdWrite_keeps ?_ (by assumption)
        assumption

theorem State.modelLoad_keeps {s0 s : State} {a2} (h : Keeps s0 s) : Keeps s0 (s.modelLoad a2) := by
  unfold State.modelLoad
  extract_lets +onlyGivenNames x1 x2
  have hx2 : Keeps s0 x2 := State.tables_keeps ‹_›
  clear_value x1 x2
  refine Keeps.ite (fun _ => ?_) (fun _ => ?_)
  · exact State.reply_keeps ‹_›
  · split
    · exact State.reply_keeps ‹_›
    · exact Keeps.ite (fun _ => State.reply_keeps ‹_›) (fun _ => Keeps.ite (fun _ => State.reply_keeps ‹_›) (fun _ =>
          Keeps.ite (fun _ => State.reply_keeps ‹_›) (fun _ => State.placeModel_keeps ‹_›)))

theorem State.slipHead_keeps {s0 s : State} {a2} {a3} (h : Keeps s0 s) : Keeps s0 (s.slipHead a2 a3) := by
  unfold State.slipHead
  exact Keeps.ite (fun _ => ‹_›) (fun _ => State.satf_keeps (State.setBay_keeps ‹_›))

theorem State.slipBay_keeps {s0 s : State} {a2} (h : Keeps s0 s) : Keeps s0 (s.slipBay a2) := by
  unfold State.slipBay
  refine Keeps.ite (fun _ => ?_) (fun _ => ?_)
  · assumption
  · extract_lets +onlyGivenNames x1 x2
    have hx1 : Keeps s0 x1 := Keeps.ite (fun _ => ‹_›) (fun _ => State.slipHead_keeps ‹_›)
    have hx2 : Keeps s0 x2 := Keeps.ite (fun _ => ‹_›) (fun _ => State.slipHead_keeps ‹_›)
    clear_value x1 x2
    exact State.slipHead_keeps (State.slipHead_keeps ‹_›)

theorem State.overrunBay_keeps {s0 s : State} {a2} (h : Keeps s0 s) : Keeps s0 (s.overrunBay a2) := by
  unfold State.overrunBay
  extract_lets +onlyGivenNames x1
  clear_value x1
  refine Keeps.ite (fun _ => ?_) (fun _ => ?_)
  · extract_lets +onlyGivenNames x2 x3 x4
    have hx3 : Keeps s0 x3 := State.setBay_keeps ‹_›
    have hx4 : Keeps s0 x4 := State.satf_keeps ‹_›
    clear_value x2 x3 x4
    exact Keeps.ite (fun _ => State.seqFault_keeps ‹_›) (fun _ => State.wf_keeps ‹_›)
  · exact Keeps.ite (fun _ => State.wf_keeps ‹_›) (fun _ => ‹_›)

theorem State.countBay_keeps {s0 s : State} {a2} (h : Keeps s0 s) : Keeps s0 (s.countBay a2) := by
  unfold State.countBay
  exact State.settleControl_keeps (State.setBay_keeps ‹_›)

theorem State.nextFrame_keeps {s0 s : State} (h : Keeps s0 s) : Keeps s0 (s.nextFrame) := by
  unfold State.nextFrame
  exact State.addf_keeps ‹_›

theorem State.lightFrame_keeps {s0 s : State} (h : Keeps s0 s) : Keeps s0 (s.lightFrame) := by
  unfold State.lightFrame
  extract_lets +onlyGivenNames x1
  have hx1 : Keeps s0 x1 := Keeps.foldl (fun t y ht => State.linkFrame_keeps ‹_›) _ _ ‹_›
  clear_value x1
  exact Keeps.foldl (fun t y ht => State.skyDue_keeps (State.calReady_keeps (State.faFrame_keeps ‹_›))) _ _ ‹_›

theorem State.moveTraffic_keeps {s0 s : State} (h : Keeps s0 s) : Keeps s0 (s.moveTraffic) := by
  unfold State.moveTraffic
  exact State.flushOutbox_keeps (State.pumpReloads_keeps (State.sendRestores_keeps ‹_›))

theorem State.frameBoundary_keeps {s0 s : State} {a2} (h : Keeps s0 s) : Keeps s0 (s.frameBoundary a2) := by
  unfold State.frameBoundary
  refine Keeps.ite (fun _ => ?_) (fun _ => ?_)
  · assumption
  · extract_lets +onlyGivenNames x1 x2 x3 x4 x5
    have hx1 : Keeps s0 x1 := State.nextFrame_keeps (Keeps.foldl (fun t y ht => State.slipBay_keeps ‹_›) _ _ ‹_›)
    have hx2 : Keeps s0 x2 := Keeps.foldl (fun t y ht => State.countBay_keeps (State.overrunBay_keeps ‹_›)) _ _ ‹_›
    have hx3 : Keeps s0 x3 := State.blockResetsDue_keeps (State.pairFrame_keeps (State.powerFrame_keeps ‹_›))
    have hx4 : Keeps s0 x4 := State.unfencesDue_keeps (State.attachFrame_keeps (State.lightFrame_keeps ‹_›))
    have hx5 : Keeps s0 x5 := State.moveTraffic_keeps ‹_›
    clear_value x1 x2 x3 x4 x5
    exact Keeps.ite (fun _ => State.bootAdvance_keeps (Keeps.record ‹_› rfl rfl rfl)) (fun _ => ‹_›)

theorem State.xchgRun_keeps {s0 s : State} {a2} {a3} (h : Keeps s0 s) : Keeps s0 (s.xchgRun a2 a3) := by
  unfold State.xchgRun
  exact State.setBay_keeps ‹_›

theorem State.sendLocal_keeps {s0 s : State} {a2} {a3} (h : Keeps s0 s) : Keeps s0 (s.sendLocal a2 a3) := by
  unfold State.sendLocal
  exact State.xchgRun_keeps (State.arriveBay_keeps ‹_›)

theorem State.sendDown_keeps {s0 s : State} {a2} (h : Keeps s0 s) : Keeps s0 (s.sendDown a2) := by
  unfold State.sendDown
  extract_lets +onlyGivenNames x1
  have hx1 : Keeps s0 x1 := State.fenceBays_keeps (State.xchgRun_keeps ‹_›)
  clear_value x1
  exact Keeps.ite (fun _ => State.stopBay_keeps ‹_›) (fun _ => ‹_›)

theorem State.sendLink_keeps {s0 s : State} {a2} {a3} {a4} (h : Keeps s0 s) : Keeps s0 (s.sendLink a2 a3 a4) :=
    by
  unfold State.sendLink
  extract_lets +onlyGivenNames x1
  clear_value x1
  refine Keeps.ite (fun _ => ?_) (fun _ => ?_)
  · exact State.sendDown_keeps ‹_›
  · extract_lets +onlyGivenNames x2 x3
    have hx3 : Keeps s0 x3 := State.xchgRun_keeps ‹_›
    clear_value x2 x3
    exact Keeps.foldl (fun t y ht => State.linkPut_keeps ‹_›) _ _ ‹_›

theorem State.sendStart_keeps {s0 s : State} {a2} {a3} {a4} (h : Keeps s0 s) : Keeps s0 (s.sendStart a2 a3 a4)
    := by
  unfold State.sendStart
  extract_lets +onlyGivenNames x1 x2
  have hx2 : Keeps s0 x2.1 := State.sramErrs_keeps (State.startHead_keeps ‹_›)
  clear_value x1 x2
  split
  · exact State.sramUe_keeps ‹_›
  · exact Keeps.ite (fun _ => State.sendLocal_keeps ‹_›) (fun _ => State.sendLink_keeps ‹_›)

theorem State.recvStart_keeps {s0 s : State} {a2} {a3} (h : Keeps s0 s) : Keeps s0 (s.recvStart a2 a3) := by
  unfold State.recvStart
  exact Keeps.ite (fun _ => ‹_›) (fun _ => State.drainArrived_keeps (State.setBay_keeps ‹_›))

/-! ## Commands -/

theorem execStartUp_keeps {s : State} {a1} : KeepsOut s (execStartUp a1 s) :=
  KeepsOut.next (State.startUp_keeps (Keeps.refl s))

theorem execStartUpDeadline_keeps {s : State} : KeepsOut s (execStartUpDeadline s) :=
  KeepsOut.next (State.bootAdvance_keeps (Keeps.refl s))

theorem execResetN_keeps {s : State} {a1} : KeepsOut s (execResetN a1 s) := by
  unfold execResetN
  exact KeepsOut.next (Keeps.ite (fun _ => (Keeps.refl s)) (fun _ => State.wiped_keeps (Keeps.record (Keeps.refl s)
      rfl rfl rfl)))

theorem execPwrgoodDeassert_keeps {s : State} {a1} : KeepsOut s (execPwrgoodDeassert a1 s) := by
  unfold execPwrgoodDeassert
  exact KeepsOut.next (Keeps.ite (fun _ => (Keeps.refl s)) (fun _ => State.wiped_keeps (Keeps.refl s)))

theorem execPackageReset_keeps {s : State} : KeepsOut s (execPackageReset s) := by
  unfold execPackageReset
  exact KeepsOut.next (Keeps.ite (fun _ => State.wiped_keeps (Keeps.refl s)) (fun _ => (Keeps.refl s)))

theorem execRailUndervoltage_keeps {s : State} {a1} {a2} {a3} : KeepsOut s (execRailUndervoltage a1 a2 a3 s) := by
  unfold execRailUndervoltage
  exact KeepsOut.next (Keeps.ite (fun _ => (Keeps.refl s)) (fun _ => State.wiped_keeps (Keeps.record (Keeps.refl s)
      rfl rfl rfl)))

theorem execDieUndervoltage_keeps {s : State} {a1} {a2} {a3} : KeepsOut s (execDieUndervoltage a1 a2 a3 s) :=
  KeepsOut.next (State.dieUv_keeps (Keeps.refl s))

theorem execThermalTrip_keeps {s : State} {a1} {a2} {a3} : KeepsOut s (execThermalTrip a1 a2 a3 s) :=
  KeepsOut.next (State.trip_keeps (Keeps.refl s))

theorem execPerstN_keeps {s : State} {a1} : KeepsOut s (execPerstN a1 s) :=
  KeepsOut.next (State.perst_keeps (Keeps.refl s))

theorem execFunctionLevelReset_keeps {s : State} : KeepsOut s (execFunctionLevelReset s) := by
  unfold execFunctionLevelReset
  exact KeepsOut.next (Keeps.ite (fun _ => State.functionReset_keeps (Keeps.refl s)) (fun _ => (Keeps.refl s)))

theorem execConfigurationRequest_keeps {s : State} {a1} {a2} : KeepsOut s (execConfigurationRequest a1 a2 s) :=
  KeepsOut.next (State.configRequest_keeps (Keeps.refl s))

theorem execFsyncInEdge_keeps {s : State} {a1} {a2} : KeepsOut s (execFsyncInEdge a1 a2 s) :=
  KeepsOut.next (State.fsyncEdge_keeps (Keeps.refl s))

theorem execFrameBoundary_keeps {s : State} {a1} : KeepsOut s (execFrameBoundary a1 s) :=
  KeepsOut.next (State.frameBoundary_keeps (Keeps.refl s))

theorem execCapOpDrop_keeps {s : State} : KeepsOut s (execCapOpDrop s) :=
  KeepsOut.next (State.capDrop_keeps (Keeps.refl s))

theorem execSensorUnchanged_keeps {s : State} {a1} {a2} : KeepsOut s (execSensorUnchanged a1 a2 s) := by
  unfold execSensorUnchanged
  exact KeepsOut.next (Keeps.ite (fun _ => (Keeps.refl s)) (fun _ => State.excludeSensor_keeps (Keeps.refl s)))

theorem execSlotBoundary_keeps {s : State} {a1} : KeepsOut s (execSlotBoundary a1 s) := by
  unfold execSlotBoundary
  exact KeepsOut.next (Keeps.ite (fun _ => (Keeps.refl s)) (fun _ => State.slotBoundary_keeps (State.pumpReloads_keeps
      (State.sendRestores_keeps (Keeps.refl s)))))

theorem execBurstArrival_keeps {s : State} {a1} {a2} {a3} {a4} : KeepsOut s (execBurstArrival a1 a2 a3 a4 s) :=
  KeepsOut.next (State.burst_keeps (Keeps.refl s))

theorem execLaneDegraded_keeps {s : State} {a1} {a2} {a3} : KeepsOut s (execLaneDegraded a1 a2 a3 s) :=
  KeepsOut.next (State.degraded_keeps (Keeps.refl s))

theorem execTimingRecord_keeps {s : State} {a1} {a2} : KeepsOut s (execTimingRecord a1 a2 s) :=
  KeepsOut.next (State.timingRecord_keeps (Keeps.refl s))

theorem execElectEnd_keeps {s : State} : KeepsOut s (execElectEnd s) :=
  KeepsOut.next (State.electEnd_keeps (Keeps.refl s))

theorem execHoldover_keeps {s : State} : KeepsOut s (execHoldover s) :=
  KeepsOut.next (State.holdover_keeps (Keeps.refl s))

theorem execHoldoverExpiry_keeps {s : State} : KeepsOut s (execHoldoverExpiry s) :=
  KeepsOut.next (State.holdoverExpiry_keeps (Keeps.refl s))

theorem execHandoverAnnounce_keeps {s : State} : KeepsOut s (execHandoverAnnounce s) :=
  KeepsOut.next (State.announce_keeps (Keeps.refl s))

theorem execBeatHandover_keeps {s : State} : KeepsOut s (execBeatHandover s) :=
  KeepsOut.next (State.handover_keeps (Keeps.refl s))

theorem execPlanApply_keeps {s : State} : KeepsOut s (execPlanApply s) :=
  KeepsOut.next (State.planApply_keeps (Keeps.refl s))

theorem execSettleChange_keeps {s : State} {a1} {a2} : KeepsOut s (execSettleChange a1 a2 s) :=
  KeepsOut.next (State.settleChange_keeps (Keeps.refl s))

theorem execQuietPeriodEnd_keeps {s : State} {a1} {a2} : KeepsOut s (execQuietPeriodEnd a1 a2 s) :=
  KeepsOut.next (State.quietEnd_keeps (Keeps.refl s))

theorem execFaPresenceOpen_keeps {s : State} {a1} : KeepsOut s (execFaPresenceOpen a1 s) := by
  unfold execFaPresenceOpen
  exact KeepsOut.next (Keeps.ite (fun _ => (Keeps.refl s)) (fun _ => State.faOpen_keeps (Keeps.refl s)))

theorem execFaPresenceStable_keeps {s : State} {a1} : KeepsOut s (execFaPresenceStable a1 s) := by
  unfold execFaPresenceStable
  exact KeepsOut.next (Keeps.ite (fun _ => (Keeps.refl s)) (fun _ => State.setCsm_keeps (State.wf_keeps
      (State.wf_keeps (Keeps.refl s)))))

theorem execFadeMeasurement_keeps {s : State} {a1} {a2} : KeepsOut s (execFadeMeasurement a1 a2 s) :=
  KeepsOut.next (State.fadeMeasure_keeps (Keeps.refl s))

theorem execAtticAtOutput_keeps {s : State} {a1} {a2} : KeepsOut s (execAtticAtOutput a1 a2 s) := by
  unfold execAtticAtOutput
  refine KeepsOut.next ?_
  have h := Keeps.refl s
  split
  · exact Keeps.ite (fun _ => State.setAttic_keeps (State.setStage_keeps ‹_›)) (fun _ => ‹_›)
  · assumption

theorem execAtticSweepStop_keeps {s : State} {a1} {a2} : KeepsOut s (execAtticSweepStop a1 a2 s) := by
  unfold execAtticSweepStop
  refine KeepsOut.next ?_
  have h := Keeps.refl s
  split
  · exact Keeps.ite (fun _ => State.setStage_keeps ‹_›) (fun _ => ‹_›)
  · assumption

theorem execAtticVerifyEnd_keeps {s : State} {a1} {a2} {a3} : KeepsOut s (execAtticVerifyEnd a1 a2 a3 s) :=
  KeepsOut.next (State.atticVerify_keeps (Keeps.refl s))

theorem execAtticMatched_keeps {s : State} {a1} {a2} : KeepsOut s (execAtticMatched a1 a2 s) := by
  unfold execAtticMatched
  refine KeepsOut.next ?_
  have h := Keeps.refl s
  split
  · exact Keeps.ite (fun _ => State.wf_keeps (State.setStage_keeps ‹_›)) (fun _ => ‹_›)
  · assumption

theorem execAtticSwitchIn_keeps {s : State} {a1} : KeepsOut s (execAtticSwitchIn a1 s) :=
  KeepsOut.next (State.switchIn_keeps (Keeps.refl s))

theorem execLaserRampDownComplete_keeps {s : State} {a1} {a2} : KeepsOut s (execLaserRampDownComplete a1 a2 s) :=
  KeepsOut.next (State.rampEnd_keeps (Keeps.refl s))

theorem execLaserTurnOnComplete_keeps {s : State} {a1} {a2} : KeepsOut s (execLaserTurnOnComplete a1 a2 s) :=
  KeepsOut.next (State.turnOnEnd_keeps (Keeps.refl s))

theorem execRingColdEnd_keeps {s : State} {a1} {a2} : KeepsOut s (execRingColdEnd a1 a2 s) := by
  unfold execRingColdEnd
  exact KeepsOut.next (Keeps.ite (fun _ => State.setRing_keeps (Keeps.refl s)) (fun _ => (Keeps.refl s)))

theorem execRingSweepCapture_keeps {s : State} {a1} {a2} {a3} {a4} : KeepsOut s (execRingSweepCapture a1 a2 a3 a4 s)
    := by
  unfold execRingSweepCapture
  exact KeepsOut.next (Keeps.ite (fun _ => (Keeps.refl s)) (fun _ => Keeps.ite (fun _ => State.setRing_keeps
      (State.wf_keeps (Keeps.refl s))) (fun _ => State.mislock_keeps (Keeps.refl s))))

theorem execRingVerifyEnd_keeps {s : State} {a1} {a2} {a3} : KeepsOut s (execRingVerifyEnd a1 a2 a3 s) :=
  KeepsOut.next (State.ringVerify_keeps (Keeps.refl s))

theorem execLossOfLock_keeps {s : State} {a1} {a2} : KeepsOut s (execLossOfLock a1 a2 s) := by
  unfold execLossOfLock
  exact KeepsOut.next (Keeps.ite (fun _ => State.loseLock_keeps (Keeps.refl s)) (fun _ => (Keeps.refl s)))

theorem execToneAudit_keeps {s : State} {a1} {a2} : KeepsOut s (execToneAudit a1 a2 s) :=
  KeepsOut.next (State.toneAudit_keeps (Keeps.refl s))

theorem execMeshFault_keeps {s : State} {a1} {a2} {a3} : KeepsOut s (execMeshFault a1 a2 a3 s) :=
  KeepsOut.next (State.meshFail_keeps (Keeps.refl s))

theorem execCalStart_keeps {s : State} {a1} : KeepsOut s (execCalStart a1 s) :=
  KeepsOut.next (State.calStart_keeps (Keeps.refl s))

theorem execCalDone_keeps {s : State} {a1} {a2} : KeepsOut s (execCalDone a1 a2 s) :=
  KeepsOut.next (State.calDone_keeps (Keeps.refl s))

theorem execCalTimeout_keeps {s : State} {a1} : KeepsOut s (execCalTimeout a1 s) :=
  KeepsOut.next (State.calTimeout_keeps (Keeps.refl s))

theorem execLaneMapEpoch_keeps {s : State} {a1} : KeepsOut s (execLaneMapEpoch a1 s) :=
  KeepsOut.next (State.laneEpoch_keeps (Keeps.refl s))

theorem execLaneMapNotice_keeps {s : State} {a1} {a2} : KeepsOut s (execLaneMapNotice a1 a2 s) :=
  KeepsOut.next (State.lanePacket_keeps (Keeps.refl s) (fun t1 t2 ht3 => State.laneNotice_keeps ‹_›))

theorem execVacate_keeps {s : State} {a1} {a2} : KeepsOut s (execVacate a1 a2 s) :=
  KeepsOut.next (State.lanePacket_keeps (Keeps.refl s) (fun t1 t2 ht3 => State.laneVacate_keeps ‹_›))

theorem execRestore_keeps {s : State} {a1} {a2} : KeepsOut s (execRestore a1 a2 s) :=
  KeepsOut.next (State.lanePacket_keeps (Keeps.refl s) (fun t1 t2 ht3 => State.laneRestore_keeps ‹_›))

theorem execExclude_keeps {s : State} {a1} {a2} : KeepsOut s (execExclude a1 a2 s) :=
  KeepsOut.next (State.lanePacket_keeps (Keeps.refl s) (fun t1 t2 ht3 => State.laneExclude_keeps ‹_›))

theorem execLinkTrainingStart_keeps {s : State} {a1} : KeepsOut s (execLinkTrainingStart a1 s) :=
  KeepsOut.next (State.trainStart_keeps (Keeps.refl s))

theorem execOffer_keeps {s : State} {a1} {a2} : KeepsOut s (execOffer a1 a2 s) := by
  unfold execOffer
  exact KeepsOut.next (Keeps.ite (fun _ => (Keeps.refl s)) (fun _ => Keeps.ite (fun _ => State.offer_keeps (Keeps.refl
      s)) (fun _ => State.trainDrop_keeps (Keeps.refl s))))

theorem execAccept_keeps {s : State} {a1} {a2} : KeepsOut s (execAccept a1 a2 s) := by
  unfold execAccept
  exact KeepsOut.next (Keeps.ite (fun _ => (Keeps.refl s)) (fun _ => Keeps.ite (fun _ => State.accept_keeps
      (Keeps.refl s)) (fun _ => State.trainDrop_keeps (Keeps.refl s))))

theorem execRetrainReq_keeps {s : State} {a1} {a2} : KeepsOut s (execRetrainReq a1 a2 s) := by
  unfold execRetrainReq
  refine KeepsOut.next ?_
  have h := Keeps.refl s
  refine Keeps.ite (fun _ => ?_) (fun _ => ?_)
  · extract_lets +onlyGivenNames x1
    have hx1 : Keeps s x1.1 := State.trainHeader_keeps ‹_›
    clear_value x1
    exact Keeps.ite (fun _ => State.retrainReq_keeps ‹_›) (fun _ => ‹_›)
  · assumption

theorem execRetrainAck_keeps {s : State} {a1} {a2} : KeepsOut s (execRetrainAck a1 a2 s) := by
  unfold execRetrainAck
  refine KeepsOut.next ?_
  have h := Keeps.refl s
  refine Keeps.ite (fun _ => ?_) (fun _ => ?_)
  · extract_lets +onlyGivenNames x1
    have hx1 : Keeps s x1.1 := State.trainHeader_keeps ‹_›
    clear_value x1
    exact Keeps.ite (fun _ => State.retrainAck_keeps ‹_›) (fun _ => ‹_›)
  · assumption

theorem execGoingDown_keeps {s : State} {a1} {a2} : KeepsOut s (execGoingDown a1 a2 s) := by
  unfold execGoingDown
  refine KeepsOut.next ?_
  have h := Keeps.refl s
  refine Keeps.ite (fun _ => ?_) (fun _ => ?_)
  · extract_lets +onlyGivenNames x1
    have hx1 : Keeps s x1.1 := State.trainHeader_keeps ‹_›
    clear_value x1
    exact Keeps.ite (fun _ => State.goDown_keeps ‹_›) (fun _ => ‹_›)
  · assumption

theorem execRetrainTimeout_keeps {s : State} {a1} : KeepsOut s (execRetrainTimeout a1 s) := by
  unfold execRetrainTimeout
  exact KeepsOut.next (Keeps.ite (fun _ => State.goDown_keeps (Keeps.refl s)) (fun _ => (Keeps.refl s)))

theorem execLossOfLight_keeps {s : State} {a1} : KeepsOut s (execLossOfLight a1 s) := by
  unfold execLossOfLight
  exact KeepsOut.next (Keeps.ite (fun _ => State.goDown_keeps (Keeps.refl s)) (fun _ => (Keeps.refl s)))

theorem execDownHoldExpiry_keeps {s : State} {a1} : KeepsOut s (execDownHoldExpiry a1 s) := by
  unfold execDownHoldExpiry
  exact KeepsOut.next (Keeps.ite (fun _ => State.setLinkState_keeps (Keeps.refl s)) (fun _ => (Keeps.refl s)))

theorem execReplayTimer_keeps {s : State} {a1} : KeepsOut s (execReplayTimer a1 s) :=
  KeepsOut.next (State.replayTimer_keeps (Keeps.refl s))

theorem execAckIdleTimer_keeps {s : State} {a1} : KeepsOut s (execAckIdleTimer a1 s) := by
  unfold execAckIdleTimer
  exact KeepsOut.next (Keeps.ite (fun _ => State.setLink_keeps (Keeps.refl s)) (fun _ => (Keeps.refl s)))

theorem execAckOnly_keeps {s : State} {a1} {a2} : KeepsOut s (execAckOnly a1 a2 s) :=
  KeepsOut.next (State.ackOnly_keeps (Keeps.refl s))

theorem execSendData_keeps {s : State} {a1} {a2} : KeepsOut s (execSendData a1 a2 s) :=
  KeepsOut.next (State.accepted_keeps (Keeps.refl s) (fun t1 ht2 => State.sendData_keeps ‹_›))

theorem execMemRd_keeps {s : State} {a1} {a2} {a3} : KeepsOut s (execMemRd a1 a2 a3 s) :=
  KeepsOut.next (State.accepted_keeps (Keeps.refl s) (fun t1 ht2 => State.orRelay_keeps ‹_› (fun t3 ht4 =>
      State.memRd_keeps ‹_›)))

theorem execMemWr_keeps {s : State} {a1} {a2} : KeepsOut s (execMemWr a1 a2 s) :=
  KeepsOut.next (State.accepted_keeps (Keeps.refl s) (fun t1 ht2 => State.orRelay_keeps ‹_› (fun t3 ht4 =>
      State.memWr_keeps ‹_›)))

theorem execMemCpl_keeps {s : State} {a1} {a2} : KeepsOut s (execMemCpl a1 a2 s) :=
  KeepsOut.next (State.accepted_keeps (Keeps.refl s) (fun t1 ht2 => State.orRelay_keeps ‹_› (fun t3 ht4 =>
      State.memCpl_keeps ‹_›)))

theorem execNeighbours_keeps {s : State} {a1} {a2} : KeepsOut s (execNeighbours a1 a2 s) := by
  unfold execNeighbours
  exact KeepsOut.next (Keeps.ite (fun _ => State.accepted_keeps (Keeps.refl s) (fun t1 ht2 =>
      State.takeNeighbours_keeps ‹_›)) (fun _ => (Keeps.refl s)))

theorem execHearthCommand_keeps {s : State} {a1} {a2} : KeepsOut s (execHearthCommand a1 a2 s) :=
  KeepsOut.next (State.hearthPacket_keeps (Keeps.refl s) (fun t1 t2 ht3 => State.hearthCommand_keeps ‹_›))

theorem execHearthReply_keeps {s : State} {a1} {a2} : KeepsOut s (execHearthReply a1 a2 s) :=
  KeepsOut.next (State.hearthPacket_keeps (Keeps.refl s) (fun t1 t2 ht3 => State.hearthReply_keeps ‹_›))

theorem execHearthEvent_keeps {s : State} {a1} {a2} : KeepsOut s (execHearthEvent a1 a2 s) :=
  KeepsOut.next (State.hearthPacket_keeps (Keeps.refl s) (fun t1 t2 ht3 => State.hearthEvent_keeps ‹_›))

theorem execSkyDone_keeps {s : State} {a1} {a2} : KeepsOut s (execSkyDone a1 a2 s) :=
  KeepsOut.next (State.hearthPacket_keeps (Keeps.refl s) (fun t1 t2 ht3 => State.takeSkyDone_keeps ‹_›))

theorem execDataFlit_keeps {s : State} {a1} {a2} : KeepsOut s (execDataFlit a1 a2 s) :=
  KeepsOut.next (State.dataFlit_keeps (Keeps.refl s))

theorem execIdleFlit_keeps {s : State} {a1} {a2} : KeepsOut s (execIdleFlit a1 a2 s) := by
  unfold execIdleFlit
  refine KeepsOut.next ?_
  have h := Keeps.refl s
  extract_lets +onlyGivenNames x1
  have hx1 : Keeps s x1.1 := State.flitHead_keeps ‹_›
  clear_value x1
  split
  · exact State.flitAck_keeps ‹_›
  · assumption

theorem execFrameFlit_keeps {s : State} {a1} {a2} : KeepsOut s (execFrameFlit a1 a2 s) :=
  KeepsOut.next (State.flitSeq_keeps (Keeps.refl s))

theorem execFlitReplay_keeps {s : State} {a1} : KeepsOut s (execFlitReplay a1 s) :=
  KeepsOut.next (State.flitReplay_keeps (Keeps.refl s))

theorem execWidthReport_keeps {s : State} {a1} {a2} : KeepsOut s (execWidthReport a1 a2 s) :=
  KeepsOut.next (State.widthReport_keeps (Keeps.refl s))

theorem execWidthReportTimeout_keeps {s : State} {a1} : KeepsOut s (execWidthReportTimeout a1 s) := by
  unfold execWidthReportTimeout
  refine KeepsOut.next ?_
  have h := Keeps.refl s
  split
  · exact Keeps.ite (fun _ => ‹_›) (fun _ => State.widthDiffers_keeps ‹_›)
  · assumption

theorem execUcieModuleDown_keeps {s : State} {a1} {a2} : KeepsOut s (execUcieModuleDown a1 a2 s) :=
  KeepsOut.next (State.moduleDown_keeps (Keeps.refl s))

theorem execGuestAdmission_keeps {s : State} {a1} {a2} : KeepsOut s (execGuestAdmission a1 a2 s) := by
  unfold execGuestAdmission
  exact KeepsOut.next (Keeps.ite (fun _ => State.admitSite_keeps (Keeps.refl s)) (fun _ => (Keeps.refl s)))

theorem execGuestAbsent_keeps {s : State} {a1} : KeepsOut s (execGuestAbsent a1 s) := by
  unfold execGuestAbsent
  exact KeepsOut.next (Keeps.ite (fun _ => State.siteFail_keeps (Keeps.refl s)) (fun _ => (Keeps.refl s)))

theorem execGuestReset_keeps {s : State} {a1} : KeepsOut s (execGuestReset a1 s) := by
  unfold execGuestReset
  exact KeepsOut.next (Keeps.ite (fun _ => State.guestReset_keeps (Keeps.refl s)) (fun _ => (Keeps.refl s)))

theorem execGuestWindowAccess_keeps {s : State} {a1} {a2} {a3} {a4} : KeepsOut s (execGuestWindowAccess a1 a2 a3 a4 s)
    :=
  KeepsOut.next (State.guestAccess_keeps (Keeps.refl s))

theorem execPorchLaneFailure_keeps {s : State} {a1} : KeepsOut s (execPorchLaneFailure a1 s) :=
  KeepsOut.next (State.porchFail_keeps (Keeps.refl s))

theorem execSeamDown_keeps {s : State} {a1} : KeepsOut s (execSeamDown a1 s) := by
  unfold execSeamDown
  exact KeepsOut.next (Keeps.ite (fun _ => State.seamDown_keeps (Keeps.refl s)) (fun _ => (Keeps.refl s)))

theorem execReloadComplete_keeps {s : State} {a1} : KeepsOut s (execReloadComplete a1 s) :=
  KeepsOut.next (State.reloadsDone_keeps (Keeps.refl s))

theorem execRetirementCopyComplete_keeps {s : State} {a1} : KeepsOut s (execRetirementCopyComplete a1 s) :=
  KeepsOut.next (State.stepResume_keeps (State.copyDone_keeps (Keeps.refl s)))

theorem execPatrolRead_keeps {s : State} {a1} {a2} {a3} {a4} {a5} : KeepsOut s (execPatrolRead a1 a2 a3 a4 a5 s) :=
  KeepsOut.next (State.patrol_keeps (Keeps.refl s))

theorem execQueueRefill_keeps {s : State} {a1} {a2} : KeepsOut s (execQueueRefill a1 a2 s) :=
  KeepsOut.next (State.queueRefill_keeps (Keeps.refl s))

theorem execCelQwmWrite_keeps {s : State} {a1} {a2} : KeepsOut s (execCelQwmWrite a1 a2 s) := by
  unfold execCelQwmWrite
  exact KeepsOut.next (Keeps.ite (fun _ => State.celQwm_keeps (Keeps.refl s)) (fun _ => (Keeps.refl s)))

theorem execCrossedClear_keeps {s : State} {a1} {a2} {a3} : KeepsOut s (execCrossedClear a1 a2 a3 s) :=
  KeepsOut.next (State.crossedClear_keeps (Keeps.refl s))

theorem execCelCntClr_keeps {s : State} {a1} : KeepsOut s (execCelCntClr a1 s) :=
  KeepsOut.next (State.celCntClear_keeps (Keeps.refl s))

theorem execPantryAgeSweep_keeps {s : State} {a1} : KeepsOut s (execPantryAgeSweep a1 s) :=
  KeepsOut.next (State.ageSweep_keeps (Keeps.refl s))

theorem execLeaseExpiry_keeps {s : State} {a1} : KeepsOut s (execLeaseExpiry a1 s) :=
  KeepsOut.next (State.leaseExpires_keeps (Keeps.refl s))

theorem execPublishListApply_keeps {s : State} {a1} : KeepsOut s (execPublishListApply a1 s) :=
  KeepsOut.next (State.publishStep_keeps (Keeps.refl s))

theorem execRegionChangeApply_keeps {s : State} : KeepsOut s (execRegionChangeApply s) :=
  KeepsOut.next (State.applyChanges_keeps (Keeps.refl s))

theorem execWingRoleChange_keeps {s : State} {a1} : KeepsOut s (execWingRoleChange a1 s) :=
  KeepsOut.next (State.roleChange_keeps (Keeps.refl s))

theorem execStepBaseFrame_keeps {s : State} {a1} : KeepsOut s (execStepBaseFrame a1 s) :=
  KeepsOut.next (State.stepBegins_keeps (Keeps.refl s))

theorem execStepCommit_keeps {s : State} {a1} : KeepsOut s (execStepCommit a1 s) :=
  KeepsOut.next (State.stepCommits_keeps (Keeps.refl s))

theorem execStepReplay_keeps {s : State} {a1} : KeepsOut s (execStepReplay a1 s) :=
  KeepsOut.next (State.stepReplays_keeps (Keeps.refl s))

theorem execReplayLate_keeps {s : State} {a1} : KeepsOut s (execReplayLate a1 s) :=
  KeepsOut.next (State.stepLate_keeps (Keeps.refl s))

theorem execFaultReport_keeps {s : State} {a1} {a2} {a3} : KeepsOut s (execFaultReport a1 a2 a3 s) := by
  unfold execFaultReport
  exact KeepsOut.next (Keeps.ite (fun _ => (Keeps.refl s)) (fun _ => State.detect_keeps (Keeps.refl s)))

theorem execBudgetOverrun_keeps {s : State} {a1} {a2} : KeepsOut s (execBudgetOverrun a1 a2 s) := by
  refine KeepsOut.next ?_
  split
  · exact Keeps.refl s
  · exact State.note_keeps (State.satf_keeps (Keeps.refl s))

theorem execHeartbeat_keeps {s : State} {a1} {a2} {a3} : KeepsOut s (execHeartbeat a1 a2 a3 s) :=
  KeepsOut.next (State.heartbeat_keeps (Keeps.refl s))

theorem execDigestCompare_keeps {s : State} {a1} {a2} : KeepsOut s (execDigestCompare a1 a2 s) := by
  unfold execDigestCompare
  exact KeepsOut.next (Keeps.ite (fun _ => State.mismatch_keeps (Keeps.refl s)) (fun _ => (Keeps.refl s)))

theorem execDigestTimeout_keeps {s : State} {a1} : KeepsOut s (execDigestTimeout a1 s) := by
  unfold execDigestTimeout
  exact KeepsOut.next (Keeps.ite (fun _ => State.mismatch_keeps (Keeps.refl s)) (fun _ => (Keeps.refl s)))

theorem execSelfcheck_keeps {s : State} {a1} {a2} : KeepsOut s (execSelfcheck a1 a2 s) :=
  KeepsOut.next (State.selfcheck_keeps (Keeps.refl s))

theorem execHeartbeatMissing_keeps {s : State} : KeepsOut s (execHeartbeatMissing s) :=
  KeepsOut.next (State.heartbeatMissing_keeps (Keeps.refl s))

theorem execResyncComplete_keeps {s : State} {a1} : KeepsOut s (execResyncComplete a1 s) := by
  unfold execResyncComplete
  exact KeepsOut.next (Keeps.ite (fun _ => State.wf_keeps (State.setHearth_keeps (Keeps.refl s))) (fun _ =>
      (Keeps.refl s)))

theorem execPlannedPowerChange_keeps {s : State} {a1} : KeepsOut s (execPlannedPowerChange a1 s) :=
  KeepsOut.next (State.plannedChange_keeps (Keeps.refl s))

theorem execPowerChangeComplete_keeps {s : State} {a1} : KeepsOut s (execPowerChangeComplete a1 s) :=
  KeepsOut.next (State.changeDone_keeps (Keeps.refl s))

theorem execOperatingPointChangeComplete_keeps {s : State} {a1} : KeepsOut s (execOperatingPointChangeComplete a1 s)
    :=
  KeepsOut.next (State.pointDone_keeps (Keeps.refl s))

theorem execRotationStep_keeps {s : State} {a1} : KeepsOut s (execRotationStep a1 s) :=
  KeepsOut.next (State.rotate_keeps (Keeps.refl s))

theorem execTileSlice_keeps {s : State} {a1} {a2} {a3} : KeepsOut s (execTileSlice a1 a2 a3 s) :=
  KeepsOut.next (State.tileSlice_keeps (Keeps.refl s))

theorem execSramSlice_keeps {s : State} {a1} {a2} : KeepsOut s (execSramSlice a1 a2 s) :=
  KeepsOut.next (State.sramSlice_keeps (Keeps.refl s))

theorem execLarderSlice_keeps {s : State} {a1} {a2} : KeepsOut s (execLarderSlice a1 a2 s) := by
  unfold execLarderSlice
  exact KeepsOut.next (Keeps.ite (fun _ => (Keeps.refl s)) (fun _ => State.baseSlice_keeps (Keeps.refl s) (fun t1 t2
      ht3 => Keeps.record ‹_› rfl rfl rfl)))

theorem execPantrySlice_keeps {s : State} {a1} {a2} : KeepsOut s (execPantrySlice a1 a2 s) := by
  unfold execPantrySlice
  exact KeepsOut.next (Keeps.ite (fun _ => (Keeps.refl s)) (fun _ => State.baseSlice_keeps (Keeps.refl s) (fun t1 t2
      ht3 => ‹_›)))

theorem execBistRowRepair_keeps {s : State} {a1} : KeepsOut s (execBistRowRepair a1 s) := by
  unfold execBistRowRepair
  refine KeepsOut.next ?_
  have h := Keeps.refl s
  split
  · exact State.repairBay_keeps ‹_›
  · exact State.repairBase_keeps ‹_› (fun t1 ht2 => State.larderOff_keeps ‹_›)
  · exact State.repairBase_keeps ‹_› (fun t3 ht4 => State.pantryOff_keeps ‹_›)

theorem execScrub_keeps {s : State} {a1} {a2} : KeepsOut s (execScrub a1 a2 s) :=
  KeepsOut.next (State.scrub_keeps (Keeps.refl s))

theorem execDrbgReseed_keeps {s : State} {a1} {a2} : KeepsOut s (execDrbgReseed a1 a2 s) :=
  KeepsOut.next (State.drbgReseed_keeps (Keeps.refl s))

theorem execLockoutEnd_keeps {s : State} : KeepsOut s (execLockoutEnd s) := by
  unfold execLockoutEnd
  refine KeepsOut.next ?_
  have h := Keeps.refl s
  split
  · assumption
  · exact Keeps.ite (fun _ => State.wf_keeps (State.wf_keeps (Keeps.record ‹_› rfl rfl rfl))) (fun _ => ‹_›)

theorem execLifecycleTransition_keeps {s : State} : KeepsOut s (execLifecycleTransition s) := by
  unfold execLifecycleTransition
  refine KeepsOut.next ?_
  have h := Keeps.refl s
  split
  · assumption
  · rename_i he
    exact Keeps.ite (fun _ => State.moveLife_keeps (State.applied_keeps ‹_›) fun x => by simp [State.retired, he] at x)
      (fun _ => ‹_›)

theorem execSkyMailboxScan_keeps {s : State} {a1} : KeepsOut s (execSkyMailboxScan a1 s) :=
  KeepsOut.next (State.skyScan_keeps (Keeps.refl s))

theorem execLoadMatrix_keeps {s : State} {a1} {a2} : KeepsOut s (execLoadMatrix a1 a2 s) :=
  KeepsOut.next (State.skyRun_keeps (Keeps.refl s) (fun t1 t2 t3 ht4 => State.skyLoad_keeps ‹_›))

theorem execSlotReady_keeps {s : State} {a1} {a2} : KeepsOut s (execSlotReady a1 a2 s) := by
  unfold execSlotReady
  exact KeepsOut.next (Keeps.ite (fun _ => State.wf_keeps (Keeps.refl s)) (fun _ => (Keeps.refl s)))

theorem execScore_keeps {s : State} {a1} {a2} {a3} : KeepsOut s (execScore a1 a2 a3 s) :=
  KeepsOut.next (State.skyRun_keeps (Keeps.refl s) (fun t1 t2 t3 ht4 => State.skyScoreJob_keeps ‹_›))

theorem execSkyJobTimeout_keeps {s : State} {a1} : KeepsOut s (execSkyJobTimeout a1 s) := by
  unfold execSkyJobTimeout
  refine KeepsOut.next ?_
  have h := Keeps.refl s
  split
  · assumption
  · exact Keeps.ite (fun _ => ‹_›) (fun _ => Keeps.ite (fun _ => State.setSky_keeps ‹_›) (fun _ =>
        State.skyFallback_keeps ‹_›))

theorem execSkyCalibration_keeps {s : State} {a1} : KeepsOut s (execSkyCalibration a1 s) :=
  KeepsOut.next (State.skyCalibrate_keeps (Keeps.refl s))

theorem execSkyCalibrationComplete_keeps {s : State} {a1} {a2} : KeepsOut s (execSkyCalibrationComplete a1 a2 s) :=
  KeepsOut.next (State.skyCalibrated_keeps (Keeps.refl s))

theorem execCarrierHandover_keeps {s : State} {a1} : KeepsOut s (execCarrierHandover a1 s) :=
  KeepsOut.next (State.skyHandover_keeps (Keeps.refl s))

theorem execCmdTimeout_keeps {s : State} {a1} : KeepsOut s (execCmdTimeout a1 s) :=
  KeepsOut.next (State.cmdTimeout_keeps (Keeps.refl s))

theorem execCommandDoorbell_keeps {s : State} {a1} {a2} : KeepsOut s (execCommandDoorbell a1 a2 s) :=
  KeepsOut.next (State.doorbell_keeps (Keeps.refl s))

theorem execCommandRingEnable_keeps {s : State} {a1} {a2} : KeepsOut s (execCommandRingEnable a1 a2 s) :=
  KeepsOut.next (State.ringCfg_keeps (Keeps.refl s))

theorem execEventQueueHeadWrite_keeps {s : State} {a1} {a2} : KeepsOut s (execEventQueueHeadWrite a1 a2 s) :=
  KeepsOut.next (State.evqHead_keeps (Keeps.refl s))

theorem execEventQueueEnable_keeps {s : State} {a1} {a2} : KeepsOut s (execEventQueueEnable a1 a2 s) :=
  KeepsOut.next (State.evqCfgWrite_keeps (Keeps.refl s))

theorem execArm_keeps {s : State} {a1} {a2} : KeepsOut s (execArm a1 a2 s) := by
  unfold execArm
  exact KeepsOut.next (Keeps.ite (fun _ => State.evqCfgWrite_keeps (Keeps.refl s)) (fun _ => (Keeps.refl s)))

theorem execDmaDoorbell_keeps {s : State} {a1} {a2} : KeepsOut s (execDmaDoorbell a1 a2 s) :=
  KeepsOut.next (State.dmaDoorbell_keeps (Keeps.refl s))

theorem execDmaDescriptorComplete_keeps {s : State} {a1} {a2} {a3} {a4} : KeepsOut s (execDmaDescriptorComplete a1 a2
    a3 a4 s) :=
  KeepsOut.next (State.dmaComplete_keeps (Keeps.refl s))

theorem execResume_keeps {s : State} {a1} : KeepsOut s (execResume a1 s) :=
  KeepsOut.next (State.dmaResume_keeps (Keeps.refl s))

theorem execDmaChannelDisable_keeps {s : State} {a1} {a2} : KeepsOut s (execDmaChannelDisable a1 a2 s) :=
  KeepsOut.next (State.dmaOff_keeps (Keeps.refl s))

theorem execHatchWrite_keeps {s : State} {a1} {a2} {a3} : KeepsOut s (execHatchWrite a1 a2 a3 s) :=
  KeepsOut.next (State.hatchWrite_keeps (Keeps.refl s))

theorem execHatchRead_keeps {s : State} {a1} {a2} {a3} : KeepsOut s (execHatchRead a1 a2 a3 s) :=
  KeepsOut.next (State.hatchRead_keeps (Keeps.refl s))

theorem execHatchErrClear_keeps {s : State} : KeepsOut s (execHatchErrClear s) := by
  unfold execHatchErrClear
  exact KeepsOut.next (Keeps.ite (fun _ => State.setHreg_keeps (Keeps.refl s)) (fun _ => (Keeps.refl s)))

theorem execRegisterWrite_keeps {s : State} {a1} {a2} {a3} {a4} {a5} : KeepsOut s (execRegisterWrite a1 a2 a3 a4 a5 s)
    :=
  KeepsOut.next (State.registerWrite_keeps (Keeps.refl s))

theorem execBayPowerReq_keeps {s : State} {a1} {a2} {a3} : KeepsOut s (execBayPowerReq a1 a2 a3 s) := by
  unfold execBayPowerReq
  exact KeepsOut.next (Keeps.ite (fun _ => State.bayPowerReq_keeps (Keeps.refl s)) (fun _ => (Keeps.refl s)))

theorem execEccClr_keeps {s : State} {a1} {a2} : KeepsOut s (execEccClr a1 a2 s) := by
  unfold execEccClr
  exact KeepsOut.next (Keeps.ite (fun _ => State.eccClear_keeps (Keeps.refl s)) (fun _ => (Keeps.refl s)))

theorem execCsmPowerReq_keeps {s : State} {a1} {a2} {a3} : KeepsOut s (execCsmPowerReq a1 a2 a3 s) := by
  unfold execCsmPowerReq
  exact KeepsOut.next (Keeps.ite (fun _ => State.csmPowerReq_keeps (Keeps.refl s)) (fun _ => (Keeps.refl s)))

theorem execCsmCntClr_keeps {s : State} {a1} {a2} : KeepsOut s (execCsmCntClr a1 a2 s) := by
  unfold execCsmCntClr
  exact KeepsOut.next (Keeps.ite (fun _ => State.csmClear_keeps (Keeps.refl s)) (fun _ => (Keeps.refl s)))

theorem execStrCntClr_keeps {s : State} {a1} : KeepsOut s (execStrCntClr a1 s) := by
  unfold execStrCntClr
  exact KeepsOut.next (Keeps.ite (fun _ => State.strClear_keeps (Keeps.refl s)) (fun _ => (Keeps.refl s)))

theorem execDrlCntClr_keeps {s : State} {a1} {a2} : KeepsOut s (execDrlCntClr a1 a2 s) := by
  unfold execDrlCntClr
  exact KeepsOut.next (Keeps.ite (fun _ => State.drlClear_keeps (Keeps.refl s)) (fun _ => (Keeps.refl s)))

theorem execSkyCntClr_keeps {s : State} {a1} {a2} : KeepsOut s (execSkyCntClr a1 a2 s) := by
  unfold execSkyCntClr
  exact KeepsOut.next (Keeps.ite (fun _ => State.skyClear_keeps (Keeps.refl s)) (fun _ => (Keeps.refl s)))

theorem execLarderEnable_keeps {s : State} {a1} {a2} {a3} : KeepsOut s (execLarderEnable a1 a2 a3 s) := by
  unfold execLarderEnable
  exact KeepsOut.next (Keeps.ite (fun _ => State.larderEnable_keeps (Keeps.refl s)) (fun _ => (Keeps.refl s)))

theorem execSequencerRun_keeps {s : State} {a1} {a2} : KeepsOut s (execSequencerRun a1 a2 s) :=
  KeepsOut.next (State.runSequencer_keeps (Keeps.refl s))

theorem execDescriptorFetch_keeps {s : State} {a1} {a2} : KeepsOut s (execDescriptorFetch a1 a2 s) :=
  KeepsOut.next (State.fetchDesc_keeps (Keeps.refl s))

theorem execDescriptorDispatch_keeps {s : State} {a1} : KeepsOut s (execDescriptorDispatch a1 s) :=
  KeepsOut.next (State.dispatchFront_keeps (Keeps.refl s))

theorem execDescriptorComplete_keeps {s : State} {a1} {a2} {a3} : KeepsOut s (execDescriptorComplete a1 a2 a3 s) :=
  KeepsOut.next (State.completeUnit_keeps (Keeps.refl s))

theorem execSeqStall_keeps {s : State} {a1} : KeepsOut s (execSeqStall a1 s) :=
  KeepsOut.next (State.seqStall_keeps (Keeps.refl s))

theorem execEventTimeout_keeps {s : State} {a1} : KeepsOut s (execEventTimeout a1 s) :=
  KeepsOut.next (State.eventTimeout_keeps (Keeps.refl s))

theorem execNop_keeps {s : State} {a1} : KeepsOut s (execNop a1 s) :=
  KeepsOut.next (State.controlRow_keeps (Keeps.refl s))

theorem execMatmul_keeps {s : State} {a1} {a2} : KeepsOut s (execMatmul a1 a2 s) := by
  unfold execMatmul
  refine KeepsOut.next ?_
  have h := Keeps.refl s
  split
  · assumption
  · extract_lets +onlyGivenNames x1
    clear_value x1
    split
    · exact State.matmulRun_keeps ‹_›
    · assumption

theorem execAttnBlock_keeps {s : State} {a1} {a2} : KeepsOut s (execAttnBlock a1 a2 s) := by
  unfold execAttnBlock
  refine KeepsOut.next ?_
  have h := Keeps.refl s
  split
  · exact Keeps.ite (fun _ => State.attnStart_keeps ‹_›) (fun _ => ‹_›)
  · assumption

theorem execConv_keeps {s : State} {a1} {a2} : KeepsOut s (execConv a1 a2 s) := by
  unfold execConv
  refine KeepsOut.next ?_
  have h := Keeps.refl s
  split
  · assumption
  · extract_lets +onlyGivenNames x1
    clear_value x1
    split
    · exact State.convRun_keeps ‹_›
    · assumption

theorem execVec_keeps {s : State} {a1} {a2} : KeepsOut s (execVec a1 a2 s) := by
  unfold execVec
  refine KeepsOut.next ?_
  have h := Keeps.refl s
  split
  · assumption
  · extract_lets +onlyGivenNames x1
    clear_value x1
    split
    · exact State.vecRun_keeps (State.startHead_keeps ‹_›)
    · assumption

theorem execVecMicro_keeps {s : State} {a1} {a2} : KeepsOut s (execVecMicro a1 a2 s) := by
  unfold execVecMicro
  refine KeepsOut.next ?_
  have h := Keeps.refl s
  split
  · assumption
  · exact Keeps.ite (fun _ => ‹_›) (fun _ => Keeps.ite (fun _ => State.vecMicroRun_keeps (State.startHead_keeps ‹_›))
        (fun _ => State.malformedStop_keeps ‹_›))

theorem execConvert_keeps {s : State} {a1} {a2} : KeepsOut s (execConvert a1 a2 s) := by
  unfold execConvert
  refine KeepsOut.next ?_
  have h := Keeps.refl s
  split
  · assumption
  · extract_lets +onlyGivenNames x1
    clear_value x1
    split
    · exact State.convertRun_keeps (State.startHead_keeps ‹_›)
    · assumption

theorem execReduce_keeps {s : State} {a1} {a2} : KeepsOut s (execReduce a1 a2 s) := by
  unfold execReduce
  refine KeepsOut.next ?_
  have h := Keeps.refl s
  split
  · assumption
  · extract_lets +onlyGivenNames x1
    clear_value x1
    split
    · exact State.reduceRun_keeps (State.startHead_keeps ‹_›)
    · assumption

theorem execLoad_keeps {s : State} {a1} {a2} : KeepsOut s (execLoad a1 a2 s) := by
  unfold execLoad
  refine KeepsOut.next ?_
  have h := Keeps.refl s
  split
  · assumption
  · extract_lets +onlyGivenNames x1
    clear_value x1
    refine Keeps.ite (fun _ => ?_) (fun _ => ?_)
    · assumption
    · extract_lets +onlyGivenNames x2
      have hx2 : Keeps s x2.1 := State.readRows_keeps (State.startHead_keeps ‹_›)
      clear_value x2
      exact State.settleRead_keeps ‹_›

theorem execMicroprogramLoad_keeps {s : State} {a1} {a2} : KeepsOut s (execMicroprogramLoad a1 a2 s) := by
  unfold execMicroprogramLoad
  refine KeepsOut.next ?_
  have h := Keeps.refl s
  split
  · assumption
  · extract_lets +onlyGivenNames x1
    clear_value x1
    refine Keeps.ite (fun _ => ?_) (fun _ => ?_)
    · assumption
    · extract_lets +onlyGivenNames x2 x3 x4 x5
      have hx2 : Keeps s x2 := State.startHead_keeps ‹_›
      have hx4 : Keeps s x4 := State.setBay_keeps ‹_›
      have hx5 : Keeps s x5.1 := State.readRow_keeps ‹_›
      clear_value x2 x3 x4 x5
      split
      · exact State.placeProgram_keeps ‹_›
      · exact State.dataError_keeps ‹_›

theorem execStore_keeps {s : State} {a1} {a2} : KeepsOut s (execStore a1 a2 s) := by
  unfold execStore
  refine KeepsOut.next ?_
  have h := Keeps.refl s
  split
  · assumption
  · exact State.storeStart_keeps ‹_›

theorem execSelect_keeps {s : State} {a1} {a2} : KeepsOut s (execSelect a1 a2 s) := by
  unfold execSelect
  refine KeepsOut.next ?_
  have h := Keeps.refl s
  split
  · assumption
  · exact State.selectRun_keeps (State.startHead_keeps ‹_›)

theorem execSend_keeps {s : State} {a1} {a2} : KeepsOut s (execSend a1 a2 s) := by
  unfold execSend
  refine KeepsOut.next ?_
  have h := Keeps.refl s
  split
  · assumption
  · exact State.sendStart_keeps ‹_›

theorem execRecv_keeps {s : State} {a1} : KeepsOut s (execRecv a1 s) := by
  unfold execRecv
  refine KeepsOut.next ?_
  have h := Keeps.refl s
  split
  · assumption
  · exact State.recvStart_keeps ‹_›

theorem execSignal_keeps {s : State} {a1} : KeepsOut s (execSignal a1 s) :=
  KeepsOut.next (State.controlRow_keeps (Keeps.refl s))

theorem execWaitEvent_keeps {s : State} {a1} : KeepsOut s (execWaitEvent a1 s) :=
  KeepsOut.next (State.controlRow_keeps (Keeps.refl s))

theorem execFence_keeps {s : State} {a1} : KeepsOut s (execFence a1 s) :=
  KeepsOut.next (State.controlRow_keeps (Keeps.refl s))

theorem execFrameMark_keeps {s : State} {a1} : KeepsOut s (execFrameMark a1 s) :=
  KeepsOut.next (State.controlRow_keeps (Keeps.refl s))

theorem execAdd_keeps {s : State} {a1} : KeepsOut s (execAdd a1 s) :=
  KeepsOut.next (State.microCmd_keeps (Keeps.refl s))

theorem execSub_keeps {s : State} {a1} : KeepsOut s (execSub a1 s) :=
  KeepsOut.next (State.microCmd_keeps (Keeps.refl s))

theorem execMul_keeps {s : State} {a1} : KeepsOut s (execMul a1 s) :=
  KeepsOut.next (State.microCmd_keeps (Keeps.refl s))

theorem execFma_keeps {s : State} {a1} : KeepsOut s (execFma a1 s) :=
  KeepsOut.next (State.microCmd_keeps (Keeps.refl s))

theorem execFms_keeps {s : State} {a1} : KeepsOut s (execFms a1 s) :=
  KeepsOut.next (State.microCmd_keeps (Keeps.refl s))

theorem execNeg_keeps {s : State} {a1} : KeepsOut s (execNeg a1 s) :=
  KeepsOut.next (State.microCmd_keeps (Keeps.refl s))

theorem execAbs_keeps {s : State} {a1} : KeepsOut s (execAbs a1 s) :=
  KeepsOut.next (State.microCmd_keeps (Keeps.refl s))

theorem execMin_keeps {s : State} {a1} : KeepsOut s (execMin a1 s) :=
  KeepsOut.next (State.microCmd_keeps (Keeps.refl s))

theorem execMax_keeps {s : State} {a1} : KeepsOut s (execMax a1 s) :=
  KeepsOut.next (State.microCmd_keeps (Keeps.refl s))

theorem execClamp_keeps {s : State} {a1} : KeepsOut s (execClamp a1 s) :=
  KeepsOut.next (State.microCmd_keeps (Keeps.refl s))

theorem execFloor_keeps {s : State} {a1} : KeepsOut s (execFloor a1 s) :=
  KeepsOut.next (State.microCmd_keeps (Keeps.refl s))

theorem execRint_keeps {s : State} {a1} : KeepsOut s (execRint a1 s) :=
  KeepsOut.next (State.microCmd_keeps (Keeps.refl s))

theorem execRcp_keeps {s : State} {a1} : KeepsOut s (execRcp a1 s) :=
  KeepsOut.next (State.microCmd_keeps (Keeps.refl s))

theorem execDiv_keeps {s : State} {a1} : KeepsOut s (execDiv a1 s) :=
  KeepsOut.next (State.microCmd_keeps (Keeps.refl s))

theorem execSqrt_keeps {s : State} {a1} : KeepsOut s (execSqrt a1 s) :=
  KeepsOut.next (State.microCmd_keeps (Keeps.refl s))

theorem execRsqrt_keeps {s : State} {a1} : KeepsOut s (execRsqrt a1 s) :=
  KeepsOut.next (State.microCmd_keeps (Keeps.refl s))

theorem execExp2_keeps {s : State} {a1} : KeepsOut s (execExp2 a1 s) :=
  KeepsOut.next (State.microCmd_keeps (Keeps.refl s))

theorem execLog2_keeps {s : State} {a1} : KeepsOut s (execLog2 a1 s) :=
  KeepsOut.next (State.microCmd_keeps (Keeps.refl s))

theorem execExp_keeps {s : State} {a1} : KeepsOut s (execExp a1 s) :=
  KeepsOut.next (State.microCmd_keeps (Keeps.refl s))

theorem execLog_keeps {s : State} {a1} : KeepsOut s (execLog a1 s) :=
  KeepsOut.next (State.microCmd_keeps (Keeps.refl s))

theorem execTanh_keeps {s : State} {a1} : KeepsOut s (execTanh a1 s) :=
  KeepsOut.next (State.microCmd_keeps (Keeps.refl s))

theorem execSigmoid_keeps {s : State} {a1} : KeepsOut s (execSigmoid a1 s) :=
  KeepsOut.next (State.microCmd_keeps (Keeps.refl s))

theorem execErf_keeps {s : State} {a1} : KeepsOut s (execErf a1 s) :=
  KeepsOut.next (State.microCmd_keeps (Keeps.refl s))

theorem execCmplt_keeps {s : State} {a1} : KeepsOut s (execCmplt a1 s) :=
  KeepsOut.next (State.microCmd_keeps (Keeps.refl s))

theorem execCmple_keeps {s : State} {a1} : KeepsOut s (execCmple a1 s) :=
  KeepsOut.next (State.microCmd_keeps (Keeps.refl s))

theorem execCmpeq_keeps {s : State} {a1} : KeepsOut s (execCmpeq a1 s) :=
  KeepsOut.next (State.microCmd_keeps (Keeps.refl s))

theorem execSel_keeps {s : State} {a1} : KeepsOut s (execSel a1 s) :=
  KeepsOut.next (State.microCmd_keeps (Keeps.refl s))

theorem execAnd_keeps {s : State} {a1} : KeepsOut s (execAnd a1 s) :=
  KeepsOut.next (State.microCmd_keeps (Keeps.refl s))

theorem execOr_keeps {s : State} {a1} : KeepsOut s (execOr a1 s) :=
  KeepsOut.next (State.microCmd_keeps (Keeps.refl s))

theorem execXor_keeps {s : State} {a1} : KeepsOut s (execXor a1 s) :=
  KeepsOut.next (State.microCmd_keeps (Keeps.refl s))

theorem execCvti_keeps {s : State} {a1} : KeepsOut s (execCvti a1 s) :=
  KeepsOut.next (State.microCmd_keeps (Keeps.refl s))

theorem execCvtf_keeps {s : State} {a1} : KeepsOut s (execCvtf a1 s) :=
  KeepsOut.next (State.microCmd_keeps (Keeps.refl s))

theorem execRsum_keeps {s : State} {a1} : KeepsOut s (execRsum a1 s) :=
  KeepsOut.next (State.microCmd_keeps (Keeps.refl s))

theorem execRmax_keeps {s : State} {a1} : KeepsOut s (execRmax a1 s) :=
  KeepsOut.next (State.microCmd_keeps (Keeps.refl s))

theorem execRmin_keeps {s : State} {a1} : KeepsOut s (execRmin a1 s) :=
  KeepsOut.next (State.microCmd_keeps (Keeps.refl s))

theorem execPerm_keeps {s : State} {a1} : KeepsOut s (execPerm a1 s) :=
  KeepsOut.next (State.microCmd_keeps (Keeps.refl s))

theorem execRotl_keeps {s : State} {a1} : KeepsOut s (execRotl a1 s) :=
  KeepsOut.next (State.microCmd_keeps (Keeps.refl s))

theorem execBcast_keeps {s : State} {a1} : KeepsOut s (execBcast a1 s) :=
  KeepsOut.next (State.microCmd_keeps (Keeps.refl s))

theorem execIdx_keeps {s : State} {a1} : KeepsOut s (execIdx a1 s) :=
  KeepsOut.next (State.microCmd_keeps (Keeps.refl s))

theorem execMov_keeps {s : State} {a1} : KeepsOut s (execMov a1 s) :=
  KeepsOut.next (State.microCmd_keeps (Keeps.refl s))

theorem execLdp_keeps {s : State} {a1} : KeepsOut s (execLdp a1 s) :=
  KeepsOut.next (State.microCmd_keeps (Keeps.refl s))

theorem execLdv_keeps {s : State} {a1} : KeepsOut s (execLdv a1 s) :=
  KeepsOut.next (State.microCmd_keeps (Keeps.refl s))

theorem execStv_keeps {s : State} {a1} : KeepsOut s (execStv a1 s) :=
  KeepsOut.next (State.microCmd_keeps (Keeps.refl s))

theorem execGather_keeps {s : State} {a1} : KeepsOut s (execGather a1 s) :=
  KeepsOut.next (State.microCmd_keeps (Keeps.refl s))

theorem execRand_keeps {s : State} {a1} : KeepsOut s (execRand a1 s) :=
  KeepsOut.next (State.microCmd_keeps (Keeps.refl s))

theorem execLoop_keeps {s : State} {a1} : KeepsOut s (execLoop a1 s) :=
  KeepsOut.next (State.microCmd_keeps (Keeps.refl s))

theorem execEndloop_keeps {s : State} {a1} : KeepsOut s (execEndloop a1 s) :=
  KeepsOut.next (State.microCmd_keeps (Keeps.refl s))

theorem execMicroHalt_keeps {s : State} {a1} : KeepsOut s (execMicroHalt a1 s) :=
  KeepsOut.next (State.microCmd_keeps (Keeps.refl s))

theorem execIdentify_keeps {s : State} {a1} : KeepsOut s (execIdentify a1 s) :=
  KeepsOut.next (State.command_keeps (Keeps.refl s) (fun t1 ht2 => State.identify_keeps ‹_›))

theorem execPodList_keeps {s : State} {a1} : KeepsOut s (execPodList a1 s) :=
  KeepsOut.next (State.command_keeps (Keeps.refl s) (fun t1 ht2 => State.podList_keeps ‹_›))

theorem execMgmtRead_keeps {s : State} {a1} : KeepsOut s (execMgmtRead a1 s) :=
  KeepsOut.next (State.command_keeps (Keeps.refl s) (fun t1 ht2 => State.mgmtReadCmd_keeps ‹_›))

theorem execMgmtWrite_keeps {s : State} {a1} : KeepsOut s (execMgmtWrite a1 s) :=
  KeepsOut.next (State.command_keeps (Keeps.refl s) (fun t1 ht2 => State.mgmtWriteCmd_keeps ‹_›))

theorem execConfigWrite_keeps {s : State} {a1} : KeepsOut s (execConfigWrite a1 s) :=
  KeepsOut.next (State.command_keeps (Keeps.refl s) (fun t1 ht2 => State.configWrite_keeps ‹_›))

theorem execConfigRead_keeps {s : State} {a1} : KeepsOut s (execConfigRead a1 s) :=
  KeepsOut.next (State.command_keeps (Keeps.refl s) (fun t1 ht2 => State.configRead_keeps ‹_›))

theorem execWingRoleSet_keeps {s : State} {a1} : KeepsOut s (execWingRoleSet a1 s) :=
  KeepsOut.next (State.command_keeps (Keeps.refl s) (fun t1 ht2 => State.roleSet_keeps ‹_›))

theorem execRegionSet_keeps {s : State} {a1} : KeepsOut s (execRegionSet a1 s) :=
  KeepsOut.next (State.command_keeps (Keeps.refl s) (fun t1 ht2 => State.regionSet_keeps ‹_›))

theorem execRegionClear_keeps {s : State} {a1} : KeepsOut s (execRegionClear a1 s) :=
  KeepsOut.next (State.command_keeps (Keeps.refl s) (fun t1 ht2 => State.regionClear_keeps ‹_›))

theorem execHalt_keeps {s : State} {a1} : KeepsOut s (execHalt a1 s) :=
  KeepsOut.next (State.command_keeps (Keeps.refl s) (fun t1 ht2 => State.halt_keeps ‹_›))

theorem execStepStart_keeps {s : State} {a1} : KeepsOut s (execStepStart a1 s) :=
  KeepsOut.next (State.command_keeps (Keeps.refl s) (fun t1 ht2 => State.stepStart_keeps ‹_›))

theorem execStepAbort_keeps {s : State} {a1} : KeepsOut s (execStepAbort a1 s) :=
  KeepsOut.next (State.command_keeps (Keeps.refl s) (fun t1 ht2 => State.stepAbort_keeps ‹_›))

theorem execMemFill_keeps {s : State} {a1} : KeepsOut s (execMemFill a1 s) :=
  KeepsOut.next (State.command_keeps (Keeps.refl s) (fun t1 ht2 => State.addOp_keeps ‹_›))

theorem execMemCopy_keeps {s : State} {a1} : KeepsOut s (execMemCopy a1 s) :=
  KeepsOut.next (State.command_keeps (Keeps.refl s) (fun t1 ht2 => State.addOp_keeps ‹_›))

theorem execLarderFlush_keeps {s : State} {a1} : KeepsOut s (execLarderFlush a1 s) :=
  KeepsOut.next (State.command_keeps (Keeps.refl s) (fun t1 ht2 => State.larderFlush_keeps ‹_›))

theorem execPantryPublish_keeps {s : State} {a1} : KeepsOut s (execPantryPublish a1 s) :=
  KeepsOut.next (State.command_keeps (Keeps.refl s) (fun t1 ht2 => State.pantryPublish_keeps ‹_›))

theorem execPantryResolve_keeps {s : State} {a1} : KeepsOut s (execPantryResolve a1 s) :=
  KeepsOut.next (State.command_keeps (Keeps.refl s) (fun t1 ht2 => State.pantryResolve_keeps ‹_›))

theorem execPantryRelease_keeps {s : State} {a1} : KeepsOut s (execPantryRelease a1 s) :=
  KeepsOut.next (State.command_keeps (Keeps.refl s) (fun t1 ht2 => State.pantryRelease_keeps ‹_›))

theorem execPantryEvict_keeps {s : State} {a1} : KeepsOut s (execPantryEvict a1 s) :=
  KeepsOut.next (State.command_keeps (Keeps.refl s) (fun t1 ht2 => State.pantryEvict_keeps ‹_›))

theorem execAnnexSet_keeps {s : State} {a1} : KeepsOut s (execAnnexSet a1 s) :=
  KeepsOut.next (State.command_keeps (Keeps.refl s) (fun t1 ht2 => State.annexSet_keeps ‹_›))

theorem execAnnexClear_keeps {s : State} {a1} : KeepsOut s (execAnnexClear a1 s) :=
  KeepsOut.next (State.command_keeps (Keeps.refl s) (fun t1 ht2 => State.annexClear_keeps ‹_›))

theorem execModelLoad_keeps {s : State} {a1} : KeepsOut s (execModelLoad a1 s) :=
  KeepsOut.next (State.command_keeps (Keeps.refl s) (fun t1 ht2 => State.modelLoad_keeps ‹_›))

theorem execLinkSet_keeps {s : State} {a1} : KeepsOut s (execLinkSet a1 s) :=
  KeepsOut.next (State.command_keeps (Keeps.refl s) (fun t1 ht2 => State.linkSet_keeps ‹_›))

theorem execLinkWidth_keeps {s : State} {a1} : KeepsOut s (execLinkWidth a1 s) :=
  KeepsOut.next (State.command_keeps (Keeps.refl s) (fun t1 ht2 => State.linkWidth_keeps ‹_›))

theorem execLinkRetrain_keeps {s : State} {a1} : KeepsOut s (execLinkRetrain a1 s) :=
  KeepsOut.next (State.command_keeps (Keeps.refl s) (fun t1 ht2 => State.linkRetrain_keeps ‹_›))

theorem execLinkState_keeps {s : State} {a1} : KeepsOut s (execLinkState a1 s) :=
  KeepsOut.next (State.command_keeps (Keeps.refl s) (fun t1 ht2 => State.linkStateSet_keeps ‹_›))

theorem execLaserSet_keeps {s : State} {a1} : KeepsOut s (execLaserSet a1 s) :=
  KeepsOut.next (State.command_keeps (Keeps.refl s) (fun t1 ht2 => State.laserSet_keeps ‹_›))

theorem execLaserSwap_keeps {s : State} {a1} : KeepsOut s (execLaserSwap a1 s) :=
  KeepsOut.next (State.command_keeps (Keeps.refl s) (fun t1 ht2 => State.laserSwap_keeps ‹_›))

theorem execLaserCommission_keeps {s : State} {a1} : KeepsOut s (execLaserCommission a1 s) :=
  KeepsOut.next (State.command_keeps (Keeps.refl s) (fun t1 ht2 => State.laserCommission_keeps ‹_›))

theorem execLaserThreshSet_keeps {s : State} {a1} : KeepsOut s (execLaserThreshSet a1 s) :=
  KeepsOut.next (State.command_keeps (Keeps.refl s) (fun t1 ht2 => State.threshSet_keeps ‹_›))

theorem execCalSet_keeps {s : State} {a1} : KeepsOut s (execCalSet a1 s) :=
  KeepsOut.next (State.command_keeps (Keeps.refl s) (fun t1 ht2 => State.calSet_keeps ‹_›))

theorem execPlanLoad_keeps {s : State} {a1} : KeepsOut s (execPlanLoad a1 s) :=
  KeepsOut.next (State.command_keeps (Keeps.refl s) (fun t1 ht2 => State.planLoad_keeps ‹_›))

theorem execPlanDelta_keeps {s : State} {a1} : KeepsOut s (execPlanDelta a1 s) :=
  KeepsOut.next (State.command_keeps (Keeps.refl s) (fun t1 ht2 => State.planDelta_keeps ‹_›))

theorem execSettleSet_keeps {s : State} {a1} : KeepsOut s (execSettleSet a1 s) :=
  KeepsOut.next (State.command_keeps (Keeps.refl s) (fun t1 ht2 => State.settleSet_keeps ‹_›))

theorem execBeatRealign_keeps {s : State} {a1} : KeepsOut s (execBeatRealign a1 s) :=
  KeepsOut.next (State.command_keeps (Keeps.refl s) (fun t1 ht2 => State.beatRealign_keeps ‹_›))

theorem execSkySet_keeps {s : State} {a1} : KeepsOut s (execSkySet a1 s) :=
  KeepsOut.next (State.command_keeps (Keeps.refl s) (fun t1 ht2 => State.skySet_keeps ‹_›))

theorem execSkyCal_keeps {s : State} {a1} : KeepsOut s (execSkyCal a1 s) :=
  KeepsOut.next (State.command_keeps (Keeps.refl s) (fun t1 ht2 => State.skyCalCmd_keeps ‹_›))

theorem execPowerPointSet_keeps {s : State} {a1} : KeepsOut s (execPowerPointSet a1 s) :=
  KeepsOut.next (State.command_keeps (Keeps.refl s) (fun t1 ht2 => State.pointSet_keeps ‹_›))

theorem execPowerCapSet_keeps {s : State} {a1} : KeepsOut s (execPowerCapSet a1 s) :=
  KeepsOut.next (State.command_keeps (Keeps.refl s) (fun t1 ht2 => State.capSet_keeps ‹_›))

theorem execUnitPower_keeps {s : State} {a1} : KeepsOut s (execUnitPower a1 s) :=
  KeepsOut.next (State.command_keeps (Keeps.refl s) (fun t1 ht2 => State.unitPower_keeps ‹_›))

theorem execTripAck_keeps {s : State} {a1} : KeepsOut s (execTripAck a1 s) :=
  KeepsOut.next (State.command_keeps (Keeps.refl s) (fun t1 ht2 => State.tripAck_keeps ‹_›))

theorem execFaultRead_keeps {s : State} {a1} : KeepsOut s (execFaultRead a1 s) :=
  KeepsOut.next (State.command_keeps (Keeps.refl s) (fun t1 ht2 => State.faultRead_keeps ‹_›))

theorem execFaultClear_keeps {s : State} {a1} : KeepsOut s (execFaultClear a1 s) :=
  KeepsOut.next (State.command_keeps (Keeps.refl s) (fun t1 ht2 => State.faultClear_keeps ‹_›))

theorem execReactionSet_keeps {s : State} {a1} : KeepsOut s (execReactionSet a1 s) :=
  KeepsOut.next (State.command_keeps (Keeps.refl s) (fun t1 ht2 => State.reactionSet_keeps ‹_›))

theorem execFallbackLoad_keeps {s : State} {a1} : KeepsOut s (execFallbackLoad a1 s) :=
  KeepsOut.next (State.command_keeps (Keeps.refl s) (fun t1 ht2 => State.fallbackLoad_keeps ‹_›))

theorem execUnfence_keeps {s : State} {a1} : KeepsOut s (execUnfence a1 s) :=
  KeepsOut.next (State.command_keeps (Keeps.refl s) (fun t1 ht2 => State.unfenceCmd_keeps ‹_›))

theorem execFaultInject_keeps {s : State} {a1} : KeepsOut s (execFaultInject a1 s) :=
  KeepsOut.next (State.command_keeps (Keeps.refl s) (fun t1 ht2 => State.faultInject_keeps ‹_›))

theorem execAuthChallenge_keeps {s : State} {a1} : KeepsOut s (execAuthChallenge a1 s) :=
  KeepsOut.next (State.command_keeps (Keeps.refl s) (fun t1 ht2 => State.authChallenge_keeps ‹_›))

theorem execAuthResponse_keeps {s : State} {a1} : KeepsOut s (execAuthResponse a1 s) :=
  KeepsOut.next (State.command_keeps (Keeps.refl s) (fun t1 ht2 => State.authResponse_keeps ‹_›))

theorem execAuthDrop_keeps {s : State} {a1} : KeepsOut s (execAuthDrop a1 s) :=
  KeepsOut.next (State.command_keeps (Keeps.refl s) (fun t1 ht2 => State.authDrop_keeps ‹_›))

theorem execFwInstall_keeps {s : State} {a1} : KeepsOut s (execFwInstall a1 s) :=
  KeepsOut.next (State.command_keeps (Keeps.refl s) (fun t1 ht2 => State.fwInstall_keeps ‹_›))

theorem execLifecycleSet_keeps {s : State} {a1} : KeepsOut s (execLifecycleSet a1 s) :=
  KeepsOut.next (State.command_keeps (Keeps.refl s) (fun t1 ht2 => State.lifecycleSet_keeps ‹_›))

theorem execAttest_keeps {s : State} {a1} : KeepsOut s (execAttest a1 s) :=
  KeepsOut.next (State.command_keeps (Keeps.refl s) (fun t1 ht2 => State.attest_keeps ‹_›))

theorem execAuditRead_keeps {s : State} {a1} : KeepsOut s (execAuditRead a1 s) :=
  KeepsOut.next (State.command_keeps (Keeps.refl s) (fun t1 ht2 => State.auditRead_keeps ‹_›))

theorem execI3cDataAddressWrite_keeps {s : State} {a1} : KeepsOut s (execI3cDataAddressWrite a1 s) := by
  unfold execI3cDataAddressWrite
  exact KeepsOut.next (Keeps.ite (fun _ => (Keeps.refl s)) (fun _ => Keeps.record (Keeps.refl s) rfl rfl rfl))

theorem execI3cDataWrite_keeps {s : State} {a1} {a2} : KeepsOut s (execI3cDataWrite a1 a2 s) :=
  KeepsOut.next (State.i3cWrite_keeps (Keeps.refl s))

theorem execBypass_keeps {s : State} : KeepsOut s (execBypass s) :=
  KeepsOut.next (State.jtagLoad_keeps (Keeps.refl s))

theorem execIdcode_keeps {s : State} : KeepsOut s (execIdcode s) :=
  KeepsOut.next (State.jtagLoad_keeps (Keeps.refl s))

theorem execSamplePreload_keeps {s : State} : KeepsOut s (execSamplePreload s) := by
  unfold execSamplePreload
  refine KeepsOut.next ?_
  have h := Keeps.refl s
  refine Keeps.ite (fun _ => ?_) (fun _ => ?_)
  · assumption
  · split
    exact State.jtagLoad_keeps (Keeps.snd_eq ‹_› (State.draw_keeps ‹_›))

theorem execExtest_keeps {s : State} {a1} : KeepsOut s (execExtest a1 s) := by
  unfold execExtest
  exact KeepsOut.next (Keeps.ite (fun _ => (Keeps.refl s)) (fun _ => Keeps.ite (fun _ => Keeps.record (Keeps.refl s)
      rfl rfl rfl) (fun _ => State.jtagLoad_keeps (Keeps.refl s))))

theorem execScanEn_keeps {s : State} : KeepsOut s (execScanEn s) := by
  unfold execScanEn
  exact KeepsOut.next (Keeps.ite (fun _ => (Keeps.refl s)) (fun _ => Keeps.ite (fun _ => State.jtagLoad_keeps
      (Keeps.refl s)) (fun _ => Keeps.record (State.auditRec_keeps (Keeps.refl s)) rfl rfl rfl)))

theorem execScanExit_keeps {s : State} : KeepsOut s (execScanExit s) := by
  unfold execScanExit
  exact KeepsOut.next (Keeps.ite (fun _ => (Keeps.refl s)) (fun _ => Keeps.ite (fun _ => State.leaveScan_keeps
      (Keeps.refl s)) (fun _ => State.jtagLoad_keeps (Keeps.refl s))))

theorem execTrstN_keeps {s : State} {a1} : KeepsOut s (execTrstN a1 s) := by
  unfold execTrstN
  exact KeepsOut.next (Keeps.ite (fun _ => Keeps.record (State.leaveScan_keeps (Keeps.refl s)) rfl rfl rfl) (fun _ =>
      Keeps.record (Keeps.refl s) rfl rfl rfl))

theorem execModuleTrainingComplete_keeps {s : State} {a1} {a2} {a3} : KeepsOut s (execModuleTrainingComplete a1 a2 a3
    s) := by
  unfold execModuleTrainingComplete
  exact KeepsOut.next (Keeps.ite (fun _ => State.attTrained_keeps (Keeps.refl s)) (fun _ => (Keeps.refl s)))

theorem execD2dFullResetEnd_keeps {s : State} {a1} {a2} : KeepsOut s (execD2dFullResetEnd a1 a2 s) :=
  KeepsOut.next (State.fullResetEnd_keeps (Keeps.refl s))

theorem execMemFillComplete_keeps {s : State} {a1} : KeepsOut s (execMemFillComplete a1 s) :=
  KeepsOut.next (State.opDone_keeps (Keeps.refl s))

theorem execMemCopyComplete_keeps {s : State} {a1} {a2} {a3} : KeepsOut s (execMemCopyComplete a1 a2 a3 s) :=
  KeepsOut.next (State.opDone_keeps (Keeps.refl s))

theorem execEntropySamplePass_keeps {s : State} {a1} : KeepsOut s (execEntropySamplePass a1 s) := by
  unfold execEntropySamplePass
  exact KeepsOut.next (Keeps.ite (fun _ => State.reseeded_keeps (Keeps.refl s)) (fun _ => (Keeps.refl s)))

theorem execVauxWithinTolerance_keeps {s : State} {a1} : KeepsOut s (execVauxWithinTolerance a1 s) :=
  KeepsOut.next (Keeps.record (Keeps.refl s) rfl rfl rfl)

/-- INPUT_POWER_REMOVED alone releases the thermal-trip clamp: it keeps what Keeps says but for that. -/
theorem execInputPowerRemoved_keeps {s : State} {a1} :
    ∃ t c, execInputPowerRemoved a1 s = .next t ∧ Keeps s { t with clamped := c } := by
  unfold execInputPowerRemoved
  by_cases h : a1 < 100
  · exact ⟨_, s.clamped, rfl, by rw [if_pos h]; exact Keeps.refl s⟩
  · exact ⟨_, s.leaveScan.clamped, rfl, by rw [if_neg h]; exact State.powerRemoved_keeps (Keeps.refl s)⟩

theorem execSetdasa_keeps {s : State} {a1} : KeepsOut s (execSetdasa a1 s) :=
  KeepsOut.next (State.assignAddr_keeps (Keeps.refl s))

theorem execEntdaa_keeps {s : State} {a1} : KeepsOut s (execEntdaa a1 s) :=
  KeepsOut.next (State.assignAddr_keeps (Keeps.refl s))

theorem execMakerTest_keeps {s : State} {a1} : KeepsOut s (execMakerTest a1 s) := by
  unfold execMakerTest
  split
  · exact KeepsOut.refused
  · exact KeepsOut.next (State.runCmd_keeps (Keeps.refl s) fun _ h => h)

/-- The meanings that the I3C channel looks up keep what the commands keep. -/
theorem opMeanings_keep : ∀ m ∈ opMeanings, ∀ c s, KeepsOut s (m.2 c s) := by
  simp only [opMeanings, List.forall_mem_append, List.forall_mem_cons, List.not_mem_nil, false_imp_iff, implies_true, and_true]
  and_intros <;> intro c s
  exacts [
    execIdentify_keeps, execPodList_keeps, execMgmtRead_keeps, execMgmtWrite_keeps, execConfigWrite_keeps,
    execConfigRead_keeps, execWingRoleSet_keeps, execRegionSet_keeps, execRegionClear_keeps, execHalt_keeps,
    execStepStart_keeps, execStepAbort_keeps, execMemFill_keeps, execMemCopy_keeps, execLarderFlush_keeps,
    execPantryPublish_keeps, execPantryResolve_keeps, execPantryRelease_keeps, execPantryEvict_keeps,
    execAnnexSet_keeps, execAnnexClear_keeps, execModelLoad_keeps, execLinkSet_keeps, execLinkWidth_keeps,
    execLinkRetrain_keeps, execLinkState_keeps, execLaserSet_keeps, execLaserSwap_keeps,
    execLaserCommission_keeps, execLaserThreshSet_keeps, execCalSet_keeps, execPlanLoad_keeps,
    execPlanDelta_keeps, execSettleSet_keeps, execBeatRealign_keeps, execSkySet_keeps, execSkyCal_keeps,
    execPowerPointSet_keeps, execPowerCapSet_keeps, execUnitPower_keeps, execTripAck_keeps,
    execFaultRead_keeps, execFaultClear_keeps, execReactionSet_keeps, execFallbackLoad_keeps,
    execUnfence_keeps, execFaultInject_keeps, execAuthChallenge_keeps, execAuthResponse_keeps,
    execAuthDrop_keeps, execFwInstall_keeps, execLifecycleSet_keeps, execAttest_keeps, execAuditRead_keeps]

theorem KeepsOut.trans {s t : State} {x : Host.Outcome State Fault Refusal} (h : Keeps s t) (hx : KeepsOut t x) :
    KeepsOut s x := fun u e => h.trans (hx u e)

theorem runOpcode_keeps {s0 s : State} {c : Cmd} (h : Keeps s0 s) : KeepsOut s0 (runOpcode c s) := by
  unfold runOpcode
  split
  · exact KeepsOut.trans h execMakerTest_keeps
  · split
    · exact KeepsOut.trans h (opMeanings_keep _ (List.mem_of_find?_eq_some ‹_›) _ _)
    · exact KeepsOut.next h

theorem execI3cCommandWrite_keeps {s : State} {a1} : KeepsOut s (execI3cCommandWrite a1 s) := by
  unfold execI3cCommandWrite
  extract_lets c t
  split
  · exact KeepsOut.next (Keeps.refl s)
  · have ht : Keeps s t := Keeps.record (Keeps.refl s) rfl rfl rfl
    split
    · exact KeepsOut.next (State.reply_keeps ht)
    · exact runOpcode_keeps (State.takeCmd_keeps ht)

end Sys2Proof.Machine
end

