-- ==== Sys2Proof/Laws/State.lean ====
section
/-!
SUPPORT. Sys2Proof/Laws/State.lean: for each update of the state, one lemma for each field that it leaves alone.
-/

set_option Elab.async false

namespace Sys2Proof.Machine

variable (s : State)

/-! State.setReg -/

@[simp] theorem State.setReg_pending (a : Nat) (v : Word) : (s.setReg a v).pending = s.pending := rfl
@[simp] theorem State.setReg_freeCtr (a : Nat) (v : Word) : (s.setReg a v).freeCtr = s.freeCtr := rfl
@[simp] theorem State.setReg_fuse (a : Nat) (v : Word) : (s.setReg a v).fuse = s.fuse := rfl
@[simp] theorem State.setReg_hb (a : Nat) (v : Word) : (s.setReg a v).hb = s.hb := rfl
@[simp] theorem State.setReg_ringMem (a : Nat) (v : Word) : (s.setReg a v).ringMem = s.ringMem := rfl
@[simp] theorem State.setReg_mem (a : Nat) (v : Word) : (s.setReg a v).mem = s.mem := rfl
@[simp] theorem State.setReg_sram (a : Nat) (v : Word) : (s.setReg a v).sram = s.sram := rfl
@[simp] theorem State.setReg_hostMem (a : Nat) (v : Word) : (s.setReg a v).hostMem = s.hostMem := rfl
@[simp] theorem State.setReg_bays (a : Nat) (v : Word) : (s.setReg a v).bays = s.bays := rfl
@[simp] theorem State.setReg_steps (a : Nat) (v : Word) : (s.setReg a v).steps = s.steps := rfl
@[simp] theorem State.setReg_publishes (a : Nat) (v : Word) : (s.setReg a v).publishes = s.publishes := rfl
@[simp] theorem State.setReg_fences (a : Nat) (v : Word) : (s.setReg a v).fences = s.fences := rfl
@[simp] theorem State.setReg_logOrder (a : Nat) (v : Word) : (s.setReg a v).logOrder = s.logOrder := rfl
@[simp] theorem State.setReg_logCleared (a : Nat) (v : Word) : (s.setReg a v).logCleared = s.logCleared := rfl
@[simp] theorem State.setReg_queues (a : Nat) (v : Word) : (s.setReg a v).queues = s.queues := rfl
@[simp] theorem State.setReg_changes (a : Nat) (v : Word) : (s.setReg a v).changes = s.changes := rfl
@[simp] theorem State.setReg_larders (a : Nat) (v : Word) : (s.setReg a v).larders = s.larders := rfl
@[simp] theorem State.setReg_pantry (a : Nat) (v : Word) : (s.setReg a v).pantry = s.pantry := rfl
@[simp] theorem State.setReg_leases (a : Nat) (v : Word) : (s.setReg a v).leases = s.leases := rfl
@[simp] theorem State.setReg_evicts (a : Nat) (v : Word) : (s.setReg a v).evicts = s.evicts := rfl
@[simp] theorem State.setReg_roles (a : Nat) (v : Word) : (s.setReg a v).roles = s.roles := rfl
@[simp] theorem State.setReg_annexReqs (a : Nat) (v : Word) : (s.setReg a v).annexReqs = s.annexReqs := rfl
@[simp] theorem State.setReg_restores (a : Nat) (v : Word) : (s.setReg a v).restores = s.restores := rfl
@[simp] theorem State.setReg_memOps (a : Nat) (v : Word) : (s.setReg a v).memOps = s.memOps := rfl
@[simp] theorem State.setReg_active (a : Nat) (v : Word) : (s.setReg a v).active = s.active := rfl
@[simp] theorem State.setReg_dups (a : Nat) (v : Word) : (s.setReg a v).dups = s.dups := rfl
@[simp] theorem State.setReg_peerEpochs (a : Nat) (v : Word) : (s.setReg a v).peerEpochs = s.peerEpochs := rfl
@[simp] theorem State.setReg_challenges (a : Nat) (v : Word) : (s.setReg a v).challenges = s.challenges := rfl
@[simp] theorem State.setReg_denials (a : Nat) (v : Word) : (s.setReg a v).denials = s.denials := rfl
@[simp] theorem State.setReg_lockout (a : Nat) (v : Word) : (s.setReg a v).lockout = s.lockout := rfl
@[simp] theorem State.setReg_i3cRole (a : Nat) (v : Word) : (s.setReg a v).i3cRole = s.i3cRole := rfl
@[simp] theorem State.setReg_i3cAddr (a : Nat) (v : Word) : (s.setReg a v).i3cAddr = s.i3cAddr := rfl
@[simp] theorem State.setReg_outbox (a : Nat) (v : Word) : (s.setReg a v).outbox = s.outbox := rfl
@[simp] theorem State.setReg_evqPass (a : Nat) (v : Word) : (s.setReg a v).evqPass = s.evqPass := rfl
@[simp] theorem State.setReg_msixPending (a : Nat) (v : Word) : (s.setReg a v).msixPending = s.msixPending := rfl
@[simp] theorem State.setReg_nv (a : Nat) (v : Word) : (s.setReg a v).nv = s.nv := rfl
@[simp] theorem State.setReg_mode (a : Nat) (v : Word) : (s.setReg a v).mode = s.mode := rfl
@[simp] theorem State.setReg_clamped (a : Nat) (v : Word) : (s.setReg a v).clamped = s.clamped := rfl
@[simp] theorem State.setReg_resetPend (a : Nat) (v : Word) : (s.setReg a v).resetPend = s.resetPend := rfl
@[simp] theorem State.setReg_blockResets (a : Nat) (v : Word) : (s.setReg a v).blockResets = s.blockResets := rfl
@[simp] theorem State.setReg_slotParts (a : Nat) (v : Word) : (s.setReg a v).slotParts = s.slotParts := rfl
@[simp] theorem State.setReg_reloads (a : Nat) (v : Word) : (s.setReg a v).reloads = s.reloads := rfl
@[simp] theorem State.setReg_unfences (a : Nat) (v : Word) : (s.setReg a v).unfences = s.unfences := rfl
@[simp] theorem State.setReg_seenRecords (a : Nat) (v : Word) : (s.setReg a v).seenRecords = s.seenRecords := rfl
@[simp] theorem State.setReg_locals (a : Nat) (v : Word) : (s.setReg a v).locals = s.locals := rfl
@[simp] theorem State.setReg_pci (a : Nat) (v : Word) : (s.setReg a v).pci = s.pci := rfl
@[simp] theorem State.setReg_links (a : Nat) (v : Word) : (s.setReg a v).links = s.links := rfl
@[simp] theorem State.setReg_csms (a : Nat) (v : Word) : (s.setReg a v).csms = s.csms := rfl
@[simp] theorem State.setReg_beat (a : Nat) (v : Word) : (s.setReg a v).beat = s.beat := rfl
@[simp] theorem State.setReg_plans (a : Nat) (v : Word) : (s.setReg a v).plans = s.plans := rfl
@[simp] theorem State.setReg_settles (a : Nat) (v : Word) : (s.setReg a v).settles = s.settles := rfl
@[simp] theorem State.setReg_power (a : Nat) (v : Word) : (s.setReg a v).power = s.power := rfl
@[simp] theorem State.setReg_nextTag (a : Nat) (v : Word) : (s.setReg a v).nextTag = s.nextTag := rfl
@[simp] theorem State.setReg_cfgNow (a : Nat) (v : Word) : (s.setReg a v).cfgNow = s.cfgNow := rfl
@[simp] theorem State.setReg_startEnv (a : Nat) (v : Word) : (s.setReg a v).startEnv = s.startEnv := rfl
@[simp] theorem State.setReg_bootFrame (a : Nat) (v : Word) : (s.setReg a v).bootFrame = s.bootFrame := rfl
@[simp] theorem State.setReg_lifePend (a : Nat) (v : Word) : (s.setReg a v).lifePend = s.lifePend := rfl
@[simp] theorem State.setReg_resetLow (a : Nat) (v : Word) : (s.setReg a v).resetLow = s.resetLow := rfl
@[simp] theorem State.setReg_jtag (a : Nat) (v : Word) : (s.setReg a v).jtag = s.jtag := rfl
@[simp] theorem State.setReg_straps (a : Nat) (v : Word) : (s.setReg a v).straps = s.straps := rfl
@[simp] theorem State.setReg_i3cDyn (a : Nat) (v : Word) : (s.setReg a v).i3cDyn = s.i3cDyn := rfl
@[simp] theorem State.setReg_i3cBlock (a : Nat) (v : Word) : (s.setReg a v).i3cBlock = s.i3cBlock := rfl
@[simp] theorem State.setReg_pair (a : Nat) (v : Word) : (s.setReg a v).pair = s.pair := rfl
@[simp] theorem State.setReg_drbgA (a : Nat) (v : Word) : (s.setReg a v).drbgA = s.drbgA := rfl
@[simp] theorem State.setReg_drbgB (a : Nat) (v : Word) : (s.setReg a v).drbgB = s.drbgB := rfl
@[simp] theorem State.setReg_drbgWait (a : Nat) (v : Word) : (s.setReg a v).drbgWait = s.drbgWait := rfl
@[simp] theorem State.setReg_entropyOther (a : Nat) (v : Word) : (s.setReg a v).entropyOther = s.entropyOther := rfl
@[simp] theorem State.setReg_attach (a : Nat) (v : Word) : (s.setReg a v).attach = s.attach := rfl
@[simp] theorem State.setReg_guestAnswer (a : Nat) (v : Word) : (s.setReg a v).guestAnswer = s.guestAnswer := rfl
@[simp] theorem State.setReg_sky (a : Nat) (v : Word) : (s.setReg a v).sky = s.sky := rfl
@[simp] theorem State.setReg_sliceAt (a : Nat) (v : Word) : (s.setReg a v).sliceAt = s.sliceAt := rfl
@[simp] theorem State.setReg_slicePos (a : Nat) (v : Word) : (s.setReg a v).slicePos = s.slicePos := rfl
@[simp] theorem State.setReg_baseBist (a : Nat) (v : Word) : (s.setReg a v).baseBist = s.baseBist := rfl
@[simp] theorem State.setReg_baseRemaps (a : Nat) (v : Word) : (s.setReg a v).baseRemaps = s.baseRemaps := rfl
@[simp] theorem State.setReg_baseOff (a : Nat) (v : Word) : (s.setReg a v).baseOff = s.baseOff := rfl
@[simp] theorem State.setReg_candidates (a : Nat) (v : Word) : (s.setReg a v).candidates = s.candidates := rfl
@[simp] theorem State.setReg_excluded (a : Nat) (v : Word) : (s.setReg a v).excluded = s.excluded := rfl
@[simp] theorem State.setReg_capHigh (a : Nat) (v : Word) : (s.setReg a v).capHigh = s.capHigh := rfl
@[simp] theorem State.setReg_points (a : Nat) (v : Word) : (s.setReg a v).points = s.points := rfl
@[simp] theorem State.setReg_enginesOff (a : Nat) (v : Word) : (s.setReg a v).enginesOff = s.enginesOff := rfl
@[simp] theorem State.setReg_injecting (a : Nat) (v : Word) : (s.setReg a v).injecting = s.injecting := rfl

/-! State.wf -/

@[simp] theorem State.wf_pending (a : Nat) (f : Field) (n : Nat) : (s.wf a f n).pending = s.pending := rfl
@[simp] theorem State.wf_freeCtr (a : Nat) (f : Field) (n : Nat) : (s.wf a f n).freeCtr = s.freeCtr := rfl
@[simp] theorem State.wf_fuse (a : Nat) (f : Field) (n : Nat) : (s.wf a f n).fuse = s.fuse := rfl
@[simp] theorem State.wf_hb (a : Nat) (f : Field) (n : Nat) : (s.wf a f n).hb = s.hb := rfl
@[simp] theorem State.wf_ringMem (a : Nat) (f : Field) (n : Nat) : (s.wf a f n).ringMem = s.ringMem := rfl
@[simp] theorem State.wf_mem (a : Nat) (f : Field) (n : Nat) : (s.wf a f n).mem = s.mem := rfl
@[simp] theorem State.wf_sram (a : Nat) (f : Field) (n : Nat) : (s.wf a f n).sram = s.sram := rfl
@[simp] theorem State.wf_hostMem (a : Nat) (f : Field) (n : Nat) : (s.wf a f n).hostMem = s.hostMem := rfl
@[simp] theorem State.wf_bays (a : Nat) (f : Field) (n : Nat) : (s.wf a f n).bays = s.bays := rfl
@[simp] theorem State.wf_steps (a : Nat) (f : Field) (n : Nat) : (s.wf a f n).steps = s.steps := rfl
@[simp] theorem State.wf_publishes (a : Nat) (f : Field) (n : Nat) : (s.wf a f n).publishes = s.publishes := rfl
@[simp] theorem State.wf_fences (a : Nat) (f : Field) (n : Nat) : (s.wf a f n).fences = s.fences := rfl
@[simp] theorem State.wf_logOrder (a : Nat) (f : Field) (n : Nat) : (s.wf a f n).logOrder = s.logOrder := rfl
@[simp] theorem State.wf_logCleared (a : Nat) (f : Field) (n : Nat) : (s.wf a f n).logCleared = s.logCleared := rfl
@[simp] theorem State.wf_queues (a : Nat) (f : Field) (n : Nat) : (s.wf a f n).queues = s.queues := rfl
@[simp] theorem State.wf_changes (a : Nat) (f : Field) (n : Nat) : (s.wf a f n).changes = s.changes := rfl
@[simp] theorem State.wf_larders (a : Nat) (f : Field) (n : Nat) : (s.wf a f n).larders = s.larders := rfl
@[simp] theorem State.wf_pantry (a : Nat) (f : Field) (n : Nat) : (s.wf a f n).pantry = s.pantry := rfl
@[simp] theorem State.wf_leases (a : Nat) (f : Field) (n : Nat) : (s.wf a f n).leases = s.leases := rfl
@[simp] theorem State.wf_evicts (a : Nat) (f : Field) (n : Nat) : (s.wf a f n).evicts = s.evicts := rfl
@[simp] theorem State.wf_roles (a : Nat) (f : Field) (n : Nat) : (s.wf a f n).roles = s.roles := rfl
@[simp] theorem State.wf_annexReqs (a : Nat) (f : Field) (n : Nat) : (s.wf a f n).annexReqs = s.annexReqs := rfl
@[simp] theorem State.wf_restores (a : Nat) (f : Field) (n : Nat) : (s.wf a f n).restores = s.restores := rfl
@[simp] theorem State.wf_memOps (a : Nat) (f : Field) (n : Nat) : (s.wf a f n).memOps = s.memOps := rfl
@[simp] theorem State.wf_active (a : Nat) (f : Field) (n : Nat) : (s.wf a f n).active = s.active := rfl
@[simp] theorem State.wf_dups (a : Nat) (f : Field) (n : Nat) : (s.wf a f n).dups = s.dups := rfl
@[simp] theorem State.wf_peerEpochs (a : Nat) (f : Field) (n : Nat) : (s.wf a f n).peerEpochs = s.peerEpochs := rfl
@[simp] theorem State.wf_challenges (a : Nat) (f : Field) (n : Nat) : (s.wf a f n).challenges = s.challenges := rfl
@[simp] theorem State.wf_denials (a : Nat) (f : Field) (n : Nat) : (s.wf a f n).denials = s.denials := rfl
@[simp] theorem State.wf_lockout (a : Nat) (f : Field) (n : Nat) : (s.wf a f n).lockout = s.lockout := rfl
@[simp] theorem State.wf_i3cRole (a : Nat) (f : Field) (n : Nat) : (s.wf a f n).i3cRole = s.i3cRole := rfl
@[simp] theorem State.wf_i3cAddr (a : Nat) (f : Field) (n : Nat) : (s.wf a f n).i3cAddr = s.i3cAddr := rfl
@[simp] theorem State.wf_outbox (a : Nat) (f : Field) (n : Nat) : (s.wf a f n).outbox = s.outbox := rfl
@[simp] theorem State.wf_evqPass (a : Nat) (f : Field) (n : Nat) : (s.wf a f n).evqPass = s.evqPass := rfl
@[simp] theorem State.wf_msixPending (a : Nat) (f : Field) (n : Nat) : (s.wf a f n).msixPending = s.msixPending := rfl
@[simp] theorem State.wf_nv (a : Nat) (f : Field) (n : Nat) : (s.wf a f n).nv = s.nv := rfl
@[simp] theorem State.wf_mode (a : Nat) (f : Field) (n : Nat) : (s.wf a f n).mode = s.mode := rfl
@[simp] theorem State.wf_clamped (a : Nat) (f : Field) (n : Nat) : (s.wf a f n).clamped = s.clamped := rfl
@[simp] theorem State.wf_resetPend (a : Nat) (f : Field) (n : Nat) : (s.wf a f n).resetPend = s.resetPend := rfl
@[simp] theorem State.wf_blockResets (a : Nat) (f : Field) (n : Nat) : (s.wf a f n).blockResets = s.blockResets := rfl
@[simp] theorem State.wf_slotParts (a : Nat) (f : Field) (n : Nat) : (s.wf a f n).slotParts = s.slotParts := rfl
@[simp] theorem State.wf_reloads (a : Nat) (f : Field) (n : Nat) : (s.wf a f n).reloads = s.reloads := rfl
@[simp] theorem State.wf_unfences (a : Nat) (f : Field) (n : Nat) : (s.wf a f n).unfences = s.unfences := rfl
@[simp] theorem State.wf_seenRecords (a : Nat) (f : Field) (n : Nat) : (s.wf a f n).seenRecords = s.seenRecords := rfl
@[simp] theorem State.wf_locals (a : Nat) (f : Field) (n : Nat) : (s.wf a f n).locals = s.locals := rfl
@[simp] theorem State.wf_pci (a : Nat) (f : Field) (n : Nat) : (s.wf a f n).pci = s.pci := rfl
@[simp] theorem State.wf_links (a : Nat) (f : Field) (n : Nat) : (s.wf a f n).links = s.links := rfl
@[simp] theorem State.wf_csms (a : Nat) (f : Field) (n : Nat) : (s.wf a f n).csms = s.csms := rfl
@[simp] theorem State.wf_beat (a : Nat) (f : Field) (n : Nat) : (s.wf a f n).beat = s.beat := rfl
@[simp] theorem State.wf_plans (a : Nat) (f : Field) (n : Nat) : (s.wf a f n).plans = s.plans := rfl
@[simp] theorem State.wf_settles (a : Nat) (f : Field) (n : Nat) : (s.wf a f n).settles = s.settles := rfl
@[simp] theorem State.wf_power (a : Nat) (f : Field) (n : Nat) : (s.wf a f n).power = s.power := rfl
@[simp] theorem State.wf_nextTag (a : Nat) (f : Field) (n : Nat) : (s.wf a f n).nextTag = s.nextTag := rfl
@[simp] theorem State.wf_cfgNow (a : Nat) (f : Field) (n : Nat) : (s.wf a f n).cfgNow = s.cfgNow := rfl
@[simp] theorem State.wf_startEnv (a : Nat) (f : Field) (n : Nat) : (s.wf a f n).startEnv = s.startEnv := rfl
@[simp] theorem State.wf_bootFrame (a : Nat) (f : Field) (n : Nat) : (s.wf a f n).bootFrame = s.bootFrame := rfl
@[simp] theorem State.wf_lifePend (a : Nat) (f : Field) (n : Nat) : (s.wf a f n).lifePend = s.lifePend := rfl
@[simp] theorem State.wf_resetLow (a : Nat) (f : Field) (n : Nat) : (s.wf a f n).resetLow = s.resetLow := rfl
@[simp] theorem State.wf_jtag (a : Nat) (f : Field) (n : Nat) : (s.wf a f n).jtag = s.jtag := rfl
@[simp] theorem State.wf_straps (a : Nat) (f : Field) (n : Nat) : (s.wf a f n).straps = s.straps := rfl
@[simp] theorem State.wf_i3cDyn (a : Nat) (f : Field) (n : Nat) : (s.wf a f n).i3cDyn = s.i3cDyn := rfl
@[simp] theorem State.wf_i3cBlock (a : Nat) (f : Field) (n : Nat) : (s.wf a f n).i3cBlock = s.i3cBlock := rfl
@[simp] theorem State.wf_pair (a : Nat) (f : Field) (n : Nat) : (s.wf a f n).pair = s.pair := rfl
@[simp] theorem State.wf_drbgA (a : Nat) (f : Field) (n : Nat) : (s.wf a f n).drbgA = s.drbgA := rfl
@[simp] theorem State.wf_drbgB (a : Nat) (f : Field) (n : Nat) : (s.wf a f n).drbgB = s.drbgB := rfl
@[simp] theorem State.wf_drbgWait (a : Nat) (f : Field) (n : Nat) : (s.wf a f n).drbgWait = s.drbgWait := rfl
@[simp] theorem State.wf_entropyOther (a : Nat) (f : Field) (n : Nat) : (s.wf a f n).entropyOther = s.entropyOther := rfl
@[simp] theorem State.wf_attach (a : Nat) (f : Field) (n : Nat) : (s.wf a f n).attach = s.attach := rfl
@[simp] theorem State.wf_guestAnswer (a : Nat) (f : Field) (n : Nat) : (s.wf a f n).guestAnswer = s.guestAnswer := rfl
@[simp] theorem State.wf_sky (a : Nat) (f : Field) (n : Nat) : (s.wf a f n).sky = s.sky := rfl
@[simp] theorem State.wf_sliceAt (a : Nat) (f : Field) (n : Nat) : (s.wf a f n).sliceAt = s.sliceAt := rfl
@[simp] theorem State.wf_slicePos (a : Nat) (f : Field) (n : Nat) : (s.wf a f n).slicePos = s.slicePos := rfl
@[simp] theorem State.wf_baseBist (a : Nat) (f : Field) (n : Nat) : (s.wf a f n).baseBist = s.baseBist := rfl
@[simp] theorem State.wf_baseRemaps (a : Nat) (f : Field) (n : Nat) : (s.wf a f n).baseRemaps = s.baseRemaps := rfl
@[simp] theorem State.wf_baseOff (a : Nat) (f : Field) (n : Nat) : (s.wf a f n).baseOff = s.baseOff := rfl
@[simp] theorem State.wf_candidates (a : Nat) (f : Field) (n : Nat) : (s.wf a f n).candidates = s.candidates := rfl
@[simp] theorem State.wf_excluded (a : Nat) (f : Field) (n : Nat) : (s.wf a f n).excluded = s.excluded := rfl
@[simp] theorem State.wf_capHigh (a : Nat) (f : Field) (n : Nat) : (s.wf a f n).capHigh = s.capHigh := rfl
@[simp] theorem State.wf_points (a : Nat) (f : Field) (n : Nat) : (s.wf a f n).points = s.points := rfl
@[simp] theorem State.wf_enginesOff (a : Nat) (f : Field) (n : Nat) : (s.wf a f n).enginesOff = s.enginesOff := rfl
@[simp] theorem State.wf_injecting (a : Nat) (f : Field) (n : Nat) : (s.wf a f n).injecting = s.injecting := rfl

/-! State.wfs -/

@[simp] theorem State.wfs_pending (a : Nat) (fs : List (Field × Nat)) : (s.wfs a fs).pending = s.pending := rfl
@[simp] theorem State.wfs_freeCtr (a : Nat) (fs : List (Field × Nat)) : (s.wfs a fs).freeCtr = s.freeCtr := rfl
@[simp] theorem State.wfs_fuse (a : Nat) (fs : List (Field × Nat)) : (s.wfs a fs).fuse = s.fuse := rfl
@[simp] theorem State.wfs_hb (a : Nat) (fs : List (Field × Nat)) : (s.wfs a fs).hb = s.hb := rfl
@[simp] theorem State.wfs_ringMem (a : Nat) (fs : List (Field × Nat)) : (s.wfs a fs).ringMem = s.ringMem := rfl
@[simp] theorem State.wfs_mem (a : Nat) (fs : List (Field × Nat)) : (s.wfs a fs).mem = s.mem := rfl
@[simp] theorem State.wfs_sram (a : Nat) (fs : List (Field × Nat)) : (s.wfs a fs).sram = s.sram := rfl
@[simp] theorem State.wfs_hostMem (a : Nat) (fs : List (Field × Nat)) : (s.wfs a fs).hostMem = s.hostMem := rfl
@[simp] theorem State.wfs_bays (a : Nat) (fs : List (Field × Nat)) : (s.wfs a fs).bays = s.bays := rfl
@[simp] theorem State.wfs_steps (a : Nat) (fs : List (Field × Nat)) : (s.wfs a fs).steps = s.steps := rfl
@[simp] theorem State.wfs_publishes (a : Nat) (fs : List (Field × Nat)) : (s.wfs a fs).publishes = s.publishes := rfl
@[simp] theorem State.wfs_fences (a : Nat) (fs : List (Field × Nat)) : (s.wfs a fs).fences = s.fences := rfl
@[simp] theorem State.wfs_logOrder (a : Nat) (fs : List (Field × Nat)) : (s.wfs a fs).logOrder = s.logOrder := rfl
@[simp] theorem State.wfs_logCleared (a : Nat) (fs : List (Field × Nat)) : (s.wfs a fs).logCleared = s.logCleared := rfl
@[simp] theorem State.wfs_queues (a : Nat) (fs : List (Field × Nat)) : (s.wfs a fs).queues = s.queues := rfl
@[simp] theorem State.wfs_changes (a : Nat) (fs : List (Field × Nat)) : (s.wfs a fs).changes = s.changes := rfl
@[simp] theorem State.wfs_larders (a : Nat) (fs : List (Field × Nat)) : (s.wfs a fs).larders = s.larders := rfl
@[simp] theorem State.wfs_pantry (a : Nat) (fs : List (Field × Nat)) : (s.wfs a fs).pantry = s.pantry := rfl
@[simp] theorem State.wfs_leases (a : Nat) (fs : List (Field × Nat)) : (s.wfs a fs).leases = s.leases := rfl
@[simp] theorem State.wfs_evicts (a : Nat) (fs : List (Field × Nat)) : (s.wfs a fs).evicts = s.evicts := rfl
@[simp] theorem State.wfs_roles (a : Nat) (fs : List (Field × Nat)) : (s.wfs a fs).roles = s.roles := rfl
@[simp] theorem State.wfs_annexReqs (a : Nat) (fs : List (Field × Nat)) : (s.wfs a fs).annexReqs = s.annexReqs := rfl
@[simp] theorem State.wfs_restores (a : Nat) (fs : List (Field × Nat)) : (s.wfs a fs).restores = s.restores := rfl
@[simp] theorem State.wfs_memOps (a : Nat) (fs : List (Field × Nat)) : (s.wfs a fs).memOps = s.memOps := rfl
@[simp] theorem State.wfs_active (a : Nat) (fs : List (Field × Nat)) : (s.wfs a fs).active = s.active := rfl
@[simp] theorem State.wfs_dups (a : Nat) (fs : List (Field × Nat)) : (s.wfs a fs).dups = s.dups := rfl
@[simp] theorem State.wfs_peerEpochs (a : Nat) (fs : List (Field × Nat)) : (s.wfs a fs).peerEpochs = s.peerEpochs := rfl
@[simp] theorem State.wfs_challenges (a : Nat) (fs : List (Field × Nat)) : (s.wfs a fs).challenges = s.challenges := rfl
@[simp] theorem State.wfs_denials (a : Nat) (fs : List (Field × Nat)) : (s.wfs a fs).denials = s.denials := rfl
@[simp] theorem State.wfs_lockout (a : Nat) (fs : List (Field × Nat)) : (s.wfs a fs).lockout = s.lockout := rfl
@[simp] theorem State.wfs_i3cRole (a : Nat) (fs : List (Field × Nat)) : (s.wfs a fs).i3cRole = s.i3cRole := rfl
@[simp] theorem State.wfs_i3cAddr (a : Nat) (fs : List (Field × Nat)) : (s.wfs a fs).i3cAddr = s.i3cAddr := rfl
@[simp] theorem State.wfs_outbox (a : Nat) (fs : List (Field × Nat)) : (s.wfs a fs).outbox = s.outbox := rfl
@[simp] theorem State.wfs_evqPass (a : Nat) (fs : List (Field × Nat)) : (s.wfs a fs).evqPass = s.evqPass := rfl
@[simp] theorem State.wfs_msixPending (a : Nat) (fs : List (Field × Nat)) : (s.wfs a fs).msixPending = s.msixPending := rfl
@[simp] theorem State.wfs_nv (a : Nat) (fs : List (Field × Nat)) : (s.wfs a fs).nv = s.nv := rfl
@[simp] theorem State.wfs_mode (a : Nat) (fs : List (Field × Nat)) : (s.wfs a fs).mode = s.mode := rfl
@[simp] theorem State.wfs_clamped (a : Nat) (fs : List (Field × Nat)) : (s.wfs a fs).clamped = s.clamped := rfl
@[simp] theorem State.wfs_resetPend (a : Nat) (fs : List (Field × Nat)) : (s.wfs a fs).resetPend = s.resetPend := rfl
@[simp] theorem State.wfs_blockResets (a : Nat) (fs : List (Field × Nat)) : (s.wfs a fs).blockResets = s.blockResets := rfl
@[simp] theorem State.wfs_slotParts (a : Nat) (fs : List (Field × Nat)) : (s.wfs a fs).slotParts = s.slotParts := rfl
@[simp] theorem State.wfs_reloads (a : Nat) (fs : List (Field × Nat)) : (s.wfs a fs).reloads = s.reloads := rfl
@[simp] theorem State.wfs_unfences (a : Nat) (fs : List (Field × Nat)) : (s.wfs a fs).unfences = s.unfences := rfl
@[simp] theorem State.wfs_seenRecords (a : Nat) (fs : List (Field × Nat)) : (s.wfs a fs).seenRecords = s.seenRecords := rfl
@[simp] theorem State.wfs_locals (a : Nat) (fs : List (Field × Nat)) : (s.wfs a fs).locals = s.locals := rfl
@[simp] theorem State.wfs_pci (a : Nat) (fs : List (Field × Nat)) : (s.wfs a fs).pci = s.pci := rfl
@[simp] theorem State.wfs_links (a : Nat) (fs : List (Field × Nat)) : (s.wfs a fs).links = s.links := rfl
@[simp] theorem State.wfs_csms (a : Nat) (fs : List (Field × Nat)) : (s.wfs a fs).csms = s.csms := rfl
@[simp] theorem State.wfs_beat (a : Nat) (fs : List (Field × Nat)) : (s.wfs a fs).beat = s.beat := rfl
@[simp] theorem State.wfs_plans (a : Nat) (fs : List (Field × Nat)) : (s.wfs a fs).plans = s.plans := rfl
@[simp] theorem State.wfs_settles (a : Nat) (fs : List (Field × Nat)) : (s.wfs a fs).settles = s.settles := rfl
@[simp] theorem State.wfs_power (a : Nat) (fs : List (Field × Nat)) : (s.wfs a fs).power = s.power := rfl
@[simp] theorem State.wfs_nextTag (a : Nat) (fs : List (Field × Nat)) : (s.wfs a fs).nextTag = s.nextTag := rfl
@[simp] theorem State.wfs_cfgNow (a : Nat) (fs : List (Field × Nat)) : (s.wfs a fs).cfgNow = s.cfgNow := rfl
@[simp] theorem State.wfs_startEnv (a : Nat) (fs : List (Field × Nat)) : (s.wfs a fs).startEnv = s.startEnv := rfl
@[simp] theorem State.wfs_bootFrame (a : Nat) (fs : List (Field × Nat)) : (s.wfs a fs).bootFrame = s.bootFrame := rfl
@[simp] theorem State.wfs_lifePend (a : Nat) (fs : List (Field × Nat)) : (s.wfs a fs).lifePend = s.lifePend := rfl
@[simp] theorem State.wfs_resetLow (a : Nat) (fs : List (Field × Nat)) : (s.wfs a fs).resetLow = s.resetLow := rfl
@[simp] theorem State.wfs_jtag (a : Nat) (fs : List (Field × Nat)) : (s.wfs a fs).jtag = s.jtag := rfl
@[simp] theorem State.wfs_straps (a : Nat) (fs : List (Field × Nat)) : (s.wfs a fs).straps = s.straps := rfl
@[simp] theorem State.wfs_i3cDyn (a : Nat) (fs : List (Field × Nat)) : (s.wfs a fs).i3cDyn = s.i3cDyn := rfl
@[simp] theorem State.wfs_i3cBlock (a : Nat) (fs : List (Field × Nat)) : (s.wfs a fs).i3cBlock = s.i3cBlock := rfl
@[simp] theorem State.wfs_pair (a : Nat) (fs : List (Field × Nat)) : (s.wfs a fs).pair = s.pair := rfl
@[simp] theorem State.wfs_drbgA (a : Nat) (fs : List (Field × Nat)) : (s.wfs a fs).drbgA = s.drbgA := rfl
@[simp] theorem State.wfs_drbgB (a : Nat) (fs : List (Field × Nat)) : (s.wfs a fs).drbgB = s.drbgB := rfl
@[simp] theorem State.wfs_drbgWait (a : Nat) (fs : List (Field × Nat)) : (s.wfs a fs).drbgWait = s.drbgWait := rfl
@[simp] theorem State.wfs_entropyOther (a : Nat) (fs : List (Field × Nat)) : (s.wfs a fs).entropyOther = s.entropyOther := rfl
@[simp] theorem State.wfs_attach (a : Nat) (fs : List (Field × Nat)) : (s.wfs a fs).attach = s.attach := rfl
@[simp] theorem State.wfs_guestAnswer (a : Nat) (fs : List (Field × Nat)) : (s.wfs a fs).guestAnswer = s.guestAnswer := rfl
@[simp] theorem State.wfs_sky (a : Nat) (fs : List (Field × Nat)) : (s.wfs a fs).sky = s.sky := rfl
@[simp] theorem State.wfs_sliceAt (a : Nat) (fs : List (Field × Nat)) : (s.wfs a fs).sliceAt = s.sliceAt := rfl
@[simp] theorem State.wfs_slicePos (a : Nat) (fs : List (Field × Nat)) : (s.wfs a fs).slicePos = s.slicePos := rfl
@[simp] theorem State.wfs_baseBist (a : Nat) (fs : List (Field × Nat)) : (s.wfs a fs).baseBist = s.baseBist := rfl
@[simp] theorem State.wfs_baseRemaps (a : Nat) (fs : List (Field × Nat)) : (s.wfs a fs).baseRemaps = s.baseRemaps := rfl
@[simp] theorem State.wfs_baseOff (a : Nat) (fs : List (Field × Nat)) : (s.wfs a fs).baseOff = s.baseOff := rfl
@[simp] theorem State.wfs_candidates (a : Nat) (fs : List (Field × Nat)) : (s.wfs a fs).candidates = s.candidates := rfl
@[simp] theorem State.wfs_excluded (a : Nat) (fs : List (Field × Nat)) : (s.wfs a fs).excluded = s.excluded := rfl
@[simp] theorem State.wfs_capHigh (a : Nat) (fs : List (Field × Nat)) : (s.wfs a fs).capHigh = s.capHigh := rfl
@[simp] theorem State.wfs_points (a : Nat) (fs : List (Field × Nat)) : (s.wfs a fs).points = s.points := rfl
@[simp] theorem State.wfs_enginesOff (a : Nat) (fs : List (Field × Nat)) : (s.wfs a fs).enginesOff = s.enginesOff := rfl
@[simp] theorem State.wfs_injecting (a : Nat) (fs : List (Field × Nat)) : (s.wfs a fs).injecting = s.injecting := rfl

/-! State.satf -/

@[simp] theorem State.satf_pending (a : Nat) (f : Field) (k : Nat) : (s.satf a f k).pending = s.pending := rfl
@[simp] theorem State.satf_freeCtr (a : Nat) (f : Field) (k : Nat) : (s.satf a f k).freeCtr = s.freeCtr := rfl
@[simp] theorem State.satf_fuse (a : Nat) (f : Field) (k : Nat) : (s.satf a f k).fuse = s.fuse := rfl
@[simp] theorem State.satf_hb (a : Nat) (f : Field) (k : Nat) : (s.satf a f k).hb = s.hb := rfl
@[simp] theorem State.satf_ringMem (a : Nat) (f : Field) (k : Nat) : (s.satf a f k).ringMem = s.ringMem := rfl
@[simp] theorem State.satf_mem (a : Nat) (f : Field) (k : Nat) : (s.satf a f k).mem = s.mem := rfl
@[simp] theorem State.satf_sram (a : Nat) (f : Field) (k : Nat) : (s.satf a f k).sram = s.sram := rfl
@[simp] theorem State.satf_hostMem (a : Nat) (f : Field) (k : Nat) : (s.satf a f k).hostMem = s.hostMem := rfl
@[simp] theorem State.satf_bays (a : Nat) (f : Field) (k : Nat) : (s.satf a f k).bays = s.bays := rfl
@[simp] theorem State.satf_steps (a : Nat) (f : Field) (k : Nat) : (s.satf a f k).steps = s.steps := rfl
@[simp] theorem State.satf_publishes (a : Nat) (f : Field) (k : Nat) : (s.satf a f k).publishes = s.publishes := rfl
@[simp] theorem State.satf_fences (a : Nat) (f : Field) (k : Nat) : (s.satf a f k).fences = s.fences := rfl
@[simp] theorem State.satf_logOrder (a : Nat) (f : Field) (k : Nat) : (s.satf a f k).logOrder = s.logOrder := rfl
@[simp] theorem State.satf_logCleared (a : Nat) (f : Field) (k : Nat) : (s.satf a f k).logCleared = s.logCleared := rfl
@[simp] theorem State.satf_queues (a : Nat) (f : Field) (k : Nat) : (s.satf a f k).queues = s.queues := rfl
@[simp] theorem State.satf_changes (a : Nat) (f : Field) (k : Nat) : (s.satf a f k).changes = s.changes := rfl
@[simp] theorem State.satf_larders (a : Nat) (f : Field) (k : Nat) : (s.satf a f k).larders = s.larders := rfl
@[simp] theorem State.satf_pantry (a : Nat) (f : Field) (k : Nat) : (s.satf a f k).pantry = s.pantry := rfl
@[simp] theorem State.satf_leases (a : Nat) (f : Field) (k : Nat) : (s.satf a f k).leases = s.leases := rfl
@[simp] theorem State.satf_evicts (a : Nat) (f : Field) (k : Nat) : (s.satf a f k).evicts = s.evicts := rfl
@[simp] theorem State.satf_roles (a : Nat) (f : Field) (k : Nat) : (s.satf a f k).roles = s.roles := rfl
@[simp] theorem State.satf_annexReqs (a : Nat) (f : Field) (k : Nat) : (s.satf a f k).annexReqs = s.annexReqs := rfl
@[simp] theorem State.satf_restores (a : Nat) (f : Field) (k : Nat) : (s.satf a f k).restores = s.restores := rfl
@[simp] theorem State.satf_memOps (a : Nat) (f : Field) (k : Nat) : (s.satf a f k).memOps = s.memOps := rfl
@[simp] theorem State.satf_active (a : Nat) (f : Field) (k : Nat) : (s.satf a f k).active = s.active := rfl
@[simp] theorem State.satf_dups (a : Nat) (f : Field) (k : Nat) : (s.satf a f k).dups = s.dups := rfl
@[simp] theorem State.satf_peerEpochs (a : Nat) (f : Field) (k : Nat) : (s.satf a f k).peerEpochs = s.peerEpochs := rfl
@[simp] theorem State.satf_challenges (a : Nat) (f : Field) (k : Nat) : (s.satf a f k).challenges = s.challenges := rfl
@[simp] theorem State.satf_denials (a : Nat) (f : Field) (k : Nat) : (s.satf a f k).denials = s.denials := rfl
@[simp] theorem State.satf_lockout (a : Nat) (f : Field) (k : Nat) : (s.satf a f k).lockout = s.lockout := rfl
@[simp] theorem State.satf_i3cRole (a : Nat) (f : Field) (k : Nat) : (s.satf a f k).i3cRole = s.i3cRole := rfl
@[simp] theorem State.satf_i3cAddr (a : Nat) (f : Field) (k : Nat) : (s.satf a f k).i3cAddr = s.i3cAddr := rfl
@[simp] theorem State.satf_outbox (a : Nat) (f : Field) (k : Nat) : (s.satf a f k).outbox = s.outbox := rfl
@[simp] theorem State.satf_evqPass (a : Nat) (f : Field) (k : Nat) : (s.satf a f k).evqPass = s.evqPass := rfl
@[simp] theorem State.satf_msixPending (a : Nat) (f : Field) (k : Nat) : (s.satf a f k).msixPending = s.msixPending := rfl
@[simp] theorem State.satf_nv (a : Nat) (f : Field) (k : Nat) : (s.satf a f k).nv = s.nv := rfl
@[simp] theorem State.satf_mode (a : Nat) (f : Field) (k : Nat) : (s.satf a f k).mode = s.mode := rfl
@[simp] theorem State.satf_clamped (a : Nat) (f : Field) (k : Nat) : (s.satf a f k).clamped = s.clamped := rfl
@[simp] theorem State.satf_resetPend (a : Nat) (f : Field) (k : Nat) : (s.satf a f k).resetPend = s.resetPend := rfl
@[simp] theorem State.satf_blockResets (a : Nat) (f : Field) (k : Nat) : (s.satf a f k).blockResets = s.blockResets := rfl
@[simp] theorem State.satf_slotParts (a : Nat) (f : Field) (k : Nat) : (s.satf a f k).slotParts = s.slotParts := rfl
@[simp] theorem State.satf_reloads (a : Nat) (f : Field) (k : Nat) : (s.satf a f k).reloads = s.reloads := rfl
@[simp] theorem State.satf_unfences (a : Nat) (f : Field) (k : Nat) : (s.satf a f k).unfences = s.unfences := rfl
@[simp] theorem State.satf_seenRecords (a : Nat) (f : Field) (k : Nat) : (s.satf a f k).seenRecords = s.seenRecords := rfl
@[simp] theorem State.satf_locals (a : Nat) (f : Field) (k : Nat) : (s.satf a f k).locals = s.locals := rfl
@[simp] theorem State.satf_pci (a : Nat) (f : Field) (k : Nat) : (s.satf a f k).pci = s.pci := rfl
@[simp] theorem State.satf_links (a : Nat) (f : Field) (k : Nat) : (s.satf a f k).links = s.links := rfl
@[simp] theorem State.satf_csms (a : Nat) (f : Field) (k : Nat) : (s.satf a f k).csms = s.csms := rfl
@[simp] theorem State.satf_beat (a : Nat) (f : Field) (k : Nat) : (s.satf a f k).beat = s.beat := rfl
@[simp] theorem State.satf_plans (a : Nat) (f : Field) (k : Nat) : (s.satf a f k).plans = s.plans := rfl
@[simp] theorem State.satf_settles (a : Nat) (f : Field) (k : Nat) : (s.satf a f k).settles = s.settles := rfl
@[simp] theorem State.satf_power (a : Nat) (f : Field) (k : Nat) : (s.satf a f k).power = s.power := rfl
@[simp] theorem State.satf_nextTag (a : Nat) (f : Field) (k : Nat) : (s.satf a f k).nextTag = s.nextTag := rfl
@[simp] theorem State.satf_cfgNow (a : Nat) (f : Field) (k : Nat) : (s.satf a f k).cfgNow = s.cfgNow := rfl
@[simp] theorem State.satf_startEnv (a : Nat) (f : Field) (k : Nat) : (s.satf a f k).startEnv = s.startEnv := rfl
@[simp] theorem State.satf_bootFrame (a : Nat) (f : Field) (k : Nat) : (s.satf a f k).bootFrame = s.bootFrame := rfl
@[simp] theorem State.satf_lifePend (a : Nat) (f : Field) (k : Nat) : (s.satf a f k).lifePend = s.lifePend := rfl
@[simp] theorem State.satf_resetLow (a : Nat) (f : Field) (k : Nat) : (s.satf a f k).resetLow = s.resetLow := rfl
@[simp] theorem State.satf_jtag (a : Nat) (f : Field) (k : Nat) : (s.satf a f k).jtag = s.jtag := rfl
@[simp] theorem State.satf_straps (a : Nat) (f : Field) (k : Nat) : (s.satf a f k).straps = s.straps := rfl
@[simp] theorem State.satf_i3cDyn (a : Nat) (f : Field) (k : Nat) : (s.satf a f k).i3cDyn = s.i3cDyn := rfl
@[simp] theorem State.satf_i3cBlock (a : Nat) (f : Field) (k : Nat) : (s.satf a f k).i3cBlock = s.i3cBlock := rfl
@[simp] theorem State.satf_pair (a : Nat) (f : Field) (k : Nat) : (s.satf a f k).pair = s.pair := rfl
@[simp] theorem State.satf_drbgA (a : Nat) (f : Field) (k : Nat) : (s.satf a f k).drbgA = s.drbgA := rfl
@[simp] theorem State.satf_drbgB (a : Nat) (f : Field) (k : Nat) : (s.satf a f k).drbgB = s.drbgB := rfl
@[simp] theorem State.satf_drbgWait (a : Nat) (f : Field) (k : Nat) : (s.satf a f k).drbgWait = s.drbgWait := rfl
@[simp] theorem State.satf_entropyOther (a : Nat) (f : Field) (k : Nat) : (s.satf a f k).entropyOther = s.entropyOther := rfl
@[simp] theorem State.satf_attach (a : Nat) (f : Field) (k : Nat) : (s.satf a f k).attach = s.attach := rfl
@[simp] theorem State.satf_guestAnswer (a : Nat) (f : Field) (k : Nat) : (s.satf a f k).guestAnswer = s.guestAnswer := rfl
@[simp] theorem State.satf_sky (a : Nat) (f : Field) (k : Nat) : (s.satf a f k).sky = s.sky := rfl
@[simp] theorem State.satf_sliceAt (a : Nat) (f : Field) (k : Nat) : (s.satf a f k).sliceAt = s.sliceAt := rfl
@[simp] theorem State.satf_slicePos (a : Nat) (f : Field) (k : Nat) : (s.satf a f k).slicePos = s.slicePos := rfl
@[simp] theorem State.satf_baseBist (a : Nat) (f : Field) (k : Nat) : (s.satf a f k).baseBist = s.baseBist := rfl
@[simp] theorem State.satf_baseRemaps (a : Nat) (f : Field) (k : Nat) : (s.satf a f k).baseRemaps = s.baseRemaps := rfl
@[simp] theorem State.satf_baseOff (a : Nat) (f : Field) (k : Nat) : (s.satf a f k).baseOff = s.baseOff := rfl
@[simp] theorem State.satf_candidates (a : Nat) (f : Field) (k : Nat) : (s.satf a f k).candidates = s.candidates := rfl
@[simp] theorem State.satf_excluded (a : Nat) (f : Field) (k : Nat) : (s.satf a f k).excluded = s.excluded := rfl
@[simp] theorem State.satf_capHigh (a : Nat) (f : Field) (k : Nat) : (s.satf a f k).capHigh = s.capHigh := rfl
@[simp] theorem State.satf_points (a : Nat) (f : Field) (k : Nat) : (s.satf a f k).points = s.points := rfl
@[simp] theorem State.satf_enginesOff (a : Nat) (f : Field) (k : Nat) : (s.satf a f k).enginesOff = s.enginesOff := rfl
@[simp] theorem State.satf_injecting (a : Nat) (f : Field) (k : Nat) : (s.satf a f k).injecting = s.injecting := rfl

/-! State.addf -/

@[simp] theorem State.addf_pending (a : Nat) (f : Field) (k : Nat) : (s.addf a f k).pending = s.pending := rfl
@[simp] theorem State.addf_freeCtr (a : Nat) (f : Field) (k : Nat) : (s.addf a f k).freeCtr = s.freeCtr := rfl
@[simp] theorem State.addf_fuse (a : Nat) (f : Field) (k : Nat) : (s.addf a f k).fuse = s.fuse := rfl
@[simp] theorem State.addf_hb (a : Nat) (f : Field) (k : Nat) : (s.addf a f k).hb = s.hb := rfl
@[simp] theorem State.addf_ringMem (a : Nat) (f : Field) (k : Nat) : (s.addf a f k).ringMem = s.ringMem := rfl
@[simp] theorem State.addf_mem (a : Nat) (f : Field) (k : Nat) : (s.addf a f k).mem = s.mem := rfl
@[simp] theorem State.addf_sram (a : Nat) (f : Field) (k : Nat) : (s.addf a f k).sram = s.sram := rfl
@[simp] theorem State.addf_hostMem (a : Nat) (f : Field) (k : Nat) : (s.addf a f k).hostMem = s.hostMem := rfl
@[simp] theorem State.addf_bays (a : Nat) (f : Field) (k : Nat) : (s.addf a f k).bays = s.bays := rfl
@[simp] theorem State.addf_steps (a : Nat) (f : Field) (k : Nat) : (s.addf a f k).steps = s.steps := rfl
@[simp] theorem State.addf_publishes (a : Nat) (f : Field) (k : Nat) : (s.addf a f k).publishes = s.publishes := rfl
@[simp] theorem State.addf_fences (a : Nat) (f : Field) (k : Nat) : (s.addf a f k).fences = s.fences := rfl
@[simp] theorem State.addf_logOrder (a : Nat) (f : Field) (k : Nat) : (s.addf a f k).logOrder = s.logOrder := rfl
@[simp] theorem State.addf_logCleared (a : Nat) (f : Field) (k : Nat) : (s.addf a f k).logCleared = s.logCleared := rfl
@[simp] theorem State.addf_queues (a : Nat) (f : Field) (k : Nat) : (s.addf a f k).queues = s.queues := rfl
@[simp] theorem State.addf_changes (a : Nat) (f : Field) (k : Nat) : (s.addf a f k).changes = s.changes := rfl
@[simp] theorem State.addf_larders (a : Nat) (f : Field) (k : Nat) : (s.addf a f k).larders = s.larders := rfl
@[simp] theorem State.addf_pantry (a : Nat) (f : Field) (k : Nat) : (s.addf a f k).pantry = s.pantry := rfl
@[simp] theorem State.addf_leases (a : Nat) (f : Field) (k : Nat) : (s.addf a f k).leases = s.leases := rfl
@[simp] theorem State.addf_evicts (a : Nat) (f : Field) (k : Nat) : (s.addf a f k).evicts = s.evicts := rfl
@[simp] theorem State.addf_roles (a : Nat) (f : Field) (k : Nat) : (s.addf a f k).roles = s.roles := rfl
@[simp] theorem State.addf_annexReqs (a : Nat) (f : Field) (k : Nat) : (s.addf a f k).annexReqs = s.annexReqs := rfl
@[simp] theorem State.addf_restores (a : Nat) (f : Field) (k : Nat) : (s.addf a f k).restores = s.restores := rfl
@[simp] theorem State.addf_memOps (a : Nat) (f : Field) (k : Nat) : (s.addf a f k).memOps = s.memOps := rfl
@[simp] theorem State.addf_active (a : Nat) (f : Field) (k : Nat) : (s.addf a f k).active = s.active := rfl
@[simp] theorem State.addf_dups (a : Nat) (f : Field) (k : Nat) : (s.addf a f k).dups = s.dups := rfl
@[simp] theorem State.addf_peerEpochs (a : Nat) (f : Field) (k : Nat) : (s.addf a f k).peerEpochs = s.peerEpochs := rfl
@[simp] theorem State.addf_challenges (a : Nat) (f : Field) (k : Nat) : (s.addf a f k).challenges = s.challenges := rfl
@[simp] theorem State.addf_denials (a : Nat) (f : Field) (k : Nat) : (s.addf a f k).denials = s.denials := rfl
@[simp] theorem State.addf_lockout (a : Nat) (f : Field) (k : Nat) : (s.addf a f k).lockout = s.lockout := rfl
@[simp] theorem State.addf_i3cRole (a : Nat) (f : Field) (k : Nat) : (s.addf a f k).i3cRole = s.i3cRole := rfl
@[simp] theorem State.addf_i3cAddr (a : Nat) (f : Field) (k : Nat) : (s.addf a f k).i3cAddr = s.i3cAddr := rfl
@[simp] theorem State.addf_outbox (a : Nat) (f : Field) (k : Nat) : (s.addf a f k).outbox = s.outbox := rfl
@[simp] theorem State.addf_evqPass (a : Nat) (f : Field) (k : Nat) : (s.addf a f k).evqPass = s.evqPass := rfl
@[simp] theorem State.addf_msixPending (a : Nat) (f : Field) (k : Nat) : (s.addf a f k).msixPending = s.msixPending := rfl
@[simp] theorem State.addf_nv (a : Nat) (f : Field) (k : Nat) : (s.addf a f k).nv = s.nv := rfl
@[simp] theorem State.addf_mode (a : Nat) (f : Field) (k : Nat) : (s.addf a f k).mode = s.mode := rfl
@[simp] theorem State.addf_clamped (a : Nat) (f : Field) (k : Nat) : (s.addf a f k).clamped = s.clamped := rfl
@[simp] theorem State.addf_resetPend (a : Nat) (f : Field) (k : Nat) : (s.addf a f k).resetPend = s.resetPend := rfl
@[simp] theorem State.addf_blockResets (a : Nat) (f : Field) (k : Nat) : (s.addf a f k).blockResets = s.blockResets := rfl
@[simp] theorem State.addf_slotParts (a : Nat) (f : Field) (k : Nat) : (s.addf a f k).slotParts = s.slotParts := rfl
@[simp] theorem State.addf_reloads (a : Nat) (f : Field) (k : Nat) : (s.addf a f k).reloads = s.reloads := rfl
@[simp] theorem State.addf_unfences (a : Nat) (f : Field) (k : Nat) : (s.addf a f k).unfences = s.unfences := rfl
@[simp] theorem State.addf_seenRecords (a : Nat) (f : Field) (k : Nat) : (s.addf a f k).seenRecords = s.seenRecords := rfl
@[simp] theorem State.addf_locals (a : Nat) (f : Field) (k : Nat) : (s.addf a f k).locals = s.locals := rfl
@[simp] theorem State.addf_pci (a : Nat) (f : Field) (k : Nat) : (s.addf a f k).pci = s.pci := rfl
@[simp] theorem State.addf_links (a : Nat) (f : Field) (k : Nat) : (s.addf a f k).links = s.links := rfl
@[simp] theorem State.addf_csms (a : Nat) (f : Field) (k : Nat) : (s.addf a f k).csms = s.csms := rfl
@[simp] theorem State.addf_beat (a : Nat) (f : Field) (k : Nat) : (s.addf a f k).beat = s.beat := rfl
@[simp] theorem State.addf_plans (a : Nat) (f : Field) (k : Nat) : (s.addf a f k).plans = s.plans := rfl
@[simp] theorem State.addf_settles (a : Nat) (f : Field) (k : Nat) : (s.addf a f k).settles = s.settles := rfl
@[simp] theorem State.addf_power (a : Nat) (f : Field) (k : Nat) : (s.addf a f k).power = s.power := rfl
@[simp] theorem State.addf_nextTag (a : Nat) (f : Field) (k : Nat) : (s.addf a f k).nextTag = s.nextTag := rfl
@[simp] theorem State.addf_cfgNow (a : Nat) (f : Field) (k : Nat) : (s.addf a f k).cfgNow = s.cfgNow := rfl
@[simp] theorem State.addf_startEnv (a : Nat) (f : Field) (k : Nat) : (s.addf a f k).startEnv = s.startEnv := rfl
@[simp] theorem State.addf_bootFrame (a : Nat) (f : Field) (k : Nat) : (s.addf a f k).bootFrame = s.bootFrame := rfl
@[simp] theorem State.addf_lifePend (a : Nat) (f : Field) (k : Nat) : (s.addf a f k).lifePend = s.lifePend := rfl
@[simp] theorem State.addf_resetLow (a : Nat) (f : Field) (k : Nat) : (s.addf a f k).resetLow = s.resetLow := rfl
@[simp] theorem State.addf_jtag (a : Nat) (f : Field) (k : Nat) : (s.addf a f k).jtag = s.jtag := rfl
@[simp] theorem State.addf_straps (a : Nat) (f : Field) (k : Nat) : (s.addf a f k).straps = s.straps := rfl
@[simp] theorem State.addf_i3cDyn (a : Nat) (f : Field) (k : Nat) : (s.addf a f k).i3cDyn = s.i3cDyn := rfl
@[simp] theorem State.addf_i3cBlock (a : Nat) (f : Field) (k : Nat) : (s.addf a f k).i3cBlock = s.i3cBlock := rfl
@[simp] theorem State.addf_pair (a : Nat) (f : Field) (k : Nat) : (s.addf a f k).pair = s.pair := rfl
@[simp] theorem State.addf_drbgA (a : Nat) (f : Field) (k : Nat) : (s.addf a f k).drbgA = s.drbgA := rfl
@[simp] theorem State.addf_drbgB (a : Nat) (f : Field) (k : Nat) : (s.addf a f k).drbgB = s.drbgB := rfl
@[simp] theorem State.addf_drbgWait (a : Nat) (f : Field) (k : Nat) : (s.addf a f k).drbgWait = s.drbgWait := rfl
@[simp] theorem State.addf_entropyOther (a : Nat) (f : Field) (k : Nat) : (s.addf a f k).entropyOther = s.entropyOther := rfl
@[simp] theorem State.addf_attach (a : Nat) (f : Field) (k : Nat) : (s.addf a f k).attach = s.attach := rfl
@[simp] theorem State.addf_guestAnswer (a : Nat) (f : Field) (k : Nat) : (s.addf a f k).guestAnswer = s.guestAnswer := rfl
@[simp] theorem State.addf_sky (a : Nat) (f : Field) (k : Nat) : (s.addf a f k).sky = s.sky := rfl
@[simp] theorem State.addf_sliceAt (a : Nat) (f : Field) (k : Nat) : (s.addf a f k).sliceAt = s.sliceAt := rfl
@[simp] theorem State.addf_slicePos (a : Nat) (f : Field) (k : Nat) : (s.addf a f k).slicePos = s.slicePos := rfl
@[simp] theorem State.addf_baseBist (a : Nat) (f : Field) (k : Nat) : (s.addf a f k).baseBist = s.baseBist := rfl
@[simp] theorem State.addf_baseRemaps (a : Nat) (f : Field) (k : Nat) : (s.addf a f k).baseRemaps = s.baseRemaps := rfl
@[simp] theorem State.addf_baseOff (a : Nat) (f : Field) (k : Nat) : (s.addf a f k).baseOff = s.baseOff := rfl
@[simp] theorem State.addf_candidates (a : Nat) (f : Field) (k : Nat) : (s.addf a f k).candidates = s.candidates := rfl
@[simp] theorem State.addf_excluded (a : Nat) (f : Field) (k : Nat) : (s.addf a f k).excluded = s.excluded := rfl
@[simp] theorem State.addf_capHigh (a : Nat) (f : Field) (k : Nat) : (s.addf a f k).capHigh = s.capHigh := rfl
@[simp] theorem State.addf_points (a : Nat) (f : Field) (k : Nat) : (s.addf a f k).points = s.points := rfl
@[simp] theorem State.addf_enginesOff (a : Nat) (f : Field) (k : Nat) : (s.addf a f k).enginesOff = s.enginesOff := rfl
@[simp] theorem State.addf_injecting (a : Nat) (f : Field) (k : Nat) : (s.addf a f k).injecting = s.injecting := rfl

/-! State.setRegs -/

@[simp] theorem State.setRegs_pending (kvs : List (Nat × Word)) : (s.setRegs kvs).pending = s.pending := rfl
@[simp] theorem State.setRegs_freeCtr (kvs : List (Nat × Word)) : (s.setRegs kvs).freeCtr = s.freeCtr := rfl
@[simp] theorem State.setRegs_fuse (kvs : List (Nat × Word)) : (s.setRegs kvs).fuse = s.fuse := rfl
@[simp] theorem State.setRegs_hb (kvs : List (Nat × Word)) : (s.setRegs kvs).hb = s.hb := rfl
@[simp] theorem State.setRegs_ringMem (kvs : List (Nat × Word)) : (s.setRegs kvs).ringMem = s.ringMem := rfl
@[simp] theorem State.setRegs_mem (kvs : List (Nat × Word)) : (s.setRegs kvs).mem = s.mem := rfl
@[simp] theorem State.setRegs_sram (kvs : List (Nat × Word)) : (s.setRegs kvs).sram = s.sram := rfl
@[simp] theorem State.setRegs_hostMem (kvs : List (Nat × Word)) : (s.setRegs kvs).hostMem = s.hostMem := rfl
@[simp] theorem State.setRegs_bays (kvs : List (Nat × Word)) : (s.setRegs kvs).bays = s.bays := rfl
@[simp] theorem State.setRegs_steps (kvs : List (Nat × Word)) : (s.setRegs kvs).steps = s.steps := rfl
@[simp] theorem State.setRegs_publishes (kvs : List (Nat × Word)) : (s.setRegs kvs).publishes = s.publishes := rfl
@[simp] theorem State.setRegs_fences (kvs : List (Nat × Word)) : (s.setRegs kvs).fences = s.fences := rfl
@[simp] theorem State.setRegs_logOrder (kvs : List (Nat × Word)) : (s.setRegs kvs).logOrder = s.logOrder := rfl
@[simp] theorem State.setRegs_logCleared (kvs : List (Nat × Word)) : (s.setRegs kvs).logCleared = s.logCleared := rfl
@[simp] theorem State.setRegs_queues (kvs : List (Nat × Word)) : (s.setRegs kvs).queues = s.queues := rfl
@[simp] theorem State.setRegs_changes (kvs : List (Nat × Word)) : (s.setRegs kvs).changes = s.changes := rfl
@[simp] theorem State.setRegs_larders (kvs : List (Nat × Word)) : (s.setRegs kvs).larders = s.larders := rfl
@[simp] theorem State.setRegs_pantry (kvs : List (Nat × Word)) : (s.setRegs kvs).pantry = s.pantry := rfl
@[simp] theorem State.setRegs_leases (kvs : List (Nat × Word)) : (s.setRegs kvs).leases = s.leases := rfl
@[simp] theorem State.setRegs_evicts (kvs : List (Nat × Word)) : (s.setRegs kvs).evicts = s.evicts := rfl
@[simp] theorem State.setRegs_roles (kvs : List (Nat × Word)) : (s.setRegs kvs).roles = s.roles := rfl
@[simp] theorem State.setRegs_annexReqs (kvs : List (Nat × Word)) : (s.setRegs kvs).annexReqs = s.annexReqs := rfl
@[simp] theorem State.setRegs_restores (kvs : List (Nat × Word)) : (s.setRegs kvs).restores = s.restores := rfl
@[simp] theorem State.setRegs_memOps (kvs : List (Nat × Word)) : (s.setRegs kvs).memOps = s.memOps := rfl
@[simp] theorem State.setRegs_active (kvs : List (Nat × Word)) : (s.setRegs kvs).active = s.active := rfl
@[simp] theorem State.setRegs_dups (kvs : List (Nat × Word)) : (s.setRegs kvs).dups = s.dups := rfl
@[simp] theorem State.setRegs_peerEpochs (kvs : List (Nat × Word)) : (s.setRegs kvs).peerEpochs = s.peerEpochs := rfl
@[simp] theorem State.setRegs_challenges (kvs : List (Nat × Word)) : (s.setRegs kvs).challenges = s.challenges := rfl
@[simp] theorem State.setRegs_denials (kvs : List (Nat × Word)) : (s.setRegs kvs).denials = s.denials := rfl
@[simp] theorem State.setRegs_lockout (kvs : List (Nat × Word)) : (s.setRegs kvs).lockout = s.lockout := rfl
@[simp] theorem State.setRegs_i3cRole (kvs : List (Nat × Word)) : (s.setRegs kvs).i3cRole = s.i3cRole := rfl
@[simp] theorem State.setRegs_i3cAddr (kvs : List (Nat × Word)) : (s.setRegs kvs).i3cAddr = s.i3cAddr := rfl
@[simp] theorem State.setRegs_outbox (kvs : List (Nat × Word)) : (s.setRegs kvs).outbox = s.outbox := rfl
@[simp] theorem State.setRegs_evqPass (kvs : List (Nat × Word)) : (s.setRegs kvs).evqPass = s.evqPass := rfl
@[simp] theorem State.setRegs_msixPending (kvs : List (Nat × Word)) : (s.setRegs kvs).msixPending = s.msixPending := rfl
@[simp] theorem State.setRegs_nv (kvs : List (Nat × Word)) : (s.setRegs kvs).nv = s.nv := rfl
@[simp] theorem State.setRegs_mode (kvs : List (Nat × Word)) : (s.setRegs kvs).mode = s.mode := rfl
@[simp] theorem State.setRegs_clamped (kvs : List (Nat × Word)) : (s.setRegs kvs).clamped = s.clamped := rfl
@[simp] theorem State.setRegs_resetPend (kvs : List (Nat × Word)) : (s.setRegs kvs).resetPend = s.resetPend := rfl
@[simp] theorem State.setRegs_blockResets (kvs : List (Nat × Word)) : (s.setRegs kvs).blockResets = s.blockResets := rfl
@[simp] theorem State.setRegs_slotParts (kvs : List (Nat × Word)) : (s.setRegs kvs).slotParts = s.slotParts := rfl
@[simp] theorem State.setRegs_reloads (kvs : List (Nat × Word)) : (s.setRegs kvs).reloads = s.reloads := rfl
@[simp] theorem State.setRegs_unfences (kvs : List (Nat × Word)) : (s.setRegs kvs).unfences = s.unfences := rfl
@[simp] theorem State.setRegs_seenRecords (kvs : List (Nat × Word)) : (s.setRegs kvs).seenRecords = s.seenRecords := rfl
@[simp] theorem State.setRegs_locals (kvs : List (Nat × Word)) : (s.setRegs kvs).locals = s.locals := rfl
@[simp] theorem State.setRegs_pci (kvs : List (Nat × Word)) : (s.setRegs kvs).pci = s.pci := rfl
@[simp] theorem State.setRegs_links (kvs : List (Nat × Word)) : (s.setRegs kvs).links = s.links := rfl
@[simp] theorem State.setRegs_csms (kvs : List (Nat × Word)) : (s.setRegs kvs).csms = s.csms := rfl
@[simp] theorem State.setRegs_beat (kvs : List (Nat × Word)) : (s.setRegs kvs).beat = s.beat := rfl
@[simp] theorem State.setRegs_plans (kvs : List (Nat × Word)) : (s.setRegs kvs).plans = s.plans := rfl
@[simp] theorem State.setRegs_settles (kvs : List (Nat × Word)) : (s.setRegs kvs).settles = s.settles := rfl
@[simp] theorem State.setRegs_power (kvs : List (Nat × Word)) : (s.setRegs kvs).power = s.power := rfl
@[simp] theorem State.setRegs_nextTag (kvs : List (Nat × Word)) : (s.setRegs kvs).nextTag = s.nextTag := rfl
@[simp] theorem State.setRegs_cfgNow (kvs : List (Nat × Word)) : (s.setRegs kvs).cfgNow = s.cfgNow := rfl
@[simp] theorem State.setRegs_startEnv (kvs : List (Nat × Word)) : (s.setRegs kvs).startEnv = s.startEnv := rfl
@[simp] theorem State.setRegs_bootFrame (kvs : List (Nat × Word)) : (s.setRegs kvs).bootFrame = s.bootFrame := rfl
@[simp] theorem State.setRegs_lifePend (kvs : List (Nat × Word)) : (s.setRegs kvs).lifePend = s.lifePend := rfl
@[simp] theorem State.setRegs_resetLow (kvs : List (Nat × Word)) : (s.setRegs kvs).resetLow = s.resetLow := rfl
@[simp] theorem State.setRegs_jtag (kvs : List (Nat × Word)) : (s.setRegs kvs).jtag = s.jtag := rfl
@[simp] theorem State.setRegs_straps (kvs : List (Nat × Word)) : (s.setRegs kvs).straps = s.straps := rfl
@[simp] theorem State.setRegs_i3cDyn (kvs : List (Nat × Word)) : (s.setRegs kvs).i3cDyn = s.i3cDyn := rfl
@[simp] theorem State.setRegs_i3cBlock (kvs : List (Nat × Word)) : (s.setRegs kvs).i3cBlock = s.i3cBlock := rfl
@[simp] theorem State.setRegs_pair (kvs : List (Nat × Word)) : (s.setRegs kvs).pair = s.pair := rfl
@[simp] theorem State.setRegs_drbgA (kvs : List (Nat × Word)) : (s.setRegs kvs).drbgA = s.drbgA := rfl
@[simp] theorem State.setRegs_drbgB (kvs : List (Nat × Word)) : (s.setRegs kvs).drbgB = s.drbgB := rfl
@[simp] theorem State.setRegs_drbgWait (kvs : List (Nat × Word)) : (s.setRegs kvs).drbgWait = s.drbgWait := rfl
@[simp] theorem State.setRegs_entropyOther (kvs : List (Nat × Word)) : (s.setRegs kvs).entropyOther = s.entropyOther := rfl
@[simp] theorem State.setRegs_attach (kvs : List (Nat × Word)) : (s.setRegs kvs).attach = s.attach := rfl
@[simp] theorem State.setRegs_guestAnswer (kvs : List (Nat × Word)) : (s.setRegs kvs).guestAnswer = s.guestAnswer := rfl
@[simp] theorem State.setRegs_sky (kvs : List (Nat × Word)) : (s.setRegs kvs).sky = s.sky := rfl
@[simp] theorem State.setRegs_sliceAt (kvs : List (Nat × Word)) : (s.setRegs kvs).sliceAt = s.sliceAt := rfl
@[simp] theorem State.setRegs_slicePos (kvs : List (Nat × Word)) : (s.setRegs kvs).slicePos = s.slicePos := rfl
@[simp] theorem State.setRegs_baseBist (kvs : List (Nat × Word)) : (s.setRegs kvs).baseBist = s.baseBist := rfl
@[simp] theorem State.setRegs_baseRemaps (kvs : List (Nat × Word)) : (s.setRegs kvs).baseRemaps = s.baseRemaps := rfl
@[simp] theorem State.setRegs_baseOff (kvs : List (Nat × Word)) : (s.setRegs kvs).baseOff = s.baseOff := rfl
@[simp] theorem State.setRegs_candidates (kvs : List (Nat × Word)) : (s.setRegs kvs).candidates = s.candidates := rfl
@[simp] theorem State.setRegs_excluded (kvs : List (Nat × Word)) : (s.setRegs kvs).excluded = s.excluded := rfl
@[simp] theorem State.setRegs_capHigh (kvs : List (Nat × Word)) : (s.setRegs kvs).capHigh = s.capHigh := rfl
@[simp] theorem State.setRegs_points (kvs : List (Nat × Word)) : (s.setRegs kvs).points = s.points := rfl
@[simp] theorem State.setRegs_enginesOff (kvs : List (Nat × Word)) : (s.setRegs kvs).enginesOff = s.enginesOff := rfl
@[simp] theorem State.setRegs_injecting (kvs : List (Nat × Word)) : (s.setRegs kvs).injecting = s.injecting := rfl

/-! State.setHreg -/

@[simp] theorem State.setHreg_pending (a : Nat) (v : Word) : (s.setHreg a v).pending = s.pending := rfl
@[simp] theorem State.setHreg_freeCtr (a : Nat) (v : Word) : (s.setHreg a v).freeCtr = s.freeCtr := rfl
@[simp] theorem State.setHreg_fuse (a : Nat) (v : Word) : (s.setHreg a v).fuse = s.fuse := rfl
@[simp] theorem State.setHreg_mgmt (a : Nat) (v : Word) : (s.setHreg a v).mgmt = s.mgmt := rfl
@[simp] theorem State.setHreg_ringMem (a : Nat) (v : Word) : (s.setHreg a v).ringMem = s.ringMem := rfl
@[simp] theorem State.setHreg_mem (a : Nat) (v : Word) : (s.setHreg a v).mem = s.mem := rfl
@[simp] theorem State.setHreg_sram (a : Nat) (v : Word) : (s.setHreg a v).sram = s.sram := rfl
@[simp] theorem State.setHreg_hostMem (a : Nat) (v : Word) : (s.setHreg a v).hostMem = s.hostMem := rfl
@[simp] theorem State.setHreg_bays (a : Nat) (v : Word) : (s.setHreg a v).bays = s.bays := rfl
@[simp] theorem State.setHreg_steps (a : Nat) (v : Word) : (s.setHreg a v).steps = s.steps := rfl
@[simp] theorem State.setHreg_publishes (a : Nat) (v : Word) : (s.setHreg a v).publishes = s.publishes := rfl
@[simp] theorem State.setHreg_fences (a : Nat) (v : Word) : (s.setHreg a v).fences = s.fences := rfl
@[simp] theorem State.setHreg_logOrder (a : Nat) (v : Word) : (s.setHreg a v).logOrder = s.logOrder := rfl
@[simp] theorem State.setHreg_logCleared (a : Nat) (v : Word) : (s.setHreg a v).logCleared = s.logCleared := rfl
@[simp] theorem State.setHreg_queues (a : Nat) (v : Word) : (s.setHreg a v).queues = s.queues := rfl
@[simp] theorem State.setHreg_changes (a : Nat) (v : Word) : (s.setHreg a v).changes = s.changes := rfl
@[simp] theorem State.setHreg_larders (a : Nat) (v : Word) : (s.setHreg a v).larders = s.larders := rfl
@[simp] theorem State.setHreg_pantry (a : Nat) (v : Word) : (s.setHreg a v).pantry = s.pantry := rfl
@[simp] theorem State.setHreg_leases (a : Nat) (v : Word) : (s.setHreg a v).leases = s.leases := rfl
@[simp] theorem State.setHreg_evicts (a : Nat) (v : Word) : (s.setHreg a v).evicts = s.evicts := rfl
@[simp] theorem State.setHreg_roles (a : Nat) (v : Word) : (s.setHreg a v).roles = s.roles := rfl
@[simp] theorem State.setHreg_annexReqs (a : Nat) (v : Word) : (s.setHreg a v).annexReqs = s.annexReqs := rfl
@[simp] theorem State.setHreg_restores (a : Nat) (v : Word) : (s.setHreg a v).restores = s.restores := rfl
@[simp] theorem State.setHreg_memOps (a : Nat) (v : Word) : (s.setHreg a v).memOps = s.memOps := rfl
@[simp] theorem State.setHreg_active (a : Nat) (v : Word) : (s.setHreg a v).active = s.active := rfl
@[simp] theorem State.setHreg_dups (a : Nat) (v : Word) : (s.setHreg a v).dups = s.dups := rfl
@[simp] theorem State.setHreg_peerEpochs (a : Nat) (v : Word) : (s.setHreg a v).peerEpochs = s.peerEpochs := rfl
@[simp] theorem State.setHreg_challenges (a : Nat) (v : Word) : (s.setHreg a v).challenges = s.challenges := rfl
@[simp] theorem State.setHreg_denials (a : Nat) (v : Word) : (s.setHreg a v).denials = s.denials := rfl
@[simp] theorem State.setHreg_lockout (a : Nat) (v : Word) : (s.setHreg a v).lockout = s.lockout := rfl
@[simp] theorem State.setHreg_i3cRole (a : Nat) (v : Word) : (s.setHreg a v).i3cRole = s.i3cRole := rfl
@[simp] theorem State.setHreg_i3cAddr (a : Nat) (v : Word) : (s.setHreg a v).i3cAddr = s.i3cAddr := rfl
@[simp] theorem State.setHreg_outbox (a : Nat) (v : Word) : (s.setHreg a v).outbox = s.outbox := rfl
@[simp] theorem State.setHreg_evqPass (a : Nat) (v : Word) : (s.setHreg a v).evqPass = s.evqPass := rfl
@[simp] theorem State.setHreg_msixPending (a : Nat) (v : Word) : (s.setHreg a v).msixPending = s.msixPending := rfl
@[simp] theorem State.setHreg_nv (a : Nat) (v : Word) : (s.setHreg a v).nv = s.nv := rfl
@[simp] theorem State.setHreg_mode (a : Nat) (v : Word) : (s.setHreg a v).mode = s.mode := rfl
@[simp] theorem State.setHreg_clamped (a : Nat) (v : Word) : (s.setHreg a v).clamped = s.clamped := rfl
@[simp] theorem State.setHreg_resetPend (a : Nat) (v : Word) : (s.setHreg a v).resetPend = s.resetPend := rfl
@[simp] theorem State.setHreg_blockResets (a : Nat) (v : Word) : (s.setHreg a v).blockResets = s.blockResets := rfl
@[simp] theorem State.setHreg_slotParts (a : Nat) (v : Word) : (s.setHreg a v).slotParts = s.slotParts := rfl
@[simp] theorem State.setHreg_reloads (a : Nat) (v : Word) : (s.setHreg a v).reloads = s.reloads := rfl
@[simp] theorem State.setHreg_unfences (a : Nat) (v : Word) : (s.setHreg a v).unfences = s.unfences := rfl
@[simp] theorem State.setHreg_seenRecords (a : Nat) (v : Word) : (s.setHreg a v).seenRecords = s.seenRecords := rfl
@[simp] theorem State.setHreg_locals (a : Nat) (v : Word) : (s.setHreg a v).locals = s.locals := rfl
@[simp] theorem State.setHreg_pci (a : Nat) (v : Word) : (s.setHreg a v).pci = s.pci := rfl
@[simp] theorem State.setHreg_links (a : Nat) (v : Word) : (s.setHreg a v).links = s.links := rfl
@[simp] theorem State.setHreg_csms (a : Nat) (v : Word) : (s.setHreg a v).csms = s.csms := rfl
@[simp] theorem State.setHreg_beat (a : Nat) (v : Word) : (s.setHreg a v).beat = s.beat := rfl
@[simp] theorem State.setHreg_plans (a : Nat) (v : Word) : (s.setHreg a v).plans = s.plans := rfl
@[simp] theorem State.setHreg_settles (a : Nat) (v : Word) : (s.setHreg a v).settles = s.settles := rfl
@[simp] theorem State.setHreg_power (a : Nat) (v : Word) : (s.setHreg a v).power = s.power := rfl
@[simp] theorem State.setHreg_nextTag (a : Nat) (v : Word) : (s.setHreg a v).nextTag = s.nextTag := rfl
@[simp] theorem State.setHreg_cfgNow (a : Nat) (v : Word) : (s.setHreg a v).cfgNow = s.cfgNow := rfl
@[simp] theorem State.setHreg_startEnv (a : Nat) (v : Word) : (s.setHreg a v).startEnv = s.startEnv := rfl
@[simp] theorem State.setHreg_bootFrame (a : Nat) (v : Word) : (s.setHreg a v).bootFrame = s.bootFrame := rfl
@[simp] theorem State.setHreg_lifePend (a : Nat) (v : Word) : (s.setHreg a v).lifePend = s.lifePend := rfl
@[simp] theorem State.setHreg_resetLow (a : Nat) (v : Word) : (s.setHreg a v).resetLow = s.resetLow := rfl
@[simp] theorem State.setHreg_jtag (a : Nat) (v : Word) : (s.setHreg a v).jtag = s.jtag := rfl
@[simp] theorem State.setHreg_straps (a : Nat) (v : Word) : (s.setHreg a v).straps = s.straps := rfl
@[simp] theorem State.setHreg_i3cDyn (a : Nat) (v : Word) : (s.setHreg a v).i3cDyn = s.i3cDyn := rfl
@[simp] theorem State.setHreg_i3cBlock (a : Nat) (v : Word) : (s.setHreg a v).i3cBlock = s.i3cBlock := rfl
@[simp] theorem State.setHreg_pair (a : Nat) (v : Word) : (s.setHreg a v).pair = s.pair := rfl
@[simp] theorem State.setHreg_drbgA (a : Nat) (v : Word) : (s.setHreg a v).drbgA = s.drbgA := rfl
@[simp] theorem State.setHreg_drbgB (a : Nat) (v : Word) : (s.setHreg a v).drbgB = s.drbgB := rfl
@[simp] theorem State.setHreg_drbgWait (a : Nat) (v : Word) : (s.setHreg a v).drbgWait = s.drbgWait := rfl
@[simp] theorem State.setHreg_entropyOther (a : Nat) (v : Word) : (s.setHreg a v).entropyOther = s.entropyOther := rfl
@[simp] theorem State.setHreg_attach (a : Nat) (v : Word) : (s.setHreg a v).attach = s.attach := rfl
@[simp] theorem State.setHreg_guestAnswer (a : Nat) (v : Word) : (s.setHreg a v).guestAnswer = s.guestAnswer := rfl
@[simp] theorem State.setHreg_sky (a : Nat) (v : Word) : (s.setHreg a v).sky = s.sky := rfl
@[simp] theorem State.setHreg_sliceAt (a : Nat) (v : Word) : (s.setHreg a v).sliceAt = s.sliceAt := rfl
@[simp] theorem State.setHreg_slicePos (a : Nat) (v : Word) : (s.setHreg a v).slicePos = s.slicePos := rfl
@[simp] theorem State.setHreg_baseBist (a : Nat) (v : Word) : (s.setHreg a v).baseBist = s.baseBist := rfl
@[simp] theorem State.setHreg_baseRemaps (a : Nat) (v : Word) : (s.setHreg a v).baseRemaps = s.baseRemaps := rfl
@[simp] theorem State.setHreg_baseOff (a : Nat) (v : Word) : (s.setHreg a v).baseOff = s.baseOff := rfl
@[simp] theorem State.setHreg_candidates (a : Nat) (v : Word) : (s.setHreg a v).candidates = s.candidates := rfl
@[simp] theorem State.setHreg_excluded (a : Nat) (v : Word) : (s.setHreg a v).excluded = s.excluded := rfl
@[simp] theorem State.setHreg_capHigh (a : Nat) (v : Word) : (s.setHreg a v).capHigh = s.capHigh := rfl
@[simp] theorem State.setHreg_points (a : Nat) (v : Word) : (s.setHreg a v).points = s.points := rfl
@[simp] theorem State.setHreg_enginesOff (a : Nat) (v : Word) : (s.setHreg a v).enginesOff = s.enginesOff := rfl
@[simp] theorem State.setHreg_injecting (a : Nat) (v : Word) : (s.setHreg a v).injecting = s.injecting := rfl

/-! State.whf -/

@[simp] theorem State.whf_pending (a : Nat) (f : Field) (n : Nat) : (s.whf a f n).pending = s.pending := rfl
@[simp] theorem State.whf_freeCtr (a : Nat) (f : Field) (n : Nat) : (s.whf a f n).freeCtr = s.freeCtr := rfl
@[simp] theorem State.whf_fuse (a : Nat) (f : Field) (n : Nat) : (s.whf a f n).fuse = s.fuse := rfl
@[simp] theorem State.whf_mgmt (a : Nat) (f : Field) (n : Nat) : (s.whf a f n).mgmt = s.mgmt := rfl
@[simp] theorem State.whf_ringMem (a : Nat) (f : Field) (n : Nat) : (s.whf a f n).ringMem = s.ringMem := rfl
@[simp] theorem State.whf_mem (a : Nat) (f : Field) (n : Nat) : (s.whf a f n).mem = s.mem := rfl
@[simp] theorem State.whf_sram (a : Nat) (f : Field) (n : Nat) : (s.whf a f n).sram = s.sram := rfl
@[simp] theorem State.whf_hostMem (a : Nat) (f : Field) (n : Nat) : (s.whf a f n).hostMem = s.hostMem := rfl
@[simp] theorem State.whf_bays (a : Nat) (f : Field) (n : Nat) : (s.whf a f n).bays = s.bays := rfl
@[simp] theorem State.whf_steps (a : Nat) (f : Field) (n : Nat) : (s.whf a f n).steps = s.steps := rfl
@[simp] theorem State.whf_publishes (a : Nat) (f : Field) (n : Nat) : (s.whf a f n).publishes = s.publishes := rfl
@[simp] theorem State.whf_fences (a : Nat) (f : Field) (n : Nat) : (s.whf a f n).fences = s.fences := rfl
@[simp] theorem State.whf_logOrder (a : Nat) (f : Field) (n : Nat) : (s.whf a f n).logOrder = s.logOrder := rfl
@[simp] theorem State.whf_logCleared (a : Nat) (f : Field) (n : Nat) : (s.whf a f n).logCleared = s.logCleared := rfl
@[simp] theorem State.whf_queues (a : Nat) (f : Field) (n : Nat) : (s.whf a f n).queues = s.queues := rfl
@[simp] theorem State.whf_changes (a : Nat) (f : Field) (n : Nat) : (s.whf a f n).changes = s.changes := rfl
@[simp] theorem State.whf_larders (a : Nat) (f : Field) (n : Nat) : (s.whf a f n).larders = s.larders := rfl
@[simp] theorem State.whf_pantry (a : Nat) (f : Field) (n : Nat) : (s.whf a f n).pantry = s.pantry := rfl
@[simp] theorem State.whf_leases (a : Nat) (f : Field) (n : Nat) : (s.whf a f n).leases = s.leases := rfl
@[simp] theorem State.whf_evicts (a : Nat) (f : Field) (n : Nat) : (s.whf a f n).evicts = s.evicts := rfl
@[simp] theorem State.whf_roles (a : Nat) (f : Field) (n : Nat) : (s.whf a f n).roles = s.roles := rfl
@[simp] theorem State.whf_annexReqs (a : Nat) (f : Field) (n : Nat) : (s.whf a f n).annexReqs = s.annexReqs := rfl
@[simp] theorem State.whf_restores (a : Nat) (f : Field) (n : Nat) : (s.whf a f n).restores = s.restores := rfl
@[simp] theorem State.whf_memOps (a : Nat) (f : Field) (n : Nat) : (s.whf a f n).memOps = s.memOps := rfl
@[simp] theorem State.whf_active (a : Nat) (f : Field) (n : Nat) : (s.whf a f n).active = s.active := rfl
@[simp] theorem State.whf_dups (a : Nat) (f : Field) (n : Nat) : (s.whf a f n).dups = s.dups := rfl
@[simp] theorem State.whf_peerEpochs (a : Nat) (f : Field) (n : Nat) : (s.whf a f n).peerEpochs = s.peerEpochs := rfl
@[simp] theorem State.whf_challenges (a : Nat) (f : Field) (n : Nat) : (s.whf a f n).challenges = s.challenges := rfl
@[simp] theorem State.whf_denials (a : Nat) (f : Field) (n : Nat) : (s.whf a f n).denials = s.denials := rfl
@[simp] theorem State.whf_lockout (a : Nat) (f : Field) (n : Nat) : (s.whf a f n).lockout = s.lockout := rfl
@[simp] theorem State.whf_i3cRole (a : Nat) (f : Field) (n : Nat) : (s.whf a f n).i3cRole = s.i3cRole := rfl
@[simp] theorem State.whf_i3cAddr (a : Nat) (f : Field) (n : Nat) : (s.whf a f n).i3cAddr = s.i3cAddr := rfl
@[simp] theorem State.whf_outbox (a : Nat) (f : Field) (n : Nat) : (s.whf a f n).outbox = s.outbox := rfl
@[simp] theorem State.whf_evqPass (a : Nat) (f : Field) (n : Nat) : (s.whf a f n).evqPass = s.evqPass := rfl
@[simp] theorem State.whf_msixPending (a : Nat) (f : Field) (n : Nat) : (s.whf a f n).msixPending = s.msixPending := rfl
@[simp] theorem State.whf_nv (a : Nat) (f : Field) (n : Nat) : (s.whf a f n).nv = s.nv := rfl
@[simp] theorem State.whf_mode (a : Nat) (f : Field) (n : Nat) : (s.whf a f n).mode = s.mode := rfl
@[simp] theorem State.whf_clamped (a : Nat) (f : Field) (n : Nat) : (s.whf a f n).clamped = s.clamped := rfl
@[simp] theorem State.whf_resetPend (a : Nat) (f : Field) (n : Nat) : (s.whf a f n).resetPend = s.resetPend := rfl
@[simp] theorem State.whf_blockResets (a : Nat) (f : Field) (n : Nat) : (s.whf a f n).blockResets = s.blockResets := rfl
@[simp] theorem State.whf_slotParts (a : Nat) (f : Field) (n : Nat) : (s.whf a f n).slotParts = s.slotParts := rfl
@[simp] theorem State.whf_reloads (a : Nat) (f : Field) (n : Nat) : (s.whf a f n).reloads = s.reloads := rfl
@[simp] theorem State.whf_unfences (a : Nat) (f : Field) (n : Nat) : (s.whf a f n).unfences = s.unfences := rfl
@[simp] theorem State.whf_seenRecords (a : Nat) (f : Field) (n : Nat) : (s.whf a f n).seenRecords = s.seenRecords := rfl
@[simp] theorem State.whf_locals (a : Nat) (f : Field) (n : Nat) : (s.whf a f n).locals = s.locals := rfl
@[simp] theorem State.whf_pci (a : Nat) (f : Field) (n : Nat) : (s.whf a f n).pci = s.pci := rfl
@[simp] theorem State.whf_links (a : Nat) (f : Field) (n : Nat) : (s.whf a f n).links = s.links := rfl
@[simp] theorem State.whf_csms (a : Nat) (f : Field) (n : Nat) : (s.whf a f n).csms = s.csms := rfl
@[simp] theorem State.whf_beat (a : Nat) (f : Field) (n : Nat) : (s.whf a f n).beat = s.beat := rfl
@[simp] theorem State.whf_plans (a : Nat) (f : Field) (n : Nat) : (s.whf a f n).plans = s.plans := rfl
@[simp] theorem State.whf_settles (a : Nat) (f : Field) (n : Nat) : (s.whf a f n).settles = s.settles := rfl
@[simp] theorem State.whf_power (a : Nat) (f : Field) (n : Nat) : (s.whf a f n).power = s.power := rfl
@[simp] theorem State.whf_nextTag (a : Nat) (f : Field) (n : Nat) : (s.whf a f n).nextTag = s.nextTag := rfl
@[simp] theorem State.whf_cfgNow (a : Nat) (f : Field) (n : Nat) : (s.whf a f n).cfgNow = s.cfgNow := rfl
@[simp] theorem State.whf_startEnv (a : Nat) (f : Field) (n : Nat) : (s.whf a f n).startEnv = s.startEnv := rfl
@[simp] theorem State.whf_bootFrame (a : Nat) (f : Field) (n : Nat) : (s.whf a f n).bootFrame = s.bootFrame := rfl
@[simp] theorem State.whf_lifePend (a : Nat) (f : Field) (n : Nat) : (s.whf a f n).lifePend = s.lifePend := rfl
@[simp] theorem State.whf_resetLow (a : Nat) (f : Field) (n : Nat) : (s.whf a f n).resetLow = s.resetLow := rfl
@[simp] theorem State.whf_jtag (a : Nat) (f : Field) (n : Nat) : (s.whf a f n).jtag = s.jtag := rfl
@[simp] theorem State.whf_straps (a : Nat) (f : Field) (n : Nat) : (s.whf a f n).straps = s.straps := rfl
@[simp] theorem State.whf_i3cDyn (a : Nat) (f : Field) (n : Nat) : (s.whf a f n).i3cDyn = s.i3cDyn := rfl
@[simp] theorem State.whf_i3cBlock (a : Nat) (f : Field) (n : Nat) : (s.whf a f n).i3cBlock = s.i3cBlock := rfl
@[simp] theorem State.whf_pair (a : Nat) (f : Field) (n : Nat) : (s.whf a f n).pair = s.pair := rfl
@[simp] theorem State.whf_drbgA (a : Nat) (f : Field) (n : Nat) : (s.whf a f n).drbgA = s.drbgA := rfl
@[simp] theorem State.whf_drbgB (a : Nat) (f : Field) (n : Nat) : (s.whf a f n).drbgB = s.drbgB := rfl
@[simp] theorem State.whf_drbgWait (a : Nat) (f : Field) (n : Nat) : (s.whf a f n).drbgWait = s.drbgWait := rfl
@[simp] theorem State.whf_entropyOther (a : Nat) (f : Field) (n : Nat) : (s.whf a f n).entropyOther = s.entropyOther := rfl
@[simp] theorem State.whf_attach (a : Nat) (f : Field) (n : Nat) : (s.whf a f n).attach = s.attach := rfl
@[simp] theorem State.whf_guestAnswer (a : Nat) (f : Field) (n : Nat) : (s.whf a f n).guestAnswer = s.guestAnswer := rfl
@[simp] theorem State.whf_sky (a : Nat) (f : Field) (n : Nat) : (s.whf a f n).sky = s.sky := rfl
@[simp] theorem State.whf_sliceAt (a : Nat) (f : Field) (n : Nat) : (s.whf a f n).sliceAt = s.sliceAt := rfl
@[simp] theorem State.whf_slicePos (a : Nat) (f : Field) (n : Nat) : (s.whf a f n).slicePos = s.slicePos := rfl
@[simp] theorem State.whf_baseBist (a : Nat) (f : Field) (n : Nat) : (s.whf a f n).baseBist = s.baseBist := rfl
@[simp] theorem State.whf_baseRemaps (a : Nat) (f : Field) (n : Nat) : (s.whf a f n).baseRemaps = s.baseRemaps := rfl
@[simp] theorem State.whf_baseOff (a : Nat) (f : Field) (n : Nat) : (s.whf a f n).baseOff = s.baseOff := rfl
@[simp] theorem State.whf_candidates (a : Nat) (f : Field) (n : Nat) : (s.whf a f n).candidates = s.candidates := rfl
@[simp] theorem State.whf_excluded (a : Nat) (f : Field) (n : Nat) : (s.whf a f n).excluded = s.excluded := rfl
@[simp] theorem State.whf_capHigh (a : Nat) (f : Field) (n : Nat) : (s.whf a f n).capHigh = s.capHigh := rfl
@[simp] theorem State.whf_points (a : Nat) (f : Field) (n : Nat) : (s.whf a f n).points = s.points := rfl
@[simp] theorem State.whf_enginesOff (a : Nat) (f : Field) (n : Nat) : (s.whf a f n).enginesOff = s.enginesOff := rfl
@[simp] theorem State.whf_injecting (a : Nat) (f : Field) (n : Nat) : (s.whf a f n).injecting = s.injecting := rfl

/-! State.setBay -/

@[simp] theorem State.setBay_pending (b : BayId) (x : Bay) : (s.setBay b x).pending = s.pending := rfl
@[simp] theorem State.setBay_freeCtr (b : BayId) (x : Bay) : (s.setBay b x).freeCtr = s.freeCtr := rfl
@[simp] theorem State.setBay_fuse (b : BayId) (x : Bay) : (s.setBay b x).fuse = s.fuse := rfl
@[simp] theorem State.setBay_mgmt (b : BayId) (x : Bay) : (s.setBay b x).mgmt = s.mgmt := rfl
@[simp] theorem State.setBay_hb (b : BayId) (x : Bay) : (s.setBay b x).hb = s.hb := rfl
@[simp] theorem State.setBay_ringMem (b : BayId) (x : Bay) : (s.setBay b x).ringMem = s.ringMem := rfl
@[simp] theorem State.setBay_mem (b : BayId) (x : Bay) : (s.setBay b x).mem = s.mem := rfl
@[simp] theorem State.setBay_sram (b : BayId) (x : Bay) : (s.setBay b x).sram = s.sram := rfl
@[simp] theorem State.setBay_hostMem (b : BayId) (x : Bay) : (s.setBay b x).hostMem = s.hostMem := rfl
@[simp] theorem State.setBay_steps (b : BayId) (x : Bay) : (s.setBay b x).steps = s.steps := rfl
@[simp] theorem State.setBay_publishes (b : BayId) (x : Bay) : (s.setBay b x).publishes = s.publishes := rfl
@[simp] theorem State.setBay_fences (b : BayId) (x : Bay) : (s.setBay b x).fences = s.fences := rfl
@[simp] theorem State.setBay_logOrder (b : BayId) (x : Bay) : (s.setBay b x).logOrder = s.logOrder := rfl
@[simp] theorem State.setBay_logCleared (b : BayId) (x : Bay) : (s.setBay b x).logCleared = s.logCleared := rfl
@[simp] theorem State.setBay_queues (b : BayId) (x : Bay) : (s.setBay b x).queues = s.queues := rfl
@[simp] theorem State.setBay_changes (b : BayId) (x : Bay) : (s.setBay b x).changes = s.changes := rfl
@[simp] theorem State.setBay_larders (b : BayId) (x : Bay) : (s.setBay b x).larders = s.larders := rfl
@[simp] theorem State.setBay_pantry (b : BayId) (x : Bay) : (s.setBay b x).pantry = s.pantry := rfl
@[simp] theorem State.setBay_leases (b : BayId) (x : Bay) : (s.setBay b x).leases = s.leases := rfl
@[simp] theorem State.setBay_evicts (b : BayId) (x : Bay) : (s.setBay b x).evicts = s.evicts := rfl
@[simp] theorem State.setBay_roles (b : BayId) (x : Bay) : (s.setBay b x).roles = s.roles := rfl
@[simp] theorem State.setBay_annexReqs (b : BayId) (x : Bay) : (s.setBay b x).annexReqs = s.annexReqs := rfl
@[simp] theorem State.setBay_restores (b : BayId) (x : Bay) : (s.setBay b x).restores = s.restores := rfl
@[simp] theorem State.setBay_memOps (b : BayId) (x : Bay) : (s.setBay b x).memOps = s.memOps := rfl
@[simp] theorem State.setBay_active (b : BayId) (x : Bay) : (s.setBay b x).active = s.active := rfl
@[simp] theorem State.setBay_dups (b : BayId) (x : Bay) : (s.setBay b x).dups = s.dups := rfl
@[simp] theorem State.setBay_peerEpochs (b : BayId) (x : Bay) : (s.setBay b x).peerEpochs = s.peerEpochs := rfl
@[simp] theorem State.setBay_challenges (b : BayId) (x : Bay) : (s.setBay b x).challenges = s.challenges := rfl
@[simp] theorem State.setBay_denials (b : BayId) (x : Bay) : (s.setBay b x).denials = s.denials := rfl
@[simp] theorem State.setBay_lockout (b : BayId) (x : Bay) : (s.setBay b x).lockout = s.lockout := rfl
@[simp] theorem State.setBay_i3cRole (b : BayId) (x : Bay) : (s.setBay b x).i3cRole = s.i3cRole := rfl
@[simp] theorem State.setBay_i3cAddr (b : BayId) (x : Bay) : (s.setBay b x).i3cAddr = s.i3cAddr := rfl
@[simp] theorem State.setBay_outbox (b : BayId) (x : Bay) : (s.setBay b x).outbox = s.outbox := rfl
@[simp] theorem State.setBay_evqPass (b : BayId) (x : Bay) : (s.setBay b x).evqPass = s.evqPass := rfl
@[simp] theorem State.setBay_msixPending (b : BayId) (x : Bay) : (s.setBay b x).msixPending = s.msixPending := rfl
@[simp] theorem State.setBay_nv (b : BayId) (x : Bay) : (s.setBay b x).nv = s.nv := rfl
@[simp] theorem State.setBay_mode (b : BayId) (x : Bay) : (s.setBay b x).mode = s.mode := rfl
@[simp] theorem State.setBay_clamped (b : BayId) (x : Bay) : (s.setBay b x).clamped = s.clamped := rfl
@[simp] theorem State.setBay_resetPend (b : BayId) (x : Bay) : (s.setBay b x).resetPend = s.resetPend := rfl
@[simp] theorem State.setBay_blockResets (b : BayId) (x : Bay) : (s.setBay b x).blockResets = s.blockResets := rfl
@[simp] theorem State.setBay_slotParts (b : BayId) (x : Bay) : (s.setBay b x).slotParts = s.slotParts := rfl
@[simp] theorem State.setBay_reloads (b : BayId) (x : Bay) : (s.setBay b x).reloads = s.reloads := rfl
@[simp] theorem State.setBay_unfences (b : BayId) (x : Bay) : (s.setBay b x).unfences = s.unfences := rfl
@[simp] theorem State.setBay_seenRecords (b : BayId) (x : Bay) : (s.setBay b x).seenRecords = s.seenRecords := rfl
@[simp] theorem State.setBay_locals (b : BayId) (x : Bay) : (s.setBay b x).locals = s.locals := rfl
@[simp] theorem State.setBay_pci (b : BayId) (x : Bay) : (s.setBay b x).pci = s.pci := rfl
@[simp] theorem State.setBay_links (b : BayId) (x : Bay) : (s.setBay b x).links = s.links := rfl
@[simp] theorem State.setBay_csms (b : BayId) (x : Bay) : (s.setBay b x).csms = s.csms := rfl
@[simp] theorem State.setBay_beat (b : BayId) (x : Bay) : (s.setBay b x).beat = s.beat := rfl
@[simp] theorem State.setBay_plans (b : BayId) (x : Bay) : (s.setBay b x).plans = s.plans := rfl
@[simp] theorem State.setBay_settles (b : BayId) (x : Bay) : (s.setBay b x).settles = s.settles := rfl
@[simp] theorem State.setBay_power (b : BayId) (x : Bay) : (s.setBay b x).power = s.power := rfl
@[simp] theorem State.setBay_nextTag (b : BayId) (x : Bay) : (s.setBay b x).nextTag = s.nextTag := rfl
@[simp] theorem State.setBay_cfgNow (b : BayId) (x : Bay) : (s.setBay b x).cfgNow = s.cfgNow := rfl
@[simp] theorem State.setBay_startEnv (b : BayId) (x : Bay) : (s.setBay b x).startEnv = s.startEnv := rfl
@[simp] theorem State.setBay_bootFrame (b : BayId) (x : Bay) : (s.setBay b x).bootFrame = s.bootFrame := rfl
@[simp] theorem State.setBay_lifePend (b : BayId) (x : Bay) : (s.setBay b x).lifePend = s.lifePend := rfl
@[simp] theorem State.setBay_resetLow (b : BayId) (x : Bay) : (s.setBay b x).resetLow = s.resetLow := rfl
@[simp] theorem State.setBay_jtag (b : BayId) (x : Bay) : (s.setBay b x).jtag = s.jtag := rfl
@[simp] theorem State.setBay_straps (b : BayId) (x : Bay) : (s.setBay b x).straps = s.straps := rfl
@[simp] theorem State.setBay_i3cDyn (b : BayId) (x : Bay) : (s.setBay b x).i3cDyn = s.i3cDyn := rfl
@[simp] theorem State.setBay_i3cBlock (b : BayId) (x : Bay) : (s.setBay b x).i3cBlock = s.i3cBlock := rfl
@[simp] theorem State.setBay_pair (b : BayId) (x : Bay) : (s.setBay b x).pair = s.pair := rfl
@[simp] theorem State.setBay_drbgA (b : BayId) (x : Bay) : (s.setBay b x).drbgA = s.drbgA := rfl
@[simp] theorem State.setBay_drbgB (b : BayId) (x : Bay) : (s.setBay b x).drbgB = s.drbgB := rfl
@[simp] theorem State.setBay_drbgWait (b : BayId) (x : Bay) : (s.setBay b x).drbgWait = s.drbgWait := rfl
@[simp] theorem State.setBay_entropyOther (b : BayId) (x : Bay) : (s.setBay b x).entropyOther = s.entropyOther := rfl
@[simp] theorem State.setBay_attach (b : BayId) (x : Bay) : (s.setBay b x).attach = s.attach := rfl
@[simp] theorem State.setBay_guestAnswer (b : BayId) (x : Bay) : (s.setBay b x).guestAnswer = s.guestAnswer := rfl
@[simp] theorem State.setBay_sky (b : BayId) (x : Bay) : (s.setBay b x).sky = s.sky := rfl
@[simp] theorem State.setBay_sliceAt (b : BayId) (x : Bay) : (s.setBay b x).sliceAt = s.sliceAt := rfl
@[simp] theorem State.setBay_slicePos (b : BayId) (x : Bay) : (s.setBay b x).slicePos = s.slicePos := rfl
@[simp] theorem State.setBay_baseBist (b : BayId) (x : Bay) : (s.setBay b x).baseBist = s.baseBist := rfl
@[simp] theorem State.setBay_baseRemaps (b : BayId) (x : Bay) : (s.setBay b x).baseRemaps = s.baseRemaps := rfl
@[simp] theorem State.setBay_baseOff (b : BayId) (x : Bay) : (s.setBay b x).baseOff = s.baseOff := rfl
@[simp] theorem State.setBay_candidates (b : BayId) (x : Bay) : (s.setBay b x).candidates = s.candidates := rfl
@[simp] theorem State.setBay_excluded (b : BayId) (x : Bay) : (s.setBay b x).excluded = s.excluded := rfl
@[simp] theorem State.setBay_capHigh (b : BayId) (x : Bay) : (s.setBay b x).capHigh = s.capHigh := rfl
@[simp] theorem State.setBay_points (b : BayId) (x : Bay) : (s.setBay b x).points = s.points := rfl
@[simp] theorem State.setBay_enginesOff (b : BayId) (x : Bay) : (s.setBay b x).enginesOff = s.enginesOff := rfl
@[simp] theorem State.setBay_injecting (b : BayId) (x : Bay) : (s.setBay b x).injecting = s.injecting := rfl

/-! State.setSram -/

@[simp] theorem State.setSram_pending (b : BayId) (o : Nat) (v : Byte) : (s.setSram b o v).pending = s.pending := rfl
@[simp] theorem State.setSram_freeCtr (b : BayId) (o : Nat) (v : Byte) : (s.setSram b o v).freeCtr = s.freeCtr := rfl
@[simp] theorem State.setSram_fuse (b : BayId) (o : Nat) (v : Byte) : (s.setSram b o v).fuse = s.fuse := rfl
@[simp] theorem State.setSram_mgmt (b : BayId) (o : Nat) (v : Byte) : (s.setSram b o v).mgmt = s.mgmt := rfl
@[simp] theorem State.setSram_hb (b : BayId) (o : Nat) (v : Byte) : (s.setSram b o v).hb = s.hb := rfl
@[simp] theorem State.setSram_ringMem (b : BayId) (o : Nat) (v : Byte) : (s.setSram b o v).ringMem = s.ringMem := rfl
@[simp] theorem State.setSram_mem (b : BayId) (o : Nat) (v : Byte) : (s.setSram b o v).mem = s.mem := rfl
@[simp] theorem State.setSram_hostMem (b : BayId) (o : Nat) (v : Byte) : (s.setSram b o v).hostMem = s.hostMem := rfl
@[simp] theorem State.setSram_bays (b : BayId) (o : Nat) (v : Byte) : (s.setSram b o v).bays = s.bays := rfl
@[simp] theorem State.setSram_steps (b : BayId) (o : Nat) (v : Byte) : (s.setSram b o v).steps = s.steps := rfl
@[simp] theorem State.setSram_publishes (b : BayId) (o : Nat) (v : Byte) : (s.setSram b o v).publishes = s.publishes := rfl
@[simp] theorem State.setSram_fences (b : BayId) (o : Nat) (v : Byte) : (s.setSram b o v).fences = s.fences := rfl
@[simp] theorem State.setSram_logOrder (b : BayId) (o : Nat) (v : Byte) : (s.setSram b o v).logOrder = s.logOrder := rfl
@[simp] theorem State.setSram_logCleared (b : BayId) (o : Nat) (v : Byte) : (s.setSram b o v).logCleared = s.logCleared := rfl
@[simp] theorem State.setSram_queues (b : BayId) (o : Nat) (v : Byte) : (s.setSram b o v).queues = s.queues := rfl
@[simp] theorem State.setSram_changes (b : BayId) (o : Nat) (v : Byte) : (s.setSram b o v).changes = s.changes := rfl
@[simp] theorem State.setSram_larders (b : BayId) (o : Nat) (v : Byte) : (s.setSram b o v).larders = s.larders := rfl
@[simp] theorem State.setSram_pantry (b : BayId) (o : Nat) (v : Byte) : (s.setSram b o v).pantry = s.pantry := rfl
@[simp] theorem State.setSram_leases (b : BayId) (o : Nat) (v : Byte) : (s.setSram b o v).leases = s.leases := rfl
@[simp] theorem State.setSram_evicts (b : BayId) (o : Nat) (v : Byte) : (s.setSram b o v).evicts = s.evicts := rfl
@[simp] theorem State.setSram_roles (b : BayId) (o : Nat) (v : Byte) : (s.setSram b o v).roles = s.roles := rfl
@[simp] theorem State.setSram_annexReqs (b : BayId) (o : Nat) (v : Byte) : (s.setSram b o v).annexReqs = s.annexReqs := rfl
@[simp] theorem State.setSram_restores (b : BayId) (o : Nat) (v : Byte) : (s.setSram b o v).restores = s.restores := rfl
@[simp] theorem State.setSram_memOps (b : BayId) (o : Nat) (v : Byte) : (s.setSram b o v).memOps = s.memOps := rfl
@[simp] theorem State.setSram_active (b : BayId) (o : Nat) (v : Byte) : (s.setSram b o v).active = s.active := rfl
@[simp] theorem State.setSram_dups (b : BayId) (o : Nat) (v : Byte) : (s.setSram b o v).dups = s.dups := rfl
@[simp] theorem State.setSram_peerEpochs (b : BayId) (o : Nat) (v : Byte) : (s.setSram b o v).peerEpochs = s.peerEpochs := rfl
@[simp] theorem State.setSram_challenges (b : BayId) (o : Nat) (v : Byte) : (s.setSram b o v).challenges = s.challenges := rfl
@[simp] theorem State.setSram_denials (b : BayId) (o : Nat) (v : Byte) : (s.setSram b o v).denials = s.denials := rfl
@[simp] theorem State.setSram_lockout (b : BayId) (o : Nat) (v : Byte) : (s.setSram b o v).lockout = s.lockout := rfl
@[simp] theorem State.setSram_i3cRole (b : BayId) (o : Nat) (v : Byte) : (s.setSram b o v).i3cRole = s.i3cRole := rfl
@[simp] theorem State.setSram_i3cAddr (b : BayId) (o : Nat) (v : Byte) : (s.setSram b o v).i3cAddr = s.i3cAddr := rfl
@[simp] theorem State.setSram_outbox (b : BayId) (o : Nat) (v : Byte) : (s.setSram b o v).outbox = s.outbox := rfl
@[simp] theorem State.setSram_evqPass (b : BayId) (o : Nat) (v : Byte) : (s.setSram b o v).evqPass = s.evqPass := rfl
@[simp] theorem State.setSram_msixPending (b : BayId) (o : Nat) (v : Byte) : (s.setSram b o v).msixPending = s.msixPending := rfl
@[simp] theorem State.setSram_nv (b : BayId) (o : Nat) (v : Byte) : (s.setSram b o v).nv = s.nv := rfl
@[simp] theorem State.setSram_mode (b : BayId) (o : Nat) (v : Byte) : (s.setSram b o v).mode = s.mode := rfl
@[simp] theorem State.setSram_clamped (b : BayId) (o : Nat) (v : Byte) : (s.setSram b o v).clamped = s.clamped := rfl
@[simp] theorem State.setSram_resetPend (b : BayId) (o : Nat) (v : Byte) : (s.setSram b o v).resetPend = s.resetPend := rfl
@[simp] theorem State.setSram_blockResets (b : BayId) (o : Nat) (v : Byte) : (s.setSram b o v).blockResets = s.blockResets := rfl
@[simp] theorem State.setSram_slotParts (b : BayId) (o : Nat) (v : Byte) : (s.setSram b o v).slotParts = s.slotParts := rfl
@[simp] theorem State.setSram_reloads (b : BayId) (o : Nat) (v : Byte) : (s.setSram b o v).reloads = s.reloads := rfl
@[simp] theorem State.setSram_unfences (b : BayId) (o : Nat) (v : Byte) : (s.setSram b o v).unfences = s.unfences := rfl
@[simp] theorem State.setSram_seenRecords (b : BayId) (o : Nat) (v : Byte) : (s.setSram b o v).seenRecords = s.seenRecords := rfl
@[simp] theorem State.setSram_locals (b : BayId) (o : Nat) (v : Byte) : (s.setSram b o v).locals = s.locals := rfl
@[simp] theorem State.setSram_pci (b : BayId) (o : Nat) (v : Byte) : (s.setSram b o v).pci = s.pci := rfl
@[simp] theorem State.setSram_links (b : BayId) (o : Nat) (v : Byte) : (s.setSram b o v).links = s.links := rfl
@[simp] theorem State.setSram_csms (b : BayId) (o : Nat) (v : Byte) : (s.setSram b o v).csms = s.csms := rfl
@[simp] theorem State.setSram_beat (b : BayId) (o : Nat) (v : Byte) : (s.setSram b o v).beat = s.beat := rfl
@[simp] theorem State.setSram_plans (b : BayId) (o : Nat) (v : Byte) : (s.setSram b o v).plans = s.plans := rfl
@[simp] theorem State.setSram_settles (b : BayId) (o : Nat) (v : Byte) : (s.setSram b o v).settles = s.settles := rfl
@[simp] theorem State.setSram_power (b : BayId) (o : Nat) (v : Byte) : (s.setSram b o v).power = s.power := rfl
@[simp] theorem State.setSram_nextTag (b : BayId) (o : Nat) (v : Byte) : (s.setSram b o v).nextTag = s.nextTag := rfl
@[simp] theorem State.setSram_cfgNow (b : BayId) (o : Nat) (v : Byte) : (s.setSram b o v).cfgNow = s.cfgNow := rfl
@[simp] theorem State.setSram_startEnv (b : BayId) (o : Nat) (v : Byte) : (s.setSram b o v).startEnv = s.startEnv := rfl
@[simp] theorem State.setSram_bootFrame (b : BayId) (o : Nat) (v : Byte) : (s.setSram b o v).bootFrame = s.bootFrame := rfl
@[simp] theorem State.setSram_lifePend (b : BayId) (o : Nat) (v : Byte) : (s.setSram b o v).lifePend = s.lifePend := rfl
@[simp] theorem State.setSram_resetLow (b : BayId) (o : Nat) (v : Byte) : (s.setSram b o v).resetLow = s.resetLow := rfl
@[simp] theorem State.setSram_jtag (b : BayId) (o : Nat) (v : Byte) : (s.setSram b o v).jtag = s.jtag := rfl
@[simp] theorem State.setSram_straps (b : BayId) (o : Nat) (v : Byte) : (s.setSram b o v).straps = s.straps := rfl
@[simp] theorem State.setSram_i3cDyn (b : BayId) (o : Nat) (v : Byte) : (s.setSram b o v).i3cDyn = s.i3cDyn := rfl
@[simp] theorem State.setSram_i3cBlock (b : BayId) (o : Nat) (v : Byte) : (s.setSram b o v).i3cBlock = s.i3cBlock := rfl
@[simp] theorem State.setSram_pair (b : BayId) (o : Nat) (v : Byte) : (s.setSram b o v).pair = s.pair := rfl
@[simp] theorem State.setSram_drbgA (b : BayId) (o : Nat) (v : Byte) : (s.setSram b o v).drbgA = s.drbgA := rfl
@[simp] theorem State.setSram_drbgB (b : BayId) (o : Nat) (v : Byte) : (s.setSram b o v).drbgB = s.drbgB := rfl
@[simp] theorem State.setSram_drbgWait (b : BayId) (o : Nat) (v : Byte) : (s.setSram b o v).drbgWait = s.drbgWait := rfl
@[simp] theorem State.setSram_entropyOther (b : BayId) (o : Nat) (v : Byte) : (s.setSram b o v).entropyOther = s.entropyOther := rfl
@[simp] theorem State.setSram_attach (b : BayId) (o : Nat) (v : Byte) : (s.setSram b o v).attach = s.attach := rfl
@[simp] theorem State.setSram_guestAnswer (b : BayId) (o : Nat) (v : Byte) : (s.setSram b o v).guestAnswer = s.guestAnswer := rfl
@[simp] theorem State.setSram_sky (b : BayId) (o : Nat) (v : Byte) : (s.setSram b o v).sky = s.sky := rfl
@[simp] theorem State.setSram_sliceAt (b : BayId) (o : Nat) (v : Byte) : (s.setSram b o v).sliceAt = s.sliceAt := rfl
@[simp] theorem State.setSram_slicePos (b : BayId) (o : Nat) (v : Byte) : (s.setSram b o v).slicePos = s.slicePos := rfl
@[simp] theorem State.setSram_baseBist (b : BayId) (o : Nat) (v : Byte) : (s.setSram b o v).baseBist = s.baseBist := rfl
@[simp] theorem State.setSram_baseRemaps (b : BayId) (o : Nat) (v : Byte) : (s.setSram b o v).baseRemaps = s.baseRemaps := rfl
@[simp] theorem State.setSram_baseOff (b : BayId) (o : Nat) (v : Byte) : (s.setSram b o v).baseOff = s.baseOff := rfl
@[simp] theorem State.setSram_candidates (b : BayId) (o : Nat) (v : Byte) : (s.setSram b o v).candidates = s.candidates := rfl
@[simp] theorem State.setSram_excluded (b : BayId) (o : Nat) (v : Byte) : (s.setSram b o v).excluded = s.excluded := rfl
@[simp] theorem State.setSram_capHigh (b : BayId) (o : Nat) (v : Byte) : (s.setSram b o v).capHigh = s.capHigh := rfl
@[simp] theorem State.setSram_points (b : BayId) (o : Nat) (v : Byte) : (s.setSram b o v).points = s.points := rfl
@[simp] theorem State.setSram_enginesOff (b : BayId) (o : Nat) (v : Byte) : (s.setSram b o v).enginesOff = s.enginesOff := rfl
@[simp] theorem State.setSram_injecting (b : BayId) (o : Nat) (v : Byte) : (s.setSram b o v).injecting = s.injecting := rfl

/-! State.draw -/

@[simp] theorem State.draw_pending : s.draw.2.pending = s.pending := rfl
@[simp] theorem State.draw_freeCtr : s.draw.2.freeCtr = s.freeCtr + 1 := rfl
@[simp] theorem State.draw_fuse : s.draw.2.fuse = s.fuse := rfl
@[simp] theorem State.draw_mgmt : s.draw.2.mgmt = s.mgmt := rfl
@[simp] theorem State.draw_hb : s.draw.2.hb = s.hb := rfl
@[simp] theorem State.draw_ringMem : s.draw.2.ringMem = s.ringMem := rfl
@[simp] theorem State.draw_mem : s.draw.2.mem = s.mem := rfl
@[simp] theorem State.draw_sram : s.draw.2.sram = s.sram := rfl
@[simp] theorem State.draw_hostMem : s.draw.2.hostMem = s.hostMem := rfl
@[simp] theorem State.draw_bays : s.draw.2.bays = s.bays := rfl
@[simp] theorem State.draw_steps : s.draw.2.steps = s.steps := rfl
@[simp] theorem State.draw_publishes : s.draw.2.publishes = s.publishes := rfl
@[simp] theorem State.draw_fences : s.draw.2.fences = s.fences := rfl
@[simp] theorem State.draw_logOrder : s.draw.2.logOrder = s.logOrder := rfl
@[simp] theorem State.draw_logCleared : s.draw.2.logCleared = s.logCleared := rfl
@[simp] theorem State.draw_queues : s.draw.2.queues = s.queues := rfl
@[simp] theorem State.draw_changes : s.draw.2.changes = s.changes := rfl
@[simp] theorem State.draw_larders : s.draw.2.larders = s.larders := rfl
@[simp] theorem State.draw_pantry : s.draw.2.pantry = s.pantry := rfl
@[simp] theorem State.draw_leases : s.draw.2.leases = s.leases := rfl
@[simp] theorem State.draw_evicts : s.draw.2.evicts = s.evicts := rfl
@[simp] theorem State.draw_roles : s.draw.2.roles = s.roles := rfl
@[simp] theorem State.draw_annexReqs : s.draw.2.annexReqs = s.annexReqs := rfl
@[simp] theorem State.draw_restores : s.draw.2.restores = s.restores := rfl
@[simp] theorem State.draw_memOps : s.draw.2.memOps = s.memOps := rfl
@[simp] theorem State.draw_active : s.draw.2.active = s.active := rfl
@[simp] theorem State.draw_dups : s.draw.2.dups = s.dups := rfl
@[simp] theorem State.draw_peerEpochs : s.draw.2.peerEpochs = s.peerEpochs := rfl
@[simp] theorem State.draw_challenges : s.draw.2.challenges = s.challenges := rfl
@[simp] theorem State.draw_denials : s.draw.2.denials = s.denials := rfl
@[simp] theorem State.draw_lockout : s.draw.2.lockout = s.lockout := rfl
@[simp] theorem State.draw_i3cRole : s.draw.2.i3cRole = s.i3cRole := rfl
@[simp] theorem State.draw_i3cAddr : s.draw.2.i3cAddr = s.i3cAddr := rfl
@[simp] theorem State.draw_outbox : s.draw.2.outbox = s.outbox := rfl
@[simp] theorem State.draw_evqPass : s.draw.2.evqPass = s.evqPass := rfl
@[simp] theorem State.draw_msixPending : s.draw.2.msixPending = s.msixPending := rfl
@[simp] theorem State.draw_nv : s.draw.2.nv = s.nv := rfl
@[simp] theorem State.draw_mode : s.draw.2.mode = s.mode := rfl
@[simp] theorem State.draw_clamped : s.draw.2.clamped = s.clamped := rfl
@[simp] theorem State.draw_resetPend : s.draw.2.resetPend = s.resetPend := rfl
@[simp] theorem State.draw_blockResets : s.draw.2.blockResets = s.blockResets := rfl
@[simp] theorem State.draw_slotParts : s.draw.2.slotParts = s.slotParts := rfl
@[simp] theorem State.draw_reloads : s.draw.2.reloads = s.reloads := rfl
@[simp] theorem State.draw_unfences : s.draw.2.unfences = s.unfences := rfl
@[simp] theorem State.draw_seenRecords : s.draw.2.seenRecords = s.seenRecords := rfl
@[simp] theorem State.draw_locals : s.draw.2.locals = s.locals := rfl
@[simp] theorem State.draw_pci : s.draw.2.pci = s.pci := rfl
@[simp] theorem State.draw_links : s.draw.2.links = s.links := rfl
@[simp] theorem State.draw_csms : s.draw.2.csms = s.csms := rfl
@[simp] theorem State.draw_beat : s.draw.2.beat = s.beat := rfl
@[simp] theorem State.draw_plans : s.draw.2.plans = s.plans := rfl
@[simp] theorem State.draw_settles : s.draw.2.settles = s.settles := rfl
@[simp] theorem State.draw_power : s.draw.2.power = s.power := rfl
@[simp] theorem State.draw_nextTag : s.draw.2.nextTag = s.nextTag := rfl
@[simp] theorem State.draw_cfgNow : s.draw.2.cfgNow = s.cfgNow := rfl
@[simp] theorem State.draw_startEnv : s.draw.2.startEnv = s.startEnv := rfl
@[simp] theorem State.draw_bootFrame : s.draw.2.bootFrame = s.bootFrame := rfl
@[simp] theorem State.draw_lifePend : s.draw.2.lifePend = s.lifePend := rfl
@[simp] theorem State.draw_resetLow : s.draw.2.resetLow = s.resetLow := rfl
@[simp] theorem State.draw_jtag : s.draw.2.jtag = s.jtag := rfl
@[simp] theorem State.draw_straps : s.draw.2.straps = s.straps := rfl
@[simp] theorem State.draw_i3cDyn : s.draw.2.i3cDyn = s.i3cDyn := rfl
@[simp] theorem State.draw_i3cBlock : s.draw.2.i3cBlock = s.i3cBlock := rfl
@[simp] theorem State.draw_pair : s.draw.2.pair = s.pair := rfl
@[simp] theorem State.draw_drbgA : s.draw.2.drbgA = s.drbgA := rfl
@[simp] theorem State.draw_drbgB : s.draw.2.drbgB = s.drbgB := rfl
@[simp] theorem State.draw_drbgWait : s.draw.2.drbgWait = s.drbgWait := rfl
@[simp] theorem State.draw_entropyOther : s.draw.2.entropyOther = s.entropyOther := rfl
@[simp] theorem State.draw_attach : s.draw.2.attach = s.attach := rfl
@[simp] theorem State.draw_guestAnswer : s.draw.2.guestAnswer = s.guestAnswer := rfl
@[simp] theorem State.draw_sky : s.draw.2.sky = s.sky := rfl
@[simp] theorem State.draw_sliceAt : s.draw.2.sliceAt = s.sliceAt := rfl
@[simp] theorem State.draw_slicePos : s.draw.2.slicePos = s.slicePos := rfl
@[simp] theorem State.draw_baseBist : s.draw.2.baseBist = s.baseBist := rfl
@[simp] theorem State.draw_baseRemaps : s.draw.2.baseRemaps = s.baseRemaps := rfl
@[simp] theorem State.draw_baseOff : s.draw.2.baseOff = s.baseOff := rfl
@[simp] theorem State.draw_candidates : s.draw.2.candidates = s.candidates := rfl
@[simp] theorem State.draw_excluded : s.draw.2.excluded = s.excluded := rfl
@[simp] theorem State.draw_capHigh : s.draw.2.capHigh = s.capHigh := rfl
@[simp] theorem State.draw_points : s.draw.2.points = s.points := rfl
@[simp] theorem State.draw_enginesOff : s.draw.2.enginesOff = s.enginesOff := rfl
@[simp] theorem State.draw_injecting : s.draw.2.injecting = s.injecting := rfl

end Sys2Proof.Machine
end

