-- ==== Sys2Proof/Laws/Ops.lean ====
section
/-!
SUPPORT. Sys2Proof/Laws/Ops.lean: the laws of the operations over registers, SRAM and per-unit records.
-/

set_option Elab.async false

namespace Sys2Proof.Machine

variable (s : State)

/-! ## Registers -/

@[simp] theorem State.reg_setReg_same (a : Nat) (v : Word) : (s.setReg a v).reg a = v := sparseGet_set_same ..

theorem State.reg_setReg_other {a b : Nat} (v : Word) (h : b ≠ a) : (s.setReg a v).reg b = s.reg b :=
  sparseGet_set_other _ _ _ h

theorem State.reg_wf_same (a : Nat) (f : Field) (n : Nat) : (s.wf a f n).reg a = putField (s.reg a) f n :=
  State.reg_setReg_same ..

theorem State.reg_wf_other {a b : Nat} (f : Field) (n : Nat) (h : b ≠ a) : (s.wf a f n).reg b = s.reg b :=
  State.reg_setReg_other _ _ h

theorem State.reg_wfs_same (a : Nat) (fs : List (Field × Nat)) :
    (s.wfs a fs).reg a = fs.foldl (fun v p => putField v p.1 p.2) (s.reg a) := State.reg_setReg_same ..

theorem State.reg_wfs_other {a b : Nat} (fs : List (Field × Nat)) (h : b ≠ a) : (s.wfs a fs).reg b = s.reg b :=
  State.reg_setReg_other _ _ h

theorem State.reg_satf_other {a b : Nat} (f : Field) (k : Nat) (h : b ≠ a) : (s.satf a f k).reg b = s.reg b :=
  State.reg_wf_other _ _ _ h

/-- A field reads back what was written to it. -/
theorem State.rf_wf_same (a : Nat) (f : Field) (n : Nat) (hf : f.lo + f.width ≤ 64) :
    (s.wf a f n).rf a f = n % 2 ^ f.width := by
  rw [State.rf, State.reg_wf_same, getField_putField_same _ _ _ hf]

/-- Writing a field leaves the other fields of its register alone. -/
theorem State.rf_wf_field (a : Nat) (f g : Field) (n : Nat) (hg : g.lo + g.width ≤ 64) (h : fieldsApart f g) :
    (s.wf a f n).rf a g = s.rf a g := by
  rw [State.rf, State.reg_wf_same, getField_putField_other _ _ _ _ hg h, State.rf]

/-- Writing a field leaves every other register alone. -/
theorem State.rf_wf_other {a b : Nat} (f g : Field) (n : Nat) (h : b ≠ a) : (s.wf a f n).rf b g = s.rf b g := by
  rw [State.rf, State.reg_wf_other _ _ _ h, State.rf]

/-- A saturating counter counts up to its largest value. -/
theorem State.rf_satf_same (a : Nat) (f : Field) (k : Nat) (hf : f.lo + f.width ≤ 64) :
    (s.satf a f k).rf a f = min (s.rf a f + k) (2 ^ f.width - 1) := by
  rw [State.satf, State.rf_wf_same _ _ _ _ hf, satAdd, Nat.mod_eq_of_lt]
  have := Nat.two_pow_pos f.width
  omega

/-- What a field reads after one field of a register is written. -/
theorem State.rf_wf (a b : Nat) (f g : Field) (n : Nat) :
    (s.wf a f n).rf b g = if b = a then getField (putField (s.reg a) f n) g else s.rf b g := by
  by_cases h : b = a
  · subst h
    rw [if_pos rfl, State.rf, State.reg_wf_same]
  · rw [if_neg h, State.rf_wf_other _ _ _ _ h]

theorem State.rf_wfs_same (a : Nat) (fs : List (Field × Nat)) (g : Field) :
    (s.wfs a fs).rf a g = getField (fs.foldl (fun v p => putField v p.1 p.2) (s.reg a)) g := by
  rw [State.rf, State.reg_wfs_same]

theorem State.rf_wfs_other {a b : Nat} (fs : List (Field × Nat)) (g : Field) (h : b ≠ a) :
    (s.wfs a fs).rf b g = s.rf b g := by
  rw [State.rf, State.reg_wfs_other _ _ h, State.rf]

theorem State.rf_setReg_same (a : Nat) (v : Word) (g : Field) : (s.setReg a v).rf a g = getField v g := by
  rw [State.rf, State.reg_setReg_same]

theorem State.rf_setReg_other {a b : Nat} (v : Word) (g : Field) (h : b ≠ a) : (s.setReg a v).rf b g = s.rf b g := by
  rw [State.rf, State.reg_setReg_other _ _ h, State.rf]

@[simp] theorem State.hreg_setHreg_same (a : Nat) (v : Word) : (s.setHreg a v).hreg a = v := sparseGet_set_same ..

theorem State.hreg_setHreg_other {a b : Nat} (v : Word) (h : b ≠ a) : (s.setHreg a v).hreg b = s.hreg b :=
  sparseGet_set_other _ _ _ h

theorem State.hreg_whf_same (a : Nat) (f : Field) (n : Nat) : (s.whf a f n).hreg a = putField (s.hreg a) f n :=
  State.hreg_setHreg_same ..

theorem State.hreg_whf_other {a b : Nat} (f : Field) (n : Nat) (h : b ≠ a) : (s.whf a f n).hreg b = s.hreg b :=
  State.hreg_setHreg_other _ _ h

theorem State.hf_whf_same (a : Nat) (f : Field) (n : Nat) (hf : f.lo + f.width ≤ 64) :
    (s.whf a f n).hf a f = n % 2 ^ f.width := by
  rw [State.hf, State.hreg_whf_same, getField_putField_same _ _ _ hf]

/-! ## Bays -/

@[simp] theorem State.bay_setBay_same (b : BayId) (x : Bay) : (s.setBay b x).bay b = x := sparseGet_set_same ..

theorem bayIx_inj {b c : BayId} (h : bayIx b = bayIx c) : b = c := by
  obtain ⟨d, y⟩ := b
  obtain ⟨d', y'⟩ := c
  unfold bayIx at h
  simp only at h
  have h1 : d = d' := by omega
  have h2 : y = y' := by omega
  subst h1 h2
  rfl

theorem State.bay_setBay_other {b c : BayId} (x : Bay) (h : c ≠ b) : (s.setBay b x).bay c = s.bay c :=
  sparseGet_set_other _ _ _ fun e => h (bayIx_inj e)

@[simp] theorem State.reg_setBay (b : BayId) (x : Bay) (a : Nat) : (s.setBay b x).reg a = s.reg a := rfl

@[simp] theorem State.rf_setBay (b : BayId) (x : Bay) (a : Nat) (f : Field) : (s.setBay b x).rf a f = s.rf a f := rfl

@[simp] theorem State.bay_setReg (a : Nat) (v : Word) (b : BayId) : (s.setReg a v).bay b = s.bay b := rfl

@[simp] theorem State.bay_wf (a : Nat) (f : Field) (n : Nat) (b : BayId) : (s.wf a f n).bay b = s.bay b := rfl

/-! ## SRAM -/

@[simp] theorem State.sramByte_setSram_same (b : BayId) (o : Nat) (v : Byte) : (s.setSram b o v).sramByte b o = v :=
  memGet_memSet_same ..

theorem State.sramByte_setSram_other {b c : BayId} {o p : Nat} (v : Byte)
    (h : c ≠ b ∨ p % 2 ^ 24 ≠ o % 2 ^ 24) : (s.setSram b o v).sramByte c p = s.sramByte c p := by
  refine memGet_memSet_other _ _ fun e => ?_
  have h1 : bayIx c = bayIx b := by omega
  rcases h with h | h
  · exact h (bayIx_inj h1)
  · omega

/-! ## Open values -/

@[simp] theorem State.draw_fst : s.draw.1 = Config.freeWord s.freeCtr := rfl

end Sys2Proof.Machine
end

