-- ==== Sys2Proof/WellFormed.lean ====
section
/-!
DEFINITION. Sys2Proof/WellFormed.lean: the checks on a command's operands that no type makes: lengths, ranges and alignments that the
channel a command arrives on fixes. A meaning takes any operand; a well-formed command is one that the block's surroundings can send.
-/

set_option Elab.async false

namespace Sys2Proof

/-- Bits [lo + n - 1 : lo] of a word. -/
def wordBits (w : Word) (lo n : Nat) : Nat := w.toNat / 2 ^ lo % 2 ^ n

/-- A command packet carries the parameter words that LEN counts, whole words of them, and no more than a ring holds (R419). -/
def Cmd.wf (c : Cmd) : Bool :=
  let len := wordBits c.w0 48 16
  len % 8 == 0 && decide (len ≤ 65440) && c.params.length == len / 8

/-- A packet's payload is at most 512 bytes (R329). -/
def Packet.wf (p : Packet) : Bool := decide (p.payload.length ≤ 512)

/-- A flit is 256 bytes (R386). -/
def Flit.wf (f : Flit) : Bool := f.words.length == 32

/-- A timing record arrives at a frame of the counter, and at an offset within a frame (R294, R305). -/
def TimingRec.wf (r : TimingRec) : Bool := decide (r.atFrame < 2 ^ 48) && decide (r.atSub < 327680)

/-- A reading names a sensor its unit has (R464): 48 of a compute die, 16 of a base die, 6 of a Casement, 1 of a stack. -/
def sensorWf (u : Fin 36) (sensor : Nat) : Bool :=
  decide (sensor < (if u.val < 12 then 48 else if u.val < 16 then 16 else if u.val < 24 then 6 else 1))

/-- Telemetry covers the five rails, the four wings and the twelve dies. -/
def FrameEnv.wf (e : FrameEnv) : Bool :=
  e.railMw.length == 5 && e.railMv.length == 5 && e.wingW.length == 4 && e.dieW.length == 12 && e.dieMv.length == 12 &&
    e.sensors.all (fun r => sensorWf r.unit r.sensor)

/-- A failing row is a row of an SRAM bank. -/
def RowFail.wf (r : RowFail) : Bool := decide (r.bank < 64) && decide (r.row < 4096) && decide (r.word < 8) && decide (r.bit < 128)

def SliceEnv.wf (e : SliceEnv) : Bool := match e.fail with | some r => r.wf | none => true

/-- A receive engine has sixteen lanes, each reported once at most, within the 8 ns it listens (R296). -/
def Burst.wf (b : Burst) : Bool := decide (b.lanes.length ≤ 16) && (b.lanes.map (fun r => r.lane)).Nodup

/-- Memory errors of a descriptor lie in the device address space. -/
def UnitEnv.wf (e : UnitEnv) : Bool := e.mem.all (fun m => decide (m.da < 2 ^ 48))

/-- Times of S1 to S8 and S11; each unit's outcome once. -/
def StartEnv.wf (e : StartEnv) : Bool :=
  decide (e.stageUs.length ≤ 9) && decide e.stackDead.Nodup && decide (e.guests.map (fun g => g.1)).Nodup

/-- A write of one to eight bytes that is whole within its register space (R5, R27). -/
def accessWf (sp : Space) (addr width : Nat) : Bool :=
  (width == 1 || width == 2 || width == 4 || width == 8 || sp == .bar0) && decide (0 < width) && decide (width ≤ 64) &&
    decide (addr + width ≤ (match sp with | .mgmt => 2 ^ 40 | .bar0 => 2 ^ 25))

/-- A command that the block's surroundings can send. -/
def Instr.wf : Instr → Bool
  | .startUp e => e.wf
  | .thermalTrip u sensor _ | .sensorUnchanged u sensor => sensorWf u sensor
  | .configurationRequest offset _ => decide (offset < 4096) && offset % 4 == 0
  | .frameBoundary e => e.wf
  | .burstArrival _ _ _ b => b.wf
  | .timingRecord _ r => r.wf
  | .laneMapNotice _ p | .vacate _ p | .restore _ p | .exclude _ p | .offer _ p | .accept _ p | .retrainReq _ p | .retrainAck _ p
  | .goingDown _ p | .ackOnly _ p | .sendData _ p | .memRd _ p _ | .memWr _ p | .memCpl _ p | .neighbours _ p | .hearthCommand _ p
  | .hearthReply _ p | .hearthEvent _ p | .skyDone _ p => p.wf
  | .dataFlit _ f | .idleFlit _ f | .frameFlit _ f => f.wf
  | .guestWindowAccess _ offset _ _ => decide (offset < 2 ^ 20)
  | .patrolRead _ _ da _ _ => decide (da < 2 ^ 48) && da % 64 == 0
  | .sramSlice _ e | .larderSlice _ e | .pantrySlice _ e => e.wf
  | .cmdTimeout c => c.wf
  | .hatchWrite bs _ _ => decide (0 < bs.length) && decide (bs.length ≤ 4096)
  | .hatchRead n _ _ => decide (0 < n) && decide (n ≤ 4096)
  | .registerWrite _ sp addr width _ => accessWf sp addr width
  | .matmul _ e | .attnBlock _ e | .conv _ e | .vec _ e | .vecMicro _ e | .convert _ e | .reduce _ e | .load _ e
  | .microprogramLoad _ e | .store _ e | .select _ e | .send _ e => e.wf
  | .identify c | .podList c | .mgmtRead c | .mgmtWrite c | .configWrite c | .configRead c | .wingRoleSet c | .regionSet c
  | .regionClear c | .halt c | .stepStart c | .stepAbort c | .memFill c | .memCopy c | .larderFlush c | .pantryPublish c
  | .pantryResolve c | .pantryRelease c | .pantryEvict c | .annexSet c | .annexClear c | .modelLoad c | .linkSet c | .linkWidth c
  | .linkRetrain c | .linkState c | .laserSet c | .laserSwap c | .laserCommission c | .laserThreshSet c | .calSet c | .planLoad c
  | .planDelta c | .settleSet c | .beatRealign c | .skySet c | .skyCal c | .powerPointSet c | .powerCapSet c | .unitPower c
  | .tripAck c | .faultRead c | .faultClear c | .reactionSet c | .fallbackLoad c | .unfence c | .faultInject c | .authChallenge c
  | .authResponse c | .authDrop c | .fwInstall c | .lifecycleSet c | .attest c | .auditRead c | .makerTest c
  | .i3cCommandWrite c => c.wf
  | .i3cDataWrite bs _ => decide (8 ≤ bs.length) && decide (bs.length ≤ 256)
  | .extest lands => decide (lands.length ≤ 4096)
  | _ => true

end Sys2Proof
end

