-- ==== Sys2Proof/Tests/Slice0.lean ====
section
/-!
SUPPORT. Sys2Proof/Tests/Slice0.lean: an ill-formed command for each check of WellFormed, small states that meet the hypotheses of the
statements, and single steps on them.
-/

namespace Sys2Proof.Tests

open Sys2Proof.Machine

set_option Elab.async false

/-! ## Ill-formed commands -/

/-- A command of n parameter words whose LEN counts len bytes. -/
def cmdLen (len n : Nat) : Cmd :=
  { via := .i3c, w0 := BitVec.ofNat 64 (1 + len * 2 ^ 48), w1 := 0, w2 := 0, w3 := 0, params := List.replicate n 0 }

def packetOf (n : Nat) : Packet := { w0 := 0, w1 := 0, w2 := 0, w3 := 0, payload := List.replicate n 0 }

/-- A timing record of given words that arrives at a frame, an offset into it. -/
def recOf (w0 w1 w2 : Word) (frame sub : Nat) : TimingRec :=
  { w0 := w0, w1 := w1, w2 := w2, w3 := 0, w4 := 0, w5 := 0, w6 := 0, w7 := 0, atFrame := frame, atSub := sub }

def frameEnv (rails : Nat) (sensors : List SensorReading) : FrameEnv :=
  { railMw := List.replicate rails 0, railMv := [0, 0, 0, 0, 0], wingW := [0, 0, 0, 0], dieW := List.replicate 12 0,
    dieMv := List.replicate 12 0, sensors := sensors }

def sliceOf (bank row word bit : Nat) : SliceEnv := { voltageOk := true, fail := some { bank := bank, row := row, word := word, bit := bit } }

def memUnit (da : Nat) : UnitEnv := { sram := [], mem := [{ da := da, corrected := true }], fault := none }

def bootEnv (us : List Nat) (dead : List Stack) : StartEnv :=
  { reads := { haA := true, hbA := true, haB := true, hbB := true }, romOkA := true, romOkB := true, cfgRead := true, bist := [],
    chanFail := [], stackDead := dead, modules := [], guests := [], faPresent := 0, porchUp := 0, weakLasers := [], ringFail := [],
    stageUs := us }

def noPeer : PeerReply := { status := 0, data := [] }

theorem test_wf_cmd : (Instr.identify (cmdLen 8 1)).wf = true ∧ (Instr.identify (cmdLen 4 0)).wf = false ∧
    (Instr.identify (cmdLen 65448 8181)).wf = false ∧ (Instr.identify (cmdLen 8 2)).wf = false ∧
    (Instr.makerTest (cmdLen 8 2)).wf = false ∧ (Instr.i3cCommandWrite (cmdLen 8 2)).wf = false ∧
    (Instr.cmdTimeout (cmdLen 8 2)).wf = false := by decide +kernel

theorem test_wf_packet : (Instr.ackOnly 0 (packetOf 512)).wf = true ∧ (Instr.ackOnly 0 (packetOf 513)).wf = false := by decide +kernel

theorem test_wf_flit : (Instr.dataFlit 0 { words := List.replicate 32 0 }).wf = true ∧
    (Instr.dataFlit 0 { words := List.replicate 31 0 }).wf = false := by decide +kernel

theorem test_wf_record : (Instr.timingRecord (.porch 0) (recOf 0 0 0 0 327679)).wf = true ∧
    (Instr.timingRecord (.porch 0) (recOf 0 0 0 0 327680)).wf = false ∧
    (Instr.timingRecord (.porch 0) (recOf 0 0 0 (2 ^ 48) 0)).wf = false := by decide +kernel

theorem test_wf_sensor : (Instr.thermalTrip 11 47 0).wf = true ∧ (Instr.thermalTrip 11 48 0).wf = false ∧
    (Instr.sensorUnchanged 12 16).wf = false ∧ (Instr.sensorUnchanged 16 6).wf = false ∧
    (Instr.sensorUnchanged 24 1).wf = false := by decide +kernel

theorem test_wf_frame : (Instr.frameBoundary (frameEnv 5 [])).wf = true ∧ (Instr.frameBoundary (frameEnv 4 [])).wf = false ∧
    (Instr.frameBoundary (frameEnv 5 [{ unit := 35, sensor := 1, temp := 0 }])).wf = false := by decide +kernel

theorem test_wf_slice : (Instr.sramSlice (bayOf 0) (sliceOf 63 4095 7 127)).wf = true ∧ (Instr.sramSlice (bayOf 0) (sliceOf 64 0 0 0)).wf = false ∧
    (Instr.larderSlice 0 (sliceOf 0 4096 0 0)).wf = false ∧ (Instr.pantrySlice 0 (sliceOf 0 0 8 0)).wf = false ∧
    (Instr.pantrySlice 0 (sliceOf 0 0 0 128)).wf = false := by decide +kernel

def laneRes (n : Fin 16) : LaneResult := { lane := n, codewords := 0, corrected := 0, symbols := 0, uncorrectable := 0, power := 0 }

theorem test_wf_burst : (Instr.burstArrival 0 0 0 { offset := none, peerMatch := true, lanes := [laneRes 0, laneRes 1] }).wf = true ∧
    (Instr.burstArrival 0 0 0 { offset := none, peerMatch := true, lanes := [laneRes 1, laneRes 1] }).wf = false := by decide +kernel

theorem test_wf_unit : (Instr.load (bayOf 0) (memUnit 0)).wf = true ∧ (Instr.load (bayOf 0) (memUnit (2 ^ 48))).wf = false := by decide +kernel

theorem test_wf_start : (Instr.startUp (bootEnv (List.replicate 9 0) [0, 1])).wf = true ∧
    (Instr.startUp (bootEnv (List.replicate 10 0) [])).wf = false ∧ (Instr.startUp (bootEnv [] [1, 1])).wf = false := by decide +kernel

theorem test_wf_access : (Instr.registerWrite .host .mgmt 0 8 0).wf = true ∧ (Instr.registerWrite .host .mgmt 0 3 0).wf = false ∧
    (Instr.registerWrite .host .mgmt (2 ^ 40 - 4) 8 0).wf = false ∧ (Instr.registerWrite .host .bar0 (2 ^ 25) 8 0).wf = false ∧
    (Instr.registerWrite .host .bar0 0 0 0).wf = false ∧ (Instr.registerWrite .host .bar0 0 65 0).wf = false := by decide +kernel

theorem test_wf_offsets : (Instr.configurationRequest 4092 none).wf = true ∧ (Instr.configurationRequest 4096 none).wf = false ∧
    (Instr.configurationRequest 2 none).wf = false ∧ (Instr.guestWindowAccess 0 (2 ^ 20) none none).wf = false ∧
    (Instr.patrolRead 0 0 (2 ^ 48) .clean false).wf = false ∧ (Instr.patrolRead 0 0 32 .clean false).wf = false := by decide +kernel

theorem test_wf_lengths : (Instr.hatchWrite [] true noPeer).wf = false ∧ (Instr.hatchRead 4097 none noPeer).wf = false ∧
    (Instr.i3cDataWrite [0, 0, 0, 0] noPeer).wf = false ∧ (Instr.i3cDataWrite (List.replicate 264 0) noPeer).wf = false ∧
    (Instr.extest (List.replicate 4097 true)).wf = false := by decide +kernel

/-! ## States that meet the hypotheses of the statements -/

/-- A package that runs. -/
def on : State := { State.reset with mode := .ready }

def b0 : BayId := bayOf 0

/-- A running package in a Beat state at a frame. -/
def beatAt (st frame : Nat) : State := (on.wf STR_BEAT STR_BEAT_STATE st).wf STR_FRAME STR_FRAME_FRAME frame

/-- A package heard at a frame. -/
def heardAt (pkg frame : Nat) (master : Bool) : Heard :=
  { pkg := pkg, candidate := true, master := master, aligned := true, masterId := pkg, stratum := 0, frame := frame, alignedAt := some 0,
    exchanged := true, delta := 5 }

def hearing (s : State) (h : Heard) : State := { s with beat := { s.beat with heard := [h] } }

/-- A candidate of package 9. -/
def asCandidate (s : State) : State := (s.wf HRT_PKGID HRT_PKGID_PKG_ID 9).wf HRT_PKGID HRT_PKGID_BEAT_CANDIDATE 1

theorem witness_EmptyQueueIdles : State.reset.pending = [] := rfl

theorem witness_steps : (∃ t, step State.reset = .next t) ∧ (∃ t, step { State.reset with pending := [.bypass, .idcode] } = .next t) :=
  ⟨⟨_, rfl⟩, ⟨_, rfl⟩⟩

theorem witness_StepKeepsSoundness : Sound { State.reset with pending := [.bypass] } ∧
    ∃ t, step { State.reset with pending := [.bypass] } = .next t :=
  ⟨{ mem := rfl, sram := rfl, hostMem := rfl, ringMem := rfl, mgmt := rfl, hb := rfl, history := Nat.zero_le _,
     audit := Nat.zero_le _, repairs := Nat.zero_le _, dups := fun _ _ => Nat.zero_le _, log := ⟨List.Perm.refl _, Nat.zero_le _⟩ },
   _, rfl⟩

theorem witness_CommandsAnswerNextState : (∀ c, Instr.bypass ≠ .makerTest c) ∧ (∀ c, Instr.bypass ≠ .i3cCommandWrite c) :=
  ⟨nofun, nofun⟩

def makerCmd : Cmd := { via := .i3c, w0 := BitVec.ofNat 64 (1 + 0x800 * 2 ^ 4), w1 := 0, w2 := 0, w3 := 0, params := [] }

theorem witness_ResetsWipeThePackage : (10000 ≤ 10000 ∧ 9999 < 10000) ∧ (1000 ≤ 1000 ∧ 999 < 1000) ∧
    ({ State.reset with resetPend := true } : State).resetPend = true ∧ State.reset.resetPend = false := by decide +kernel

theorem witness_RailUndervoltageResets : (1000 ≤ 1000 ∧ 10 * 1619 < 9 * ([1800, 1100, 1200, 3300, 1200].getD (0 : Fin 5).val 0)) ∧
    9 * ([1800, 1100, 1200, 3300, 1200].getD (0 : Fin 5).val 0) ≤ 10 * 1620 ∧ 999 < 1000 := by decide +kernel

theorem witness_TripClampHoldsUntilPowerIsRemoved :
    (({ State.reset with clamped := true } : State).clamped = true ∧ (∀ ms, 100 ≤ ms → Instr.bypass ≠ .inputPowerRemoved ms) ∧
      ∃ t, exec .bypass { State.reset with clamped := true } = .next t) ∧ 100 ≤ 100 ∧ 99 < 100 :=
  ⟨⟨rfl, nofun, _, rfl⟩, by decide, by decide⟩

theorem witness_RetiredIsFinal : ∃ s : State, s.nv.lifecycle = 4 ∧ s.lifePend = none ∧ ∃ t, step s = .next t :=
  ⟨{ State.reset with nv := { State.reset.nv with lifecycle := 4 } }, rfl, rfl, _, rfl⟩

def trstHigh : State := { on with jtag := { on.jtag with trst := false } }
def scanning : State := { trstHigh with jtag := { trstHigh.jtag with scan := true } }

theorem witness_JtagInstructionsAndScan : trstHigh.jtag.trst = false ∧
    ({ on with jtag := { on.jtag with trst := true } } : State).jtag.trst = true ∧
    trstHigh.rf SEC_STATUS SEC_STATUS_KEYS ≠ 2 ∧ trstHigh.mode ≠ .off ∧
    ((trstHigh.wf SEC_STATUS SEC_STATUS_KEYS 2).rf SEC_STATUS SEC_STATUS_KEYS = 2 ∧
      (trstHigh.wf SEC_STATUS SEC_STATUS_KEYS 2).jtag.trst = false ∧ (trstHigh.wf SEC_STATUS SEC_STATUS_KEYS 2).mode ≠ .off) ∧
    (scanning.jtag.scan = true ∧ scanning.jtag.trst = false) ∧ trstHigh.jtag.scan = false := by decide +kernel

theorem witness_ElectEndsInMasterAligningOrAcquire :
    (let s := asCandidate (beatAt btElect 100000)
     s.beatState = btElect ∧ s.rf STR_CFG STR_CFG_ELECT_FRAMES ≤ s.framesSince s.beat.since ∧
     (s.candidate && !s.beat.heard.any (fun h => s.heardNow h && (h.master || (h.candidate && h.pkg != 0 && decide (h.pkg < s.pkg))))) = true) ∧
    (let s := beatAt btElect 100000
     s.beatState = btElect ∧ s.rf STR_CFG STR_CFG_ELECT_FRAMES ≤ s.framesSince s.beat.since ∧ s.candidate = false ∧ s.masterHeard = none) ∧
    (let s := hearing (beatAt btElect 100000) (heardAt 3 100000 true)
     s.beatState = btElect ∧ s.rf STR_CFG STR_CFG_ELECT_FRAMES ≤ s.framesSince s.beat.since ∧ s.candidate = false ∧
     s.masterHeard = some 3 ∧ s.reference 3 = some (heardAt 3 100000 true, 1)) := by decide +kernel

theorem witness_HoldoverKeepsTheCounter :
    (let s := beatAt btAligned 100000
     s.beatState = btAligned ∧ s.rf STR_CFG STR_CFG_HOLD_FRAMES ≤ s.framesSince s.beat.lastRef) ∧
    (beatAt btAligned 0).framesSince (beatAt btAligned 0).beat.lastRef < (beatAt btAligned 0).rf STR_CFG STR_CFG_HOLD_FRAMES ∧
    on.beatState ≠ btAligned ∧
    (let s := beatAt btHoldover 1024
     s.beatState = btHoldover ∧ 1024 ≤ s.framesSince s.beat.since) ∧
    (beatAt btHoldover 1023).framesSince (beatAt btHoldover 1023).beat.since < 1024 := by decide +kernel

theorem witness_HandoverMovesTheMasterRole :
    (let s := hearing (asCandidate (beatAt btMaster 2000)) (heardAt 3 2000 false)
     s.beatState = btMaster ∧ s.beat.handover = none ∧
     lowestHeard (s.beat.heard.filter (fun h => s.heardNow h && h.candidate && decide (h.pkg < s.pkg) && h.pkg != 0 &&
        (match h.alignedAt with | some a => decide (1024 ≤ s.framesSince a) | none => false))) = some (heardAt 3 2000 false)) ∧
    on.beatState ≠ btMaster ∧
    (let s : State := { beatAt btMaster 100 with beat := { on.beat with handover := some (100, 3) } }
     s.beat.handover = some (100, 3) ∧ frameReached s.frame 100 = true) ∧
    (let s : State := { beatAt btMaster 99 with beat := { on.beat with handover := some (100, 3) } }
     s.beat.handover = some (100, 3) ∧ frameReached s.frame 100 = false) := by decide +kernel

/-- A record of version 1 of a pod's package 5. -/
def podRec (pod : Nat) : TimingRec := recOf (BitVec.ofNat 64 (1 + 2 ^ 8 * 5 + 2 ^ 48 * pod)) 0 0 0 0

def fsyncOnly (s : State) : State := s.wf STR_CFG STR_CFG_FSYNC_SRC 1

/-- A package with an enabled optical pair. -/
def paired (s : State) : State := s.wf (CSM_PAIR 7 15) CSM_PAIR_EN 1

theorem witness_TimingRecordsAndFsyncAreHeard :
    (on.mode ≠ .off ∧ getField (podRec 1).w0 (bits 3 0) = 1 ∧ Rec.pod (podRec 1) ≠ on.rf HRT_PKGID HRT_PKGID_POD_ID) ∧
    (let s := fsyncOnly (beatAt btAcquire 7)
     s.mode ≠ .off ∧ getField (podRec 0).w0 (bits 3 0) = 1 ∧ Rec.pod (podRec 0) = s.rf HRT_PKGID HRT_PKGID_POD_ID ∧ s.fsyncOn = true ∧
     s.beatState = btAcquire ∧ Rec.handover (podRec 0) = false) ∧
    State.reset.mode = .off ∧ getField (recOf 2 0 0 0 0).w0 (bits 3 0) ≠ 1 ∧
    (on.wf STR_CFG STR_CFG_FSYNC_SRC 0).rf STR_CFG STR_CFG_FSYNC_SRC = 0 ∧
    ((paired (fsyncOnly on)).opticalOn = true ∧ (paired (fsyncOnly on)).beat.fsyncNoted = false ∧
      (paired (fsyncOnly on)).rf STR_CFG STR_CFG_FSYNC_SRC ≠ 0) ∧
    (let s := paired on
     ({ s with beat := { s.beat with fsyncNoted := true } } : State).opticalOn = true) ∧
    (let s := fsyncOnly (beatAt btHoldover 7)
     s.rf STR_CFG STR_CFG_FSYNC_SRC ≠ 0 ∧ s.opticalOn = false ∧ (-80 : Int) ≤ -80 ∧ (-80 : Int) ≤ 80 ∧ s.beatState = btHoldover) := by
  decide +kernel

def swapping (stage : Nat) : State := on.setCsm 0 { on.csm 0 with swaps := [{ chan := 17, attic := 3, stage := stage }] }

theorem witness_AtticSwapGoesStageByStage :
    (∀ n ∈ [0, 1, 2, 3, 4], ((swapping n).swapOf 0 3).map Swap.stage = some n) ∧
    (∀ x ∈ ([3] : List (Fin 4)), x = 3) ∧ (∃ x ∈ ([3, 2] : List (Fin 4)), x ≠ 3) ∧
    (swapping 2).rf (LSR_ATTIC 0 3) LSR_ATTIC_VERIFY_FAILS < 2 ∧ lowestReady ((swapping 3).csm 0).swaps = none ∧
    lowestReady ((swapping 4).csm 0).swaps = some { chan := 17, attic := 3, stage := 4 } ∧ (swapping 4).chan 0 17 ≠ chDown ∧
    (swapping 4).rf (LSR_GRID 0 17) LSR_GRID_SOURCE < 4 := by decide +kernel

def laserJob (n : Nat) (up : Bool) : State :=
  { on with power := [{ unit := laserLoc 7 n, on := up, busy := true, frames := 0, next := none, cmd := none, nextCmd := none }] }

theorem witness_LaserChangesComplete : on.powerJob (laserLoc 7 23) = none ∧
    (∀ up ∈ [true, false], ((laserJob 22 up).powerJob (laserLoc 7 22)).map
      (fun j => decide (j.unit = laserLoc 7 22 ∧ j.on = up ∧ j.next = none ∧ j.cmd = none)) = some true) := by decide +kernel

def ringIn (r st : Nat) : State := on.wf (ringReg 0 r) TUN_RING_STATE st

theorem witness_RingLoopsLockMislockAndLoseLock :
    (∀ st ∈ [rgCold, rgSweep, rgVerify, rgLocked], (ringIn 305 st).ring 0 305 = st ∧ (ringIn 0 st).ring 0 0 = st) ∧
    (ringIn 305 rgSweep).rf (ringReg 0 305) TUN_RING_ATTEMPT < 2 ∧ (0 : Channel).val ≠ ringChan 305 ∧ (17 : Channel).val = ringChan 305 ∧
    (beatAt btMaster 249).frame % 250 ≠ 0 ∧
    (let s := (beatAt btMaster 250).wf (ringReg 0 305) TUN_RING_STATE rgLocked
     s.frame % 250 = 0 ∧ s.auditNext 0 (s.csm 0).auditRing = some 305 ∧ (17 : Channel).val = ringChan 305) := by decide +kernel

theorem witness_FibreArrayMeshFaultsAndFade :
    (on.wf (TUN_RXMESH 0 231) TUN_TXMESH_STATE 3).rf (TUN_RXMESH 0 231) TUN_TXMESH_STATE = 3 ∧
    on.rf (TUN_TXMESH 0 231) TUN_TXMESH_STATE ≠ 3 ∧ (on.wf (CSM_FA 0) CSM_FA_DARK 1).rf (CSM_FA 0) CSM_FA_DARK = 1 ∧ on.mode ≠ .off ∧
    (beatAt btMaster 251).frame % 250 ≠ 0 ∧
    (let s := (beatAt btMaster 500).wf (LSR_GRID 0 17) LSR_GRID_STATE chLit
     s.mode ≠ .off ∧ s.frame % 250 = 0 ∧ s.chanLit 0 17 = true ∧ s.serving 0 17 = 17 ∧ (∀ i < 3, (s.fadeLimits 0).getD i 0 < 0) ∧
     s.carrier 0 0 ≠ crActive ∧ s.carrier 0 1 ≠ crActive) := by decide +kernel

/-- A Casement whose rotating calibration has come to ring pos in a phase, since frame 0. -/
def calibrating (ph : CalPhase) (pos frame : Nat) : State :=
  let s := (beatAt btMaster frame).wf (TUN_CFG 7) TUN_CFG_CAL_EN 1
  s.setCsm 7 { s.csm 7 with calPhase := ph, calPos := pos }

theorem witness_RotatingCalibrationTakesItsTurns :
    on.calRuns 7 = false ∨ (on.csm 7).calPhase ≠ .idle ∨ frameReached on.frame (on.csm 7).calDue = false := by decide +kernel

theorem witness_RotatingCalibration_clauses :
    (let s := calibrating .idle 143 100000
     s.calRuns 7 = true ∧ (s.csm 7).calPhase = .idle ∧ frameReached s.frame (s.csm 7).calDue = true ∧ (s.csm 7).calFirst = [] ∧
     s.engineUp 7 0 (ringEngine (s.csm 7).calPos) = false ∧ (s.csm 7).calPos < 144) ∧
    (let s := calibrating .cal 143 5
     (s.csm 7).calPhase = .cal ∧ (s.csm 7).moved = [] ∧ s.rf (TUN_CAL 7) TUN_CAL_RING < 144) ∧
    (let s := calibrating (.vacating 0) 0 5
     (s.csm 7).calPhase = .vacating 0 ∧ s.framesSince 0 < s.rf (TUN_CFG 7) TUN_CFG_CAL_TIMEOUT) ∧
    (let s := calibrating (.vacating 0) 0 100000
     (s.csm 7).calPhase = .vacating 0 ∧ s.rf (TUN_CFG 7) TUN_CFG_CAL_TIMEOUT ≤ s.framesSince 0) := by decide +kernel

/-! ### Links -/

/-- A link of package 9, in a state, whose peer is link 7 of package 3. -/
def linkIn (l st : Nat) : State :=
  (on.wf HRT_PKGID HRT_PKGID_PKG_ID 9).wfs (DRL_STATUS l)
    [(DRL_STATUS_STATE, st), (DRL_STATUS_VERSION, 2), (DRL_STATUS_PEER_PKG, 3), (DRL_STATUS_PEER_LINK, 7)]

/-- The same with pool space and a live attachment. -/
def upLink (l : Nat) : State :=
  let s := (linkIn l lkUp).wf (DRL_POOL l) DRL_POOL_POOL 64
  s.setAttach (l / 16) { s.csmAttach (l / 16) with live := true }

/-- A packet of the peer with its CRC. -/
def peerPacket (type vc len : Nat) (w2 : Word) (payload : List Byte) : Packet :=
  let p : Packet := { w0 := BitVec.ofNat 64 (2 + 2 ^ 4 * type + 2 ^ 8 * vc + 2 ^ 11 * len), w1 := BitVec.ofNat 64 (2 ^ 16 * 3 + 2 ^ 28 * 7 + 2 ^ 36 * 9),
                      w2 := w2, w3 := 0, payload := payload }
  { p with w3 := BitVec.ofNat 64 (2 ^ 32 * (packetCrc p).toNat) }

/-- The same with one bit of its CRC turned. -/
def badPacket (p : Packet) : Packet := { p with w3 := p.w3 ^^^ BitVec.ofNat 64 (2 ^ 32) }

def zeros (n : Nat) : List Byte := List.replicate n 0

/-- A lane message of a kind. -/
def laneBytes (kind serial epoch : Nat) : List Byte := natToBytes 32 (1 + 2 ^ 4 * kind + 2 ^ 16 * serial + 2 ^ 32 * epoch)

def lanePacket (kind : Nat) : Packet := peerPacket ptLinkCtl 0 1 1 (laneBytes kind 127 50)

set_option maxRecDepth 200000 in
theorem witness_LaneMessagesActOnTheMap :
    (∀ kind ∈ [lmNotice, lmVacate, lmRestore, lmExclude], getField (lanePacket kind).w2 (bits 7 0) = 1 ∧
      (laneMsgOf (lanePacket kind).payload).version = 1 ∧ (laneMsgOf (lanePacket kind).payload).kind = kind ∧
      ((upLink 127).receive 127 ptLinkCtl (lanePacket kind)).2 = true) ∧
    getField (peerPacket ptLinkCtl 0 1 2 (zeros 32)).w2 (bits 7 0) ≠ 1 ∧
    (let m := laneMsgOf (lanePacket lmNotice).payload
     let d := (m.serial + 256 - (upLink 127).mapSerial 127 1) % 256
     (upLink 127).isD1 127 = false ∧ d ≠ 0 ∧ d ≤ 127 ∧ frameReached (upLink 127).frame m.epoch = false) ∧
    ((upLink 127).wf (DRL_STATUS 127) DRL_STATUS_VERSION 1).isD1 127 = true := by decide +kernel

/-- A packet of a re-train or training step with its checks passed. -/
def trainPkt (code : Nat) : Packet := peerPacket ptLinkTrain 0 3 (BitVec.ofNat 64 code) (1 :: zeros 95)

set_option maxRecDepth 200000 in
theorem witness_TrainingTakesOfferAndAccept :
    (linkIn 135 lkUp).linkState 135 ≠ lkTraining ∧ (linkIn 135 lkTraining).linkState 135 = lkTraining ∧
    trainPacket tcOffer (trainPkt tcOffer) = true ∧ trainPacket tcAccept (trainPkt tcAccept) = true ∧
    trainPacket tcOffer (badPacket (trainPkt tcOffer)) = false ∧ trainPacket tcAccept (trainPkt tcOffer) = false ∧
    (linkIn 135 lkDown).linkState 135 = lkDown ∧ ((linkIn 135 lkDown).porchRetrain 135).trainReady 135 = false ∧
    (let s := ((linkIn 134 lkDown).wf (DRL_CFG 134) DRL_CFG_EN 1).setReg PCH_STATUS (BitVec.ofNat 64 (2 ^ 32 - 1))
     s.linkState 134 = lkDown ∧ (s.porchRetrain 134).trainReady 134 = true) := by decide +kernel

set_option maxRecDepth 200000 in
theorem witness_RetrainMessagesAreCheckedFirst :
    (linkIn 128 lkUp).isLive 128 = true ∧ ((linkIn 128 lkUp).trainHeader 128 tcRetrainReq (trainPkt tcRetrainReq)).2 = true ∧
    ((linkIn 128 lkUp).trainHeader 128 tcGoingDown (trainPkt tcGoingDown)).2 = true ∧
    (linkIn 128 lkRetraining).linkState 128 = lkRetraining ∧
    ((linkIn 128 lkRetraining).trainHeader 128 tcRetrainAck (trainPkt tcRetrainAck)).2 = true ∧
    (linkIn 128 lkHeld).isLive 128 = false ∧ (linkIn 128 lkUp).linkState 128 ≠ lkRetraining ∧
    packetCrc (badPacket (trainPkt tcRetrainReq)) ≠ BitVec.ofNat 32 (getField (badPacket (trainPkt tcRetrainReq)).w3 (bits 63 32)) := by
  decide +kernel

/-- A link in a state for some frames, dark for as many. -/
def timedLink (l st n : Nat) : State := (linkIn l st).setLink l { (linkIn l st).link l with frames := n, dark := n }

theorem witness_LinkTimersFire :
    (let s := timedLink 0 lkRetraining 100000
     s.linkState 0 = lkRetraining ∧ s.rf (DRL_CFG 0) DRL_CFG_RETRAIN_FRAMES ≤ (s.link 0).frames) ∧
    (timedLink 0 lkRetraining 0 |>.link 0).frames < (timedLink 0 lkRetraining 0).rf (DRL_CFG 0) DRL_CFG_RETRAIN_FRAMES ∧
    (let s := (timedLink 0 lkUp 1).wf (DRL_CFG 0) DRL_CFG_LOL_FRAMES 0
     s.isLive 0 = true ∧ max 1 (s.rf (DRL_CFG 0) DRL_CFG_LOL_FRAMES) ≤ (s.link 0).dark) ∧
    (timedLink 0 lkUp 0 |>.link 0).dark < max 1 ((timedLink 0 lkUp 0).rf (DRL_CFG 0) DRL_CFG_LOL_FRAMES) ∧
    (let s := timedLink 0 lkHeld 100000
     s.linkState 0 = lkHeld ∧ s.rf (DRL_CFG 0) DRL_CFG_DOWN_HOLD ≤ (s.link 0).frames) ∧
    (timedLink 0 lkHeld 0 |>.link 0).frames < (timedLink 0 lkHeld 0).rf (DRL_CFG 0) DRL_CFG_DOWN_HOLD ∧
    (timedLink 0 lkHeld 0).isLive 0 = false ∧ (upLink 0).rf (DRL_SEQ 0) DRL_SEQ_OUTSTANDING = 0 ∧
    (let s := (upLink 0).wf (DRL_SEQ 0) DRL_SEQ_OUTSTANDING 1
     s.linkUp 0 = true ∧ s.rf (DRL_SEQ 0) DRL_SEQ_OUTSTANDING ≠ 0 ∧
     (s.link 0).firings + 1 < max 1 (s.rf (DRL_CFG 0) DRL_CFG_REPLAY_LIMIT)) := by decide +kernel

def dataPacket : Packet := peerPacket ptSendData 0 1 0 (zeros 32)

set_option maxRecDepth 200000 in
theorem witness_PacketsAreTakenInOrder :
    (.sendData 128 dataPacket, ptSendData, fun s => s.sendData 128 dataPacket) ∈ packetRows 128 dataPacket false ∧
    ((upLink 128).receive 128 ptSendData dataPacket).2 = true ∧ ((upLink 128).receive 128 ptMemRd dataPacket).2 = false ∧
    on.isLive 128 = false ∧
    ((upLink 128).isLive 128 = true ∧ (upLink 128).attachLive 128 = true ∧
      packetCrc (badPacket dataPacket) ≠ BitVec.ofNat 32 (getField (badPacket dataPacket).w3 (bits 63 32))) ∧
    getField dataPacket.w2 (bits 7 0) ≠ 2 ∧
    (getField (peerPacket ptLinkCtl 0 1 2 (zeros 32)).w2 (bits 7 0) = 2 ∧
      ((upLink 128).receive 128 ptLinkCtl (peerPacket ptLinkCtl 0 1 2 (zeros 32))).2 = true) ∧
    (upLink 128).dropCause 128 ptAckOnly (badPacket dataPacket) = 1 ∧
    (upLink 128).dropCause 128 ptAckOnly (peerPacket ptAckOnly 0 1 0 (zeros 32)) = 0 :=
  ⟨List.mem_cons_self, by decide +kernel⟩

/-- A Hearth message of one part, of a kind, for this package. -/
def hearthPkt (kind : Nat) : Packet := peerPacket ptHearth 0 1 (BitVec.ofNat 64 (1 + 2 ^ 4 * kind)) (zeros 32)

set_option maxRecDepth 200000 in
theorem witness_HearthMessagesAreReassembled :
    (.hearthReply 128 (hearthPkt mkReply), mkReply, fun s m => s.hearthReply m) ∈
      ([(.hearthCommand 128 (hearthPkt mkReply), mkCommand, fun s m => s.hearthCommand m),
      (.hearthReply 128 (hearthPkt mkReply), mkReply, fun s m => s.hearthReply m),
      (.hearthEvent 128 (hearthPkt mkReply), mkEvent, fun s m => s.hearthEvent m),
      (.skyDone 128 (hearthPkt mkReply), mkSkyDone, fun s m => s.takeSkyDone m)] : List (Instr × Nat × (State → HearthMsg → State))) ∧
    (∀ k ∈ [mkCommand, mkReply, mkEvent, mkSkyDone], getField (hearthPkt k).w2 (bits 7 4) = k ∧
      ((upLink 128).receive 128 ptHearth (hearthPkt k)).2 = true ∧ Packet.relay (hearthPkt k) = false ∧
      getField (hearthPkt k).w2 (bits 3 0) = 1 ∧
      (State.gather (((upLink 128).receive 128 ptHearth (hearthPkt k)).1.freePool 128 0 (Packet.units (hearthPkt k))) 128 (hearthPkt k)).2 =
        some [0, 0, 0, 0]) ∧
    ((upLink 128).receive 128 ptHearth (badPacket (hearthPkt mkReply))).2 = false :=
  ⟨List.mem_cons_of_mem _ List.mem_cons_self, by decide +kernel⟩
/-! ### Attachments, sites, Porch lanes, memory, queues and steps -/

/-- A live attachment. -/
def attached (a : Nat) : State := on.setAttach a { on.csmAttach a with live := true }

/-- A flit of a kind and a number, with its CRC in its last word. -/
def flitOf (kind seq : Nat) : Flit :=
  let ws := BitVec.ofNat 64 (1 + 2 ^ 4 * kind + 2 ^ 6 * seq) :: List.replicate 30 (0 : Word)
  { words := ws ++ [BitVec.ofNat 64 (2 ^ 32 * (crc32c (wordsToBytes (ws ++ [0]))).toNat)] }

theorem flitHead_ok (s : State) (a kind : Nat) (f : Flit) (hl : (s.csmAttach a).live = true)
    (hc : ¬(f.words.length ≠ 32 ∨ (crc32c (wordsToBytes (f.words.take 31 ++ [putField (f.words.getD 31 0) (bits 63 32) 0]))).toNat ≠
      getField (f.words.getD 31 0) (bits 63 32)))
    (hk : ¬(getField (f.words.getD 0 0) (bits 3 0) ≠ 1 ∨ getField (f.words.getD 0 0) (bits 5 4) ≠ kind)) :
    s.flitHead a kind f = (s, some (f.words.getD 0 0)) := by
  simp only [State.flitHead, hl, Bool.not_true, Bool.false_eq_true, if_false, if_neg hc, if_neg hk]

set_option maxRecDepth 200000 in
theorem witness_FlitsAreTakenInSequence :
    (on.csmAttach 7).live = false ∧
    (attached 7).flitHead 7 0 (flitOf 0 0) = (attached 7, some ((flitOf 0 0).words.getD 0 0)) ∧
    (attached 7).flitHead 7 1 (flitOf 1 0) = (attached 7, some ((flitOf 1 0).words.getD 0 0)) ∧
    (attached 7).flitHead 7 2 (flitOf 2 1) = (attached 7, some ((flitOf 2 1).words.getD 0 0)) ∧
    getField ((flitOf 0 0).words.getD 0 0) (bits 15 6) = ((attached 7).csmAttach 7).rxNext ∧
    getField ((flitOf 2 1).words.getD 0 0) (bits 15 6) ≠ ((attached 7).csmAttach 7).rxNext ∧
    (let s := on.setAttach 7 { on.csmAttach 7 with live := true, replays := 6 }
     (s.csmAttach 7).live = true ∧ (s.csmAttach 7).replays + 1 < 8) :=
  ⟨by decide +kernel, flitHead_ok _ _ _ _ (by decide +kernel) (by decide +kernel) (by decide +kernel),
   flitHead_ok _ _ _ _ (by decide +kernel) (by decide +kernel) (by decide +kernel),
   flitHead_ok _ _ _ _ (by decide +kernel) (by decide +kernel) (by decide +kernel), by decide +kernel, by decide +kernel, by decide +kernel⟩

/-- A Casement 7 whose attachment is in a state. -/
def attIn (x : AttachSt) : State := ((on.wf (CSM_STATUS 7) CSM_STATUS_POWER 2).setAttach 7 x)

theorem witness_UcieModulesTrainAndReportWidth :
    on.modUp 7 / 2 ^ 15 % 2 = 0 ∧ (on.wf (CSM_ATTACH 7) CSM_ATTACH_MOD_UP (2 ^ 15)).modUp 7 = 2 ^ 15 ∧ on.attTrains 15 = false ∧
    (attIn AttachSt.init).attTrains 7 = true ∧ (on.csmAttach 7).resetting = false ∧
    ((attIn { AttachSt.init with resetting := true }).csmAttach 7).resetting = true := by decide +kernel

theorem witness_UcieWidthReports :
    getField (2 : Word) (bits 3 0) ≠ 1 ∧
    (let w : Word := 1
     let x := ({ AttachSt.init with peerSerial := some 8 } : AttachSt)
     let n := getField w (bits 7 4)
     (match x.peerSerial with | none => true | some h => decide (1 ≤ (n + 16 - h) % 16) && decide ((n + 16 - h) % 16 ≤ 7)) = false) ∧
    (let w : Word := 1
     let s := attIn { AttachSt.init with peerSerial := some 9 }
     let x := s.csmAttach 7
     let n := getField w (bits 7 4)
     s.mode ≠ .off ∧ getField w (bits 3 0) = 1 ∧
     (match x.peerSerial with | none => true | some h => decide (1 ≤ (n + 16 - h) % 16) && decide ((n + 16 - h) % 16 ≤ 7)) = true ∧
     x.resetting = false ∧ x.live = false ∧ s.isFenced (attLoc 7) = false ∧ x.mine = none) ∧
    (let x := (attIn { AttachSt.init with mine := some (1, 0) }).csmAttach 7
     x.mine = some (1, 0) ∧ x.peer = none ∧ x.live = false) := by decide +kernel

/-- Site 3 with a guest, in a state, with a window of one unit of 4 KiB. -/
def siteIn (st : Nat) : State :=
  let s : State := { on with fuse := { on.fuse with guestMask := 8 } }
  (s.wf (GST_STATUS 3) GST_STATUS_STATE st).wf (GST_CAP 3 1) (bits 47 32) 1

theorem witness_GuestSitesAdmitResetAndAnswer :
    on.siteWaits 3 = false ∧ (siteIn gsDiscovery).siteWaits 3 = true ∧ (siteIn gsDiscovery).rf (GST_STATUS 3) GST_STATUS_STATE ≠ gsTraining ∧
    (siteIn gsDiscovery).rf (GST_STATUS 3) GST_STATUS_STATE ≠ gsReady ∧ (siteIn gsReady).rf (GST_STATUS 3) GST_STATUS_STATE = gsReady ∧
    (siteIn gsTraining).rf (GST_STATUS 3) GST_STATUS_STATE = gsTraining ∧
    (let s := siteIn gsReady
     s.rf (GST_STATUS 3) GST_STATUS_STATE ≠ gsOff ∧ s.powerJob (locSite 3) = none ∧ 4096 * s.rf (GST_CAP 3 1) (bits 47 32) ≤ 4096 ∧
     4088 < 4096 * s.rf (GST_CAP 3 1) (bits 47 32)) := by decide +kernel

/-- Porch link 134 on lanes 24 to 27, some of which are UP. -/
def porchAt (up : Nat) : State :=
  (((on.wf PCH_CFG (PCH_CFG_LANE 24) 1).wf (PCH_LANE 24) PCH_LANE_STATE plUp)).setReg PCH_STATUS (BitVec.ofNat 64 up)

theorem witness_PorchLanesAndSeamsFail :
    on.porchLink 31 = none ∨ on.rf (PCH_LANE 31) PCH_LANE_STATE ≠ plUp := by decide +kernel

theorem witness_PorchLanesAndSeams_clauses :
    (∀ up ∈ [0x3000000, 0x7000000], (porchAt up).porchLink 24 = some 134 ∧ (porchAt up).rf (PCH_LANE 24) PCH_LANE_STATE = plUp) ∧
    2 * ((((porchAt 0x3000000).porchLanes 134).filter (fun m => m != 24 && wbit ((porchAt 0x3000000).reg PCH_STATUS) m)).length) <
      ((porchAt 0x3000000).porchLanes 134).length ∧
    ((porchAt 0x7000000).porchLanes 134).length ≤
      2 * ((((porchAt 0x7000000).porchLanes 134).filter (fun m => m != 24 && wbit ((porchAt 0x7000000).reg PCH_STATUS) m)).length) ∧
    on.mode ≠ .off ∧ on.seamUp 3 = true ∧
    (on.wf (HAL_STATUS (seamEnds 3).1) (seamPort 3) 2).seamUp 3 = false := by decide +kernel

def copying (st : Nat) : State := (on.wf (MEM_RETIRE 3) MEM_RETIRE_VALID 1).wf (MEM_RETIRE 3) MEM_RETIRE_STATE st

def reloading (left : Nat) : State :=
  { on with reloads := [{ plan := 0, da := 0, srcPkg := 0, srcAddr := 0, bytes := 64, left := left }] }

theorem witness_RetirementCopyAndPatrolEnd :
    ((copying 0).rf (MEM_RETIRE 3) MEM_RETIRE_VALID = 1 ∧ (copying 0).rf (MEM_RETIRE 3) MEM_RETIRE_STATE = 0 ∧ (copying 0).steps = []) ∧
    (on.rf (MEM_RETIRE 3) MEM_RETIRE_VALID ≠ 1 ∧ on.steps = []) ∧
    (on.rf (MEM_ECC_CTRL 3) MEM_ECC_CTRL_PATROL_HOURS ≠ 0 ∧ on.isPoisoned 64 = false) ∧
    (on.wf (MEM_ECC_CTRL 3) MEM_ECC_CTRL_PATROL_HOURS 0).rf (MEM_ECC_CTRL 3) MEM_ECC_CTRL_PATROL_HOURS = 0 ∧
    (reloading 1).reloads.any (fun x => x.left != 0) = true ∧
    ((reloading 0).reloads.any (fun x => x.left != 0) = false ∧ (reloading 0).steps = []) := by decide +kernel

/-- Queue 1115 with a middle of one line, of number 5. -/
def queued (head : Nat) : State := on.setQueue 1115 { Queue.empty with head := zeros head, mid := [(4096, 5)] }

/-- A line of zeros with a sequence number. -/
def lineOf (n : Nat) (ue : Bool) : CellarLine :=
  { words := List.replicate 7 (0 : Word) ++ [BitVec.ofNat 64 (2 ^ 56 * n)], stackUe := ue }

/-- Word 7 of a line of number 5 whose seven data words are zero and whose check bytes are all c. -/
def checkWord (c : BitVec 8) : Word := BitVec.ofNat 64 (0x01010101010101 * c.toNat + 5 * 2 ^ 56)

theorem checkWord_byte : ∀ (c : BitVec 8), ∀ k < 7, BitVec.ofNat 8 (getField (checkWord c) (bits (8 * k + 7) (8 * k))) = c := by
  decide +kernel

theorem checkWord_seq : ∀ c : BitVec 8, getField (checkWord c) (bits 63 56) = 5 := by decide +kernel

/-- A line of zeros with the right check bytes, whatever the code is. -/
def cleanLine : CellarLine := { words := List.replicate 7 (0 : Word) ++ [checkWord (Config.secded 0)], stackUe := false }

theorem cleanLine_codes : lineCodes cleanLine = List.replicate 7 ((0 : Word), CodeRead.clean) := by
  have h : ∀ k < 7, readCode 0 (BitVec.ofNat 8 (getField (checkWord (Config.secded 0)) (bits (8 * k + 7) (8 * k)))) = .clean := fun k hk => by
    rw [checkWord_byte _ k hk, readCode, if_pos rfl]
  show [_, _, _, _, _, _, _] = [_, _, _, _, _, _, _]
  exact congr (congrArg _ (Prod.ext rfl (h 0 (by decide)))) (congr (congrArg _ (Prod.ext rfl (h 1 (by decide)))) (congr (congrArg _
    (Prod.ext rfl (h 2 (by decide)))) (congr (congrArg _ (Prod.ext rfl (h 3 (by decide)))) (congr (congrArg _ (Prod.ext rfl
    (h 4 (by decide)))) (congr (congrArg _ (Prod.ext rfl (h 5 (by decide)))) (congr (congrArg _ (Prod.ext rfl (h 6 (by decide)))) rfl))))))

theorem cleanLine_cause : lineCause cleanLine 5 = none ∧ lineCause cleanLine 6 = some 1 := by
  have h : getField (cleanLine.words.getD 7 0) (bits 63 56) = 5 := checkWord_seq _
  constructor <;> (rw [lineCause, cleanLine_codes, h]; decide)

theorem witness_CellarQueuesRefillAndMark :
    (on.queue 1115).mid = [] ∧ queueCap 1115 < 2 * 2049 ∧ 2 * 2048 ≤ queueCap 1115 ∧
    (((queued 64).queue 1115).mid = (4096, 5) :: [] ∧ 2 * ((queued 64).queue 1115).head.length ≤ queueCap 1115) ∧
    lineCause (lineOf 5 true) 5 = some 2 ∧
    queueUsed 1090 = false ∧ queueUsed 1089 = true ∧
    getField (packFields [(CEL_QWM_HIGH, 3), (CEL_QWM_LOW, 3)]) CEL_QWM_HIGH ≤ getField (packFields [(CEL_QWM_HIGH, 3), (CEL_QWM_LOW, 3)]) CEL_QWM_LOW ∧
    getField (packFields [(CEL_QWM_HIGH, 4), (CEL_QWM_LOW, 3)]) CEL_QWM_LOW < getField (packFields [(CEL_QWM_HIGH, 4), (CEL_QWM_LOW, 3)]) CEL_QWM_HIGH ∧
    on.rf (CEL_QCFG 1089) CEL_QCFG_EN_H = 0 ∧ on.rf (CEL_QCFG 1089) CEL_QCFG_EN_L = 0 := by decide +kernel

def leased (frame : Nat) : State := { beatAt btMaster frame with leases := [{ handle := 7, ends := 100, pins := [] }] }

def flushChange : PendingChange := { change := .flush 3, opcode := 0, tag := 0, origin := 0, ring := 0, deferred := false }

def roleAt : State := { on with roles := [{ wing := 3, role := 1, tag := 0, origin := 0, ring := 0, deferred := false }] }

def pointAt (frames : Nat) : State := { on with points := [{ wing := 3, target := 2, frames := frames, cmd := none }] }

theorem witness_PantryEventsAndWaitingChanges :
    on.pantry = [] ∧ (524287 / 131072 = (3 : Wing).val ∧ 393215 / 131072 ≠ (3 : Wing).val) ∧
    ((leased 100).leases.find? (fun l => l.handle == (7 : BitVec 16).toNat) = some { handle := 7, ends := 100, pins := [] } ∧
      frameReached (leased 100).frame 100 = true ∧ frameReached (leased 99).frame 100 = false) ∧
    on.leases.find? (fun l => l.handle == (7 : BitVec 16).toNat) = none ∧ on.publishes.find? (fun p => p.1 == 3) = none ∧
    ({ on with publishes := [(3, 64)] } : State).publishes.find? (fun p => p.1 == 3) = some (3, 64) ∧ on.changesDue = [] ∧
    ({ on with changes := [flushChange] } : State).changesDue ≠ [] ∧ on.roles.find? (fun r => r.wing == 3) = none ∧
    (roleAt.roles.find? (fun r => r.wing == 3) = some { wing := 3, role := 1, tag := 0, origin := 0, ring := 0, deferred := false } ∧
      roleAt.wingBusy 3 = false) ∧ on.pointOf 3 = none ∧
    (pointAt 0).pointOf 3 = some { wing := 3, target := 2, frames := 0, cmd := none } ∧
    (pointAt 1).pointOf 3 = some { wing := 3, target := 2, frames := 1, cmd := none } := by decide +kernel

/-- A step of one bay, of base frame 100. -/
def stepOf (ph : StepPhase) : Step :=
  { num := 5, base := 100, bays := [{ bay := 143, stream := 0, length := 4, start := 0, cring := 0, jrnl := 0 }], publish := 0, phase := ph,
    replays := 0, cause := 0, longLead := false, tag := 0, origin := 0, ring := 0, old := [], frame := 0 }

def stepping (ph : StepPhase) (frame : Nat) : State := { beatAt btMaster frame with steps := [stepOf ph] }

theorem witness_StepsBeginCommitReplayOrAreLate :
    (let s := (stepping .running 100).setBay (bayOf 143) { Bay.init with stepEnded := true }
     s.findStep 5 = some (stepOf .running) ∧ ∀ b ∈ (stepOf .running).bays, (s.bay (bayOf b.bay)).stepEnded = true) ∧
    (∃ b ∈ (stepOf .running).bays, ((stepping .running 100).bay (bayOf b.bay)).stepEnded = false) ∧
    ((stepping .fenced 100).findStep 5 = some (stepOf .fenced) ∧ (stepOf .fenced).phase = .fenced ∧
      frameReached (stepping .fenced 100).frame (stepOf .fenced).base = true ∧ (stepOf .fenced).longLead = false ∧
      (stepping .fenced 100).stepReady (stepOf .fenced) = true) ∧
    ({ stepping .fenced 100 with restores := [(0, [])] } : State).stepReady (stepOf .fenced) = false ∧
    frameReached (stepping .fenced 99).frame (stepOf .fenced).base = false ∧
    ((stepping .pending 100).findStep 5 = some (stepOf .pending) ∧ (stepOf .pending).phase = .pending ∧
      frameReached (stepping .pending 100).frame (stepOf .pending).base = true ∧
      (stepOf .pending).bays.Pairwise (fun a b => a.bay ≠ b.bay) ∧ ∀ b ∈ (stepOf .pending).bays, b.bay < 144) ∧
    frameReached (stepping .pending 99).frame (stepOf .pending).base = false := by decide +kernel

/-! ### Micro-ops -/

/-- A micro-op whose destination is one of its sources. -/
def micro : MicroArgs := { bay := bayOf 143, d := 63, a := 63, b := 0, c := 1, imm := 4095, rmode := 3, sat := true, fault := none }

theorem witness_ExactMicroOps : (∃ f, (Instr.neg micro, f) ∈ exactMicroOps micro) ∧ laneFaultOf micro.fault = none :=
  ⟨⟨_, List.mem_cons_self⟩, rfl⟩

theorem witness_RoundingMicroOps : (∃ f, (Instr.add micro, f) ∈ roundingMicroOps micro) ∧ laneFaultOf micro.fault = none ∧
    microMode { micro with rmode := 0 } ≠ .sr := ⟨⟨_, List.mem_cons_self⟩, rfl, by decide⟩

theorem witness_CrossLaneMicroOps : (∃ f, (Instr.perm micro, f) ∈ acrossMicroOps micro on) ∧ laneFaultOf micro.fault = none ∧
    microMode { micro with rmode := 0 } ≠ .sr := ⟨⟨_, List.mem_cons_self⟩, rfl, by decide⟩

/-- A bay whose pointer 63 is an FP32 buffer at an address. -/
def pointing (p : Nat) (loops : List (Nat × Nat)) : State :=
  on.setBay (bayOf 143) { Bay.init with vctx := { VecCtx.idle with ptrs := List.replicate 64 p, pfmt := List.replicate 64 0, loops := loops } }

theorem witness_PointerAndLoopMicroOps :
    (pointing 0xFFFC00 []).ptrFmt (bayOf 143) 63 = .fp32 ∧ (pointing 0xFFFC00 []).ptr (bayOf 143) 63 + 1024 ≤ 2 ^ 24 ∧
    ((pointing 0 []).bay (bayOf 143)).vctx.loops = [] ∧ ((pointing 0 [(3, 0)]).bay (bayOf 143)).vctx.loops = (3, 0) :: [] ∧
    laneFaultOf (some (.vecRail 255)) = some (F_VEC_RAIL, 255) := by decide +kernel
/-! ### Sequencers, descriptors and the vector unit -/

def lastBay : BayId := bayOf 143

/-- A powered bay whose sequencer runs a stream of n descriptors. -/
def running (x : Bay) (n : Nat) : State :=
  let s := (((on.wf (BAY_STATUS lastBay) BAY_STATUS_POWER 2).wf (BAY_SEQ_CTRL lastBay) BAY_SEQ_CTRL_RUN 1).wf (BAY_SEQ_STATUS lastBay)
    BAY_SEQ_STATUS_STATE seqRunning).wf (BAY_SEQ_POS lastBay) BAY_SEQ_POS_LENGTH n
  s.setBay lastBay x

def unpowered : State := on.wf (BAY_STATUS lastBay) BAY_STATUS_POWER 0

/-- A descriptor of a type with its words 2 on; it starts at once. -/
def descOf (t : Nat) (ws : List Word) : Desc := BitVec.ofNat 64 (1 + 2 ^ 4 * t) :: 0 :: ws

def nops (n : Nat) : List (Nat × Desc) := (List.range n).map (fun i => (i, descOf 0 []))

def held (d : Desc) (frames : Nat) : Bay :=
  { Bay.init with control := some { idx := 0, d := d, startFrame := 0, flags := 0, slip := 0, late := false, status := 0, waiting := 0, launched := false }, ctlFrames := frames }

def waitFor (limit : Nat) : Desc := descOf 0x41 [BitVec.ofNat 64 (2 ^ 5 + 2 ^ 6), 0, BitVec.ofNat 64 (2 ^ 16 * limit)]

/-- A stack that is mapped from address 0. -/
def vecDesc (op : Nat) : Desc :=
  descOf 0x10 [BitVec.ofNat 64 (2 ^ 24 * 0x1000 + 2 ^ 48 * op), BitVec.ofNat 64 (2 ^ 24 * 0xFFFC00), BitVec.ofNat 64 256]

def queueOf (d : Desc) : Queued := { idx := 3, d := d, slip := 0 }

theorem witness_SequencersRunFetchDispatchAndStall :
    (on.epoch ≤ 0 ∧ (running Bay.init 4).rf (BAY_STATUS lastBay) BAY_STATUS_POWER = 2) ∧ unpowered.rf (BAY_STATUS lastBay) BAY_STATUS_POWER ≠ 2 ∧
    ((running Bay.init 4).seqRuns lastBay = true ∧ (Bay.init).prefetch.length < 64 ∧
      (running Bay.init 1).rf (BAY_SEQ_POS lastBay) BAY_SEQ_POS_INDEX + 0 < (running Bay.init 1).rf (BAY_SEQ_POS lastBay) BAY_SEQ_POS_LENGTH) ∧
    ((running Bay.init 0).rf (BAY_SEQ_POS lastBay) BAY_SEQ_POS_LENGTH ≤ (running Bay.init 0).rf (BAY_SEQ_POS lastBay) BAY_SEQ_POS_INDEX + 0) ∧
    (let s := running { Bay.init with prefetch := [(3, vecDesc 0)] } 4
     (s.bay lastBay).prefetch = (3, vecDesc 0) :: [] ∧ s.seqRuns lastBay = true ∧ (s.bay lastBay).control = none ∧
     s.malformed (vecDesc 0) = false ∧ isControl (dtype (vecDesc 0)) = false ∧ dtype (vecDesc 0) ≠ 2 ∧ dtype (vecDesc 0) ≠ 0x22 ∧
     ((s.bay lastBay).queue (unitOf (dtype (vecDesc 0)))).length < 16) ∧
    (on.malformed (descOf 0xFF []) = true) ∧ (on.seqRuns lastBay = false) ∧
    (let s := (running { Bay.init with stall := 5 } 4).wf (BAY_SEQ_CTRL lastBay) BAY_SEQ_CTRL_STALL_FRAMES 5
     s.rf (BAY_SEQ_CTRL lastBay) BAY_SEQ_CTRL_STALL_FRAMES ≠ 0 ∧
     s.rf (BAY_SEQ_CTRL lastBay) BAY_SEQ_CTRL_STALL_FRAMES ≤ (s.bay lastBay).stall ∧ s.hasWork lastBay = true) ∧
    (let s := (running { Bay.init with stall := 4 } 4).wf (BAY_SEQ_CTRL lastBay) BAY_SEQ_CTRL_STALL_FRAMES 5
     (s.bay lastBay).stall < s.rf (BAY_SEQ_CTRL lastBay) BAY_SEQ_CTRL_STALL_FRAMES) ∧
    (on.bay lastBay).control = none ∧
    (let s := running (held (waitFor 5) 5) 4
     ((s.bay lastBay).control.map Running.d = some (waitFor 5)) ∧ dtype (waitFor 5) = 0x41 ∧ dfield (waitFor 5) 4 31 16 ≠ 0 ∧
     dfield (waitFor 5) 4 31 16 ≤ (s.bay lastBay).ctlFrames ∧ s.waitEventMet lastBay (waitFor 5) = false) := by decide +kernel

def atFront (d : Desc) : State := running { Bay.init with prefetch := [(3, d)] } 4

theorem witness_ControlDescriptorsWaitAndComplete :
    (∀ t ∈ [0x00, 0x40, 0x41, 0x42, 0x43], let d := descOf t [BitVec.ofNat 64 (2 ^ 13 + 2 ^ 16)]
      ((atFront d).bay lastBay).prefetch = (3, d) :: [] ∧ ((atFront d).bay lastBay).control = none ∧ dtype d = t ∧
      (atFront d).seqRuns lastBay = true ∧ (atFront d).malformed d = false ∧ (atFront d).startBegun lastBay d = true ∧
      (atFront d).waitMet lastBay d = true) ∧
    (let d := descOf 0x40 [BitVec.ofNat 64 (2 ^ 13 + 2 ^ 16)]
     dfield d 2 13 13 = 1 ∧ (atFront d).isFenced (locBay lastBay) = false ∧ (atFront d).rf (BAY_STATUS lastBay) BAY_STATUS_POWER = 2) ∧
    (∀ p ∈ (on.bay lastBay).prefetch.head?, dtype p.2 ≠ 0) := by decide +kernel

/-- A bay at the head of a queue of which a descriptor of type t waits. -/
def heads (d : Desc) : State :=
  running { Bay.init with qMat := [queueOf d], qVec := [queueOf d], qData := [queueOf d], qXchg := [queueOf d] } 4

theorem witness_UnitDescriptorsStartAndComplete :
    (∀ u ∈ [UnitKind.matrix, .vector, .data, .exchange], on.headReady lastBay u 0x01 = none) ∧
    (∀ p ∈ [(UnitKind.matrix, 0x01), (.matrix, 0x02), (.vector, 0x02), (.matrix, 0x03), (.vector, 0x10), (.vector, 0x11), (.data, 0x20), (.data, 0x21),
        (.data, 0x22), (.data, 0x23), (.data, 0x24), (.exchange, 0x30), (.exchange, 0x31)],
      (heads (descOf p.2 [])).headReady lastBay p.1 p.2 = some (queueOf (descOf p.2 []))) := by decide +kernel

theorem witness_UnitDescriptors_operands :
    ((matmulOf (descOf 0x01 [])).startBad ((heads []).sramByte lastBay) .fp32 = false ∧ (matmulOf (descOf 0x01 [])).fa ≠ none ∧
      (matmulOf (descOf 0x01 [])).fb ≠ none ∧ (matmulOf (descOf 0x01 [])).out ≠ none) ∧
    ((convOf (descOf 0x03 [])).fin ≠ none ∧ (convOf (descOf 0x03 [])).fwt ≠ none ∧ (convOf (descOf 0x03 [])).out ≠ none) ∧
    ((vecOf (descOf 0x10 [])).fa ≠ none ∧ (vecOf (descOf 0x10 [])).fb ≠ none ∧ (vecOf (descOf 0x10 [])).fd ≠ none) ∧
    ((convertOf (descOf 0x20 [])).fs ≠ none ∧ (convertOf (descOf 0x20 [])).fd ≠ none) ∧
    ((reduceOf (descOf 0x21 [])).fs ≠ none ∧ (reduceOf (descOf 0x21 [])).fd ≠ none) ∧
    ((attnOf (descOf 0x02 [])).fq ≠ none ∧ (attnOf (descOf 0x02 [])).fk ≠ none ∧ (attnOf (descOf 0x02 [])).fv ≠ none ∧
      (attnOf (descOf 0x02 [])).out ≠ none) ∧
    (((heads []).bay lastBay).slotLoading 15 3 = false ∧ wbit ((heads []).reg (BAY_SEQ_UPROG lastBay)) 15 = false ∧
      wbit (((heads []).setReg (BAY_SEQ_UPROG lastBay) (BitVec.ofNat 64 (2 ^ 15))).reg (BAY_SEQ_UPROG lastBay)) 15 = true) ∧
    ((moveOf (descOf 0x22 [])).uprog = false ∧ (moveOf (descOf 0x22 [0, 0, 0, 0x20])).uprog = true) ∧
    ((xchgOf (descOf 0x30 [BitVec.ofNat 64 (2 ^ 48 * 255)])).link = 255 ∧ (xchgOf (descOf 0x30 [])).link ≠ 255) ∧
    (((heads []).bay lastBay).recvs.length < 64 ∧ ((heads []).bay lastBay).arrived = []) ∧
    (on.bay lastBay).running .data = none ∧ UnitKind.data ≠ .exchange := by decide +kernel

theorem witness_VecComputesEveryElement :
    let q := queueOf (vecDesc 0)
    let x := vecOf q.d
    (heads (vecDesc 0)).headReady lastBay .vector 0x10 = some q ∧ x.fa = some .fp32 ∧ x.fb = some .fp32 ∧ x.fd = some .fp32 ∧
    x.scalar = false ∧ 0 < x.count ∧ x.count ≤ 256 ∧ x.dst + 4 * x.count ≤ 2 ^ 24 ∧ x.undef .fp32 .fp32 .fp32 = false ∧ dRmode q.d ≠ .sr := by
  decide +kernel

/-! ### Registers and the host -/

/-- A bridge whose function is up and may master the bus. -/
def bridge : State :=
  let s := (on.wf HRT_PKGID HRT_PKGID_BRIDGE 1).whf HB_BRIDGE HB_BRIDGE_READY 1
  { s.wf PCH_PCIE PCH_PCIE_PERST 0 with pci := [(1, 4)] }

theorem witness_RegisterWritesAndCounterClears : State.reset.mode = .off ∧ Writer.peer ≠ .host ∧ (on.wf HRT_EPOCH HRT_EPOCH_EPOCH 1).epoch > 0 ∧
    (on.mode ≠ .off ∧ on.epoch ≤ 0 ∧ (7 : Nat) ≠ 8 ∧ (8 : Nat) % 8 = 0) ∧ (4 : Nat) % 8 ≠ 0 ∧
    (bridge.mode ≠ .off ∧ bridge.functionUp = true ∧ 64 % 8 = 0 ∧ 0xFFFC0 + 64 ≤ 0x100000) ∧
    fromHearth on .peer = false ∧ fromHearth on (.hearth 0) = true := by decide +kernel

def ringOn (state tail : Nat) : State :=
  ((bridge.whf (HB_CRING_CFG 7) HB_CRING_CFG_EN 1).whf (HB_CRING_CFG 7) HB_CRING_CFG_STATE state).whf (HB_CRING_PTR 7) HB_CRING_PTR_TAIL tail

def dmaIn (st : Nat) : State := ((bridge.whf (HB_DMA_CFG 3) HB_DMA_CFG_EN 1).whf (HB_DMA_CFG 3) HB_DMA_CFG_STATE st)

def waiting (dead : Bool) : State :=
  { on with active := [{ tag := 0, origin := on.pkg, ring := 0, opcode := 1, target := 3, started := 0, sent := true, dead := dead, awaits := [], reached := 0, bad := [] }] }

theorem witness_BridgeRingsQueuesDmaAndHatch :
    on.isBridge = false ∧ bridge.isBridge = true ∧ (bridge.hf (HB_CRING_CFG 7) HB_CRING_CFG_EN = 0 ∧ bridge.hf (HB_CRING_CFG 7) HB_CRING_CFG_ROLE = 0) ∧
    getField (packFields [(HB_CRING_CFG_EN, 1)]) HB_CRING_CFG_EN = 1 ∧
    ((ringOn 1 0).hf (HB_CRING_CFG 7) HB_CRING_CFG_EN = 1 ∧ (ringOn 1 0).hf (HB_CRING_CFG 7) HB_CRING_CFG_STATE = 1) ∧
    (let free := ((ringOn 1 1).ringHead 7 + 1023 - (ringOn 1 1).ringTail 7) % 1024
     let more := fun n => (n + 1024 - (ringOn 1 1).ringTail 7) % 1024
     more 1023 ≤ free ∧ free < more 0) ∧
    11 ≤ getField (packFields [(HB_EVQ_CFG_SIZE, 11)]) HB_EVQ_CFG_SIZE ∧
    (bridge.sizeBad (HB_EVQ_CFG 7) HB_EVQ_CFG_SIZE HB_EVQ_CFG_EN (packFields [(HB_EVQ_CFG_SIZE, 10)]) = false ∧
      getField (packFields [(HB_EVQ_CFG_SIZE, 10)]) HB_EVQ_CFG_EN = 0 ∧ getField (packFields [(HB_EVQ_CFG_SIZE, 10)]) HB_EVQ_CFG_ARM = 0) ∧
    getField (packFields [(HB_EVQ_CFG_ARM, 1)]) HB_EVQ_CFG_ARM = 1 ∧
    (on.activeOf (cmdLen 8 1).tag (originOf on (cmdLen 8 1)) (cmdLen 8 1).ringId = none) := by decide +kernel

theorem witness_BridgeDmaAndHatch :
    (bridge.isBridge = true ∧ bridge.hf (HB_DMA_CFG 3) HB_DMA_CFG_STATE ≠ 2) ∧ bridge.dmaOn 3 = false ∧
    ((dmaIn 1).busMaster = true ∧ (dmaIn 1).dmaOn 3 = true ∧ (dmaIn 1).hf (HB_DMA_CFG 3) HB_DMA_CFG_STATE = 1) ∧
    (((dmaIn 1).dmaRun (dmaOf (dmaIn 1).hostMem ((dmaIn 1).dmaDesc 3)) false none noPeer).2.1 ≠ 0) ∧
    ((dmaIn 2).dmaOn 3 = true ∧ (dmaIn 2).hf (HB_DMA_CFG 3) HB_DMA_CFG_STATE = 2) ∧
    (on.functionUp = false ∧ bridge.functionUp = true ∧ bridge.hf HB_HATCH_ERR HB_HATCH_ERR_ERR = 0) ∧
    (zeros 4).length % 8 ≠ 0 ∧ 4096 % 8 = 0 ∧ (zeros 8).length % 8 = 0 := by decide +kernel

theorem witness_PcieResetsConfigurationAndI3c :
    on.isBridge = false ∧ bridge.functionUp = true ∧ on.functionUp = false ∧
    ({ bridge with pci := [] } : State).busMaster = false ∧ ({ bridge with pci := [] } : State).functionUp = true ∧ 4092 / 4 ≠ 1 ∧
    on.mode = .ready ∧ (zeros 256).length % 8 = 0 ∧ (zeros 256).length ≤ 256 ∧
    (State.reset.mode = .off ∧ (cmdLen 8 1).len ≤ 256 ∧ (cmdLen 8 1).len % 8 = 0 ∧ 256 < (cmdLen 264 33).len) ∧
    on.i3cDyn = none ∧ ({ on with i3cDyn := some 8 } : State).i3cDyn ≠ none ∧ (8 : Word).toNat % 8 = 0 ∧ (4 : Word).toNat % 8 ≠ 0 := by
  decide +kernel

/-! ### Hearths, power, self-tests and security -/

def hearths (a b : Nat) : State := (on.setHearth false a).setHearth true b

def paired2 (s : State) : State := s.wf HRT_HSTATUS HRT_HSTATUS_PAIRED 1

theorem witness_HearthPairAgreesOrTakesOver :
    on.activeHb = false ∧ on.pair.stale = false ∧
    (let s : State := { on.wf HRT_EPOCH HRT_EPOCH_EPOCH 1 with pair := { on.pair with stale := true } }
     s.mode ≠ .off ∧ s.pair.stale = true ∧ 0 < s.epoch ∧ s.activeHb = false) ∧
    (let s := paired2 (hearths hsActive hsStandby)
     s.mode ≠ .off ∧ s.paired = true ∧ s.hearth (!s.activeHb) = hsStandby) ∧
    (let s := hearths hsActive hsCheck
     s.hearth (!s.activeHb) = hsCheck ∧ s.hearth s.activeHb ≠ hsCheck) ∧
    (let s := hearths hsCheck hsCheck
     s.hearth (!s.activeHb) = hsCheck ∧ s.hearth s.activeHb = hsCheck) ∧
    (let s : State := { hearths hsActive hsStandby with pair := { on.pair with silent := 2 } }
     2 ≤ s.pair.silent ∧ s.hearth (!s.activeHb) = hsStandby) ∧
    (let s : State := { hearths hsActive hsResync with pair := { on.pair with silent := 2 } }
     2 ≤ s.pair.silent ∧ s.hearth (!s.activeHb) ≠ hsStandby ∧ s.hearth (!s.activeHb) ≠ hsCheck ∧ s.hearth true = hsResync) ∧
    on.pair.silent < 2 := by decide +kernel

def jobOf (u : PwrUnit) (up busy : Bool) (frames : Nat) : State :=
  { on with power := [{ unit := pwrLoc u, on := up, busy := busy, frames := frames, next := none, cmd := none, nextCmd := none }] }

theorem witness_PowerChangesCapAndTrips :
    (fromHearth on (.hearth 0) = true ∧ unpowered.powerJob (locBay lastBay) = none ∧ unpowered.unitOn (.bay lastBay) = !true ∧
      unpowered.unitOff (.bay lastBay) = true) ∧
    ((running Bay.init 0).unitOn (.bay lastBay) = !false ∧ (running Bay.init 0).unitOff (.bay lastBay) = false) ∧
    (on.powerJob (locCasement 7) = none ∧ on.unitOn (.casement 7) = !true ∧ on.unitOff (.casement 7) = true) ∧
    (let s := jobOf (.sky 7) false false 0
     (s.powerJob (pwrLoc (.sky 7))).isSome = true ∧ s.unitOff (.sky 7) = false ∧ s.mayBegin (.sky 7) false = true) ∧
    (let s := (jobOf (.bay lastBay) true false 0).wf (BAY_STATUS lastBay) BAY_STATUS_POWER 0
     (s.powerJob (pwrLoc (.bay lastBay))).isSome = true ∧ s.unitOn (.bay lastBay) = false ∧
     (s.wf (PWR_DIE 11) PWR_DIE_STATE 0).mayBegin (.bay lastBay) true = false) ∧
    (1 < leastFrames (.bay lastBay) true ∧ leastFrames (.die 11) false ≤ 1) ∧
    on.capHigh < oneAtLeast (on.rf PWR_CFG PWR_CFG_CAP_FRAMES) ∧
    (let s : State := { on with capHigh := 1000000 }
     oneAtLeast (s.rf PWR_CFG PWR_CFG_CAP_FRAMES) ≤ s.capHigh ∧ ∀ w < 4, s.isCache w = true ∨ s.wingOp w = 0) ∧
    925 * opMv on.fuse.grade (on.wingOp 3) ≤ 1000 * 555 ∧
    (let s := on.wf (PWR_DIE 11) PWR_DIE_STATE 2
     s.mode ≠ .off ∧ 1000 * 554 < 925 * opMv s.fuse.grade (s.wingOp 3) ∧ s.rf (PWR_DIE 11) PWR_DIE_STATE = 2 ∧ s.isFenced (locDie 11) = false) ∧
    ((35, 0) ∉ on.excluded ∧ 0 < chmSensors 35 ∧ chmSensors 35 ≤ 1) ∧
    (tripLimit 16 = none ∧ tripLimit 15 = some 1150 ∧ tripLimit 24 = some 1050 ∧ on.clamped = false ∧ 15 < chmSensors 15) := by
  decide +kernel
/-- A bay with slices due long ago. -/
def testing : State := beatAt btMaster 10000000

/-- A bay whose tile t has a role, and every other is computing. -/
def tiles (t role : Nat) : State :=
  ((testing.wf (BST_CFG) BST_CFG_TILE_EN 1).wf (BAY_CTRL (bayOf 143)) BAY_CTRL_ROT_EN 1).wf (TIL_STATUS (bayOf 143) t) TIL_STATUS_ROLE role

theorem witness_SelfTestsAreCountedAndRepairAtFences :
    (on.wf BST_CFG BST_CFG_TILE_EN 0).rf BST_CFG BST_CFG_TILE_EN = 0 ∧ (on.wf BST_CFG BST_CFG_SRAM_EN 0).rf BST_CFG BST_CFG_SRAM_EN = 0 ∧
    (on.wf BST_CFG BST_CFG_BASE_EN 0).rf BST_CFG BST_CFG_BASE_EN = 0 ∧
    (let s := tiles 16 1
     s.bayTests (bayOf 143) = true ∧ s.rf BST_CFG BST_CFG_TILE_EN = 1 ∧ s.rf (BAY_CTRL (bayOf 143)) BAY_CTRL_ROT_EN = 1 ∧
     (s.bay (bayOf 143)).rMat = none ∧ s.sliceDue (bayIx (bayOf 143)) (s.rf BST_CFG BST_CFG_TILE_INTERVAL) = true ∧
     s.tileWith (bayOf 143) 1 = some 16 ∧ s.nextTile (bayOf 143) 16 = some 0) ∧
    (let s := tiles 16 2
     s.bayTests (bayOf 143) = true ∧ s.tileWith (bayOf 143) 2 = some 16 ∧ s.pointSteady (bayOf 143).die.val = true) ∧
    (let s := testing.wf BST_CFG BST_CFG_SRAM_EN 1
     s.rf BST_CFG BST_CFG_SRAM_EN = 1 ∧ s.bayTests (bayOf 143) = true ∧ (s.bay (bayOf 143)).bistRow = none ∧
     s.sliceDue (144 + bayIx (bayOf 143)) (s.rf BST_CFG BST_CFG_SRAM_INTERVAL) = true ∧ s.pointSteady (bayOf 143).die.val = true) ∧
    (let s := testing.wf BST_CFG BST_CFG_BASE_EN 1
     s.rf BST_CFG BST_CFG_BASE_EN = 1 ∧ s.wingLost 3 = false ∧ s.baseOff.contains (288 + 11) = false ∧ s.baseWaits (288 + 11) = false ∧
     s.sliceDue (288 + 11) (s.rf BST_CFG BST_CFG_BASE_INTERVAL) = true ∧ s.pantryGone 3 = false ∧ s.baseWaits (300 + 3) = false ∧
     s.sliceDue (300 + 3) (s.rf BST_CFG BST_CFG_BASE_INTERVAL) = true) ∧
    (let s := on.setBay (bayOf 143) { Bay.init with bistRow := some (63, 4095) }
     (s.bay (bayOf 143)).bistRow = some (63, 4095) ∧ s.atFence (fun i => i == bayIx (bayOf 143)) = true) := by decide +kernel

theorem witness_SelfTests_fence :
    (let s : State := { on with steps := [{ num := 0, base := 0, bays := [{ bay := bayIx (bayOf 143), stream := 0, length := 0, start := 0, cring := 0, jrnl := 0 }], publish := 0, phase := .running, replays := 0, cause := 0, longLead := false, tag := 0, origin := 0, ring := 0, old := [], frame := 0 }] }
     s.atFence (fun i => i == bayIx (bayOf 143)) = false ∧ s.atFence (fun _ => true) = false) ∧
    ((on.wf (BAY_STATUS (bayOf 143)) BAY_STATUS_POWER 2).wf (BAY_CTRL (bayOf 143)) BAY_CTRL_SCRUB_EN 1).rf (BAY_CTRL (bayOf 143)) BAY_CTRL_SCRUB_EN = 1 ∧
    ((on.wf (BAY_STATUS (bayOf 143)) BAY_STATUS_POWER 2).wf (BAY_CTRL (bayOf 143)) BAY_CTRL_SCRUB_EN 0).rf (BAY_CTRL (bayOf 143)) BAY_CTRL_SCRUB_EN = 0 := by
  decide +kernel

theorem witness_SecurityClocksRunOut :
    State.reset.mode = .off ∧ on.mode ≠ .off ∧ on.drbgA = false ∧ ({ on with drbgB := true } : State).drbgB = true ∧ on.lockout = none ∧
    (let s : State := { beatAt btMaster 99 with lockout := some 100 }
     s.lockout = some 100 ∧ frameReached s.frame 100 = false) ∧
    (let s : State := { beatAt btMaster 100 with lockout := some 100 }
     s.lockout = some 100 ∧ frameReached s.frame 100 = true) ∧ on.lifePend = none ∧
    (let s : State := { on with lifePend := some (3, 0, 0, 0) }
     s.lifePend = some (3, 0, 0, 0) ∧ s.steps = []) := by decide +kernel

/-- A Casement whose Skylight runs, in a state. -/
def skyAt (x : SkySt) : State :=
  ((on.wf (SKY_CFG 7) SKY_CFG_EN 1).wf (CSM_STATUS 7) CSM_STATUS_POWER 2).setSky 7 x

/-- A job record of a kind. -/
def jobWords (kind timeout : Nat) : List Word :=
  [BitVec.ofNat 64 (1 + 2 ^ 4 * kind + 2 ^ 19 + 2 ^ 63), 0, 0, 0, BitVec.ofNat 64 (2 ^ 56 * timeout), 0, 1, 0]

def skyJob (kind timeout frame : Nat) : State :=
  (skyAt { SkySt.init with found := [63], job := some (jobWords kind timeout, 0) }).wf STR_FRAME STR_FRAME_FRAME frame

def carrierAt (a b : Nat) : State := (skyAt SkySt.init).wfs (LSR_CARRIER 7 0) [(LSR_CARRIER_STATE, a)] |>.wf (LSR_CARRIER 7 1) LSR_CARRIER_STATE b

theorem witness_SkylightRunsItsJobs :
    State.reset.skyRuns 7 = false ∧ (skyAt SkySt.init).skyRuns 7 = true ∧ ((skyAt SkySt.init).sky1 7).job = none ∧ ((skyAt SkySt.init).sky1 7).found.head? ≠ some 63 ∧
    (∀ kind ∈ [0, 1], ((skyJob kind 1 0).sky1 7).found.head? = some 63 ∧ ((skyJob kind 1 0).sky1 7).job = some (jobWords kind 1, 0) ∧
      (skyJob kind 1 0).skyRuns 7 = true ∧ (skyJob kind 1 0).skyBad (skyJobOf (jobWords kind 1)) = false ∧
      (skyJobOf (jobWords kind 1)).kind = kind ∧ ((skyJob kind 1 0).sky1 7).cal = none) ∧
    on.skyBad (skyJobOf (jobWords 2 1)) = true ∧ (skyJob 0 1 1).skyLate (jobWords 0 1) 0 = true ∧ (skyJob 0 1 0).skyLate (jobWords 0 1) 0 = false ∧
    ((skyAt { SkySt.init with cal := some 1 }).sky1 7).cal ≠ none ∧
    (on.wf (SKY_SLOT 7 63) SKY_SLOT_STATE 1).rf (SKY_SLOT 7 63) SKY_SLOT_STATE = 1 ∧ on.rf (SKY_SLOT 7 63) SKY_SLOT_STATE ≠ 1 := by
  decide +kernel

theorem witness_SkylightCalibrates :
    (let s := ((skyAt { SkySt.init with due := [1] }).wf (LSR_CARRIER 7 0) LSR_CARRIER_STATE crActive).wfs (LSR_CARRIER 7 0) [(LSR_CARRIER_FADE, 0)]
     (s.sky1 7).due = 1 :: [] ∧ (s.sky1 7).job = none ∧ (s.sky1 7).cal = none ∧ s.skyUp 7 = true ∧ s.carrierGood 7 = true) ∧
    ((skyAt SkySt.init).sky1 7).due = [] ∧
    (let x := (skyAt { SkySt.init with cal := some 1 }).sky1 7
     x.cal = some 1 ∧ x.job = none ∧ x.cmds = []) ∧
    (∀ i < 2, (carrierAt crOff crFenced).carrier 7 i ≠ crStandby) ∧
    (let s := (carrierAt crStandby crFenced).wf (SKY_STATUS 7) SKY_STATUS_CARRIER 1
     s.carrier 7 0 = crStandby ∧ (s.sky1 7).job = none ∧ (s.sky1 7).cal = none ∧ s.rf (SKY_STATUS 7) SKY_STATUS_CARRIER = 1 ∧
     s.carrier 7 1 ≠ crActive) := by decide +kernel

/-- A change of Casement 7's plan at frame 100. -/
def planAt (frame : Nat) : State :=
  { beatAt btMaster frame with plans := [{ frame := 100, load := true, csms := [7], entries := [(7, 1023, 1)], opcode := 0, tag := 0, origin := 0, ring := 0 }] }

def settleAt (frame : Nat) (quiet : Bool) : State :=
  { beatAt btMaster frame with settles := [{ csm := 7, engine := 7, settle := true, frame := 100, quiet := quiet, tag := 0, origin := 0, ring := 0 }] }

/-- Casement 7 with engine 7 up, a link of pair 15 that is UP, and slot 63 received on fibre 15. -/
def receiving (kind : Nat) : State :=
  ((((on.wf (CSM_STATUS 7) CSM_STATUS_RE_UP 0x80).wf (CSM_STATUS 7) CSM_STATUS_TE_UP 0x80).wf (DRL_STATUS 127) DRL_STATUS_STATE lkUp).wf
    (STR_PLAN 7 (63 * 16 + 15)) STR_PLAN_ENTRY (kind + 4 * 15 + 64 * 15))

def burstOf (o : Option Nat) : Burst := { offset := o, peerMatch := true, lanes := [] }

theorem witness_PlansApplyAndBurstsAreCounted :
    on.plans.filter (fun p => frameReached on.frame p.frame) = [] ∧ on.slotParts = [] ∧
    ((planAt 100).plans.length = 1 ∧ frameReached (planAt 100).frame 100 = true ∧ (planAt 100).slotParts = []) ∧
    (planAt 99).plans.filter (fun p => frameReached (planAt 99).frame p.frame) = [] ∧
    (on.settles.find? (fun x => x.csm == 7 && x.engine == 7 && !x.quiet) = none) ∧
    (((settleAt 100 false).settles.find? (fun x => x.csm == 7 && x.engine == 7 && !x.quiet)).isSome = true ∧
      frameReached (settleAt 100 false).frame 100 = true ∧ frameReached (settleAt 99 false).frame 100 = false) ∧
    (((settleAt 101 true).settles.find? (fun x => x.csm == 7 && x.engine == 7 && x.quiet)).isSome = true ∧
      frameReached (settleAt 101 true).frame (frameAdd 100 1) = true ∧ frameReached (settleAt 100 true).frame (frameAdd 100 1) = false) := by
  decide +kernel

theorem witness_BurstsAreCounted :
    on.rxSlot 7 63 7 = none ∧ (receiving 1).rxSlot 7 63 7 = some (127, 15, true) ∧ (receiving 1).isLive 127 = true ∧
    (receiving 1).pathOn 7 1 7 15 = true ∧ (receiving 1).settled 7 7 = false ∧ ((receiving 1).wf (DRL_STATUS 127) DRL_STATUS_STATE lkDown).isLive 127 = false ∧
    ((receiving 1).wf (CSM_STATUS 7) CSM_STATUS_RE_UP 0).pathOn 7 1 7 15 = false ∧ (burstOf none).offset = none ∧
    (burstOf (some 160)).offset = some 160 ∧ 160 ≤ 160 ∧ 319 < 320 ∧
    ([2 * 7, 2 * 7 + 1].filterMap (on.pairLink 7)).find? on.isLive = none := by decide +kernel

set_option maxRecDepth 200000 in
theorem witness_StartUpBoundariesAndReports :
    (on.mode ≠ .off ∧ ({ State.reset with clamped := true } : State).clamped = true ∧ State.reset.mode = .off ∧ State.reset.clamped = false) ∧
    (let u := (({ State.reset with resetLow := false } : State).wiped).stage1
     let p := u.pickFw (bootEnv [] [])
     p.run ≠ [] ∧ p.lost = [] ∧ u.brokenLanes = [] ∧ ((u.stage2 p).stage3 (bootEnv [] [])).tripHeld = false) ∧
    (let bad : FwImage := { verdict := 0, svn := 0, version := 0, digest := [] }
     let s : State := { State.reset with nv := { State.reset.nv with fwA := bad, fwB := bad } }
     let u := (({ s with resetLow := false } : State).wiped).stage1
     (u.pickFw (bootEnv [] [])).run = []) ∧
    (let s : State := { State.reset with nv := { State.reset.nv with trip := [0, 0, 0, 0] } }
     let u := (({ s with resetLow := false } : State).wiped).stage1
     ((u.stage2 (u.pickFw (bootEnv [] []))).stage3 (bootEnv [] [])).tripHeld = true) ∧ on.mode ≠ .starting ∧
    (let s : State := { on.wf HRT_START HRT_START_STAGE 11 with mode := .starting }
     s.mode = .starting ∧ s.rf HRT_START HRT_START_STAGE = 11 ∧ s.plans.all (fun p => p.opcode != 0) = true) ∧
    (on.wf HRT_START HRT_START_STAGE 8).rf HRT_START HRT_START_STAGE < 9 ∧ 11 < (on.wf HRT_START HRT_START_STAGE 12).rf HRT_START HRT_START_STAGE ∧
    reportFits 0xFFFF 0 = false ∧ reportFits F_DIE_UV (locDie 11) = true := by decide +kernel
/-! ### Commands -/

/-- A command of an opcode on the I3C channel with ROLE 3 and some parameter words. -/
def cmdOf (op : Nat) (ps : List Word) : Cmd :=
  { via := .i3c, w0 := BitVec.ofNat 64 (1 + 2 ^ 4 * op + 2 ^ 44 * 3 + 2 ^ 48 * (8 * ps.length)), w1 := 0, w2 := 0, w3 := 0, params := ps }

/-- A running package at the maker, whose I3C channel has ROLE 3. -/
def manager : State := { on with i3cRole := 3, nv := { on.nv with lifecycle := 0 } }

/-- What TakesCommand asks, of a package that remembers no command. -/
def takes (c : Cmd) (op : Nat) (s : State) : Bool :=
  c.opcode == op && s.canTake c && (s.unqueue c).dups.isEmpty && (s.unqueue c).active.isEmpty && (s.unqueue c).precheck c == none &&
    (s.unqueue c).isSelf c.target

theorem takesCommand_of (c : Cmd) (op : Nat) (s : State) (h : takes c op s = true) : TakesCommand c op s := by
  simp only [takes, Bool.and_eq_true, beq_iff_eq, List.isEmpty_iff] at h
  obtain ⟨⟨⟨⟨⟨h1, h2⟩, h3⟩, h4⟩, h5⟩, h6⟩ := h
  exact { opcode := h1, taken := h2, fresh := by simp [h3], idle := by simp [State.activeOf, h4], checked := h5, here := .inr (.inr h6) }


/-- Command c is taken in state s, and a property holds of it and of the state without it in its queue. -/
def meets (op : Nat) (ps : List Word) (s : State) (p : Cmd → State → Bool) : Bool :=
  takes (cmdOf op ps) op s && p (cmdOf op ps) (s.unqueue (cmdOf op ps))

theorem takesCommand_of_meets (op : Nat) (ps : List Word) (s : State) (p : Cmd → State → Bool) (h : meets op ps s p = true) :
    TakesCommand (cmdOf op ps) op s ∧ p (cmdOf op ps) (s.unqueue (cmdOf op ps)) = true :=
  ⟨takesCommand_of _ _ _ (Bool.and_eq_true_iff.1 h).1, (Bool.and_eq_true_iff.1 h).2⟩

theorem witness_CommandsRunOnceAfterTheirChecks :
    CommandRow (cmdOf 0x001 []) (.identify (cmdOf 0x001 [])) 0x001 (fun s => s.identify (cmdOf 0x001 [])) ∧
    (cmdOf 0x002 []).opcode ≠ 0x001 ∧ State.reset.canTake (cmdOf 0x001 []) = false ∧ takes (cmdOf 0x001 []) 0x001 manager = true ∧
    (let s : State := { manager with dups := [{ tag := 0, origin := manager.pkg, ring := 20, reply := [] }] }
     let c := cmdOf 0x001 []
     c.opcode = 0x001 ∧ s.canTake c = true ∧
     ((s.unqueue c).dups.find? (fun d => d.tag == c.tag && d.origin == originOf s c && d.ring == c.ringId)).isSome = true) ∧
    (let a : ActiveCmd := { tag := 0, origin := manager.pkg, ring := 20, opcode := 1, target := 3, started := 0, sent := true, dead := false, awaits := [], reached := 0, bad := [] }
     let s : State := { manager with active := [a] }
     let c := cmdOf 0x001 []
     (s.unqueue c).dups = [] ∧ (s.unqueue c).activeOf c.tag (originOf s c) c.ringId = some a ∧ a.sent = true ∧ a.dead = false) ∧
    ((manager.unqueue (cmdOf 0xFFE [])).precheck (cmdOf 0xFFE []) = some stBadParam ∧ (manager.unqueue (cmdOf 0xFFE [])).dups = [] ∧
      (manager.unqueue (cmdOf 0xFFE [])).active = []) ∧
    (let s : State := { (linkIn 128 lkUp).wf (DRL_CFG 128) DRL_CFG_NVC_M1 2 with i3cRole := 3 }
     let c : Cmd := { cmdOf 0x001 [] with w0 := (cmdOf 0x001 []).w0 ||| BitVec.ofNat 64 (2 ^ 32 * 3) }
     c.opcode = 0x001 ∧ s.canTake c = true ∧ (s.unqueue c).dups = [] ∧ (s.unqueue c).active = [] ∧ (s.unqueue c).precheck c = none ∧
     c.target ≠ 0xFFF ∧ isForwarded c = false ∧ (s.unqueue c).isSelf c.target = false) :=
  ⟨List.mem_cons_self, by decide +kernel⟩

/-- A package with one region, of a wing's stacks, with attributes beside VALID. -/
def withRegion (s : State) (f : Field) : State := (s.wf (MEM_RGN_ATTR 63) MEM_RGN_ATTR_VALID 1).wf (MEM_RGN_ATTR 63) f 1

theorem witness_ManagementCommands :
    meets 0x001 [] manager (fun _ _ => true) = true ∧ meets 0x002 [64] manager (fun c _ => decide (daWindow (c.pf 0 47 0) = 0)) = true ∧
    meets 0x003 [BitVec.ofNat 64 (2 ^ 52 * 5)] manager (fun c _ => decide (c.pf 0 54 52 + 1 ≤ 6)) = true ∧ meets 0x101 [0, 0] manager (fun _ _ => true) = true ∧
    meets 0x120 [BitVec.ofNat 64 (3 + 2 ^ 8)] manager (fun c u => decide ((∀ r ∈ u.roles, r.wing ≠ c.pf 0 1 0) ∧ u.wingBusy (c.pf 0 1 0) = false)) = true ∧
    meets 0x130 [63, 0, packFields [(MEM_RGN_ATTR_VALID, 1), (MEM_RGN_ATTR_LAST, 0)]] manager (fun c u => decide (u.tables.regionNumber (c.pf 0 7 0) = some 63 ∧ c.pf 0 7 0 < 64 ∧
      u.tables.regionBad 63 (c.p 1 &&& fieldMask MEM_RGN_BASE_BASE) (regionAttr (c.p 2)) = false ∧
      u.cellarBusy 63 (c.p 1 &&& fieldMask MEM_RGN_BASE_BASE) (regionAttr (c.p 2)) = false)) = true ∧
    meets 0x131 [63] (withRegion manager MEM_RGN_ATTR_VALID) (fun c u => decide (u.tables.rgnValid (c.pf 0 5 0) = true ∧ u.cellarBusy (c.pf 0 5 0) 0 0 = false)) = true ∧
    meets 0x201 [] manager (fun c _ => decide (c.target ≠ 0xFFF)) = true ∧
    meets 0x211 [5] { manager with steps := [stepOf .running] } (fun c u => decide (u.findStep (c.pf 0 31 0) = some (stepOf .running))) = true ∧
    meets 0x301 [64, 128, 0] manager (fun c _ => decide (c.pf 0 47 0 % 64 = 0 ∧ c.pf 1 39 0 % 64 = 0)) = true ∧
    meets 0x302 [64, 128, 64] manager (fun c _ => decide (c.pf 0 47 0 % 64 = 0 ∧ c.pf 1 47 0 % 64 = 0 ∧ c.pf 2 39 0 % 64 = 0)) = true ∧
    meets 0x310 [63] (withRegion manager MEM_RGN_ATTR_READONLY) (fun c u => decide (u.rgnValid (c.pf 0 5 0) = true ∧ u.rgnBit (c.pf 0 5 0) MEM_RGN_ATTR_READONLY = true)) = true ∧
    meets 0x332 [7] { manager with leases := [{ handle := 7, ends := 100, pins := [] }] } (fun c u => decide (u.leases.find? (fun l => l.handle == c.pf 0 15 0) = some { handle := 7, ends := 100, pins := [] })) = true ∧
    meets 0x341 [255] (manager.wf (MEM_ANX_MAP 255) MEM_ANX_MAP_VALID 1) (fun c u => decide (c.pf 0 7 0 ≠ 0 ∧ u.tables.winValid (c.pf 0 7 0) = true ∧
      u.windowUsed (c.pf 0 7 0) = false ∧ u.tables.windowUsed (c.pf 0 7 0) = false)) = true := by decide +kernel
/-- A descriptor journal region over the first 4 GiB. -/
def journalled : State :=
  ((manager.wf (MEM_RGN_ATTR 63) MEM_RGN_ATTR_VALID 1).wf (MEM_RGN_ATTR 63) MEM_RGN_ATTR_JOURNAL 1).wf (MEM_RGN_ATTR 63) MEM_RGN_ATTR_LAST 0xFFFFF

/-- A manager whose link 128 to package 3 is named and UP, with all eight channels. -/
def linked : State :=
  let s : State := { linkIn 128 lkUp with i3cRole := 3, nv := { on.nv with lifecycle := 0 } }
  (s.wf (DRL_CFG 128) DRL_CFG_EN 1).wf (DRL_CFG 128) DRL_CFG_NVC_M1 7

/-- Words in stacked memory at an address. -/
def withMem (s : State) (a : Nat) (ws : List Word) : State := { s with mem := memWrite s.mem a (wordsToBytes ws) }

/-- A Pantry entry that is READY, with its check word. -/
def entryOf (key state pins : Nat) : PantryEntry :=
  let e : PantryEntry := { w0 := BitVec.ofNat 64 (1 + 2 ^ 4 * state), w1 := BitVec.ofNat 64 key, w2 := BitVec.ofNat 64 pins, w3 := 0 }
  { e with w3 := BitVec.ofNat 64 (2 ^ 32 * entryCheck e) }

def withEntry (pins : Nat) : State := manager.setEntry ((keySlots 5).getD 7 0) (entryOf 5 1 pins)
theorem shaRounds_length (ks : List (BitVec 32 × BitVec 32)) : ∀ v : List (BitVec 32), v.length = 8 → (ks.foldl shaRound v).length = 8 := by
  induction ks with
  | nil => exact fun _ h => h
  | cons k ks ih =>
    intro v h
    refine ih _ ?_
    match v, h with
    | [_, _, _, _, _, _, _, _], _ => rfl

theorem shaBlocks_length : ∀ (n : Nat) (h : List (BitVec 32)) (bs : Bytes), h.length = 8 → (shaBlocks n h bs).length = 8
  | 0, _, _, h => h
  | n + 1, v, bs, h => shaBlocks_length n _ _ (by rw [shaBlock, List.length_zipWith, h, shaRounds_length _ _ h]; rfl)

theorem beBytes_length (ws : List (BitVec 32)) : (ws.flatMap (fun w => beBytes 4 w.toNat)).length = 4 * ws.length := by
  induction ws with
  | nil => rfl
  | cons w ws ih => rw [List.flatMap_cons, List.length_append, ih, beBytes, List.length_reverse, natToBytes_length, List.length_cons]; omega

theorem sha256_length (bs : Bytes) : (sha256 bs).length = 32 := by
  rw [sha256, beBytes_length, shaBlocks_length _ _ _ rfl]

theorem bytesToNat_lt : ∀ bs : List Byte, bytesToNat bs < 256 ^ bs.length
  | [] => by decide
  | b :: bs => by
    have h := bytesToNat_lt bs
    have hb := b.isLt
    rw [bytesToNat, List.length_cons, Nat.pow_succ]
    omega

theorem natToBytes_bytesToNat : ∀ bs : List Byte, natToBytes bs.length (bytesToNat bs) = bs
  | [] => rfl
  | b :: bs => by
    have hb := b.isLt
    rw [List.length_cons, bytesToNat, natToBytes, show (b.toNat + 256 * bytesToNat bs) / 256 = bytesToNat bs by omega, natToBytes_bytesToNat bs]
    congr 1
    apply BitVec.eq_of_toNat_eq
    rw [BitVec.toNat_ofNat]
    omega

/-- Word i of a byte string of 32 bytes. -/
def wordAt (bs : List Byte) (i : Nat) : Word := BitVec.ofNat 64 (bytesToNat ((bs.drop (8 * i)).take 8))

theorem wordAt_bytes (bs : List Byte) (i : Nat) (h : 8 * i + 8 ≤ bs.length) : natToBytes 8 (wordAt bs i).toNat = (bs.drop (8 * i)).take 8 := by
  have hl : ((bs.drop (8 * i)).take 8).length = 8 := by rw [List.length_take, List.length_drop]; omega
  have hn := bytesToNat_lt ((bs.drop (8 * i)).take 8)
  rw [hl] at hn
  have hr := natToBytes_bytesToNat ((bs.drop (8 * i)).take 8)
  rw [hl] at hr
  rw [wordAt, BitVec.toNat_ofNat, Nat.mod_eq_of_lt (show _ < 2 ^ 64 from hn), hr]

theorem wordAt_all (bs : List Byte) (h : bs.length = 32) : wordsToBytes [wordAt bs 0, wordAt bs 1, wordAt bs 2, wordAt bs 3] = bs := by
  simp only [wordsToBytes, List.flatMap_cons, List.flatMap_nil, List.append_nil]
  rw [wordAt_bytes bs 0 (by omega), wordAt_bytes bs 1 (by omega), wordAt_bytes bs 2 (by omega), wordAt_bytes bs 3 (by omega)]
  apply List.ext_getElem
  · simp only [List.length_append, List.length_take, List.length_drop]; omega
  · intro n h1 h2
    simp only [List.getElem_append, List.length_append, List.length_take, List.length_drop, List.getElem_take, List.getElem_drop]
    split
    · congr 1; omega
    · split
      · congr 1; omega
      · split <;> (congr 1; omega)

/-- A challenge on the I3C channel, and the package that awaits its answer. -/
def challenge : Challenge := { ring := 20, role := 1, nonce := [1, 2, 3, 4], frame := 0 }

def challenged : State := { manager with challenges := [challenge], nv := { manager.nv with kOp := some 0 } }

/-- The right answer to it. -/
def answerWords : List Word :=
  let bs := hmac (natToBytes 32 (challenged.roleKey 1).toNat) (challenged.authMsg challenge)
  [wordAt bs 0, wordAt bs 1, wordAt bs 2, wordAt bs 3]

theorem test_right_answer : challenged.responseOk (cmdOf 0x702 answerWords) challenge = true := by
  have h := wordAt_all _ (sha256_length _ : (hmac (natToBytes 32 (challenged.roleKey 1).toNat) (challenged.authMsg challenge)).length = 32)
  rw [State.responseOk, Bool.and_eq_true, Bool.and_eq_true]
  exact ⟨⟨by decide +kernel, by decide +kernel⟩, beq_iff_eq.2 h.symm⟩
def stepPs : List Word := [7, 100, 0, BitVec.ofNat 64 (11 + 16 * 11), 4, 0, 0]

theorem witness_StepAndPantryCommands :
    meets 0x210 stepPs journalled (fun c u => decide (u.stepStatus c (u.plannedBays ((List.range (stepCount c)).map (stepEntry c))) = none)) = true ∧
    meets 0x340 [BitVec.ofNat 64 (255 + 2 ^ 8 * 3 + 2 ^ 32 * 128), 0, 0] linked (fun c u => decide (u.annexBad c = false ∧ u.annexBusy c = false)) = true ∧
    meets 0x333 [5] (withEntry 0) (fun c u => decide (((u.readSet (c.pf 0 47 0)).findKey (c.pf 0 47 0) = some 16847) ∧
      ((u.readSet (c.pf 0 47 0)).entry 16847).pins = 0)) = true ∧
    meets 0x331 [0, 64, 128, 5] manager (fun c u => decide (u.resolveBad c = false ∧ u.requester c = u.pkg ∧ u.leases.length < 4096 ∧
      u.rf SEC_STATUS SEC_STATUS_ENTROPY_FAIL ≠ 1 ∧ (u.resolveKeys (u.requester c) (resolveKeysOf c)).2.2 = [])) = true ∧
    meets 0x331 [0, 64, 128, 5] (withEntry 0) (fun c u => decide (u.resolveBad c = false ∧ u.requester c = u.pkg ∧ u.leases.length < 4096 ∧
      u.rf SEC_STATUS SEC_STATUS_ENTROPY_FAIL ≠ 1 ∧ (u.resolveKeys (u.requester c) (resolveKeysOf c)).2.2 ≠ [])) = true := by decide +kernel

theorem witness_ListCommands :
    meets 0x330 [64] (withMem manager 64 [BitVec.ofNat 64 (1 + 2 ^ 16)]) (fun c u => decide (u.listReadable (c.pf 0 47 0) = true ∧
      (u.listHead (c.pf 0 47 0)).1 = 1 ∧ (u.listHead (c.pf 0 47 0)).2.1 ≠ 0)) = true ∧
    (let s := withMem manager 64 [BitVec.ofNat 64 (1 + 2 ^ 16 * 4096), 0]
     meets 0x350 [64, 0, BitVec.ofNat 64 (2 ^ 36), 0, 0] s (fun c u => decide (c.pf 0 59 48 + 1 = 1 ∧ u.tables.modelBad c = false ∧
      (match u.localRead (c.pf 0 47 0) 16 with
       | .ok bs => let segs := segments (bytesToWords bs) 1
         !segs.any (fun x => x.1 != 1) && !segs.any (fun x => x.2.2 == 0 || x.2.2 % 4096 != 0) &&
           (placeAll (c.pf 1 39 0) (c.pf 2 39 0) (namedWindows (c.p 4)) u.tables.winSize (segs.map (fun x => x.2))).short == 0
       | .error _ => false) = true)) = true) ∧
    (let m : MemOp := { opcode := 0x301, src := 0, dst := 64, bytes := 64, pattern := 0, tag := 0, origin := 0, ring := 0 }
     ({ manager with memOps := [m] } : State).memOps[0]? = some m ∧ manager.memOps[0]? = none) := by decide +kernel

def cfgOk : Word := packFields [(DRL_CFG_NVC_M1, 7)]
def poolOk : Word := packFields [(DRL_POOL_POOL, 32768), (DRL_POOL_RES, 16), (DRL_POOL_CAP_PCT, 100)]

theorem witness_LinkCommands :
    meets 0x410 [135, cfgOk, poolOk] manager (fun c u => decide (u.linkSetBad (c.pf 0 7 0) (c.p 1) (c.p 2) = false ∧
      u.linkState (c.pf 0 7 0) = lkDisabled ∧ getField (c.p 1) DRL_CFG_EN = 0)) = true ∧
    meets 0x411 [127] ((manager.wf (DRL_CFG 127) DRL_CFG_EN 1).wf (DRL_CFG 127) DRL_CFG_PAIRS_M1 0) (fun c u => decide (c.pf 0 7 0 < 128 ∧ u.linkNamed (c.pf 0 7 0) = true ∧
      (u.link (c.pf 0 7 0)).width = none ∧ c.pf 0 10 8 = u.rf (DRL_CFG (c.pf 0 7 0)) DRL_CFG_PAIRS_M1 ∧
      c.pf 0 7 0 % 16 + c.pf 0 10 8 + 1 ≤ 16 ∧ u.planNames (c.pf 0 7 0 / 16) (c.pf 0 7 0) [] = false)) = true ∧
    meets 0x412 [128] linked (fun c u => decide (c.pf 0 7 0 < 136 ∧ u.linkUp (c.pf 0 7 0) = true)) = true ∧
    meets 0x413 [BitVec.ofNat 64 (128 + 2 ^ 8)] linked (fun c u => decide ((u.link (c.pf 0 7 0)).want = none ∧
      u.rf (DRL_CFG (c.pf 0 7 0)) DRL_CFG_EN = c.pf 0 8 8 ∧ u.linkState (c.pf 0 7 0) ≠ lkHeld)) = true ∧
    meets 0x413 [128] linked (fun c u => decide (u.rf (DRL_CFG (c.pf 0 7 0)) DRL_CFG_EN ≠ c.pf 0 8 8)) = true := by decide +kernel

/-- A manager whose Casement 7 lights channel 17, or its carrier 0. -/
def lit : State := manager.wf (LSR_GRID 7 17) LSR_GRID_STATE chLit

theorem witness_LightCommands :
    meets 0x420 [BitVec.ofNat 64 (7 + 2 ^ 8 * 21)] manager (fun c u => decide (18 ≤ optLaser c ∧ optLaser c < 22 ∧
      u.attic (optCsm c) (optLaser c - 18) ≠ atServing ∧ u.attic (optCsm c) (optLaser c - 18) ≠ atFenced)) = true ∧
    meets 0x421 [BitVec.ofNat 64 (7 + 2 ^ 8 * 17)] lit (fun c u => decide (optLaser c < 18 ∧ u.chan (optCsm c) (optLaser c) = chLit ∧
      u.freeAttic (optCsm c) ≠ none)) = true ∧
    meets 0x422 [7] manager (fun c u => decide ((u.csm (optCsm c)).swaps = [] ∧ (List.range 18).all (fun k => !u.chanLit (optCsm c) k) = true ∧
      u.laserOn (optCsm c) 22 = false ∧ u.laserOn (optCsm c) 23 = false)) = true ∧
    meets 0x422 [7] (manager.wf (LSR_CARRIER 7 0) LSR_CARRIER_STATE crStandby) (fun c u => decide ((List.range 18).all (fun k => !u.chanLit (optCsm c) k) = true ∧
      u.laserOn (optCsm c) 22 = true ∧ u.laserOn (optCsm c) 23 = false ∧ (u.csm (optCsm c)).atLimit = [])) = true ∧
    meets 0x423 [7, packFields [(LSR_CFG_WARN_DB, 0), (LSR_CFG_SWAP_DB, 2 ^ LSR_CFG_SWAP_DB.width - 1), (LSR_CFG_FLOOR_DB, 2 ^ LSR_CFG_FLOOR_DB.width - 2)]]
      manager (fun c u => decide (threshOk (c.p 1) = true ∧ (List.range 18).all (fun k => !u.chanLit (optCsm c) k) = true)) = true ∧
    meets 0x424 [7, packFields [(TUN_CFG_CAL_INTERVAL, 1)]] manager (fun c _ => decide (getField (c.p 1) TUN_CFG_CAL_INTERVAL ≠ 0)) = true := by
  decide +kernel

/-- A PLAN_LOAD of an empty plan for Casement 7. -/
def planPs : List Word := BitVec.ofNat 64 (1 + 2 ^ 8 * 128) :: 500 :: List.replicate 518 0

theorem planPs_zero (k hi lo : Nat) (hk : 2 ≤ k) : (cmdOf 0x430 planPs).pf k hi lo = 0 := by
  obtain ⟨j, rfl⟩ : ∃ j, k = j + 2 := ⟨k - 2, by omega⟩
  have h : (cmdOf 0x430 planPs).p (j + 2) = 0 := by
    show (List.replicate 518 (0 : Word)).getD j 0 = 0
    rw [List.getD_eq_getElem?_getD, List.getElem?_replicate]
    split <;> rfl
  rw [Cmd.pf, h]
  simp [getField]

theorem after_zero (c : Nat) (es : List (Nat × Nat × Nat)) (p : Plan) (hz : ∀ x ∈ es, x.2.2 = 0 ∧ x.2.1 < 1024)
    (hi : ∀ i < 1024, (c, i, 0) ∈ es) : Plan.after c es p = fun i => if i < 1024 then 0 else p i := by
  funext i
  rw [Plan.after]
  split
  · next x hx =>
    have h1 := hz x (List.mem_reverse.1 (List.mem_of_find?_eq_some hx))
    have h2 := List.find?_some hx
    simp only [Bool.and_eq_true, beq_iff_eq] at h2
    rw [if_pos (h2.2 ▸ h1.2), h1.1]
  · next hx =>
    rw [if_neg]
    intro hlt
    have := List.find?_eq_none.1 hx _ (List.mem_reverse.2 (hi i hlt))
    simp at this

theorem planPs_plan (p : Plan) : Plan.after 7 (packetPlan (cmdOf 0x430 planPs) 7 8) p = fun i => if i < 1024 then 0 else p i := by
  have hp : packetPlan (cmdOf 0x430 planPs) 7 8 = (List.range 1024).map (fun i => (7, i, 0)) := by
    rw [packetPlan]
    apply List.map_congr_left
    intro i _
    rw [planPs_zero _ _ _ (by omega), planPs_zero _ _ _ (by omega), ite_self]
  rw [hp]
  refine after_zero _ _ _ (fun x hx => ?_) (fun i hi => List.mem_map.2 ⟨i, List.mem_range.2 hi, rfl⟩)
  obtain ⟨i, hi, rfl⟩ := List.mem_map.1 hx
  exact ⟨rfl, List.mem_range.1 hi⟩

set_option maxRecDepth 200000 in
theorem witness_PlanLoad_fits : manager.changeFails 500 [7] (packetPlan (cmdOf 0x430 planPs) 7 8) = false := by
  have h : manager.planFails 7 (fun i => if i < 1024 then 0 else manager.planNow 7 i) = false := by decide +kernel
  rw [← planPs_plan (manager.planNow 7)] at h
  rw [State.changeFails, List.any_cons, List.any_nil, Bool.or_false, show dueEntries manager.plans 500 = [] from (by simp [dueEntries] : dueEntries [] 500 = []), List.nil_append, h]

set_option maxRecDepth 200000 in
theorem witness_PlanCommands :
    meets 0x430 planPs manager (fun c u => decide (c.pf 0 3 0 = 1 ∧ c.len = 64 + 4096 * (maskOf (c.pf 0 15 8)).length ∧
      maskOf (c.pf 0 15 8) = [7] ∧ u.lateFor (c.pf 1 47 0) u.deltaLead = false ∧ u.plans = [])) = true ∧
    meets 0x431 [BitVec.ofNat 64 (1 + 2 ^ 16), 500, 0, 0, 0, 0, 0, 0, 7] manager (fun c u =>
      let es := (List.range (c.pf 0 21 16)).map (fun j => (c.pf (8 + j) 2 0, c.pf (8 + j) 12 3, c.pf (8 + j) 47 16))
      decide (c.pf 0 3 0 = 1 ∧ c.pf 0 21 16 = 1 ∧ c.len = 64 + 8 * 1 ∧ c.pf 8 15 13 = 0 ∧ c.pf 8 63 48 = 0 ∧
        u.changeFails (c.pf 1 47 0) ((es.map (fun e => e.1)).dedup) es = false ∧ u.lateFor (c.pf 1 47 0) u.deltaLead = false ∧ u.plans = [])) = true ∧
    meets 0x432 [BitVec.ofNat 64 (7 + 2 ^ 3 * 7 + 2 ^ 6), 500] manager (fun c u => decide (c.pf 0 6 6 = 1 ∧ u.lateFor (c.pf 1 47 0) 2 = false ∧
      u.settles = [])) = true ∧
    meets 0x433 [] (manager.wf STR_BEAT STR_BEAT_STATE btUnaligned) (fun _ u => decide (u.beatState = btUnaligned)) = true := by decide +kernel

theorem witness_SkylightAndPowerCommands :
    meets 0x440 [7, 0, 0] manager (fun c u => decide (u.mboxBad (c.p 2) = false ∧ getField (c.p 1) SKY_CFG_CNT_CLR = 0)) = true ∧
    meets 0x441 [7] (manager.wf (CSM_STATUS 7) CSM_STATUS_POWER 2) (fun c u => decide (u.skyUp (c.pf 0 2 0) = true ∧
      (u.sky1 (c.pf 0 2 0)).cal = none)) = true ∧
    meets 0x501 [BitVec.ofNat 64 (3 + 2 ^ 8 * 2)] manager (fun c u => decide (u.isCache (c.pf 0 1 0) = false)) = true ∧
    meets 0x502 [3000] manager (fun c u => decide (3000 ≤ c.pf 0 15 0 ∧ c.pf 0 15 0 ≤ u.tdp)) = true ∧
    meets 0x502 [11500] manager (fun c u => decide (3000 ≤ c.pf 0 15 0 ∧ c.pf 0 15 0 ≤ u.tdp)) = true ∧
    meets 0x510 [BitVec.ofNat 64 (locDie 11 + 2 ^ 32)] manager (fun c u => decide (unitAt (c.pf 0 31 0) = some (.die 11) ∧
      u.unitStatus (.die 11) (c.pf 0 32 32 == 1) = none)) = true := by decide +kernel

/-- A plan for the loss of die 0 that moves bay 0 of it to die 1, at 4,096, in a READONLY region. -/
def withPlan : State :=
  let s := (withRegion manager MEM_RGN_ATTR_READONLY).wf (MEM_RGN_ATTR 63) MEM_RGN_ATTR_LAST 0xFF
  (withMem s 4096 [BitVec.ofNat 64 (1 + 2 ^ 4 + 2 ^ 32 * locDie 0), 1, 77, 0, 0, 0, 0, 0, 0, 1, 4, 0]).setReg (FLT_PLAN_DA 0) 4096 |>.wf FLT_PLANVALID (bit 0) 1

theorem witness_FaultCommands :
    (let s : State := { manager with mode := .initHold }
     takes (cmdOf 0x520 []) 0x520 s = true ∧ (s.unqueue (cmdOf 0x520 [])).mode = .initHold) ∧
    meets 0x601 [4096, 4] manager (fun c u => decide (u.uncleared.take (c.pf 1 15 0) = [])) = true ∧
    meets 0x601 [4096, 1] { manager with logOrder := [0] } (fun c u => decide (u.uncleared.take (c.pf 1 15 0) ≠ [])) = true ∧
    meets 0x602 [BitVec.ofNat 64 F_DIE_UV] manager (fun c _ => match faultSource (c.pf 0 15 0) with | some f => f.severity != 2 | none => false) = true ∧
    meets 0x602 [0x3005] manager (fun c _ => match faultSource (c.pf 0 15 0) with | some f => f.severity == 2 | none => false) = true ∧
    meets 0x610 [BitVec.ofNat 64 (0x3005 + 2 ^ 16 * 31)] manager (fun c _ => match faultSource (c.pf 0 15 0) with
      | some f => c.pf 0 20 16 &&& f.forced == f.forced | none => false) = true ∧
    meets 0x610 [0x3005] manager (fun c _ => match faultSource (c.pf 0 15 0) with
      | some f => c.pf 0 20 16 &&& f.forced != f.forced | none => false) = true ∧
    meets 0x6F0 [BitVec.ofNat 64 F_DIE_UV, BitVec.ofNat 64 (locDie 11)] manager (fun c _ => decide (reportFits (c.pf 0 15 0) (c.pf 1 31 0) = true)) = true ∧
    meets 0x630 [BitVec.ofNat 64 (locDie 11)] { manager with fences := [(locDie 11, F_DIE_UV)] } (fun c u => decide (u.unitFenced (c.pf 0 31 0) = true ∧
      u.steps = [])) = true := by decide +kernel

theorem witness_FallbackLoad :
    meets 0x620 [4096, 96] withPlan (fun c u => decide (daWindow (c.pf 0 47 0) = 0 ∧ 64 ≤ c.pf 1 31 0 ∧ u.inReadonly (c.pf 0 47 0) (c.pf 1 31 0) = true ∧
      (match u.localRead (c.pf 0 47 0) (c.pf 1 31 0) with | .ok _ => true | .error _ => false) = true ∧ (u.planHead (c.pf 0 47 0)).version = 1 ∧
      c.pf 1 31 0 = planBytes (u.planHead (c.pf 0 47 0)) ∧ kindFits (u.planHead (c.pf 0 47 0)).kind (u.planHead (c.pf 0 47 0)).loc = true ∧
      planBaysBad true (u.planHead (c.pf 0 47 0)).loc (u.planBays (c.pf 0 47 0)) = false ∧ u.reloadsBad (u.planReloads (c.pf 0 47 0)) = false ∧
      (u.planHead (c.pf 0 47 0)).nbay ≠ 0 ∧ u.planMatch (u.planHead (c.pf 0 47 0)) = some 0)) = true := by decide +kernel

theorem witness_SecurityCommands :
    meets 0x701 [1] manager (fun c u => decide (c.pf 0 1 0 ≠ 0 ∧ isForwarded c = false ∧ u.lockout = none ∧ u.entropyFail = false)) = true ∧
    meets 0x702 [0, 0, 0, 0] manager (fun c u => decide (u.challenges.find? (fun x => x.ring == c.ringId) = none)) = true ∧
    meets 0x703 [] manager (fun c _ => decide (isForwarded c = false)) = true ∧
    meets 0x720 [0] manager (fun c u => decide (c.pf 0 2 0 < 5 ∧ c.pf 0 2 0 = u.nv.lifecycle)) = true ∧
    meets 0x720 [1] { manager with nv := { manager.nv with keys := 1 } } (fun c u => decide (c.pf 0 2 0 ≠ u.nv.lifecycle ∧ u.mayMove (c.pf 0 2 0) c.role = true ∧ u.steps = [])) = true ∧
    meets 0x720 [2] manager (fun c u => decide (u.mayMove (c.pf 0 2 0) c.role = false)) = true ∧
    meets 0x720 [4] { manager with steps := [stepOf .pending] } (fun c u => decide (u.mayMove (c.pf 0 2 0) c.role = true ∧ u.steps ≠ [])) = true ∧
    meets 0x730 [0, 0, 0, 0, 4096] manager (fun c u => decide (u.spaceEnd (c.pf 4 47 0) = some 824633720832 ∧ c.pf 4 47 0 + 2096 ≤ 824633720832 ∧
      (u.cmdWrite (c.pf 4 47 0) (List.replicate 2096 0)).isSome = true ∧ u.leavesLeft ≠ 0 ∧ u.nv.lifecycle ≠ 4 ∧ u.entropyFail = false)) = true ∧
    meets 0x740 [4096, 0] manager (fun _ _ => true) = true := by decide +kernel

theorem witness_AuthResponse : takes (cmdOf 0x702 [0, 0, 0, 0]) 0x702 challenged = true ∧
    challenged.unqueue (cmdOf 0x702 [0, 0, 0, 0]) = challenged ∧ challenged.challenges.find? (fun x => x.ring == 20) = some challenge ∧
    (∀ g, Via.i3c ≠ .guest g) ∧ challenged.responseOk (cmdOf 0x702 answerWords) challenge = true :=
  ⟨by decide +kernel, rfl, by decide +kernel, nofun, test_right_answer⟩

/-- An image that is not sound is refused; a sound one needs a signature, of which no small example can be written here. -/
theorem witness_ImageCommands :
    meets 0x110 [4096, 64] manager (fun c u => match u.readImage (c.pf 0 47 0) (c.pf 1 31 0) with | some r => !imageSound 1 r.1 | none => false) = true ∧
    (let s : State := { manager with cfgNow := .image (zeros 64) }
     meets 0x111 [4096, 64] s (fun c u => decide ((cfgBytes u.cfgNow).length ≤ c.pf 1 31 0)) = true ∧
     meets 0x111 [4096, 63] s (fun c u => decide (c.pf 1 31 0 < (cfgBytes u.cfgNow).length)) = true) ∧
    (takes (cmdOf 0x710 []) 0x710 manager = true ∧ manager.nv.lifecycle ≠ 2) := by decide +kernel

theorem witness_EventsReachValues : on.reaches b0 0 0 = true ∧ on.reaches b0 0 1 = false ∧ on.reaches b0 0 0x8001 = true ∧ on.reaches b0 0 0x8000 = false := by
  decide +kernel

/-! ## Single steps and single values -/

/-- The check value of CRC-32C: the nine digits. -/
theorem test_crc32c : crc32c [0x31, 0x32, 0x33, 0x34, 0x35, 0x36, 0x37, 0x38, 0x39] = 0xE3069283 := by decide +kernel

def rne : LaneCtx := { rm := .rne, sat := false, u := 0 }

/-- 1.5 + 1.5 = 3, and 1 + 2^-25 rounds to 1 and is inexact. -/
theorem test_add_rounds : addLane rne (laneVal 0x3FC00000) (laneVal 0x3FC00000) = (0x40400000, 0) ∧
    (addLane rne (laneVal 0x3F800000) (laneVal 0x33000000)).1 = 0x3F800000 ∧ (addLane rne (laneVal 0x3F800000) (laneVal 0x33000000)).2 ≠ 0 := by
  decide +kernel

/-- 1 / 3 to the nearest. -/
theorem test_div_rounds : (divLane rne (laneVal 0x3F800000) (laneVal 0x40400000)).1 = 0x3EAAAAAB := by decide +kernel

/-- The root of 2 to the nearest, and of −1 the canonical NaN. -/
theorem test_sqrt : (sqrtLane rne (laneVal 0x40000000)).1 = 0x3FB504F3 ∧ (sqrtLane rne (laneVal 0xBF800000)).1 = canonNan := by decide +kernel

/-- A sum that cancels. -/
theorem test_fma_cancels : (fmaLane rne (laneVal 0x40400000) (laneVal 0x40000000) (laneVal 0xC0C00000)).1 &&& 0x7FFFFFFF = 0 := by decide +kernel

/-- What a write to memory puts there is read back, and 0 is kept out of the list. -/
theorem test_memory : memRead (memWrite [] 10 [1, 0, 3]) 9 5 = [0, 1, 0, 3, 0] ∧ memWrite [] 10 [0, 0] = [] := by decide +kernel

/-- A command leaves the queue by the step that runs it. -/
theorem test_step_takes_front : (match step { trstHigh with pending := [.bypass, .idcode] } with
    | .next t => decide (t.pending = [.idcode] ∧ t.jtag.ir = .bypass) | _ => false) = true := by decide +kernel

/-- VAUX latches the straps. -/
theorem test_straps : (match exec (.vauxWithinTolerance 2) on with | .next t => decide (t.straps = 2) | _ => false) = true := by decide +kernel

/-- A maker's test command is refused where it would act, and answered where it may not. -/
theorem test_maker_test : (match exec (.makerTest (cmdOf 0x800 [])) manager with | .refused _ => true | _ => false) = true ∧
    (match exec (.makerTest (cmdOf 0x800 [])) { manager with i3cRole := 0 } with | .next _ => true | _ => false) = true := by decide +kernel

/-- MGMT_READ of HRT_ID answers it with one reply. -/
theorem test_mgmt_read : (match exec (.mgmtRead (cmdOf 0x003 [BitVec.ofNat 64 HRT_ID])) manager with
    | .next t => decide (t.dups.length = 1 ∧ t.active = []) | _ => false) = true := by decide +kernel

/-- A cap of 3,000 W is taken, and one of 2,999 W is not. -/
theorem test_power_cap_set : (match exec (.powerCapSet (cmdOf 0x502 [3000])) manager with
    | .next t => decide (t.rf PWR_CFG PWR_CFG_CAP_W = 3000) | _ => false) = true ∧
    (match exec (.powerCapSet (cmdOf 0x502 [2999])) manager with
    | .next t => decide (t.rf PWR_CFG PWR_CFG_CAP_W = manager.rf PWR_CFG PWR_CFG_CAP_W) | _ => false) = true := by decide +kernel

end Sys2Proof.Tests
end

section
/-!
PROOFS. Events and header waits (R123): reaching is a comparison of 16-bit words, and a header wait is an event that reaches
its value unless the wait is off.
-/

namespace Sys2Proof.Machine

/-- The difference the model takes of two naturals is that of their 16-bit words, also where a number is 65,536 or more. -/
theorem toNat_ofNat_sub_ofNat_16 (e v : Nat) :
    (BitVec.ofNat 16 e - BitVec.ofNat 16 v).toNat = (e + 65536 - v % 65536) % 65536 := by
  rw [BitVec.toNat_sub, BitVec.toNat_ofNat, BitVec.toNat_ofNat]
  omega

theorem reaches_iff_toNat_sub_lt (s : State) (b : BayId) (e v : Nat) :
    s.reaches b e v = true ↔ (BitVec.ofNat 16 (s.evt b e) - BitVec.ofNat 16 v).toNat < 2 ^ 15 := by
  rw [State.reaches, decide_eq_true_iff, toNat_ofNat_sub_ofNat_16]
  norm_num

theorem waitMet_iff_off_or_reaches (s : State) (b : BayId) (d : Desc) :
    s.waitMet b d = true ↔ dfield d 1 5 5 = 0 ∨ s.reaches b (dfield d 1 10 6) (dfield d 1 31 16) = true := by
  rw [State.waitMet, Bool.or_eq_true, beq_iff_eq]

/-- Settles O60: the event's clause is a fact about subtraction of 16-bit words, the wait's is its definition read as a
proposition. -/
theorem eventsReachValuesModulo65536 : Obligations.EventsReachValuesModulo65536 := by
  intro b e v d s
  exact ⟨reaches_iff_toNat_sub_lt s b e v, waitMet_iff_off_or_reaches s b d⟩

end Sys2Proof.Machine
end

section
/-!
PROOFS. Package resets (R514, R545): what the wipe leaves, and which pulse or reaction runs it.
-/

namespace Sys2Proof.Machine

/-! ## What the wipe leaves -/

@[simp] theorem State.wiped_nv (s : State) : s.wiped.nv = s.nv := rfl

@[simp] theorem State.wiped_resetLow (s : State) : s.wiped.resetLow = s.resetLow := rfl

/-- The wipe writes one register beyond the reset values: PCH_PCIE, whose PERST is the level of a land. -/
theorem State.wiped_reg_other (s : State) {a : Nat} (h : a ≠ PCH_PCIE) : s.wiped.reg a = regReset a := by
  unfold State.wiped
  rw [State.reg_wf_other _ _ _ h]
  rfl

/-- The wipe of u is a wipe from s wherever u has the fuses, host memory and queue of s: a reset may note in u why it came. -/
theorem State.wipedFrom_wiped {s u : State} (hfuse : u.fuse = s.fuse) (hhost : u.hostMem = s.hostMem)
    (hpending : u.pending = s.pending) : WipedFrom s u.wiped where
  mem _ := ⟨rfl, rfl, rfl⟩
  stores := ⟨rfl, rfl, rfl, fun _ => rfl⟩
  bays _ := rfl
  regs _ h := u.wiped_reg_other h
  bridge _ := rfl
  idle := ⟨rfl, rfl, rfl, rfl, rfl⟩
  kept := ⟨hfuse, hhost, hpending⟩

/-! ## The three resets -/

theorem exec_resetN (ns : Nat) (s : State) :
    exec (.resetN ns) s = .next (if ns < 10000 then s else ({ s with resetLow := true } : State).wiped) := rfl

theorem exec_pwrgoodDeassert (ns : Nat) (s : State) :
    exec (.pwrgoodDeassert ns) s = .next (if ns < 1000 then s else s.wiped) := rfl

theorem exec_packageReset (s : State) : exec .packageReset s = .next (if s.resetPend then s.wiped else s) := rfl

/-- Settles O9: a pulse of the full length and a reaction that is due run the wipe, RESET_N after noting its own level, and
anything shorter, or a reaction that is not due, takes the other branch. -/
theorem resetsWipeThePackage : Obligations.ResetsWipeThePackage := by
  intro ns s
  have hwipe : WipedFrom s s.wiped := State.wipedFrom_wiped rfl rfl rfl
  have hwipeLow : WipedFrom s ({ s with resetLow := true } : State).wiped := State.wipedFrom_wiped rfl rfl rfl
  refine ⟨fun h => ⟨_, ?_, hwipeLow, State.wiped_nv _, State.wiped_resetLow _⟩, fun h => ?_,
    fun h => ⟨_, ?_, hwipe, State.wiped_nv s⟩, fun h => ?_, fun h => ⟨_, ?_, hwipe, State.wiped_nv s⟩, fun h => ?_⟩
  · rw [exec_resetN, if_neg (Nat.not_lt.mpr h)]
  · rw [exec_resetN, if_pos h]
  · rw [exec_pwrgoodDeassert, if_neg (Nat.not_lt.mpr h)]
  · rw [exec_pwrgoodDeassert, if_pos h]
  · rw [exec_packageReset, if_pos h]
  · rw [exec_packageReset, h, if_neg Bool.false_ne_true]

end Sys2Proof.Machine
end

section
/-!
PROOFS. What every step keeps: the Keeps lemma of each command, put together for exec and for step, and the statements that
read one part of it.
-/

namespace Sys2Proof.Machine

/-! ## One command -/

/-- Every command keeps what Keeps says, but for the removal of input power, which releases the clamp (R467). -/
theorem exec_keeps (i : Instr) (s : State) (hi : ∀ ms, i ≠ .inputPowerRemoved ms) : KeepsOut s (exec i s) := by
  cases i
  case inputPowerRemoved ms => exact absurd rfl (hi ms)
  case fsyncInEdge phase highPs => exact execFsyncInEdge_keeps (a2 := highPs)
  case reloadComplete step => exact execReloadComplete_keeps (a1 := step)
  case heartbeat hb epoch outSeq => exact execHeartbeat_keeps (a3 := outSeq)
  case digestTimeout k => exact execDigestTimeout_keeps (a1 := k)
  exacts [
    execStartUp_keeps, execStartUpDeadline_keeps, execResetN_keeps, execPwrgoodDeassert_keeps, execPackageReset_keeps,
    execRailUndervoltage_keeps, execDieUndervoltage_keeps, execThermalTrip_keeps, execPerstN_keeps,
    execFunctionLevelReset_keeps, execConfigurationRequest_keeps, execFrameBoundary_keeps,
    execCapOpDrop_keeps, execSensorUnchanged_keeps, execSlotBoundary_keeps, execBurstArrival_keeps,
    execLaneDegraded_keeps, execTimingRecord_keeps, execElectEnd_keeps, execHoldover_keeps, execHoldoverExpiry_keeps,
    execHandoverAnnounce_keeps, execBeatHandover_keeps, execPlanApply_keeps, execSettleChange_keeps,
    execQuietPeriodEnd_keeps, execFaPresenceOpen_keeps, execFaPresenceStable_keeps, execFadeMeasurement_keeps,
    execAtticAtOutput_keeps, execAtticSweepStop_keeps, execAtticVerifyEnd_keeps, execAtticMatched_keeps,
    execAtticSwitchIn_keeps, execLaserRampDownComplete_keeps, execLaserTurnOnComplete_keeps, execRingColdEnd_keeps,
    execRingSweepCapture_keeps, execRingVerifyEnd_keeps, execLossOfLock_keeps, execToneAudit_keeps,
    execMeshFault_keeps, execCalStart_keeps, execCalDone_keeps, execCalTimeout_keeps, execLaneMapEpoch_keeps,
    execLaneMapNotice_keeps, execVacate_keeps, execRestore_keeps, execExclude_keeps, execLinkTrainingStart_keeps,
    execOffer_keeps, execAccept_keeps, execRetrainReq_keeps, execRetrainAck_keeps, execGoingDown_keeps,
    execRetrainTimeout_keeps, execLossOfLight_keeps, execDownHoldExpiry_keeps, execReplayTimer_keeps,
    execAckIdleTimer_keeps, execAckOnly_keeps, execSendData_keeps, execMemRd_keeps, execMemWr_keeps, execMemCpl_keeps,
    execNeighbours_keeps, execHearthCommand_keeps, execHearthReply_keeps, execHearthEvent_keeps, execSkyDone_keeps,
    execDataFlit_keeps, execIdleFlit_keeps, execFrameFlit_keeps, execFlitReplay_keeps, execWidthReport_keeps,
    execWidthReportTimeout_keeps, execUcieModuleDown_keeps, execGuestAdmission_keeps, execGuestAbsent_keeps,
    execGuestReset_keeps, execGuestWindowAccess_keeps, execPorchLaneFailure_keeps, execSeamDown_keeps,
    execRetirementCopyComplete_keeps, execPatrolRead_keeps, execQueueRefill_keeps,
    execCelQwmWrite_keeps, execCrossedClear_keeps, execCelCntClr_keeps, execPantryAgeSweep_keeps,
    execLeaseExpiry_keeps, execPublishListApply_keeps, execRegionChangeApply_keeps, execWingRoleChange_keeps,
    execStepBaseFrame_keeps, execStepCommit_keeps, execStepReplay_keeps, execReplayLate_keeps, execFaultReport_keeps,
    execBudgetOverrun_keeps, execDigestCompare_keeps,
    execSelfcheck_keeps, execHeartbeatMissing_keeps, execResyncComplete_keeps, execPlannedPowerChange_keeps,
    execPowerChangeComplete_keeps, execOperatingPointChangeComplete_keeps, execRotationStep_keeps,
    execTileSlice_keeps, execSramSlice_keeps, execLarderSlice_keeps, execPantrySlice_keeps, execBistRowRepair_keeps,
    execScrub_keeps, execDrbgReseed_keeps, execLockoutEnd_keeps, execLifecycleTransition_keeps,
    execSkyMailboxScan_keeps, execLoadMatrix_keeps, execSlotReady_keeps, execScore_keeps, execSkyJobTimeout_keeps,
    execSkyCalibration_keeps, execSkyCalibrationComplete_keeps, execCarrierHandover_keeps, execCmdTimeout_keeps,
    execCommandDoorbell_keeps, execCommandRingEnable_keeps, execEventQueueHeadWrite_keeps, execEventQueueEnable_keeps,
    execArm_keeps, execDmaDoorbell_keeps, execDmaDescriptorComplete_keeps, execResume_keeps,
    execDmaChannelDisable_keeps, execHatchWrite_keeps, execHatchRead_keeps, execHatchErrClear_keeps,
    execRegisterWrite_keeps, execBayPowerReq_keeps, execEccClr_keeps, execCsmPowerReq_keeps, execCsmCntClr_keeps,
    execStrCntClr_keeps, execDrlCntClr_keeps, execSkyCntClr_keeps, execLarderEnable_keeps, execSequencerRun_keeps,
    execDescriptorFetch_keeps, execDescriptorDispatch_keeps, execDescriptorComplete_keeps, execSeqStall_keeps,
    execEventTimeout_keeps, execNop_keeps, execMatmul_keeps, execAttnBlock_keeps, execConv_keeps, execVec_keeps,
    execVecMicro_keeps, execConvert_keeps, execReduce_keeps, execLoad_keeps, execMicroprogramLoad_keeps,
    execStore_keeps, execSelect_keeps, execSend_keeps, execRecv_keeps, execSignal_keeps, execWaitEvent_keeps,
    execFence_keeps, execFrameMark_keeps, execAdd_keeps, execSub_keeps, execMul_keeps, execFma_keeps, execFms_keeps,
    execNeg_keeps, execAbs_keeps, execMin_keeps, execMax_keeps, execClamp_keeps, execFloor_keeps, execRint_keeps,
    execRcp_keeps, execDiv_keeps, execSqrt_keeps, execRsqrt_keeps, execExp2_keeps, execLog2_keeps, execExp_keeps,
    execLog_keeps, execTanh_keeps, execSigmoid_keeps, execErf_keeps, execCmplt_keeps, execCmple_keeps,
    execCmpeq_keeps, execSel_keeps, execAnd_keeps, execOr_keeps, execXor_keeps, execCvti_keeps, execCvtf_keeps,
    execRsum_keeps, execRmax_keeps, execRmin_keeps, execPerm_keeps, execRotl_keeps, execBcast_keeps, execIdx_keeps,
    execMov_keeps, execLdp_keeps, execLdv_keeps, execStv_keeps, execGather_keeps, execRand_keeps, execLoop_keeps,
    execEndloop_keeps, execMicroHalt_keeps, execIdentify_keeps, execPodList_keeps, execMgmtRead_keeps,
    execMgmtWrite_keeps, execConfigWrite_keeps, execConfigRead_keeps, execWingRoleSet_keeps, execRegionSet_keeps,
    execRegionClear_keeps, execHalt_keeps, execStepStart_keeps, execStepAbort_keeps, execMemFill_keeps,
    execMemCopy_keeps, execLarderFlush_keeps, execPantryPublish_keeps, execPantryResolve_keeps,
    execPantryRelease_keeps, execPantryEvict_keeps, execAnnexSet_keeps, execAnnexClear_keeps, execModelLoad_keeps,
    execLinkSet_keeps, execLinkWidth_keeps, execLinkRetrain_keeps, execLinkState_keeps, execLaserSet_keeps,
    execLaserSwap_keeps, execLaserCommission_keeps, execLaserThreshSet_keeps, execCalSet_keeps, execPlanLoad_keeps,
    execPlanDelta_keeps, execSettleSet_keeps, execBeatRealign_keeps, execSkySet_keeps, execSkyCal_keeps,
    execPowerPointSet_keeps, execPowerCapSet_keeps, execUnitPower_keeps, execTripAck_keeps, execFaultRead_keeps,
    execFaultClear_keeps, execReactionSet_keeps, execFallbackLoad_keeps, execUnfence_keeps, execFaultInject_keeps,
    execAuthChallenge_keeps, execAuthResponse_keeps, execAuthDrop_keeps, execFwInstall_keeps, execLifecycleSet_keeps,
    execAttest_keeps, execAuditRead_keeps, execMakerTest_keeps, execI3cCommandWrite_keeps,
    execI3cDataAddressWrite_keeps, execI3cDataWrite_keeps, execBypass_keeps, execIdcode_keeps,
    execSamplePreload_keeps, execExtest_keeps, execScanEn_keeps, execScanExit_keeps, execTrstN_keeps,
    execModuleTrainingComplete_keeps, execD2dFullResetEnd_keeps, execMemFillComplete_keeps, execMemCopyComplete_keeps,
    execEntropySamplePass_keeps, execVauxWithinTolerance_keeps, execSetdasa_keeps, execEntdaa_keeps]

/-- Every command keeps what Keeps says, but that the removal of input power releases the clamp (R467). -/
theorem exec_keeps_but_clamp {i : Instr} {s t : State} (h : exec i s = .next t) : ∃ c, Keeps s { t with clamped := c } := by
  by_cases hi : ∃ ms, i = .inputPowerRemoved ms
  · obtain ⟨ms, rfl⟩ := hi
    obtain ⟨u, c, hu, hk⟩ := execInputPowerRemoved_keeps (s := s) (a1 := ms)
    cases hu.symm.trans h
    exact ⟨c, hk⟩
  · exact ⟨t.clamped, exec_keeps i s (fun ms e => hi ⟨ms, e⟩) t h⟩

/-- MAKER_TEST may be refused, and a command packet on the I3C channel may be one; every other command answers a next state. -/
theorem exec_answers_next (i : Instr) (s : State) (hm : ∀ c, i ≠ .makerTest c) (hc : ∀ c, i ≠ .i3cCommandWrite c) :
    ∃ t, exec i s = .next t := by
  cases i
  case makerTest c => exact absurd rfl (hm c)
  case i3cCommandWrite c => exact absurd rfl (hc c)
  all_goals exact ⟨_, rfl⟩

theorem execMakerTest_ne_fault (c : Cmd) (s : State) (f : Fault) : execMakerTest c s ≠ .fault f := by
  unfold execMakerTest
  split <;> exact nofun

/-- The meaning of each opcode's command answers a next state. -/
theorem opMeanings_answer_next : ∀ m ∈ opMeanings, ∀ c s, ∃ t, m.2 c s = .next t := by
  simp only [opMeanings, List.forall_mem_append, List.forall_mem_cons, List.not_mem_nil, false_imp_iff, implies_true, and_true]
  and_intros <;> exact fun c s => ⟨_, rfl⟩

theorem runOpcode_ne_fault (c : Cmd) (s : State) (f : Fault) : runOpcode c s ≠ .fault f := by
  unfold runOpcode
  split
  · exact execMakerTest_ne_fault c s f
  · split
    · obtain ⟨t, ht⟩ := opMeanings_answer_next _ (List.mem_of_find?_eq_some ‹_›) c s
      rw [ht]
      exact nofun
    · exact nofun

theorem execI3cCommandWrite_ne_fault (c : Cmd) (s : State) (f : Fault) : execI3cCommandWrite c s ≠ .fault f := by
  unfold execI3cCommandWrite
  extract_lets c t
  split
  · exact nofun
  · split
    · exact nofun
    · exact runOpcode_ne_fault _ _ f

theorem exec_ne_fault (i : Instr) (s : State) (f : Fault) : exec i s ≠ .fault f := by
  by_cases hm : ∃ c, i = .makerTest c
  · obtain ⟨c, rfl⟩ := hm
    exact execMakerTest_ne_fault c s f
  by_cases hc : ∃ c, i = .i3cCommandWrite c
  · obtain ⟨c, rfl⟩ := hc
    exact execI3cCommandWrite_ne_fault c s f
  obtain ⟨t, ht⟩ := exec_answers_next i s (fun c e => hm ⟨c, e⟩) (fun c e => hc ⟨c, e⟩)
  rw [ht]
  exact nofun

/-! ## One step -/

/-- Where a command waits, a step is exec of the front one with the queue's rest. -/
theorem step_eq_exec {c : Instr} {rest : List Instr} {s : State} (h : s.pending = c :: rest) :
    step s = exec c { s with pending := rest } := by
  rw [step, h]

theorem step_eq_self {s : State} (h : s.pending = []) : step s = .next s := by
  rw [step, h]

/-- Soundness does not speak of the queue of commands. -/
theorem Sound.setPending {s : State} (h : Sound s) (q : List Instr) : Sound { s with pending := q } :=
  { mem := h.mem, sram := h.sram, hostMem := h.hostMem, ringMem := h.ringMem, mgmt := h.mgmt, hb := h.hb, history := h.history,
    audit := h.audit, repairs := h.repairs, dups := h.dups, log := h.log }

/-- Soundness does not speak of the clamp. -/
theorem Sound.of_setClamped {s : State} {c : Bool} (h : Sound { s with clamped := c }) : Sound s :=
  { mem := h.mem, sram := h.sram, hostMem := h.hostMem, ringMem := h.ringMem, mgmt := h.mgmt, hb := h.hb, history := h.history,
    audit := h.audit, repairs := h.repairs, dups := h.dups, log := h.log }

/-- A step keeps, from the state with the queue's rest, what Keeps says, but that the removal of input power releases the
clamp. -/
theorem step_keeps_but_clamp {s t : State} (h : step s = .next t) :
    ∃ c, Keeps { s with pending := s.pending.tail } { t with clamped := c } := by
  rcases hp : s.pending with _ | ⟨i, rest⟩
  · cases (step_eq_self hp).symm.trans h
    refine ⟨s.clamped, ?_⟩
    have hs : ({ s with pending := [] } : State) = s := by rw [← hp]
    rw [List.tail_nil, hs]
    exact Keeps.refl s
  · rw [step_eq_exec hp] at h
    exact exec_keeps_but_clamp h

/-! ## The statements -/

/-- Settles O5: what exec keeps, and soundness speaks neither of the queue nor of the clamp. -/
theorem stepKeepsSoundness : Obligations.StepKeepsSoundness := by
  intro s t hs h
  obtain ⟨c, hk⟩ := step_keeps_but_clamp h
  exact (hk.sound (hs.setPending _)).of_setClamped

/-- Settles O6: no command puts one on the queue, so that a step leaves the rest; fuses are kept by every command. -/
theorem stepKeepsQueueRestAndFuses : Obligations.StepKeepsQueueRestAndFuses := by
  intro s t h
  obtain ⟨c, hk⟩ := step_keeps_but_clamp h
  exact ⟨hk.pending, hk.fuse⟩

/-- Settles O7: every meaning but MAKER_TEST's, and the I3C channel's that may come to it, is a next state, and none a fault. -/
theorem commandsAnswerNextState : Obligations.CommandsAnswerNextState := by
  intro i s
  refine ⟨exec_ne_fault i s, fun hm hc => ?_⟩
  obtain ⟨t, ht⟩ := exec_answers_next i s hm hc
  obtain ⟨c, hk⟩ := exec_keeps_but_clamp ht
  exact ⟨t, ht, hk.pending⟩

/-- Settles O12: what the NV store loses in no command, it loses in no step. -/
theorem nvStoreOnlyGrows : Obligations.NvStoreOnlyGrows := by
  intro s t h
  obtain ⟨c, hk⟩ := step_keeps_but_clamp h
  exact hk.nv

theorem State.retired_iff (s : State) : s.retired = true ↔ s.nv.lifecycle = 4 ∧ s.lifePend = none := by
  simp [State.retired]

/-- Settles O13: a retired package with no transition waiting stays one in every command. -/
theorem retiredIsFinal : Obligations.RetiredIsFinal := by
  intro s t hl hp h
  obtain ⟨c, hk⟩ := step_keeps_but_clamp h
  exact (State.retired_iff _).mp (hk.retired ((State.retired_iff _).mpr ⟨hl, hp⟩))

/-- Settles O1, by the definition of step. -/
theorem stepRunsFrontCommand : Obligations.StepRunsFrontCommand := fun _ _ _ => step_eq_exec rfl

/-- Settles O2: the empty queue is step's first case. -/
theorem emptyQueueIdles : Obligations.EmptyQueueIdles := fun _ h => step_eq_self h

/-- Settles O8: the meaning asks makerActs, and runs the command's checks where it is false. -/
theorem makerTestStopsWhereItWouldAct : Obligations.MakerTestStopsWhereItWouldAct := by
  intro c s
  have he : exec (.makerTest c) s = if s.makerActs c then .refused .makerTestUnspecified else .next (s.runCmd c isMakerTest id) := rfl
  exact ⟨fun h => by rw [he, if_pos h], fun h => ⟨_, by rw [he, h, if_neg Bool.false_ne_true]⟩⟩

/-! ## The reset state -/

/-- Settles O3: every store of the reset state is empty, so that each read answers its default. -/
theorem resetStateIsTheTables : Obligations.ResetStateIsTheTables :=
  ⟨{ mem := fun _ => ⟨rfl, rfl, rfl⟩, stores := ⟨rfl, rfl, rfl, fun _ => rfl⟩, bays := fun _ => rfl, regs := fun _ _ => rfl,
     bridge := fun _ => rfl, idle := ⟨rfl, rfl, rfl, rfl, rfl⟩, kept := ⟨rfl, rfl, rfl⟩ }, rfl, rfl⟩

/-- Settles O4: empty stores are canonical and within every bound. -/
theorem resetStateIsSound : Obligations.ResetStateIsSound :=
  { mem := rfl, sram := rfl, hostMem := rfl, ringMem := rfl, mgmt := rfl, hb := rfl, history := Nat.zero_le _,
    audit := Nat.zero_le _, repairs := Nat.zero_le _, dups := fun _ _ => Nat.zero_le _, log := ⟨List.Perm.refl _, Nat.zero_le _⟩ }

/-! ## Undervoltage and the trip clamp -/

theorem exec_railUndervoltage (rail : Fin 5) (mv ns : Nat) (s : State) :
    exec (.railUndervoltage rail mv ns) s = .next (if ns < 1000 ∨ railNominal rail.val * 9 ≤ mv * 10 then s
      else ({ s with nv := { s.nv with uvRail := if rail.val = 4 then s.nv.uvRail else rail.val + 1 } } : State).wiped) := rfl

/-- Settles O10: the row compares as the statement does, and the wipe follows the latch. -/
theorem railUndervoltageResets : Obligations.RailUndervoltageResets := by
  intro rail mv ns s nominal
  have hnom : railNominal rail.val = nominal := rfl
  rw [exec_railUndervoltage, hnom]
  refine ⟨fun hns hmv => ⟨_, congrArg _ (if_neg (by omega)), State.wipedFrom_wiped rfl rfl rfl, ?_⟩, fun h => by rw [if_pos (by omega)]⟩
  rw [State.wiped_nv]
  by_cases hr : rail = 4
  · subst hr
    rfl
  · have hv : rail.val ≠ 4 := fun e => hr (Fin.ext e)
    rw [if_neg hr]
    simp only [if_neg hv]

theorem exec_inputPowerRemoved (ms : Nat) (s : State) :
    exec (.inputPowerRemoved ms) s = .next (if ms < 100 then s else s.powerRemoved) := rfl

/-- Leaving scan keeps what the NV store says of trips. -/
theorem State.leaveScan_trips (s : State) : s.leaveScan.nv.trips = s.nv.trips ∧ s.leaveScan.nv.trip = s.nv.trip := by
  unfold State.leaveScan
  split <;> exact ⟨rfl, rfl⟩

/-- Settles O11: only the removal of input power is exempt from keeping the clamp, and it wipes with the clamp released. -/
theorem tripClampHoldsUntilPowerIsRemoved : Obligations.TripClampHoldsUntilPowerIsRemoved := by
  refine ⟨fun i s t hc hi h => ?_, fun ms s hms => ?_, fun ms s hms => by rw [exec_inputPowerRemoved, if_pos hms]⟩
  · by_cases hp : ∃ ms, i = .inputPowerRemoved ms
    · obtain ⟨ms, rfl⟩ := hp
      have hms : ms < 100 := Nat.lt_of_not_le fun hge => hi ms hge rfl
      rw [exec_inputPowerRemoved, if_pos hms] at h
      cases h
      exact hc
    · exact (exec_keeps i s (fun ms e => hp ⟨ms, e⟩) t h).clamp hc
  · obtain ⟨htrips, htrip⟩ := s.leaveScan_trips
    exact ⟨s.powerRemoved, by rw [exec_inputPowerRemoved, if_neg (Nat.not_lt.mpr hms)], rfl, fun _ => ⟨rfl, rfl⟩, rfl, htrips,
      htrip⟩

end Sys2Proof.Machine
end

section
/-!
PROOFS. What the shared operations leave alone: reads of a state whose registers are those of another, and the states that
differ only in what an event entry or a fault record touches.
-/

namespace Sys2Proof.Machine

/-! ## Bytes -/

theorem BytesKept.of_eq {s t : State} (hmem : t.mem = s.mem) (hsram : t.sram = s.sram) (hring : t.ringMem = s.ringMem)
    (hhost : t.hostMem = s.hostMem) : BytesKept s t := by
  intro a
  rw [hmem, hsram, hring, hhost]
  exact ⟨rfl, rfl, rfl, rfl⟩

theorem BytesKept.refl (s : State) : BytesKept s s := .of_eq rfl rfl rfl rfl

theorem BytesKept.trans {s t u : State} (h : BytesKept s t) (h' : BytesKept t u) : BytesKept s u := by
  intro a
  obtain ⟨h1, h2, h3, h4⟩ := h a
  obtain ⟨h1', h2', h3', h4'⟩ := h' a
  exact ⟨h1'.trans h1, h2'.trans h2, h3'.trans h3, h4'.trans h4⟩

theorem BytesKept.foldl {α : Type} {g : State → α → State} : ∀ (l : List α) (s : State),
    (∀ t x, BytesKept t (g t x)) → BytesKept s (l.foldl g s)
  | [], s, _ => .refl s
  | x :: l, s, hg => (hg s x).trans (BytesKept.foldl l (g s x) hg)

/-! ## Registers -/

theorem State.reg_congr {s t : State} (h : t.mgmt = s.mgmt) (a : Nat) : t.reg a = s.reg a := by
  rw [State.reg, h, State.reg]

theorem State.rf_congr {s t : State} {a : Nat} (h : t.reg a = s.reg a) (f : Field) : t.rf a f = s.rf a f := by
  rw [State.rf, h, State.rf]

theorem State.rf_lt (s : State) (a : Nat) (f : Field) : s.rf a f < 2 ^ f.width := getField_lt _ _

/-! ## Folds -/

/-- What every round of a fold leaves as it is, the fold leaves as it is. -/
theorem foldl_keeps_mem {α β γ : Type} (proj : β → γ) {g : β → α → β} :
    ∀ (l : List α) (s : β), (∀ x ∈ l, ∀ t, proj (g t x) = proj t) → proj (l.foldl g s) = proj s
  | [], _, _ => rfl
  | x :: l, s, hg => (foldl_keeps_mem proj l (g s x) fun y hy => hg y (List.mem_cons_of_mem _ hy)).trans
      (hg x (List.mem_cons_self ..) s)

theorem foldl_keeps {α β γ : Type} (proj : β → γ) {g : β → α → β} (hg : ∀ t x, proj (g t x) = proj t) (l : List α) (s : β) :
    proj (l.foldl g s) = proj s :=
  foldl_keeps_mem proj l s fun x _ t => hg t x

end Sys2Proof.Machine
end

section
/-!
PROOFS. What an event entry or a fault record touches: registers, the Cellar's queues, host memory and the outbox, and the NV
history; every other part of the state is left alone.
-/

namespace Sys2Proof.Machine

/-- The parts of the state that a fault record or an event entry may change (R426, R471 to R473). -/
structure EventParts where
  mgmt : Sparse (BitVec 64)
  hb : Sparse (BitVec 64)
  mem : Memory
  hostMem : Memory
  queues : Sparse Queue
  evqPass : Sparse Nat
  msixPending : List Nat
  outbox : List OutMsg
  nv : NvStore
  logOrder : List Nat
  logCleared : List Nat

def State.withEvents (s : State) (p : EventParts) : State :=
  { s with mgmt := p.mgmt, hb := p.hb, mem := p.mem, hostMem := p.hostMem, queues := p.queues, evqPass := p.evqPass,
           msixPending := p.msixPending, outbox := p.outbox, nv := p.nv, logOrder := p.logOrder, logCleared := p.logCleared }

/-- The parts of a state that an event may change, as they stand. -/
def State.eventParts (s : State) : EventParts :=
  { mgmt := s.mgmt, hb := s.hb, mem := s.mem, hostMem := s.hostMem, queues := s.queues, evqPass := s.evqPass,
    msixPending := s.msixPending, outbox := s.outbox, nv := s.nv, logOrder := s.logOrder, logCleared := s.logCleared }

/-- t differs from s in nothing but what an event may change. -/
def EventOnly (s t : State) : Prop := t = s.withEvents t.eventParts

theorem EventOnly.refl (s : State) : EventOnly s s := rfl

theorem EventOnly.trans {s t u : State} (h : EventOnly s t) (h' : EventOnly t u) : EventOnly s u := by
  have hu : t.withEvents u.eventParts = s.withEvents u.eventParts := by
    rw [h]
    rfl
  exact Eq.trans h' hu

theorem EventOnly.beat {s t : State} (h : EventOnly s t) : t.beat = s.beat := by
  rw [h]
  rfl

/-! ## Registers and memory -/

theorem State.setReg_eventOnly (s : State) (a : Nat) (v : Word) : EventOnly s (s.setReg a v) := rfl

theorem State.setQueue_eventOnly (s : State) (n : Nat) (q : Queue) : EventOnly s (s.setQueue n q) := rfl

theorem State.whf_eventOnly (s : State) (a : Nat) (f : Field) (n : Nat) : EventOnly s (s.whf a f n) := rfl

theorem State.unpoison_eventOnly (s : State) (l : Nat) : EventOnly s (s.unpoison l) := by
  unfold State.unpoison
  extract_lets
  split <;> rfl

theorem EventOnly.foldl {α : Type} {g : State → α → State} (hg : ∀ t x, EventOnly t (g t x)) :
    ∀ (l : List α) (s : State), EventOnly s (l.foldl g s)
  | [], s => .refl s
  | x :: l, s => (hg s x).trans (EventOnly.foldl hg l (g s x))

theorem State.memStore_eventOnly (s : State) (a : Nat) (bs : List Byte) : EventOnly s (s.memStore a bs) := by
  unfold State.memStore
  extract_lets full t
  have ht : EventOnly s t := EventOnly.foldl (fun t l => by
    split
    · exact t.unpoison_eventOnly l
    · exact .refl t) full s
  exact ht.trans rfl

/-! ## The Cellar's queues and the event rings -/

theorem State.spill_eventOnly : ∀ (k : Nat) (s : State) (n : Nat) (q : Queue) (r : State × Queue),
    State.spill k s n q = some r → EventOnly s r.1
  | 0, s, n, q, r, h => by
    unfold State.spill at h
    split at h
    · cases h; exact .refl s
    · cases h
  | k + 1, s, n, q, r, h => by
    unfold State.spill at h
    split at h
    · cases h; exact .refl s
    · split at h
      · cases h
      · extract_lets t u at h
        have ht : EventOnly s t := s.memStore_eventOnly _ _
        have hu : EventOnly t u := by
          unfold u
          split <;> rfl
        exact ((ht.trans hu).trans (u.setQueue_eventOnly _ _)).trans (State.spill_eventOnly k _ n _ r h)

theorem State.queuePut_eventOnly {s t : State} {n : Nat} {bs : List Byte} (h : s.queuePut n bs = some t) : EventOnly s t := by
  unfold State.queuePut at h
  obtain ⟨r, hr, rfl⟩ := Option.map_eq_some_iff.mp h
  exact (State.spill_eventOnly _ _ _ _ _ hr).trans rfl

theorem State.msix_eventOnly (s : State) (v : Nat) : EventOnly s (s.msix v) := by
  unfold State.msix
  extract_lets a d
  split <;> rfl

theorem State.ringWrite_eventOnly (s : State) (q : Nat) (bs : List Byte) : EventOnly s (s.ringWrite q bs) := by
  unfold State.ringWrite
  extract_lets tail size pass ws base t u
  have hu : EventOnly s u := rfl
  split
  · exact (hu.trans (u.whf_eventOnly _ _ _)).trans (State.msix_eventOnly _ _)
  · exact hu

theorem State.deliver_eventOnly : ∀ (k : Nat) (s : State) (q : Nat), EventOnly s (State.deliver k s q)
  | 0, s, _ => .refl s
  | k + 1, s, q => by
    unfold State.deliver
    split
    · exact .refl s
    · rename_i t ht
      have hone : EventOnly s t := by
        unfold State.deliverOne at ht
        split at ht
        · obtain ⟨r, -, rfl⟩ := Option.map_eq_some_iff.mp ht
          exact (s.setQueue_eventOnly _ _).trans (State.ringWrite_eventOnly _ _ _)
        · cases ht
      exact hone.trans (State.deliver_eventOnly k t q)

theorem State.crossingsW_eventOnly (s : State) (n : Nat) (hi lo : Bool) : EventOnly s (s.crossingsW n hi lo).1 := by
  unfold State.crossingsW
  extract_lets level h l nh nl t u host
  have ht : EventOnly s t := by
    unfold t
    split <;> rfl
  have hu : EventOnly t u := by
    unfold u
    split <;> rfl
  exact ht.trans hu

theorem State.putEvent_eventOnly (s : State) (q : Nat) (ws : List Word) : EventOnly s (s.putEvent q ws) := by
  have hnotify : ∀ (u : State) (b : Bool), EventOnly u (if b then u.notifyRing q else u) := fun u b => by
    split
    · exact State.msix_eventOnly _ _
    · exact .refl u
  unfold State.putEvent
  extract_lets n before t
  have ht : EventOnly s t := by
    unfold t
    split
    · exact State.queuePut_eventOnly ‹_›
    · rfl
  split
  rename_i u h l hu
  have hu : EventOnly t u := by
    have := t.crossingsW_eventOnly n (t.highAt n before) (t.lowAt n before)
    rwa [show t.crossingsW n (t.highAt n before) (t.lowAt n before) = (u, h, l) from hu] at this
  extract_lets v lvl w
  have hw : EventOnly v w := State.deliver_eventOnly _ _ _
  split
  rename_i x h' l' hx
  have hx : EventOnly w x := by
    have := w.crossingsW_eventOnly n (w.highAt n lvl) (w.lowAt n lvl)
    rwa [show w.crossingsW n (w.highAt n lvl) (w.lowAt n lvl) = (x, h', l') from hx] at this
  exact ((((ht.trans hu).trans (hnotify u _)).trans hw).trans hx).trans (hnotify x _)

theorem State.hostEvent_eventOnly (s : State) (kind : Nat) (body : List Word) : EventOnly s (s.hostEvent kind body) := by
  unfold State.hostEvent
  extract_lets e
  split
  · exact s.putEvent_eventOnly _ _
  · rfl

/-! ## Records -/

theorem State.putRecord_eventOnly (s : State) (i : Nat) (ws : List Word) : EventOnly s (s.putRecord i ws) := by
  unfold State.putRecord
  extract_lets t
  have ht : EventOnly s t := EventOnly.foldl (fun t _ => t.setReg_eventOnly _ _) _ s
  exact ht.trans rfl

theorem State.refreshFlt_eventOnly (s : State) : EventOnly s s.refreshFlt := State.setReg_eventOnly _ _ _

theorem State.recordFault_eventOnly (s : State) (code loc det : Nat) (injected : Bool) (lead step : Nat) :
    EventOnly s (s.recordFault code loc det injected lead step).1 := by
  unfold State.recordFault
  split
  · exact EventOnly.trans (State.setReg_eventOnly _ _ _) (State.refreshFlt_eventOnly _)
  · extract_lets ws nv t
    have ht : EventOnly s t := by
      unfold t
      split <;> rfl
    split
    · exact (ht.trans (State.putRecord_eventOnly _ _ _)).trans (State.refreshFlt_eventOnly _)
    · exact (ht.trans (State.setReg_eventOnly _ _ _)).trans (State.refreshFlt_eventOnly _)

theorem State.note_eventOnly (s : State) (code loc det : Nat) : EventOnly s (s.note code loc det) := by
  unfold State.note State.noteStep
  extract_lets ws r
  have hr : EventOnly s r.1 := s.recordFault_eventOnly _ _ _ _ _ _
  split
  · exact hr.trans (State.hostEvent_eventOnly _ _ _)
  · exact hr

end Sys2Proof.Machine
end

section
/-!
PROOFS. The Beat (R303 to R310): the end of ELECT, handover, and what timing records and FSYNC_IN do.
-/

namespace Sys2Proof.Machine

/-! ## Entering a Beat state -/

theorem State.toBeat_beatState (s : State) (st : Nat) : (s.toBeat st).beatState = st % 8 :=
  State.rf_wf_same _ _ _ _ (by decide)

theorem State.toBeat_rf_beat (s : State) (st : Nat) (g : Field) (hg : g.lo + g.width ≤ 64)
    (h : fieldsApart STR_BEAT_STATE g) : (s.toBeat st).rf STR_BEAT g = s.rf STR_BEAT g :=
  State.rf_wf_field _ _ _ _ _ hg h

theorem State.toBeat_rf_other (s : State) (st : Nat) {a : Nat} (g : Field) (h : a ≠ STR_BEAT) :
    (s.toBeat st).rf a g = s.rf a g :=
  State.rf_wf_other _ _ _ _ h

theorem State.toBeat_frame (s : State) (st : Nat) : (s.toBeat st).frame = s.frame :=
  State.toBeat_rf_other _ _ _ (by decide)

theorem State.becomeMaster_spec (s : State) : s.becomeMaster.beatState = btMaster ∧
    s.becomeMaster.rf STR_BEAT STR_BEAT_MASTER_ID = s.pkg ∧ s.becomeMaster.rf STR_BEAT STR_BEAT_STRATUM = 0 ∧
    s.becomeMaster.frame = s.frame ∧ BytesKept s s.becomeMaster := by
  unfold State.becomeMaster
  refine ⟨State.toBeat_beatState _ _, ?_, ?_, ?_, .of_eq rfl rfl rfl rfl⟩
  · rw [State.toBeat_rf_beat _ _ _ (by decide) (by decide), State.rf_wfs_same]
    simp (disch := decide) only [List.foldl, getField_putField_same, getField_putField_other]
    exact Nat.mod_eq_of_lt (s.rf_lt HRT_PKGID HRT_PKGID_PKG_ID)
  · rw [State.toBeat_rf_beat _ _ _ (by decide) (by decide), State.rf_wfs_same]
    simp (disch := decide) only [List.foldl, getField_putField_same, Nat.zero_mod]
  · rw [State.toBeat_frame]
    exact State.rf_wfs_other _ _ _ (by decide)

@[simp] theorem State.reg_withBeat (s : State) (x : BeatSt) (a : Nat) : ({ s with beat := x } : State).reg a = s.reg a := (rfl)

@[simp] theorem State.rf_withBeat (s : State) (x : BeatSt) (a : Nat) (f : Field) :
    ({ s with beat := x } : State).rf a f = s.rf a f := (rfl)

/-- The registers of a package that steps to a reference: the counter, and master, reference and stratum in STR_BEAT. -/
theorem State.rf_alignTo (s : State) (m : Nat) (r : Heard × Nat) (a : Nat) (f : Field) : (s.alignTo m r).rf a f =
    ((s.wf STR_FRAME STR_FRAME_FRAME (s.frame + r.1.delta)).wfs STR_BEAT
      [(STR_BEAT_MASTER_ID, m), (STR_BEAT_REF_ID, r.1.pkg), (STR_BEAT_STRATUM, r.2)]).rf a f := by
  simp only [State.alignTo, State.rf_withBeat]

/-- Stepping to a reference moves the counter by the reference's difference, and names master, reference and stratum. -/
theorem State.alignTo_spec (s : State) (m : Nat) (r : Heard × Nat) :
    (s.alignTo m r).frame = (s.frame + r.1.delta) % 2 ^ 48 ∧ (s.alignTo m r).rf STR_BEAT STR_BEAT_MASTER_ID = m % 2 ^ 12 ∧
    (s.alignTo m r).rf STR_BEAT STR_BEAT_REF_ID = r.1.pkg % 2 ^ 12 ∧ (s.alignTo m r).rf STR_BEAT STR_BEAT_STRATUM = r.2 % 4 ∧
    BytesKept s (s.alignTo m r) := by
  refine ⟨?_, ?_, ?_, ?_, .of_eq rfl rfl rfl rfl⟩
  · rw [State.frame, State.rf_alignTo, State.rf_wfs_other _ _ _ (by decide), State.rf_wf_same _ _ _ _ (by decide)]
    rfl
  all_goals
    rw [State.rf_alignTo, State.rf_wfs_same]
    simp (disch := decide) only [List.foldl, getField_putField_same, getField_putField_other]
    rfl

/-! ## ELECT -/

/-- No lower candidate and no master heard, in one sweep of the list or in two. -/
theorem any_master_or_lower (hs : List Heard) (now master lower : Heard → Bool) :
    hs.any (fun h => now h && (master h || lower h)) =
      (hs.any (fun h => now h && lower h) || hs.any (fun h => now h && master h)) := by
  induction hs with
  | nil => rfl
  | cons h hs ih =>
    simp only [List.any_cons, ih]
    cases now h <;> cases master h <;> cases lower h <;> simp

/-- This package is the candidate that wins an ELECT: it hears no master and no lower candidate. -/
def State.winsElect (s : State) : Bool :=
  s.candidate && !s.beat.heard.any (fun h => s.heardNow h && (h.master || (h.candidate && h.pkg != 0 && decide (h.pkg < s.pkg))))

/-- An ELECT that ends: the winner becomes MASTER, any other follows the master it hears, or starts again. -/
theorem State.electEnd_due {s : State} (hst : s.beatState = btElect)
    (hdue : s.rf STR_CFG STR_CFG_ELECT_FRAMES ≤ s.framesSince s.beat.since) :
    s.electEnd = if s.winsElect then s.becomeMaster
      else match s.masterHeard with
        | some m => s.seekReference m
        | none => s.toBeat btAcquire := by
  have hno : ¬(s.beatState ≠ btElect ∨ s.framesSince s.beat.since < s.rf STR_CFG STR_CFG_ELECT_FRAMES) := by
    rw [hst]
    omega
  have hwins : (s.candidate && !s.beat.heard.any (fun h => s.heardNow h && h.candidate && h.pkg != 0 && decide (h.pkg < s.pkg)) &&
      !s.beat.heard.any (fun h => s.heardNow h && h.master)) = s.winsElect := by
    rw [State.winsElect, any_master_or_lower, Bool.not_or, Bool.and_assoc]
    simp only [Bool.and_assoc]
  rw [State.electEnd, if_neg hno]
  simp only [hwins] <;> rfl

theorem exec_electEnd (s : State) : exec .electEnd s = .next s.electEnd := rfl

/-- Settles O15: the three ends of an ELECT, each with what its Beat state writes. -/
theorem electEndsInMasterAligningOrAcquire : Obligations.ElectEndsInMasterAligningOrAcquire := by
  intro s hst hdue wins
  have hwins : wins = s.winsElect := rfl
  clear_value wins
  subst hwins
  rw [exec_electEnd, State.electEnd_due hst hdue]
  refine ⟨fun hw => ⟨_, by rw [if_pos hw], s.becomeMaster_spec⟩, fun hw hm => ?_, fun m h stratum hw hm hr => ?_⟩
  · refine ⟨s.toBeat btAcquire, ?_, State.toBeat_beatState _ _, State.toBeat_frame _ _, .of_eq rfl rfl rfl rfl⟩
    rw [if_neg (by rw [hw]; exact Bool.false_ne_true), hm]
  · obtain ⟨hframe, hmaster, href, hstratum, hbytes⟩ := s.alignTo_spec m (h, stratum)
    refine ⟨(s.alignTo m (h, stratum)).toBeat btAligning, ?_, State.toBeat_beatState _ _, ?_, ?_, ?_, ?_,
      hbytes.trans (.of_eq rfl rfl rfl rfl)⟩
    · rw [if_neg (by rw [hw]; exact Bool.false_ne_true), hm]
      simp only [State.seekReference, hr]
    · rw [State.toBeat_frame, hframe]
    · rw [State.toBeat_rf_beat _ _ _ (by decide) (by decide), hmaster]
    · rw [State.toBeat_rf_beat _ _ _ (by decide) (by decide), href]
    · rw [State.toBeat_rf_beat _ _ _ (by decide) (by decide), hstratum]

/-! ## Handover -/

theorem exec_handoverAnnounce (s : State) : exec .handoverAnnounce s = .next s.announce := rfl

theorem exec_beatHandover (s : State) : exec .beatHandover s = .next s.handover := rfl

/-- A handover that is due: what the package becomes, with the handover no longer pending. -/
theorem State.handover_due {s : State} {f p : Nat} (h : s.beat.handover = some (f, p)) (hf : frameReached s.frame f = true) :
    s.handover = let u : State := { s with beat := { s.beat with handover := none } }
      if p = u.pkg then u.becomeMaster
      else if u.beatState = btMaster then
        (({ u with beat := { u.beat with offsets := [], within := 0, lastRef := u.frame } } : State).wfs STR_BEAT
          [(STR_BEAT_MASTER_ID, p), (STR_BEAT_REF_ID, p), (STR_BEAT_STRATUM, 1)]).toBeat btAligning
      else u.wf STR_BEAT STR_BEAT_MASTER_ID p := by
  unfold State.handover
  rw [h]
  simp only [hf, Bool.not_true, Bool.false_eq_true, if_false]

theorem State.pkg_mod (s : State) : s.pkg % 2 ^ 12 = s.pkg := Nat.mod_eq_of_lt (s.rf_lt HRT_PKGID HRT_PKGID_PKG_ID)

/-- The candidate a master hands over to: the lowest lower ID that has been ALIGNED for 1,024 frames (R308). -/
def State.newcomer (s : State) : Option Heard :=
  lowestHeard (s.beat.heard.filter (fun h => s.heardNow h && h.candidate && decide (h.pkg < s.pkg) && h.pkg != 0 &&
    (match h.alignedAt with | some a => decide (1024 ≤ s.framesSince a) | none => false)))

/-- The handover to h noted, 64 frames ahead. -/
def State.announcing (s : State) (h : Heard) : State :=
  { s with beat := { s.beat with handover := some (frameAdd s.frame 64, h.pkg) } }

theorem State.announce_newcomer {s : State} {h : Heard} (hst : s.beatState = btMaster) (hnone : s.beat.handover = none)
    (hlow : s.newcomer = some h) : s.announce = s.announcing h := by
  have hopen : s.announce = match s.newcomer with | some h => s.announcing h | none => s := by
    rw [State.announce, if_neg (by simp [hst, hnone])]
    rfl
  rw [hopen, hlow]

/-- Settles O17: the announcement notes the newcomer and touches no register; the handover's three branches each write the new
master's ID and keep the counter. -/
theorem handoverMovesTheMasterRole : Obligations.HandoverMovesTheMasterRole := by
  intro s
  refine ⟨fun h hst hnone hlow => ?_, fun hno => ?_, fun f p hp hf => ?_, fun f p hp hf => ?_⟩
  · refine ⟨s.announcing h, ?_, rfl, fun _ => rfl, .of_eq rfl rfl rfl rfl⟩
    rw [exec_handoverAnnounce, State.announce_newcomer hst hnone hlow]
  · have hno' : s.beatState ≠ btMaster ∨ s.beat.handover.isSome = true := hno.imp_right Option.isSome_iff_ne_none.mpr
    rw [exec_handoverAnnounce, State.announce, if_pos hno']
  · rw [exec_beatHandover, State.handover_due hp hf]
    by_cases hpkg : p = s.pkg
    · obtain ⟨hstate, hmaster, -, hframe, hbytes⟩ := ({ s with beat := { s.beat with handover := none } } : State).becomeMaster_spec
      refine ⟨_, congrArg _ (if_pos hpkg), rfl, hframe, hbytes, ?_, ?_⟩
      · rw [hmaster, hpkg]
        exact s.pkg_mod.symm
      · rw [hstate, if_pos hpkg]
    · by_cases hm : s.beatState = btMaster
      · refine ⟨_, congrArg _ ((if_neg hpkg).trans (if_pos hm)), rfl, ?_, .of_eq rfl rfl rfl rfl, ?_, ?_⟩
        · rw [State.toBeat_frame]
          exact State.rf_wfs_other _ _ _ (by decide)
        · rw [State.toBeat_rf_beat _ _ _ (by decide) (by decide), State.rf_wfs_same]
          simp (disch := decide) only [List.foldl, getField_putField_same, getField_putField_other]
          rfl
        · rw [State.toBeat_beatState, if_neg hpkg, if_pos hm]
          rfl
      · refine ⟨_, congrArg _ ((if_neg hpkg).trans (if_neg hm)), rfl, State.rf_wf_other _ _ _ _ (by decide),
          .of_eq rfl rfl rfl rfl, State.rf_wf_same _ _ _ _ (by decide), ?_⟩
        rw [if_neg hpkg, if_neg hm]
        exact State.rf_wf_field _ _ _ _ _ (by decide) (by decide)
  · rw [exec_beatHandover, State.handover, hp]
    simp only [hf, Bool.not_false, if_true]

/-! ## Timing records -/

theorem exec_timingRecord (src : RecSrc) (r : TimingRec) (s : State) : exec (.timingRecord src r) s = .next (s.timingRecord src r) := rfl

/-- A record of an unknown version, or in mode off, is not taken. -/
theorem State.timingRecord_ignored {s : State} {src : RecSrc} {r : TimingRec} (h : s.mode = .off ∨ getField r.w0 (bits 3 0) ≠ 1) :
    s.timingRecord src r = s := by
  unfold State.timingRecord
  rw [if_pos h.symm]

/-- A record of another pod counts at its fibre, and on a DARARN_E link nowhere. -/
theorem State.timingRecord_otherPod {s : State} {r : TimingRec} (hmode : s.mode ≠ .off)
    (hver : getField r.w0 (bits 3 0) = 1) (hpod : Rec.pod r ≠ s.rf HRT_PKGID HRT_PKGID_POD_ID) (c : Casement) (f : Fibre) (j : Fin 8) :
    s.timingRecord (.fibre c f) r = s.satf (STR_FERR c.val f.val) STR_FERR_WRONG_PEER 1 ∧ s.timingRecord (.porch j) r = s := by
  have htaken : ¬(getField r.w0 (bits 3 0) ≠ 1 ∨ s.mode = .off) := by simp [hmode, hver]
  constructor <;> unfold State.timingRecord <;> rw [if_neg htaken, if_pos hpod]

/-- A record of this pod on a DARARN_E link, of a package that takes its timebase there. -/
theorem State.timingRecord_porch {s : State} {j : Fin 8} {r : TimingRec} (hmode : s.mode ≠ .off)
    (hver : getField r.w0 (bits 3 0) = 1) (hpod : Rec.pod r = s.rf HRT_PKGID HRT_PKGID_POD_ID) (hon : s.fsyncOn = true) :
    s.timingRecord (.porch j) r = (((s.hear r).meets none r).hearHandover r).beatRecord r := by
  unfold State.timingRecord
  rw [if_neg (by simp [hmode, hver]), if_neg (by simp [hpod])]
  simp only [hon, Bool.not_true, Bool.false_eq_true, if_false]

theorem State.rf_hear (s : State) (r : TimingRec) (a : Nat) (f : Field) : (s.hear r).rf a f = s.rf a f := by
  simp only [State.hear, State.rf_withBeat]

theorem State.beatState_hear (s : State) (r : TimingRec) : (s.hear r).beatState = s.beatState := s.rf_hear r _ _

/-- The sender of a record is among those heard, at this frame. -/
theorem State.mem_heard_hear (s : State) (r : TimingRec) :
    ∃ h ∈ (s.hear r).beat.heard, h.pkg = Rec.pkg r ∧ h.frame = s.frame ∧ h.candidate = Rec.candidate r := by
  unfold State.hear
  extract_lets old at' was h
  exact ⟨h, List.mem_append_right _ (List.mem_singleton_self h), rfl, rfl, rfl⟩

/-- In ACQUIRE no timebase is met: a package without one has none to merge or to conflict with (R309). -/
theorem State.meets_of_acquire {s : State} {src : Option (Nat × Nat)} {r : TimingRec} (h : s.beatState = btAcquire) :
    s.meets src r = s := by
  simp [State.meets, h, btAcquire, btAligned, btHoldover, btMaster]

theorem State.hearHandover_none {s : State} {r : TimingRec} (h : Rec.handover r = false) : s.hearHandover r = s := by
  simp [State.hearHandover, h]

theorem State.beatRecord_acquire {s : State} {r : TimingRec} (h : s.beatState = btAcquire) : s.beatRecord r = s.toBeat btElect := by
  simp only [State.beatRecord, h, if_true]

/-- The error registers of fibres lie apart from STR_BEAT and STR_FRAME. -/
theorem STR_FERR_ne_beat (c f : Nat) : STR_BEAT ≠ STR_FERR c f ∧ STR_FRAME ≠ STR_FERR c f := by
  unfold STR_FERR STR_BEAT STR_FRAME csmBase
  omega

/-! ## FSYNC_IN -/

theorem exec_fsyncInEdge (phase : Int) (high : Nat) (s : State) : exec (.fsyncInEdge phase high) s = .next (s.fsyncEdge phase) := rfl

/-- What an exchange with the reference leaves in the filter, and which state it keeps or reaches. -/
theorem State.discipline_spec (s : State) (off : Int) :
    BytesKept s (s.discipline off) ∧ (s.discipline off).frame = s.frame ∧ (s.discipline off).beat.lastRef = s.frame ∧
    (s.discipline off).beat.offsets = (off :: s.beat.offsets).take 8 ∧
    (s.beatState = btHoldover → (s.discipline off).beatState = btAligned) ∧
    (s.beatState = btAligned → (s.discipline off).beatState = btAligned) := by
  unfold State.discipline
  extract_lets os m u within x v
  have hreg : ∀ g, v.rf STR_BEAT g = s.rf STR_BEAT g := fun g => by
    unfold v
    rw [State.rf_withBeat]
    exact State.rf_wfs_other _ _ _ (by decide)
  have hframe : u.frame = s.frame := State.rf_wfs_other _ _ _ (by decide)
  have hframe' : v.frame = s.frame := by
    rw [← hframe]
    exact State.rf_withBeat _ _ _ _
  have hst : v.beatState = s.beatState := hreg _
  have hlast : v.beat.lastRef = s.frame := hframe
  rw [hst]
  split
  · rename_i h
    refine ⟨.of_eq rfl rfl rfl rfl, (State.toBeat_frame _ _).trans hframe', hlast, rfl, fun he => ?_, fun he => ?_⟩
    all_goals
      rw [h.1] at he
      exact absurd he (by decide)
  · split
    · exact ⟨.of_eq rfl rfl rfl rfl, (State.toBeat_frame _ _).trans hframe', hlast, rfl, fun _ => State.toBeat_beatState _ _,
        fun _ => State.toBeat_beatState _ _⟩
    · rename_i h
      exact ⟨.of_eq rfl rfl rfl rfl, hframe', hlast, rfl, fun he => absurd he h, fun he => hst.trans he⟩

/-- Settles O18: a record of another pod writes one error register at most, one of this pod in ACQUIRE starts ELECT with its
sender heard, and FSYNC_IN goes by its source bit, the optical pairs, and then the filter. -/
theorem timingRecordsAndFsyncAreHeard : Obligations.TimingRecordsAndFsyncAreHeard := by
  refine ⟨fun c f j r s => ⟨fun hmode hver hpod => ?_, fun hmode hver hpod hon hst hho => ?_, fun h => ?_⟩,
    fun phase high s => ⟨fun h => ?_, fun hopt hnoted => ?_, fun hsrc hopt hnoted => ?_, fun hsrc hopt hlo hhi hst => ?_⟩⟩
  · obtain ⟨hfibre, hporch⟩ := State.timingRecord_otherPod hmode hver hpod c f j
    rw [exec_timingRecord, exec_timingRecord, hfibre, hporch]
    obtain ⟨hbeat, hframe⟩ := STR_FERR_ne_beat c.val f.val
    exact ⟨rfl, _, rfl, rfl, State.rf_wf_other _ _ _ _ hbeat, State.rf_wf_other _ _ _ _ hframe, .of_eq rfl rfl rfl rfl,
      State.rf_satf_same _ _ _ _ (by decide)⟩
  · have hst' : (s.hear r).beatState = btAcquire := (s.beatState_hear r).trans hst
    have hframe : (s.hear r).frame = s.frame := s.rf_hear r _ _
    rw [exec_timingRecord, State.timingRecord_porch hmode hver hpod hon, State.meets_of_acquire hst',
      State.hearHandover_none hho, State.beatRecord_acquire hst']
    exact ⟨_, rfl, State.toBeat_beatState _ _, hframe, (State.toBeat_frame _ _).trans hframe, .of_eq rfl rfl rfl rfl,
      s.mem_heard_hear r⟩
  · rw [exec_timingRecord, exec_timingRecord, State.timingRecord_ignored h, State.timingRecord_ignored h]
    exact ⟨rfl, rfl⟩
  · rw [exec_fsyncInEdge, State.fsyncEdge, if_pos h]
  · rw [exec_fsyncInEdge, State.fsyncEdge, if_pos hopt, if_pos hnoted, ite_self]
  · refine ⟨_, rfl, ?_⟩
    rw [State.fsyncEdge, if_neg hsrc, if_pos hopt, if_neg (by simp [hnoted]), (State.note_eventOnly _ _ _ _).beat]
    exact ⟨rfl, rfl⟩
  · refine ⟨_, rfl, ?_⟩
    rw [State.fsyncEdge, if_neg hsrc, if_neg (by simp [hopt]), if_neg (by omega)]
    simp only [if_pos hst]
    exact s.discipline_spec _

end Sys2Proof.Machine
end

section
/-!
PROOFS. Links (R334 to R352): their records and states, training, the checks before a re-train message, and the timers.
-/

namespace Sys2Proof.Machine

/-! ## Link records and states -/

@[simp] theorem State.link_setLink_same (s : State) (l : Nat) (x : LinkSt) : (s.setLink l x).link l = x := sparseGet_set_same ..

theorem State.link_setLink_other (s : State) {l k : Nat} (x : LinkSt) (h : k ≠ l) : (s.setLink l x).link k = s.link k :=
  sparseGet_set_other _ _ _ h

@[simp] theorem State.reg_setLink (s : State) (l : Nat) (x : LinkSt) (a : Nat) : (s.setLink l x).reg a = s.reg a := (rfl)

@[simp] theorem State.rf_setLink (s : State) (l : Nat) (x : LinkSt) (a : Nat) (f : Field) : (s.setLink l x).rf a f = s.rf a f :=
  (rfl)

@[simp] theorem State.linkState_setLink (s : State) (l k : Nat) (x : LinkSt) : (s.setLink l x).linkState k = s.linkState k := (rfl)

theorem State.setLink_bytes (s : State) (l : Nat) (x : LinkSt) : BytesKept s (s.setLink l x) := .of_eq rfl rfl rfl rfl

theorem State.wf_bytes (s : State) (a : Nat) (f : Field) (n : Nat) : BytesKept s (s.wf a f n) := .of_eq rfl rfl rfl rfl

theorem State.linkState_setLinkState (s : State) (l n : Nat) : (s.setLinkState l n).linkState l = n % 8 :=
  (State.linkState_setLink _ _ _ _).trans (State.rf_wf_same _ _ _ _ (by decide))

theorem State.link_setLinkState (s : State) (l n : Nat) : (s.setLinkState l n).link l = { s.link l with frames := 0 } :=
  State.link_setLink_same _ _ _

theorem State.reg_setLinkState (s : State) (l n : Nat) {a : Nat} (h : a ≠ DRL_STATUS l) : (s.setLinkState l n).reg a = s.reg a :=
  (State.reg_setLink _ _ _ _).trans (State.reg_wf_other _ _ _ h)

/-- The state of a link is a field of its status register. -/
theorem State.linkState_congr {s t : State} {l : Nat} (h : t.reg (DRL_STATUS l) = s.reg (DRL_STATUS l)) : t.linkState l = s.linkState l :=
  State.rf_congr h _

/-! ## The start of training -/

/-- The register of a pair that a link can own lies apart from the link registers. -/
theorem DRL_STATUS_ne_pair {l f : Nat} (hl : l < 128) (hf : f < 24) (c : Nat) : DRL_STATUS l ≠ CSM_PAIR c f := by
  unfold DRL_STATUS CSM_PAIR linkBase csmBase
  rw [if_pos hl]
  omega

theorem State.linkPairs_lt {s : State} {l f : Nat} (h : f ∈ s.linkPairs l) : f < 24 := by
  obtain ⟨i, hi, rfl⟩ := List.mem_map.mp h
  have hi := List.mem_range.mp hi
  have := s.rf_lt (DRL_CFG l) DRL_CFG_PAIRS_M1
  have hw : 2 ^ DRL_CFG_PAIRS_M1.width = 8 := rfl
  omega

/-- What LINK_TRAINING_START does first in DOWN: the reach of its pairs, or its Porch lanes. -/
def State.trainPrepare (s : State) (l : Nat) : State := if l < 128 then s.reachCheck l else s.porchRetrain l

theorem State.trainReady_linkState {s : State} {l : Nat} (h : s.trainReady l = true) : s.linkState l = lkDown := by
  simp only [State.trainReady, Bool.and_eq_true, beq_iff_eq] at h
  exact h.1.1.1

theorem State.trainStart_notDown {s : State} {l : Nat} (h : s.linkState l ≠ lkDown) : s.trainStart l = s := by
  have hready : s.trainReady l = false := Bool.eq_false_iff.mpr fun hr => h (State.trainReady_linkState hr)
  simp [State.trainStart, h, hready]

/-- Entering TRAINING: what an earlier training left is gone. -/
def State.enterTraining (s : State) (l : Nat) : State :=
  (s.setLinkState l lkTraining).setLink l { (s.setLinkState l lkTraining).link l with
    rtId := 0, offer := none, accSent := false, accGot := none, answered := none }

/-- The FEC mode that a pair of link l takes as the link trains. -/
def State.trainPair (l : Nat) (s : State) (f : Nat) : State :=
  s.wf (CSM_PAIR (l / 16) f) CSM_PAIR_FEC_ACTIVE (if s.offered l = 1 then 0 else s.rf (CSM_PAIR (l / 16) f) CSM_PAIR_FEC)

/-- The start of training in DOWN, by its parts. -/
theorem State.trainStart_down {s : State} {l : Nat} (h : s.linkState l = lkDown) :
    s.trainStart l = if (s.trainPrepare l).trainReady l then
        (if 128 ≤ l then (s.trainPrepare l).enterTraining l
        else (((s.trainPrepare l).enterTraining l).linkPairs l).foldl (State.trainPair l) ((s.trainPrepare l).enterTraining l))
      else s.trainPrepare l := by
  have hprep : (if l < 128 ∧ s.linkState l = lkDown then s.reachCheck l
      else if s.linkState l = lkDown then s.porchRetrain l else s) = s.trainPrepare l := by
    simp [State.trainPrepare, h]
  rw [State.trainStart, hprep]
  cases (s.trainPrepare l).trainReady l <;> rfl

theorem State.enterTraining_spec (s : State) (l : Nat) : (s.enterTraining l).linkState l = lkTraining ∧
    ((s.enterTraining l).link l).offer = none ∧ ((s.enterTraining l).link l).accGot = none ∧ BytesKept s (s.enterTraining l) := by
  refine ⟨?_, ?_, ?_, .of_eq rfl rfl rfl rfl⟩
  · rw [State.enterTraining, State.linkState_setLink, State.linkState_setLinkState]
    rfl
  all_goals rw [State.enterTraining, State.link_setLink_same]

/-- The FEC modes of a link's pairs touch neither its state nor a link record nor a byte. -/
theorem State.trainPairs_frame (s : State) {l : Nat} (hl : l < 128) :
    ((s.linkPairs l).foldl (State.trainPair l) s).linkState l = s.linkState l ∧
    ((s.linkPairs l).foldl (State.trainPair l) s).link l = s.link l ∧
    BytesKept s ((s.linkPairs l).foldl (State.trainPair l) s) := by
  refine ⟨foldl_keeps_mem (fun t => State.linkState t l) _ _ fun f hf t => ?_, foldl_keeps (g := State.trainPair l) (fun t => State.link t l) (fun _ _ => rfl) _ _,
    .foldl _ _ fun t f => t.wf_bytes _ _ _⟩
  exact State.rf_wf_other _ _ _ _ (DRL_STATUS_ne_pair hl (State.linkPairs_lt hf) _)

/-- A link that is ready enters TRAINING, with what it held of an earlier training gone. -/
theorem State.trainStart_ready {s : State} {l : Nat} (h : s.linkState l = lkDown) (hr : (s.trainPrepare l).trainReady l = true) :
    (s.trainStart l).linkState l = lkTraining ∧ ((s.trainStart l).link l).offer = none ∧
      ((s.trainStart l).link l).accGot = none ∧ BytesKept (s.trainPrepare l) (s.trainStart l) := by
  have hspec := (s.trainPrepare l).enterTraining_spec l
  rw [State.trainStart_down h, if_pos hr]
  split
  · exact hspec
  · obtain ⟨hstate, hlink, hbytes⟩ := ((s.trainPrepare l).enterTraining l).trainPairs_frame (l := l) (by omega)
    obtain ⟨h1, h2, h3, h4⟩ := hspec
    rw [hstate, hlink]
    exact ⟨h1, h2, h3, h4.trans hbytes⟩

/-! ## OFFER and ACCEPT -/

theorem exec_linkTrainingStart (l : LinkId) (s : State) : exec (.linkTrainingStart l) s = .next (s.trainStart l.val) := rfl

theorem exec_offer (l : LinkId) (p : Packet) (s : State) : exec (.offer l p) s =
    .next (if s.linkState l.val ≠ lkTraining then s else if trainPacket tcOffer p then s.offer l.val (trainOf p)
      else s.trainDrop l.val p) := rfl

theorem exec_accept (l : LinkId) (p : Packet) (s : State) : exec (.accept l p) s =
    .next (if s.linkState l.val ≠ lkTraining then s else if trainPacket tcAccept p then s.accept l.val (trainOf p)
      else s.trainDrop l.val p) := rfl

theorem DRL_STATUS_ne_rxerr (l : Nat) : DRL_STATUS l ≠ DRL_RXERR l := by
  unfold DRL_STATUS DRL_RXERR
  omega

/-- A training packet that fails its checks counts in its link's error register, and changes nothing else. -/
theorem State.trainDrop_frame (s : State) (l : Nat) (p : Packet) : (s.trainDrop l p).linkState l = s.linkState l ∧
    BytesKept s (s.trainDrop l p) ∧ (∀ a, a ≠ DRL_RXERR l → (s.trainDrop l p).reg a = s.reg a) ∧ (s.trainDrop l p).links = s.links := by
  unfold State.trainDrop
  split <;> exact ⟨State.rf_wf_other _ _ _ _ (DRL_STATUS_ne_rxerr l), .of_eq rfl rfl rfl rfl,
    fun a ha => State.reg_satf_other _ _ _ ha, rfl⟩

/-- Settles O25: OFFER and ACCEPT ask the link's state and then their packet's checks; the start of training prepares, asks
whether the link is ready, and enters TRAINING. -/
theorem trainingTakesOfferAndAccept : Obligations.TrainingTakesOfferAndAccept := by
  intro l p s
  rw [exec_offer, exec_accept, exec_linkTrainingStart]
  refine ⟨fun h => ?_, fun h hp => ?_, fun h hp => ?_, fun h hp => ?_, fun h hp => ?_, fun h => ?_, fun h => ?_⟩
  · rw [if_pos h, if_pos h]
    exact ⟨rfl, rfl⟩
  · rw [if_neg (not_not.mpr h), if_pos hp]
  · rw [if_neg (not_not.mpr h), if_pos hp]
  · refine ⟨_, by rw [if_neg (not_not.mpr h), hp, if_neg Bool.false_ne_true], ?_⟩
    rw [← h]
    exact s.trainDrop_frame _ _
  · refine ⟨_, by rw [if_neg (not_not.mpr h), hp, if_neg Bool.false_ne_true], ?_⟩
    rw [← h]
    exact s.trainDrop_frame _ _
  · rw [State.trainStart_notDown h]
  · refine ⟨fun hr => ?_, fun hr => ⟨_, rfl, State.trainStart_ready h hr⟩⟩
    have hr : (s.trainPrepare l.val).trainReady l.val = false := hr
    rw [State.trainStart_down h, hr, if_neg Bool.false_ne_true]
    rfl

/-! ## Re-train messages -/

theorem exec_retrainReq (l : LinkId) (p : Packet) (s : State) : exec (.retrainReq l p) s = .next (if s.isLive l.val then
    (if (s.trainHeader l.val tcRetrainReq p).2 then (s.trainHeader l.val tcRetrainReq p).1.retrainReq l.val (trainOf p)
      else (s.trainHeader l.val tcRetrainReq p).1) else s) := rfl

theorem exec_retrainAck (l : LinkId) (p : Packet) (s : State) : exec (.retrainAck l p) s =
    .next (if s.linkState l.val = lkRetraining then
      (if (s.trainHeader l.val tcRetrainAck p).2 then (s.trainHeader l.val tcRetrainAck p).1.retrainAck l.val (trainOf p)
        else (s.trainHeader l.val tcRetrainAck p).1) else s) := rfl

theorem exec_goingDown (l : LinkId) (p : Packet) (s : State) : exec (.goingDown l p) s = .next (if s.isLive l.val then
    (if (s.trainHeader l.val tcGoingDown p).2 then (s.trainHeader l.val tcGoingDown p).1.goDown l.val 8
      else (s.trainHeader l.val tcGoingDown p).1) else s) := rfl

/-- A packet whose CRC fails counts, and no code's message is taken from it. -/
theorem State.trainHeader_badCrc {s : State} {l code : Nat} {p : Packet}
    (h : packetCrc p ≠ BitVec.ofNat 32 (getField p.w3 (bits 63 32))) :
    s.trainHeader l code p = (s.satf (DRL_RXERR l) DRL_RXERR_CRC_FAIL 1, false) := by
  have hcause : s.dropCause l ptLinkTrain p = 1 := by rw [State.dropCause, if_pos h]
  simp [State.trainHeader, hcause]

/-- Settles O26: each message asks the link's state, then its header's checks. -/
theorem retrainMessagesAreCheckedFirst : Obligations.RetrainMessagesAreCheckedFirst := by
  intro l p s
  rw [exec_retrainReq, exec_retrainAck, exec_goingDown]
  refine ⟨fun h => ⟨fun hp => ?_, fun hp => ?_⟩, fun h hp => ?_, fun h => ?_, fun h => ?_, fun h hcrc => ?_⟩
  · rw [if_pos h, if_pos hp]
  · rw [if_pos h, if_pos hp]
  · rw [if_pos h, if_pos hp]
  · rw [h, if_neg Bool.false_ne_true, if_neg Bool.false_ne_true]
    exact ⟨rfl, rfl⟩
  · rw [if_neg h]
  · rw [State.trainHeader_badCrc hcrc, State.trainHeader_badCrc hcrc, if_pos h, if_pos h]
    exact ⟨_, rfl, rfl, rfl, .of_eq rfl rfl rfl rfl, fun a ha => State.reg_satf_other _ _ _ ha,
      State.rf_satf_same _ _ _ _ (by decide)⟩

/-! ## Timers -/

theorem exec_retrainTimeout (l : LinkId) (s : State) : exec (.retrainTimeout l) s =
    .next (if s.linkState l.val = lkRetraining ∧ s.rf (DRL_CFG l.val) DRL_CFG_RETRAIN_FRAMES ≤ (s.link l.val).frames
      then s.goDown l.val 2 else s) := rfl

theorem exec_lossOfLight (l : LinkId) (s : State) : exec (.lossOfLight l) s =
    .next (if s.isLive l.val ∧ max 1 (s.rf (DRL_CFG l.val) DRL_CFG_LOL_FRAMES) ≤ (s.link l.val).dark
      then s.goDown l.val 3 else s) := rfl

theorem exec_downHoldExpiry (l : LinkId) (s : State) : exec (.downHoldExpiry l) s =
    .next (if s.linkState l.val = lkHeld ∧ s.rf (DRL_CFG l.val) DRL_CFG_DOWN_HOLD ≤ (s.link l.val).frames
      then s.setLinkState l.val (if s.rf (DRL_CFG l.val) DRL_CFG_EN = 1 then lkDown else lkDisabled) else s) := rfl

theorem exec_ackIdleTimer (l : LinkId) (s : State) : exec (.ackIdleTimer l) s =
    .next (if s.isLive l.val then s.setLink l.val { s.link l.val with ackDue := true } else s) := rfl

theorem exec_replayTimer (l : LinkId) (s : State) : exec (.replayTimer l) s = .next (s.replayTimer l.val) := rfl

theorem State.replayTimer_idle {s : State} {l : Nat}
    (h : s.linkUp l = false ∨ s.rf (DRL_SEQ l) DRL_SEQ_OUTSTANDING = 0) : s.replayTimer l = s := by
  have h' : (!s.linkUp l || s.rf (DRL_SEQ l) DRL_SEQ_OUTSTANDING == 0) = true := by simpa using h
  rw [State.replayTimer, if_pos h']

/-- A firing below REPLAY_LIMIT counts, and makes every outstanding packet due. -/
theorem State.replayTimer_below {s : State} {l : Nat} (hup : s.linkUp l = true) (hout : s.rf (DRL_SEQ l) DRL_SEQ_OUTSTANDING ≠ 0)
    (hlim : (s.link l).firings + 1 < max 1 (s.rf (DRL_CFG l) DRL_CFG_REPLAY_LIMIT)) :
    s.replayTimer l = ((s.satf (DRL_EVENTS l) DRL_EVENTS_REPLAYS 1).satf (DRL_RTT l) DRL_RTT_REPLAYS_NOW 1).setLink l
      { s.link l with firings := (s.link l).firings + 1, replay := (s.link l).out.map (fun p => p.seq) } := by
  have hgo : ¬((!s.linkUp l || s.rf (DRL_SEQ l) DRL_SEQ_OUTSTANDING == 0) = true) := by simp [hup, hout]
  rw [State.replayTimer, if_neg hgo]
  simp only
  rw [if_neg (by omega), if_neg (by omega)]

theorem linkRegs_apart (l : Nat) : DRL_STATUS l ≠ DRL_RTT l ∧ DRL_STATUS l ≠ DRL_EVENTS l ∧ DRL_EVENTS l ≠ DRL_RTT l := by
  unfold DRL_STATUS DRL_RTT DRL_EVENTS
  omega

theorem holdEnd_mod (en : Prop) [Decidable en] : (if en then lkDown else lkDisabled) % 8 = if en then lkDown else lkDisabled := by
  split <;> rfl

/-- Settles O27: each timer asks the link's state and its count, and acts as its row says. -/
theorem linkTimersFire : Obligations.LinkTimersFire := by
  refine ⟨fun l s => ?_, fun l s => ⟨fun h => ?_, fun hup hout hlim => ?_⟩⟩
  · rw [exec_retrainTimeout, exec_lossOfLight, exec_downHoldExpiry, exec_ackIdleTimer]
    refine ⟨fun h hn => ?_, fun h => ?_, fun h hn => ?_, fun h => ?_, fun h hn => ?_, fun h => ?_, fun h => ?_, fun h => ?_⟩
    · rw [if_pos ⟨h, hn⟩]
    · rw [if_neg fun ⟨h1, h2⟩ => h.elim (absurd h1) (absurd h2 ∘ Nat.not_le_of_lt)]
    · rw [if_pos ⟨h, hn⟩]
    · rw [if_neg fun ⟨h1, h2⟩ => h.elim (fun h => Bool.false_ne_true (h.symm.trans h1)) (absurd h2 ∘ Nat.not_le_of_lt)]
    · refine ⟨_, congrArg _ (if_pos ⟨h, hn⟩), ?_, ?_, fun a ha => State.reg_setLinkState _ _ _ ha, .of_eq rfl rfl rfl rfl⟩
      · rw [State.linkState_setLinkState, holdEnd_mod]
      · rw [State.link_setLinkState]
    · rw [if_neg fun ⟨h1, h2⟩ => h.elim (absurd h1) (absurd h2 ∘ Nat.not_le_of_lt)]
    · refine ⟨_, congrArg _ (if_pos h), ?_, fun _ => rfl, fun k hk => State.link_setLink_other _ _ hk, .of_eq rfl rfl rfl rfl⟩
      rw [State.link_setLink_same]
    · rw [h, if_neg Bool.false_ne_true]
  · rw [exec_replayTimer, State.replayTimer_idle h]
  · obtain ⟨hrtt, hev, hevrtt⟩ := linkRegs_apart l.val
    refine ⟨_, rfl, ?_⟩
    rw [State.replayTimer_below hup hout hlim, State.link_setLink_same]
    refine ⟨rfl, rfl, ?_, .of_eq rfl rfl rfl rfl, ?_⟩
    · rw [State.linkState_setLink]
      exact (State.rf_wf_other _ _ _ _ hrtt).trans ((State.rf_wf_other _ _ _ _ hev).trans (beq_iff_eq.mp hup))
    · rw [State.rf_setLink]
      exact (State.rf_wf_other _ _ _ _ hevrtt).trans (State.rf_satf_same _ _ _ _ (by decide))

end Sys2Proof.Machine
end

section
/-!
PROOFS. Lane messages and lane maps (R239, R278, R279): what takes a message, and what a notice leaves pending.
-/

namespace Sys2Proof.Machine

theorem exec_laneMapNotice (l : LinkId) (p : Packet) (s : State) : exec (.laneMapNotice l p) s =
    .next (s.lanePacket l.val lmNotice p (fun s m => s.laneNotice l.val m)) := rfl

theorem exec_vacate (l : LinkId) (p : Packet) (s : State) : exec (.vacate l p) s =
    .next (s.lanePacket l.val lmVacate p (fun s m => s.laneVacate l.val m.chan)) := rfl

theorem exec_restore (l : LinkId) (p : Packet) (s : State) : exec (.restore l p) s =
    .next (s.lanePacket l.val lmRestore p (fun s m => s.laneRestore l.val m.chan)) := rfl

theorem exec_exclude (l : LinkId) (p : Packet) (s : State) : exec (.exclude l p) s =
    .next (s.lanePacket l.val lmExclude p (fun s m => s.laneExclude l.val m.chan)) := rfl

theorem exec_laneMapEpoch (l : LinkId) (s : State) : exec (.laneMapEpoch l) s = .next (s.laneEpoch l.val) := rfl

/-- A lane message that the link layer accepts, of the row's kind and a known version, is acted on once its pool units are free. -/
theorem State.lanePacket_taken {s : State} {l kind : Nat} {p : Packet} {act : State → LaneMsg → State} (hl : l < 128)
    (hw2 : getField p.w2 (bits 7 0) = 1) (hver : (laneMsgOf p.payload).version = 1) (hok : (s.receive l ptLinkCtl p).2 = true)
    (hkind : (laneMsgOf p.payload).kind = kind) :
    s.lanePacket l kind p act = act ((s.receive l ptLinkCtl p).1.freePool l 0 (Packet.units p)) (laneMsgOf p.payload) := by
  have hrow : ¬(getField p.w2 (bits 7 0) ≠ 1 ∨ (laneMsgOf p.payload).kind ≠ kind ∨ 128 ≤ l) := by
    simp [hw2, hkind, hl]
  simp [State.lanePacket, if_neg hrow, hok, hver]

/-- A packet of another argument, or on a DARARN_E link, is no lane message. -/
theorem State.lanePacket_other {s : State} {l kind : Nat} {p : Packet} {act : State → LaneMsg → State}
    (h : 128 ≤ l ∨ getField p.w2 (bits 7 0) ≠ 1) : s.lanePacket l kind p act = s := by
  have hrow : getField p.w2 (bits 7 0) ≠ 1 ∨ (laneMsgOf p.payload).kind ≠ kind ∨ 128 ≤ l := by
    rcases h with h | h
    · exact .inr (.inr h)
    · exact .inl h
  rw [State.lanePacket, if_pos hrow]

/-- How far a notice's serial lies ahead of the one in force, modulo 256. -/
def State.serialAhead (s : State) (l : Nat) (m : LaneMsg) : Nat := (m.serial + 256 - s.mapSerial l 1) % 256

theorem State.laneNotice_old {s : State} {l : Nat} {m : LaneMsg}
    (h : s.isD1 l = true ∨ s.serialAhead l m = 0 ∨ 127 < s.serialAhead l m) : s.laneNotice l m = s := by
  have h' : (s.isD1 l || s.serialAhead l m == 0 || decide (127 < s.serialAhead l m)) = true := by
    simpa [or_assoc] using h
  exact if_pos h'

/-- A notice with a newer serial, of an epoch still to come, is kept and shown as pending. -/
theorem State.laneNotice_newer {s : State} {l : Nat} {m : LaneMsg} (hd1 : s.isD1 l = false) (h0 : s.serialAhead l m ≠ 0)
    (h127 : s.serialAhead l m ≤ 127) (hlate : frameReached s.frame m.epoch = false) :
    s.laneNotice l m = (s.setLink l { s.link l with rxPend := some { epoch := m.epoch, serial := m.serial, map := m.map } }).wf
      (TUN_LMAP_HI l 1) TUN_LMAP_HI_PEND 1 := by
  have h' : ¬((s.isD1 l || s.serialAhead l m == 0 || decide (127 < s.serialAhead l m)) = true) := by
    simp [hd1, h0, h127]
  refine (if_neg h').trans ?_
  simp only [hlate, Bool.false_eq_true, if_false]

/-- Settles O24: the four kinds go one way through the link layer, and a notice by how far its serial is ahead. -/
theorem laneMessagesActOnTheMap : Obligations.LaneMessagesActOnTheMap := by
  refine ⟨fun l p s => ?_, fun l m s => ⟨fun h => State.laneNotice_old h, fun hd1 h0 h127 hlate => ?_⟩⟩
  · rw [exec_laneMapNotice, exec_vacate, exec_restore, exec_exclude, exec_laneMapEpoch]
    refine ⟨fun hl hw2 hver hok => ⟨fun hk => ?_, fun hk => ?_, fun hk => ?_, fun hk => ?_⟩, fun h => ?_, fun hl => ?_⟩
    · rw [State.lanePacket_taken hl hw2 hver hok hk]
    · rw [State.lanePacket_taken hl hw2 hver hok hk]
    · rw [State.lanePacket_taken hl hw2 hver hok hk]
    · rw [State.lanePacket_taken hl hw2 hver hok hk]
    · simp only [State.lanePacket_other h, true_and]
      intro hl
      rw [State.laneEpoch, if_pos hl]
    · rw [State.laneEpoch, if_neg (Nat.not_le_of_lt hl)]
  · rw [State.laneNotice_newer hd1 h0 h127 hlate]
    refine ⟨?_, State.rf_wf_same _ _ _ _ (by decide), .of_eq rfl rfl rfl rfl, fun k hk => State.link_setLink_other _ _ hk⟩
    exact congrArg LinkSt.rxPend (State.link_setLink_same _ _ _)

end Sys2Proof.Machine
end

section
/-!
PROOFS. The vector unit's registers: what a write of a whole vector register, of the sticky flags and of the generator leaves
behind, and the frame of a micro-op (R145, R146).
-/

namespace Sys2Proof.Machine

/-! ## Whole vector registers -/

/-- Lanes written from key k upwards read back; every other key reads as before. -/
theorem vsetFrom_get (ws : List W32) : ∀ (m : Sparse W32) (v i j : Nat),
    sparseGet (fun _ => (0 : W32)) (vsetFrom m v i ws) j =
      if 256 * v + i ≤ j ∧ j < 256 * v + i + ws.length then ws.getD (j - (256 * v + i)) 0
      else sparseGet (fun _ => (0 : W32)) m j := by
  induction ws with
  | nil => intro m v i j; simp only [vsetFrom, List.length_nil]; rw [if_neg (by omega)]
  | cons w ws ih =>
    intro m v i j
    rw [vsetFrom, ih, List.length_cons]
    by_cases hj : j = 256 * v + i
    · subst hj
      rw [if_neg (by omega), if_pos (by omega), sparseGet_set_same, Nat.sub_self, List.getD_cons_zero]
    · rw [sparseGet_set_other _ _ _ hj]
      by_cases hin : 256 * v + i ≤ j ∧ j < 256 * v + i + (ws.length + 1)
      · rw [if_pos (by omega), if_pos hin, show j - (256 * v + i) = (j - (256 * v + (i + 1))) + 1 by omega, List.getD_cons_succ]
      · rw [if_neg (by omega), if_neg hin]

theorem Bay.vget_length (x : Bay) (v : Nat) : (x.vget v).length = 256 := by simp [Bay.vget]

theorem Bay.vget_getD (s : State) (b : BayId) (v : Nat) {k : Nat} (hk : k < 256) : ((s.bay b).vget v).getD k 0 = s.lane b v k := by
  simp [Bay.vget, State.lane, List.getD, hk]

theorem State.lane_vset_same (s : State) (b : BayId) (v : Nat) {ws : List W32} (hws : ws.length = 256) {k : Nat} (hk : k < 256) :
    (s.vset b v ws).lane b v k = ws.getD k 0 := by
  rw [State.lane, State.vset, State.bay_setBay_same, vsetFrom_get, if_pos (by omega)]
  congr 1
  omega

theorem State.lane_vset_other (s : State) (b : BayId) {v v' : Nat} (hv : v' ≠ v) {ws : List W32} (hws : ws.length = 256) {k : Nat}
    (hk : k < 256) : (s.vset b v ws).lane b v' k = s.lane b v' k := by
  rw [State.lane, State.vset, State.bay_setBay_same, vsetFrom_get, if_neg (by omega), State.lane]

/-! ## Writing what a field reads already -/

/-- Putting into a field what it holds changes nothing. -/
theorem putField_getField (v : Word) (f : Field) : putField v f (getField v f) = v := by
  apply BitVec.eq_of_getLsbD_eq
  intro i hi
  rw [putField_getLsbD _ _ _ _ hi]
  split
  next h => rw [getField_testBit]; simp [h.2, Nat.add_sub_cancel' h.1]
  next => rfl

theorem State.reg_wf_rf (s : State) (a b : Nat) (f : Field) : (s.wf a f (s.rf a f)).reg b = s.reg b := by
  by_cases h : b = a
  · rw [h, State.reg_wf_same, State.rf, putField_getField]
  · exact State.reg_wf_other _ _ _ h

/-! ## Flags and the generator -/

theorem vflags_ne_vsrState (b : BayId) : BAY_VFLAGS b ≠ BAY_VSR_STATE b := by
  unfold BAY_VFLAGS BAY_VSR_STATE
  omega

theorem State.vecGen_toNat (s : State) (b : BayId) : (s.vecGen b).toNat = s.rf (BAY_VSR_STATE b) BAY_VSR_STATE_STATE := by
  rw [State.vecGen, BitVec.toNat_ofNat]
  exact Nat.mod_eq_of_lt (State.rf_lt ..)

theorem State.vecGen_setVecGen (s : State) (b : BayId) (g : W32) : (s.setVecGen b g).vecGen b = g := by
  rw [State.vecGen, State.setVecGen, State.rf_wf_same _ _ _ _ (by decide), show BAY_VSR_STATE_STATE.width = 32 from rfl,
    Nat.mod_eq_of_lt g.isLt, BitVec.ofNat_toNat, BitVec.setWidth_eq]

theorem State.reg_setVecGen_self (s : State) (b : BayId) (a : Nat) : (s.setVecGen b (s.vecGen b)).reg a = s.reg a := by
  rw [State.setVecGen, State.vecGen_toNat, State.reg_wf_rf]

theorem State.reg_setVecGen_other (s : State) (b : BayId) (g : W32) {a : Nat} (h : a ≠ BAY_VSR_STATE b) :
    (s.setVecGen b g).reg a = s.reg a := State.reg_wf_other _ _ _ h

theorem State.reg_vecFlags_zero (s : State) (b : BayId) (a : Nat) : (s.vecFlags b 0).reg a = s.reg a := by
  rw [State.vecFlags, show (0 : Flags).toNat = 0 from rfl, Nat.or_zero, State.reg_wf_rf]

theorem State.reg_vecFlags_other (s : State) (b : BayId) (f : Flags) {a : Nat} (h : a ≠ BAY_VFLAGS b) :
    (s.vecFlags b f).reg a = s.reg a := State.reg_wf_other _ _ _ h

/-- The sticky flags keep what they hold. -/
theorem State.vecFlags_keeps_flag (s : State) (b : BayId) (f : Flags) (i : Nat) (h : wbit (s.reg (BAY_VFLAGS b)) i = true) :
    wbit ((s.vecFlags b f).reg (BAY_VFLAGS b)) i = true := by
  have hi : i < 64 := by
    by_contra hge
    rw [wbit_eq, BitVec.getLsbD_of_ge _ _ (by omega)] at h
    exact absurd h (by decide)
  rw [State.vecFlags, State.reg_wf_same, wbit_eq, putField_getLsbD _ _ _ _ hi]
  split
  next hin =>
    rw [Nat.testBit_or, State.rf, getField_testBit, Nat.add_sub_cancel' hin.1, ← wbit_eq, h]
    simp [hin.2]
  next => exact h

/-- The sticky flags gain every flag that joins them. -/
theorem State.vecFlags_gains (s : State) (b : BayId) (f : Flags) {j : Nat} (hj : j < BAY_VFLAGS_FLAGS.width)
    (h : f.getLsbD j = true) : wbit ((s.vecFlags b f).reg (BAY_VFLAGS b)) (BAY_VFLAGS_FLAGS.lo + j) = true := by
  have hw : BAY_VFLAGS_FLAGS.lo + BAY_VFLAGS_FLAGS.width ≤ 64 := by decide
  rw [State.vecFlags, State.reg_wf_same, wbit_eq, putField_getLsbD _ _ _ _ (by omega), if_pos (by omega), Nat.testBit_or,
    Nat.add_sub_cancel_left]
  have : f.toNat.testBit j = true := h
  simp [this]

/-! ## The frame of a micro-op -/

/-- A micro-op's result: the lanes of D and the flags, and the program one further. -/
def State.microOut (s : State) (m : MicroArgs) (ws : List W32) (f : Flags) : State :=
  (((s.vset m.bay m.d.val ws).vecFlags m.bay f)).nextMicro m.bay

theorem State.reg_microOut (s : State) (m : MicroArgs) (ws : List W32) (f : Flags) (a : Nat) :
    (s.microOut m ws f).reg a = (s.vecFlags m.bay f).reg a := rfl

theorem State.lane_microOut (s : State) (m : MicroArgs) (ws : List W32) (f : Flags) (v k : Nat) :
    (s.microOut m ws f).lane m.bay v k = (s.vset m.bay m.d.val ws).lane m.bay v k := by
  rw [State.lane, State.microOut, State.nextMicro, State.setCtx, State.bay_setBay_same]
  rfl

theorem State.lane_microOut_same (s : State) (m : MicroArgs) {ws : List W32} (f : Flags) (hws : ws.length = 256) {k : Nat}
    (hk : k < 256) : (s.microOut m ws f).lane m.bay m.d.val k = ws.getD k 0 := by
  rw [State.lane_microOut, State.lane_vset_same _ _ _ hws hk]

theorem State.vecGen_microOut (s : State) (m : MicroArgs) (ws : List W32) (f : Flags) :
    (s.microOut m ws f).vecGen m.bay = s.vecGen m.bay := by
  rw [State.vecGen, State.rf, State.reg_microOut, State.reg_vecFlags_other _ _ _ (vflags_ne_vsrState m.bay).symm]
  rfl

theorem State.bay_microOut (s : State) (m : MicroArgs) (ws : List W32) (f : Flags) :
    (s.microOut m ws f).bay m.bay =
      { s.bay m.bay with
        vregs := vsetFrom (s.bay m.bay).vregs m.d.val 0 ws, vctx := { (s.bay m.bay).vctx with pc := (s.bay m.bay).vctx.pc + 1 } } := by
  have hmid : ((s.vset m.bay m.d.val ws).vecFlags m.bay f).bay m.bay =
      { s.bay m.bay with vregs := vsetFrom (s.bay m.bay).vregs m.d.val 0 ws } := State.bay_setBay_same ..
  rw [State.microOut, State.nextMicro, State.setCtx, State.bay_setBay_same, hmid]

theorem State.bay_microOut_other (s : State) (m : MicroArgs) (ws : List W32) (f : Flags) {b : BayId} (h : b ≠ m.bay) :
    (s.microOut m ws f).bay b = s.bay b := by
  rw [State.microOut, State.nextMicro, State.setCtx, State.bay_setBay_other _ _ h]
  exact State.bay_setBay_other _ _ h

theorem MicroFrame.microOut (s : State) (m : MicroArgs) {ws : List W32} (f : Flags) (hws : ws.length = 256) :
    MicroFrame m s (s.microOut m ws f) where
  rest := rfl
  bays _ h := State.bay_microOut_other _ _ _ _ h
  bay := by rw [State.bay_microOut]
  lanes v i hv hi := by rw [State.lane_microOut, State.lane_vset_other _ _ hv hws hi]
  regs a ha _ := by rw [State.reg_microOut, State.reg_vecFlags_other _ _ _ ha]
  flags i h := by rw [State.reg_microOut]; exact State.vecFlags_keeps_flag _ _ _ _ h

/-- A micro-op that draws first is a micro-op all the same. -/
theorem MicroFrame.of_setVecGen {m : MicroArgs} {s t : State} {g : W32} (h : MicroFrame m (s.setVecGen m.bay g) t) :
    MicroFrame m s t where
  rest := h.rest
  bays := h.bays
  bay := h.bay
  lanes := h.lanes
  regs a ha hg := (h.regs a ha hg).trans (State.reg_setVecGen_other _ _ _ hg)
  flags i hi := h.flags i (by rwa [State.reg_setVecGen_other _ _ _ (vflags_ne_vsrState m.bay)])

/-! ## Lanes one by one -/

/-- A lane-wise micro-op that neither rounds nor draws maps its lanes. -/
theorem laneOps_exact {code : Nat} {f : W32 → W32 → W32 → W32} (hd : microDraws code = false)
    (hf : ∀ x a b c, laneOp code x a b c = (f a b c, 0)) (rm : RMode) (sat : Bool) (xs : List (W32 × W32 × W32)) (g : W32) :
    laneOps code rm sat xs g = (xs.map (fun p => f p.1 p.2.1 p.2.2), 0, g) := by
  induction xs with
  | nil => rfl
  | cons p xs ih =>
    obtain ⟨a, b, c⟩ := p
    simp [laneOps, hd, hf, ih]

theorem srDraw_of_ne {rm : RMode} (h : rm ≠ .sr) (g : W32) : srDraw rm g = (0, g) := by
  cases rm with
  | sr => exact absurd rfl h
  | _ => rfl

/-- Lane i of a lane-wise micro-op is its operation on lane i with some draw, which is 0 in a mode that draws nothing, and its
flags are among those of the whole. -/
theorem laneOps_lanes (code : Nat) (rm : RMode) (sat : Bool) (xs : List (W32 × W32 × W32)) : ∀ g : W32,
    (laneOps code rm sat xs g).1.length = xs.length ∧ ∃ u : Nat → Nat,
      (rm ≠ .sr → (∀ k, u k = 0) ∧ (laneOps code rm sat xs g).2.2 = g) ∧
      ∀ k < xs.length, ∀ p, xs[k]? = some p →
        let r := laneOp code { rm := rm, sat := sat, u := u k } p.1 p.2.1 p.2.2
        (laneOps code rm sat xs g).1.getD k 0 = r.1 ∧
          ∀ j, r.2.getLsbD j = true → (laneOps code rm sat xs g).2.1.getLsbD j = true := by
  induction xs with
  | nil => exact fun g => ⟨rfl, fun _ => 0, fun _ => ⟨fun _ => rfl, rfl⟩, fun k hk => absurd hk (Nat.not_lt_zero k)⟩
  | cons p xs ih =>
    obtain ⟨a, b, c⟩ := p
    intro g
    let d := if microDraws code then srDraw rm g else (0, g)
    have hd : rm ≠ .sr → d = (0, g) := fun h => by simp only [d, srDraw_of_ne h]; split <;> rfl
    obtain ⟨hlen, u, hu, hlane⟩ := ih d.2
    refine ⟨congrArg (· + 1) hlen, fun k => Nat.casesOn k d.1 u, fun h => ⟨?_, ?_⟩, ?_⟩
    · rintro (_ | k)
      · exact congrArg Prod.fst (hd h)
      · exact (hu h).1 k
    · exact (hu h).2.trans (congrArg Prod.snd (hd h))
    · rintro (_ | k) hk q hq
      · obtain rfl : (a, b, c) = q := by simpa using hq
        exact ⟨rfl, fun j hj => by
          show (_ ||| _ : Flags).getLsbD j = true
          rw [BitVec.getLsbD_or]
          exact Bool.or_eq_true_iff.2 (.inl hj)⟩
      · obtain ⟨hval, hfl⟩ := hlane k (Nat.lt_of_succ_lt_succ hk) q (by simpa using hq)
        exact ⟨hval, fun j hj => by
          show (_ ||| _ : Flags).getLsbD j = true
          rw [BitVec.getLsbD_or]
          exact Bool.or_eq_true_iff.2 (.inr (hfl j hj))⟩

/-- The operands of the lanes of a lane-wise micro-op. -/
def State.operands (s : State) (m : MicroArgs) : List (W32 × W32 × W32) :=
  ((s.bay m.bay).vget m.a.val).zip (((s.bay m.bay).vget m.b.val).zip ((s.bay m.bay).vget m.c.val))

theorem State.operands_length (s : State) (m : MicroArgs) : (s.operands m).length = 256 := by
  simp [State.operands, Bay.vget_length]

theorem State.operands_get (s : State) (m : MicroArgs) {k : Nat} (hk : k < 256) : (s.operands m)[k]? =
    some (s.lane m.bay m.a.val k, s.lane m.bay m.b.val k, s.lane m.bay m.c.val k) := by
  simp [State.operands, Bay.vget, State.lane, hk]

/-! ## The micro-op commands -/

/-- The decoded form of a micro-op command. -/
def microOpOf (m : MicroArgs) (code : Nat) : MicroOp :=
  { op := code, d := m.d.val, a := m.a.val, b := m.b.val, c := m.c.val, imm := m.imm.val }

theorem State.microCmd_runs {m : MicroArgs} (h : laneFaultOf m.fault = none) (s : State) (code : Nat) :
    s.microCmd code m = s.micro m.bay (microMode m) m.sat (microOpOf m code) := by
  rw [State.microCmd, h]
  rfl

theorem State.microCmd_faults {m : MicroArgs} {code lane : Nat} (h : laneFaultOf m.fault = some (code, lane)) (s : State) (op : Nat) :
    s.microCmd op m = s.laneFault m.bay .vector code lane := by
  rw [State.microCmd, h]

/-- A lane-wise micro-op. -/
theorem State.micro_lanes (s : State) (m : MicroArgs) {code : Nat} (hv : microVec code = true) :
    s.micro m.bay (microMode m) m.sat (microOpOf m code) =
      (s.microData m.bay (microMode m) m.sat (microOpOf m code)).nextMicro m.bay := by
  unfold State.micro
  split
  next h => exact absurd hv (by rw [show code = 0x2D from h]; decide)
  next h => exact absurd hv (by rw [show code = 0x2E from h]; decide)
  next h => exact absurd hv (by rw [show code = 0x2F from h]; decide)
  next => rfl

theorem State.microCmd_lanes {m : MicroArgs} (h : laneFaultOf m.fault = none) (s : State) {code : Nat} (hv : microVec code = true) :
    let r := laneOps code (microMode m) m.sat (s.operands m) (s.vecGen m.bay)
    s.microCmd code m = (s.setVecGen m.bay r.2.2).microOut m r.1 r.2.1 := by
  intro r
  rw [State.microCmd_runs h, State.micro_lanes s m hv, State.microData, if_pos (show microVec (microOpOf m code).op = true from hv)]
  simp only [State.microLanes, State.microResult, State.microOut, State.operands, microOpOf, r]

end Sys2Proof.Machine
end

section
/-!
PROOFS. Bay SRAM: what a run of bytes written to it reads back as, and FP32 elements in storage (R42).
-/

namespace Sys2Proof.Machine

theorem State.sramWrite_eq (bs : List Byte) : ∀ (s : State) (b : BayId) (o : Nat),
    s.sramWrite b o bs = { s with sram := (s.sramWrite b o bs).sram } := by
  induction bs with
  | nil => exact fun _ _ _ => rfl
  | cons v vs ih => exact fun s b o => ih (s.setSram b o v) b (o + 1)

/-- A write changes no byte of another bay, nor one before or behind it. -/
theorem State.sramByte_sramWrite_other {b c : BayId} {p : Nat} (hp : p < 2 ^ 24) (bs : List Byte) : ∀ (s : State) (o : Nat),
    o + bs.length ≤ 2 ^ 24 → (c ≠ b ∨ p < o ∨ o + bs.length ≤ p) → (s.sramWrite b o bs).sramByte c p = s.sramByte c p := by
  induction bs with
  | nil => exact fun _ _ _ _ => rfl
  | cons v vs ih =>
    intro s o hfit h
    rw [List.length_cons] at hfit h
    rw [State.sramWrite, ih _ _ (by omega) (h.imp_right fun h => by omega), State.sramByte_setSram_other]
    rcases h with h | h
    · exact .inl h
    · exact .inr (by omega)

/-- A write that stays within the SRAM reads back. -/
theorem State.sramByte_sramWrite_in {b : BayId} (bs : List Byte) : ∀ (s : State) (o i : Nat), o + bs.length ≤ 2 ^ 24 →
    i < bs.length → (s.sramWrite b o bs).sramByte b (o + i) = bs.getD i 0 := by
  induction bs with
  | nil => exact fun _ _ i _ h => absurd h (Nat.not_lt_zero i)
  | cons v vs ih =>
    intro s o i hfit hi
    rw [List.length_cons] at hfit hi
    rw [State.sramWrite]
    cases i with
    | zero =>
      rw [State.sramByte_sramWrite_other (by omega) _ _ _ (by omega) (by omega), Nat.add_zero, State.sramByte_setSram_same,
        List.getD_cons_zero]
    | succ i =>
      rw [show o + (i + 1) = o + 1 + i by omega, ih _ _ _ (by omega) (by omega), List.getD_cons_succ]

/-! ## FP32 arrays -/

theorem packElems_fp32_length (ps : List Nat) : (packElems .fp32 ps).length = 4 * ps.length := by
  simp [packElems, List.length_flatMap, Nat.mul_comm]

/-- A byte of a number's low bytes. -/
theorem natToBytes_getD : ∀ (n v : Nat) {j : Nat}, j < n → (natToBytes n v).getD j 0 = BitVec.ofNat 8 (v / 2 ^ (8 * j)) := by
  intro n
  induction n with
  | zero => exact fun _ _ h => absurd h (Nat.not_lt_zero _)
  | succ n ih =>
    intro v j hj
    rw [natToBytes]
    cases j with
    | zero => simp
    | succ j =>
      rw [List.getD_cons_succ, ih _ (by omega), Nat.div_div_eq_div_mul, show 8 * (j + 1) = 8 + 8 * j by omega, Nat.pow_add]

/-- Byte j of element k of a packed FP32 array. -/
theorem packElems_fp32_getD (ps : List Nat) : ∀ {k j : Nat}, k < ps.length → j < 4 →
    (packElems .fp32 ps).getD (4 * k + j) 0 = BitVec.ofNat 8 (ps.getD k 0 / 2 ^ (8 * j)) := by
  induction ps with
  | nil => exact fun h => absurd h (Nat.not_lt_zero _)
  | cons p ps ih =>
    intro k j hk hj
    have hcons : packElems .fp32 (p :: ps) = natToBytes 4 p ++ packElems .fp32 ps := rfl
    rw [hcons]
    cases k with
    | zero =>
      rw [List.getD_append _ _ _ _ (by rw [natToBytes_length]; omega), Nat.mul_zero, Nat.zero_add, natToBytes_getD _ _ hj,
        List.getD_cons_zero]
    | succ k =>
      rw [List.getD_append_right _ _ _ _ (by rw [natToBytes_length]; omega), natToBytes_length,
        show 4 * (k + 1) + j - 4 = 4 * k + j by omega, ih (by simpa using hk) hj, List.getD_cons_succ]

/-- Four bytes that are a word's, lowest first, are that word. -/
theorem elemAt_fp32_of_bytes {rd : Nat → Byte} {a j : Nat} {w : W32}
    (h : ∀ i < 4, rd (a + 4 * j + i) = BitVec.ofNat 8 (w.toNat / 2 ^ (8 * i))) : BitVec.ofNat 32 (elemAt rd .fp32 a j) = w := by
  have hw := w.isLt
  have hn : elemAt rd .fp32 a j = w.toNat := by
    simp only [elemAt, List.range, List.range.loop, List.map, bytesToNat]
    rw [h 0 (by decide), h 1 (by decide), h 2 (by decide), h 3 (by decide)]
    simp only [BitVec.toNat_ofNat]
    omega
  rw [hn, BitVec.ofNat_toNat, BitVec.setWidth_eq]

end Sys2Proof.Machine
end

section
/-!
PROOFS. The micro-ops (Table 4-11): lane-wise, across lanes, and those of pointers and loops.
-/

namespace Sys2Proof.Machine

/-- What a lane-wise micro-op command of a code does: the row, and its operation on a lane. -/
structure LaneRow (m : MicroArgs) (i : Instr) (f : LaneCtx → W32 → W32 → W32 → W32 × Flags) (code : Nat) : Prop where
  exec : ∀ s, exec i s = .next (s.microCmd code m)
  vec : microVec code = true
  op : ∀ x a b c, laneOp code x a b c = f x a b c

/-- The micro-ops that neither round nor draw are lane-wise and set no flag. -/
theorem exactMicroOps_row {m : MicroArgs} {i : Instr} {f : W32 → W32 → W32 → W32} (h : (i, f) ∈ exactMicroOps m) :
    ∃ code, LaneRow m i (fun _ a b c => (f a b c, 0)) code ∧ microDraws code = false := by
  simp only [exactMicroOps, List.mem_cons, Prod.mk.injEq, List.not_mem_nil, or_false] at h
  obtain ⟨rfl, rfl⟩ | ⟨rfl, rfl⟩ | ⟨rfl, rfl⟩ | ⟨rfl, rfl⟩ | ⟨rfl, rfl⟩ | ⟨rfl, rfl⟩ | ⟨rfl, rfl⟩ | ⟨rfl, rfl⟩ | ⟨rfl, rfl⟩ |
    ⟨rfl, rfl⟩ | ⟨rfl, rfl⟩ | ⟨rfl, rfl⟩ | ⟨rfl, rfl⟩ := h
  · exact ⟨0x05, ⟨fun _ => rfl, rfl, fun _ _ _ _ => rfl⟩, rfl⟩
  · exact ⟨0x06, ⟨fun _ => rfl, rfl, fun _ _ _ _ => rfl⟩, rfl⟩
  · exact ⟨0x07, ⟨fun _ => rfl, rfl, fun _ _ _ _ => rfl⟩, rfl⟩
  · exact ⟨0x08, ⟨fun _ => rfl, rfl, fun _ _ _ _ => rfl⟩, rfl⟩
  · exact ⟨0x09, ⟨fun _ => rfl, rfl, fun _ _ _ _ => rfl⟩, rfl⟩
  · exact ⟨0x17, ⟨fun _ => rfl, rfl, fun _ _ _ _ => rfl⟩, rfl⟩
  · exact ⟨0x18, ⟨fun _ => rfl, rfl, fun _ _ _ _ => rfl⟩, rfl⟩
  · exact ⟨0x19, ⟨fun _ => rfl, rfl, fun _ _ _ _ => rfl⟩, rfl⟩
  · exact ⟨0x1A, ⟨fun _ => rfl, rfl, fun _ _ _ _ => rfl⟩, rfl⟩
  · exact ⟨0x1B, ⟨fun _ => rfl, rfl, fun _ _ _ _ => rfl⟩, rfl⟩
  · exact ⟨0x1C, ⟨fun _ => rfl, rfl, fun _ _ _ _ => rfl⟩, rfl⟩
  · exact ⟨0x1D, ⟨fun _ => rfl, rfl, fun _ _ _ _ => rfl⟩, rfl⟩
  · exact ⟨0x27, ⟨fun _ => rfl, rfl, fun _ _ _ _ => rfl⟩, rfl⟩

/-- The micro-ops that round are lane-wise. -/
theorem roundingMicroOps_row {m : MicroArgs} {i : Instr} {f : LaneCtx → W32 → W32 → W32 → W32 × Flags}
    (h : (i, f) ∈ roundingMicroOps m) : ∃ code, LaneRow m i f code := by
  simp only [roundingMicroOps, List.mem_cons, Prod.mk.injEq, List.not_mem_nil, or_false] at h
  obtain ⟨rfl, rfl⟩ | ⟨rfl, rfl⟩ | ⟨rfl, rfl⟩ | ⟨rfl, rfl⟩ | ⟨rfl, rfl⟩ | ⟨rfl, rfl⟩ | ⟨rfl, rfl⟩ | ⟨rfl, rfl⟩ | ⟨rfl, rfl⟩ |
    ⟨rfl, rfl⟩ | ⟨rfl, rfl⟩ | ⟨rfl, rfl⟩ | ⟨rfl, rfl⟩ | ⟨rfl, rfl⟩ | ⟨rfl, rfl⟩ | ⟨rfl, rfl⟩ | ⟨rfl, rfl⟩ | ⟨rfl, rfl⟩ |
    ⟨rfl, rfl⟩ | ⟨rfl, rfl⟩ := h
  · exact ⟨0x00, fun _ => rfl, rfl, fun _ _ _ _ => rfl⟩
  · exact ⟨0x01, fun _ => rfl, rfl, fun _ _ _ _ => rfl⟩
  · exact ⟨0x02, fun _ => rfl, rfl, fun _ _ _ _ => rfl⟩
  · exact ⟨0x03, fun _ => rfl, rfl, fun _ _ _ _ => rfl⟩
  · exact ⟨0x04, fun _ => rfl, rfl, fun _ _ _ _ => rfl⟩
  · exact ⟨0x0A, fun _ => rfl, rfl, fun _ _ _ _ => rfl⟩
  · exact ⟨0x0B, fun _ => rfl, rfl, fun _ _ _ _ => rfl⟩
  · exact ⟨0x0C, fun _ => rfl, rfl, fun _ _ _ _ => rfl⟩
  · exact ⟨0x0D, fun _ => rfl, rfl, fun _ _ _ _ => rfl⟩
  · exact ⟨0x0E, fun _ => rfl, rfl, fun _ _ _ _ => rfl⟩
  · exact ⟨0x0F, fun _ => rfl, rfl, fun _ _ _ _ => rfl⟩
  · exact ⟨0x10, fun _ => rfl, rfl, fun _ _ _ _ => rfl⟩
  · exact ⟨0x11, fun _ => rfl, rfl, fun _ _ _ _ => rfl⟩
  · exact ⟨0x12, fun _ => rfl, rfl, fun _ _ _ _ => rfl⟩
  · exact ⟨0x13, fun _ => rfl, rfl, fun _ _ _ _ => rfl⟩
  · exact ⟨0x14, fun _ => rfl, rfl, fun _ _ _ _ => rfl⟩
  · exact ⟨0x15, fun _ => rfl, rfl, fun _ _ _ _ => rfl⟩
  · exact ⟨0x16, fun _ => rfl, rfl, fun _ _ _ _ => rfl⟩
  · exact ⟨0x1E, fun _ => rfl, rfl, fun _ _ _ _ => rfl⟩
  · exact ⟨0x1F, fun _ => rfl, rfl, fun _ _ _ _ => rfl⟩

/-- Settles O38: an exact micro-op maps its lanes, and the generator and the flags are written with what they hold. -/
theorem exactMicroOpsWriteEveryLane : Obligations.ExactMicroOpsWriteEveryLane := by
  unfold Obligations.ExactMicroOpsWriteEveryLane
  intro m s i f hi hfault
  obtain ⟨code, row, hdraws⟩ := exactMicroOps_row hi
  have hcmd := State.microCmd_lanes hfault s row.vec
  simp only [laneOps_exact hdraws row.op] at hcmd
  have hlen : ((s.operands m).map (fun p => f p.1 p.2.1 p.2.2)).length = 256 := by
    rw [List.length_map, State.operands_length]
  refine ⟨_, (row.exec s).trans (congrArg _ hcmd), (MicroFrame.microOut _ m 0 hlen).of_setVecGen, fun a => ?_, fun k hk => ?_⟩
  · rw [State.reg_microOut, State.reg_vecFlags_zero, State.reg_setVecGen_self]
  · rw [State.lane_microOut_same _ _ _ hlen hk, List.getD_eq_getElem?_getD, List.getElem?_map, State.operands_get s m hk]
    rfl

/-- Settles O39: each lane is its own operation with the draw of its turn, and the flags of all lanes are joined. -/
theorem roundingMicroOpsWriteEveryLane : Obligations.RoundingMicroOpsWriteEveryLane := by
  unfold Obligations.RoundingMicroOpsWriteEveryLane
  intro m s i f hi hfault
  obtain ⟨code, row⟩ := roundingMicroOps_row hi
  have hcmd := State.microCmd_lanes hfault s row.vec
  obtain ⟨hlen, u, hu, hlanes⟩ := laneOps_lanes code (microMode m) m.sat (s.operands m) (s.vecGen m.bay)
  rw [State.operands_length] at hlen hlanes
  generalize laneOps code (microMode m) m.sat (s.operands m) (s.vecGen m.bay) = r at hcmd hlen hu hlanes
  refine ⟨_, u, (row.exec s).trans (congrArg _ hcmd), (MicroFrame.microOut _ m _ hlen).of_setVecGen, fun h => ⟨(hu h).1, ?_⟩,
    fun k hk => ?_⟩
  · rw [State.vecGen_microOut, State.vecGen_setVecGen, (hu h).2]
  · obtain ⟨hval, hflags⟩ := hlanes k hk _ (State.operands_get s m hk)
    rw [row.op] at hval hflags
    refine ⟨?_, fun j hj hf => ?_⟩
    · rw [State.lane_microOut_same _ _ _ hlen hk]
      exact hval
    · rw [State.reg_microOut]
      exact State.vecFlags_gains _ _ _ hj (hflags j hf)

/-! ## Across lanes -/

/-- A micro-op command that writes given lanes and nothing else. -/
theorem microFrame_of_lanes {m : MicroArgs} {s : State} {i : Instr} {f : Nat → W32} {ws : List W32} (hws : ws.length = 256)
    (h : exec i s = .next (s.microOut m ws 0)) (hf : ∀ k < 256, ws.getD k 0 = f k) :
    ∃ t, exec i s = .next t ∧ MicroFrame m s t ∧ (∀ a, t.reg a = s.reg a) ∧ ∀ k < 256, t.lane m.bay m.d.val k = f k :=
  ⟨_, h, .microOut s m 0 hws, fun a => by rw [State.reg_microOut, State.reg_vecFlags_zero],
    fun k hk => by rw [State.lane_microOut_same _ _ _ hws hk, hf k hk]⟩

theorem microFrame_of_map {m : MicroArgs} {s : State} {i : Instr} {f g : Nat → W32}
    (h : exec i s = .next (s.microOut m ((List.range 256).map g) 0)) (hf : ∀ k < 256, g k = f k) :
    ∃ t, exec i s = .next t ∧ MicroFrame m s t ∧ (∀ a, t.reg a = s.reg a) ∧ ∀ k < 256, t.lane m.bay m.d.val k = f k :=
  microFrame_of_lanes (by simp) h fun k hk => by simp [List.getD, hk, hf k hk]

theorem replicate_lanes_getD (w : W32) {k : Nat} (hk : k < 256) : (List.replicate 256 w).getD k 0 = w := by
  rw [List.getD_eq_getElem?_getD, List.getElem?_replicate, if_pos hk, Option.getD_some]

/-- The largest or smallest lane of a register. -/
def State.picked (s : State) (m : MicroArgs) (max : Bool) : W32 :=
  (List.range 256).foldl (fun acc i => lanePick max acc (s.lane m.bay m.a.val i)) (s.lane m.bay m.a.val 0)

theorem State.microPick_eq (s : State) (m : MicroArgs) (code : Nat) (max : Bool) :
    s.microPick m.bay max (microOpOf m code) =
      s.microResult m.bay (microOpOf m code) (List.replicate 256 (s.picked m max)) 0 := by
  have hhead : ((s.bay m.bay).vget m.a.val).headD 0 = s.lane m.bay m.a.val 0 := by
    rw [Bay.vget, show List.range 256 = 0 :: (List.range 255).map Nat.succ from List.range_succ_eq_map]
    rfl
  have hfold : ((s.bay m.bay).vget m.a.val).foldl (fun acc w => lanePick max acc w) (s.lane m.bay m.a.val 0) = s.picked m max := by
    rw [Bay.vget, List.foldl_map]
    rfl
  simp only [State.microPick, microOpOf, hhead, hfold]

/-- The states of the generator that RAND draws. -/
theorem genStates_eq : ∀ (n : Nat) (g : W32), (genStates n g).1.length = n ∧ (genStates n g).2 = genAfter n g ∧
    ∀ k < n, (genStates n g).1[k]? = some (genAfter (k + 1) g) := by
  intro n
  induction n with
  | zero => exact fun g => ⟨rfl, rfl, fun k hk => absurd hk (Nat.not_lt_zero k)⟩
  | succ n ih =>
    intro g
    obtain ⟨hlen, hlast, hget⟩ := ih (srStep g)
    refine ⟨congrArg (· + 1) hlen, hlast, ?_⟩
    rintro (_ | k) hk
    · rfl
    · exact hget k (Nat.lt_of_succ_lt_succ hk)

section
variable {m : MicroArgs} (h : laneFaultOf m.fault = none) (s : State)
include h

theorem exec_perm : exec (.perm m) s = .next (s.microOut m ((List.range 256).map (fun i =>
    ((s.bay m.bay).vget m.a.val).getD ((((s.bay m.bay).vget m.b.val).getD i 0).toNat % 256) 0)) 0) :=
  congrArg Host.Outcome.next ((State.microCmd_runs h s 0x23).trans rfl)

theorem exec_rotl : exec (.rotl m) s = .next (s.microOut m ((List.range 256).map (fun i =>
    ((s.bay m.bay).vget m.a.val).getD ((i + m.imm.val) % 256) 0)) 0) :=
  congrArg Host.Outcome.next ((State.microCmd_runs h s 0x24).trans rfl)

theorem exec_bcast : exec (.bcast m) s = .next (s.microOut m ((List.range 256).map (fun _ =>
    ((s.bay m.bay).vget m.a.val).getD (m.imm.val % 256) 0)) 0) :=
  congrArg Host.Outcome.next ((State.microCmd_runs h s 0x25).trans rfl)

theorem exec_idx : exec (.idx m) s = .next (s.microOut m ((List.range 256).map (fun i => BitVec.ofNat 32 i)) 0) :=
  congrArg Host.Outcome.next ((State.microCmd_runs h s 0x26).trans rfl)

theorem exec_ldp : exec (.ldp m) s = .next (s.microOut m ((List.range 256).map (fun _ =>
    (s.bay m.bay).vctx.params.getD m.imm.val 0)) 0) :=
  congrArg Host.Outcome.next ((State.microCmd_runs h s 0x28).trans rfl)

theorem exec_rmax : exec (.rmax m) s = .next (s.microOut m (List.replicate 256 (s.picked m true)) 0) :=
  congrArg Host.Outcome.next ((State.microCmd_runs h s 0x21).trans
    (congrArg (fun t => State.nextMicro t m.bay) (State.microPick_eq s m 0x21 true)))

theorem exec_rmin : exec (.rmin m) s = .next (s.microOut m (List.replicate 256 (s.picked m false)) 0) :=
  congrArg Host.Outcome.next ((State.microCmd_runs h s 0x22).trans
    (congrArg (fun t => State.nextMicro t m.bay) (State.microPick_eq s m 0x22 false)))

/-- RSUM in a mode that draws nothing. -/
theorem exec_rsum (hrm : microMode m ≠ .sr) :
    let r := sumVals (((s.bay m.bay).vget m.a.val).map laneVal) .fp32 .fp32 (microMode m) m.sat 0
    exec (.rsum m) s = .next ((s.setVecGen m.bay (s.vecGen m.bay)).microOut m (List.replicate 256 (BitVec.ofNat 32 r.1)) r.2) := by
  intro r
  have hsum : s.microSum m.bay (microMode m) m.sat (microOpOf m 0x20) =
      (s.setVecGen m.bay (s.vecGen m.bay)).microResult m.bay (microOpOf m 0x20) (List.replicate 256 (BitVec.ofNat 32 r.1)) r.2 := by
    simp only [State.microSum, srDraw_of_ne hrm, microOpOf, r]
  exact congrArg Host.Outcome.next ((State.microCmd_runs h s 0x20).trans (congrArg (fun t => State.nextMicro t m.bay) hsum))

theorem exec_rand : exec (.rand m) s = .next ((s.setVecGen m.bay (genStates 256 (s.vecGen m.bay)).2).microOut m
    ((genStates 256 (s.vecGen m.bay)).1.map (fun g =>
      BitVec.ofNat 32 (roundFin .fp32 .rtz false 0 false (Config.freeRand g).toNat (-24) false).1)) 0) := by
  have hrand : s.microRand m.bay (microOpOf m 0x2C) = (s.setVecGen m.bay (genStates 256 (s.vecGen m.bay)).2).microResult m.bay
      (microOpOf m 0x2C) ((genStates 256 (s.vecGen m.bay)).1.map (fun g =>
        BitVec.ofNat 32 (roundFin .fp32 .rtz false 0 false (Config.freeRand g).toNat (-24) false).1)) 0 := by
    simp only [State.microRand]
  exact congrArg Host.Outcome.next ((State.microCmd_runs h s 0x2C).trans (congrArg (fun t => State.nextMicro t m.bay) hrand))

end

/-- Settles O40: each row writes its lanes, RSUM its one sum, and RAND the values of 256 steps of the generator. -/
theorem crossLaneMicroOpsWriteEveryLane : Obligations.CrossLaneMicroOpsWriteEveryLane := by
  unfold Obligations.CrossLaneMicroOpsWriteEveryLane
  intro m s hfault
  refine ⟨fun i f hi => ?_, fun hrm => ?_, ?_⟩
  · have hb : ∀ {k : Nat}, k % 256 < 256 := Nat.mod_lt _ (by decide)
    simp only [acrossMicroOps, List.mem_cons, Prod.mk.injEq, List.not_mem_nil, or_false] at hi
    obtain ⟨rfl, rfl⟩ | ⟨rfl, rfl⟩ | ⟨rfl, rfl⟩ | ⟨rfl, rfl⟩ | ⟨rfl, rfl⟩ | ⟨rfl, rfl⟩ | ⟨rfl, rfl⟩ := hi
    · exact microFrame_of_map (exec_perm hfault s) fun k hk => by rw [Bay.vget_getD s _ _ hk, Bay.vget_getD s _ _ hb]
    · exact microFrame_of_map (exec_rotl hfault s) fun k _ => by rw [Bay.vget_getD s _ _ hb]
    · exact microFrame_of_map (exec_bcast hfault s) fun k _ => by rw [Bay.vget_getD s _ _ hb]
    · exact microFrame_of_map (exec_idx hfault s) fun _ _ => rfl
    · exact microFrame_of_map (exec_ldp hfault s) fun _ _ => rfl
    · exact microFrame_of_lanes List.length_replicate (exec_rmax hfault s) fun k hk => replicate_lanes_getD _ hk
    · exact microFrame_of_lanes List.length_replicate (exec_rmin hfault s) fun k hk => replicate_lanes_getD _ hk
  · refine ⟨_, exec_rsum hfault s hrm, (MicroFrame.microOut _ m _ List.length_replicate).of_setVecGen, ?_, fun k hk => ?_⟩
    · rw [State.vecGen_microOut, State.vecGen_setVecGen]
    · rw [State.lane_microOut_same _ _ _ List.length_replicate hk, replicate_lanes_getD _ hk, Bay.vget, List.map_map]
      rfl
  · obtain ⟨hlen, hlast, hget⟩ := genStates_eq 256 (s.vecGen m.bay)
    refine ⟨_, exec_rand hfault s, (MicroFrame.microOut _ m _ (by simpa using hlen)).of_setVecGen, ?_, fun k hk => ?_⟩
    · rw [State.vecGen_microOut, State.vecGen_setVecGen, hlast]
    · rw [State.lane_microOut_same _ _ _ (by simpa using hlen) hk, List.getD_eq_getElem?_getD, List.getElem?_map, hget k hk]
      rfl

end Sys2Proof.Machine
end

section
/-!
PROOFS. The micro-ops of pointers and loops (Table 4-11), and lane checks that fail in a micro-op (R74).
-/

namespace Sys2Proof.Machine

/-- The pointer of a micro-op moved on by 256 elements of a format. -/
def VecCtx.advanced (x : VecCtx) (a n : Nat) : VecCtx := { x with pc := x.pc + 1, ptrs := x.ptrs.set a n }

/-- A write of lanes followed by the move of pointer A. -/
def State.microMoved (s : State) (m : MicroArgs) (n : Nat) : State :=
  s.setCtx m.bay ((s.bay m.bay).vctx.advanced m.a.val n)

theorem State.bay_microMoved (s : State) (m : MicroArgs) (n : Nat) :
    (s.microMoved m n).bay m.bay = { s.bay m.bay with vctx := (s.bay m.bay).vctx.advanced m.a.val n } := State.bay_setBay_same ..

section
variable {m : MicroArgs} (h : laneFaultOf m.fault = none) (s : State)
include h

theorem exec_ldv : exec (.ldv m) s = .next ((((s.microMap m.bay (microOpOf m 0x29) (fun i =>
    s.bufElem m.bay (s.ptrFmt m.bay m.a.val) (s.ptr m.bay m.a.val) i)).advance m.bay m.a.val)).nextMicro m.bay) :=
  congrArg Host.Outcome.next ((State.microCmd_runs h s 0x29).trans rfl)

theorem exec_stv : exec (.stv m) s = .next ((s.microStore m.bay (microMode m) m.sat (microOpOf m 0x2A)).nextMicro m.bay) :=
  congrArg Host.Outcome.next ((State.microCmd_runs h s 0x2A).trans rfl)

theorem exec_gather : exec (.gather m) s = .next (s.microOut m ((List.range 256).map (fun i =>
    s.bufElem m.bay (s.ptrFmt m.bay m.a.val) (((s.ptr m.bay m.a.val : Int) +
      lanePos (((s.bay m.bay).vget m.b.val).getD i 0) * ((s.ptrFmt m.bay m.a.val).bits / 8 : Nat)) % (2 ^ 24 : Int)).toNat 0)) 0) :=
  congrArg Host.Outcome.next ((State.microCmd_runs h s 0x2B).trans rfl)

theorem exec_loop : exec (.loop m) s = .next (s.setCtx m.bay ((s.bay m.bay).vctx.enter m.imm.val)) :=
  congrArg Host.Outcome.next ((State.microCmd_runs h s 0x2D).trans rfl)

theorem exec_endloop : exec (.endloop m) s = .next (s.setCtx m.bay (s.bay m.bay).vctx.again) :=
  congrArg Host.Outcome.next ((State.microCmd_runs h s 0x2E).trans rfl)

theorem exec_microHalt : exec (.microHalt m) s = .next (s.setCtx m.bay (s.bay m.bay).vctx.haltIter) :=
  congrArg Host.Outcome.next ((State.microCmd_runs h s 0x2F).trans rfl)

end

theorem VecCtx.again_nil {x : VecCtx} (h : x.loops = []) : x.again = { x with pc := x.pc + 1 } := by
  unfold VecCtx.again
  rw [h]

theorem VecCtx.again_cons {x : VecCtx} {start left : Nat} {rest : List (Nat × Nat)} (h : x.loops = (start, left) :: rest) :
    x.again = if left = 0 then { x with pc := x.pc + 1, loops := rest }
      else { x with pc := start, loops := (start, left - 1) :: rest } := by
  unfold VecCtx.again
  rw [h]

/-- The state with other registers, bays and bay SRAM. -/
def State.withUnit (s : State) (mgmt : Sparse Word) (bays : Sparse Bay) (sram : Memory) : State :=
  { s with mgmt := mgmt, bays := bays, sram := sram }

/-- t is s but for registers, bays and bay SRAM. -/
def UnitOnly (s t : State) : Prop := t = s.withUnit t.mgmt t.bays t.sram

theorem UnitOnly.trans {s t u : State} (h : UnitOnly s t) (h' : UnitOnly t u) : UnitOnly s u := by
  have hu : u = (s.withUnit t.mgmt t.bays t.sram).withUnit u.mgmt u.bays u.sram := by
    rw [← show t = s.withUnit t.mgmt t.bays t.sram from h]
    exact h'
  exact hu.trans rfl

theorem UnitOnly.bays_sram {s t : State} (h : UnitOnly s t) (hsram : t.sram = s.sram) :
    t = { s with mgmt := t.mgmt, bays := t.bays } := by
  rw [UnitOnly, hsram] at h
  exact h

theorem State.setReg_unitOnly (s : State) (a : Nat) (v : Word) : UnitOnly s (s.setReg a v) := rfl

theorem State.setBay_unitOnly (s : State) (b : BayId) (x : Bay) : UnitOnly s (s.setBay b x) := rfl

theorem State.setCtx_unitOnly (s : State) (b : BayId) (c : VecCtx) : UnitOnly s (s.setCtx b c) := State.setBay_unitOnly ..

theorem State.sramWrite_unitOnly (s : State) (b : BayId) (o : Nat) (bs : List Byte) : UnitOnly s (s.sramWrite b o bs) := by
  have h := State.sramWrite_eq bs s b o
  generalize s.sramWrite b o bs = t at h
  rw [h]
  rfl

theorem State.sramByte_setCtx (s : State) (b c : BayId) (x : VecCtx) (o : Nat) : (s.setCtx b x).sramByte c o = s.sramByte c o := rfl

theorem State.setCtx_sram (s : State) (b : BayId) (x : VecCtx) : (s.setCtx b x).sram = s.sram := rfl

theorem State.microMap_eq (s : State) (m : MicroArgs) (code : Nat) (g : Nat → W32) :
    s.microMap m.bay (microOpOf m code) g = (s.vset m.bay m.d.val ((List.range 256).map g)).vecFlags m.bay 0 := rfl

/-- The state of a bay's vector unit after a load of lanes and the move of its pointer. -/
theorem State.ldv_spec (s : State) (m : MicroArgs) (g : Nat → W32) :
    let t := (((s.microMap m.bay (microOpOf m 0x29) g).advance m.bay m.a.val)).nextMicro m.bay
    t = { s with mgmt := t.mgmt, bays := t.bays } ∧ (∀ k < 256, t.lane m.bay m.d.val k = g k) ∧
      (∀ b, b ≠ m.bay → t.bay b = s.bay b) ∧
      (t.bay m.bay).vctx = (s.bay m.bay).vctx.advanced m.a.val
        (s.ptr m.bay m.a.val + 256 * ((s.ptrFmt m.bay m.a.val).bits / 8)) := by
  intro t
  let u := s.vset m.bay m.d.val ((List.range 256).map g)
  have hu : (s.microMap m.bay (microOpOf m 0x29) g).bay m.bay = u.bay m.bay := rfl
  have hctx : (u.bay m.bay).vctx = (s.bay m.bay).vctx := by simp only [u, State.vset, State.bay_setBay_same]
  have hreg : ((t.bay m.bay).vregs = (u.bay m.bay).vregs) ∧ (t.bay m.bay).vctx = (u.bay m.bay).vctx.advanced m.a.val
      (u.ptr m.bay m.a.val + 256 * ((u.ptrFmt m.bay m.a.val).bits / 8)) := by
    simp only [t, State.nextMicro, State.advance, State.setCtx, State.bay_setBay_same, State.ptr, State.ptrFmt, hu,
      VecCtx.advanced, and_self]
  refine ⟨?_, fun k hk => ?_, fun b hb => ?_, ?_⟩
  · refine UnitOnly.bays_sram ?_ ?_
    · exact (((State.setBay_unitOnly ..).trans (State.setReg_unitOnly ..)).trans (State.setCtx_unitOnly ..)).trans
        (State.setCtx_unitOnly ..)
    · simp only [t, State.nextMicro, State.advance, State.setCtx_sram, State.microMap_eq, State.vecFlags,
        State.wf_sram, State.vset, State.setBay_sram]
  · have hlane : t.lane m.bay m.d.val k = u.lane m.bay m.d.val k := by rw [State.lane, hreg.1, State.lane]
    rw [hlane, State.lane_vset_same _ _ _ (by simp) hk]
    simp [List.getD, hk]
  · simp only [t, State.nextMicro, State.advance, State.setCtx]
    rw [State.bay_setBay_other _ _ hb, State.bay_setBay_other _ _ hb]
    exact State.bay_setBay_other _ _ hb
  · rw [hreg.2, State.ptr, State.ptrFmt, hctx, State.ptr, State.ptrFmt]

theorem State.lane_setVecGen (s : State) (b c : BayId) (g : W32) (v k : Nat) : (s.setVecGen b g).lane c v k = s.lane c v k := rfl

/-- What STV of an FP32 buffer writes. -/
def State.stvBytes (s : State) (m : MicroArgs) : List Byte :=
  packElems .fp32 (((s.bay m.bay).vget m.d.val).map BitVec.toNat)

theorem State.stvBytes_length (s : State) (m : MicroArgs) : (s.stvBytes m).length = 1024 := by
  rw [State.stvBytes, packElems_fp32_length, List.length_map, Bay.vget_length]

theorem State.stvBytes_getD (s : State) (m : MicroArgs) {k j : Nat} (hk : k < 256) (hj : j < 4) :
    (s.stvBytes m).getD (4 * k + j) 0 = BitVec.ofNat 8 ((s.lane m.bay m.d.val k).toNat / 2 ^ (8 * j)) := by
  rw [State.stvBytes, packElems_fp32_getD _ (by rw [List.length_map, Bay.vget_length]; exact hk) hj, ← Bay.vget_getD s _ _ hk,
    show (0 : Nat) = BitVec.toNat (0 : W32) from rfl, List.getD_map]

/-- The bytes, bays and registers after STV through an FP32 pointer that stays within the SRAM. -/
theorem State.stv_spec (s : State) (m : MicroArgs) (hf : s.ptrFmt m.bay m.a.val = .fp32) (hfit : s.ptr m.bay m.a.val + 1024 ≤ 2 ^ 24) :
    let p := s.ptr m.bay m.a.val
    let t := (s.microStore m.bay (microMode m) m.sat (microOpOf m 0x2A)).nextMicro m.bay
    t = { s with mgmt := t.mgmt, bays := t.bays, sram := t.sram } ∧
      (∀ k < 256, ∀ j < 4, t.sramByte m.bay (p + 4 * k + j) = BitVec.ofNat 8 ((s.lane m.bay m.d.val k).toNat / 2 ^ (8 * j))) ∧
      (∀ b o, o < 2 ^ 24 → (b ≠ m.bay ∨ o < p ∨ p + 1024 ≤ o) → t.sramByte b o = s.sramByte b o) ∧
      t.bay m.bay = { s.bay m.bay with vctx := (s.bay m.bay).vctx.advanced m.a.val (p + 1024) } := by
  intro p t
  let u := ((s.setVecGen m.bay (s.vecGen m.bay)).vecFlags m.bay 0).sramWrite m.bay p (s.stvBytes m)
  have hu : s.microStore m.bay (microMode m) m.sat (microOpOf m 0x2A) = u.advance m.bay m.a.val := by
    simp only [State.microStore, microOpOf, hf, storeLanes, u, p, State.stvBytes]
  have hueq : u = { (s.setVecGen m.bay (s.vecGen m.bay)).vecFlags m.bay 0 with sram := u.sram } := State.sramWrite_eq ..
  have hubay : ∀ b, u.bay b = s.bay b := fun b => congrArg (fun v => State.bay v b) hueq |>.trans rfl
  have hlen := State.stvBytes_length s m
  have ht : t = (u.advance m.bay m.a.val).nextMicro m.bay := congrArg (fun v => State.nextMicro v m.bay) hu
  have hsram : ∀ b o, t.sramByte b o = u.sramByte b o := fun b o => by
    rw [ht, State.nextMicro, State.sramByte_setCtx, State.advance, State.sramByte_setCtx]
  refine ⟨?_, fun k hk j hj => ?_, fun b o ho h => ?_, ?_⟩
  · rw [ht]
    exact ((((State.setReg_unitOnly ..).trans (State.setReg_unitOnly ..)).trans (State.sramWrite_unitOnly ..)).trans
      (State.setCtx_unitOnly ..)).trans (State.setCtx_unitOnly ..)
  · rw [hsram, show p + 4 * k + j = p + (4 * k + j) by omega,
      State.sramByte_sramWrite_in _ _ _ _ (by rw [hlen]; exact hfit) (by rw [hlen]; omega), State.stvBytes_getD s m hk hj]
  · rw [hsram, State.sramByte_sramWrite_other ho _ _ _ (by rw [hlen]; exact hfit) (by rw [hlen]; exact h)]
    rfl
  · rw [ht]
    simp only [State.nextMicro, State.advance, State.setCtx, State.bay_setBay_same, State.ptr, State.ptrFmt, hubay,
      VecCtx.advanced]
    rw [show bufFmtOr ((s.bay m.bay).vctx.pfmt.getD m.a.val 0) = .fp32 from hf]
    rfl

/-- The rows whose lane check can fail. -/
theorem exec_microRow_faults {m : MicroArgs} {code lane : Nat} (h : laneFaultOf m.fault = some (code, lane)) (s : State) :
    ∀ i ∈ [Instr.add m, .mul m, .rsum m, .ldv m, .stv m, .rand m, .loop m],
      exec i s = .next (s.laneFault m.bay .vector code lane) := by
  have hcmd : ∀ op, Host.Outcome.next (s.microCmd op m) = (.next (s.laneFault m.bay .vector code lane) : Out) :=
    fun op => congrArg _ (State.microCmd_faults h s op)
  intro i hi
  simp only [List.mem_cons, List.not_mem_nil, or_false] at hi
  obtain rfl | rfl | rfl | rfl | rfl | rfl | rfl := hi
  · exact hcmd 0x00
  · exact hcmd 0x02
  · exact hcmd 0x20
  · exact hcmd 0x29
  · exact hcmd 0x2A
  · exact hcmd 0x2C
  · exact hcmd 0x2D

/-- Settles O41: the loads and stores by what they write and how their pointer moves, the loop micro-ops by the position. -/
theorem pointerAndLoopMicroOps : Obligations.PointerAndLoopMicroOps := by
  unfold Obligations.PointerAndLoopMicroOps
  intro m s x f p
  refine ⟨fun hfault => ⟨?_, ?_, fun hf hfit => ?_, exec_loop hfault s, fun hl => ?_, fun start left rest hl => ?_, ?_⟩,
    fun code lane h => exec_microRow_faults h s⟩
  · exact ⟨_, exec_ldv hfault s, State.ldv_spec s m _⟩
  · refine ⟨_, exec_gather hfault s, .microOut s m 0 (by simp), fun k hk => ?_⟩
    rw [State.lane_microOut_same _ _ _ (by simp) hk]
    simp only [List.getD, List.getElem?_map, List.getElem?_range hk, Option.map_some, Option.getD_some]
    rw [← List.getD_eq_getElem?_getD, Bay.vget_getD s _ _ hk]
    rfl
  · exact ⟨_, exec_stv hfault s, State.stv_spec s m hf hfit⟩
  · rw [exec_endloop hfault s, VecCtx.again_nil hl]
  · rw [exec_endloop hfault s, VecCtx.again_cons hl]
  · exact exec_microHalt hfault s

end Sys2Proof.Machine
end

section
/-!
PROOFS. What a computing descriptor touches: the registers and the SRAM of its bay, and no queue, no other bay and no stacked
memory (R106, R107).
-/

namespace Sys2Proof.Machine

/-- From s to t only the registers, the SRAM and the vector state of bay b and the descriptors' flags may have moved. -/
structure BayRun (b : BayId) (s t : State) : Prop where
  mem : t.mem = s.mem
  bays : ∀ c, c ≠ b → t.bay c = s.bay c
  sram : ∀ c, c ≠ b → ∀ o, t.sramByte c o = s.sramByte c o
  queue : ∀ u, (t.bay b).queue u = (s.bay b).queue u
  running : ∀ u, ((t.bay b).running u).map Running.idx = ((s.bay b).running u).map Running.idx

namespace BayRun

theorem refl (b : BayId) (s : State) : BayRun b s s := ⟨rfl, fun _ _ => rfl, fun _ _ _ => rfl, fun _ => rfl, fun _ => rfl⟩

theorem trans {b : BayId} {s t u : State} (h : BayRun b s t) (h' : BayRun b t u) : BayRun b s u where
  mem := h'.mem.trans h.mem
  bays c hc := (h'.bays c hc).trans (h.bays c hc)
  sram c hc o := (h'.sram c hc o).trans (h.sram c hc o)
  queue v := (h'.queue v).trans (h.queue v)
  running v := (h'.running v).trans (h.running v)

/-- A change that touches no bay, no SRAM and no stacked memory. -/
theorem of_eq {b : BayId} {s t : State} (hmem : t.mem = s.mem) (hbays : t.bays = s.bays) (hsram : t.sram = s.sram) : BayRun b s t := by
  have hbay : ∀ c, t.bay c = s.bay c := fun c => by rw [State.bay, State.bay, hbays]
  refine ⟨hmem, fun c _ => hbay c, fun c _ o => ?_, fun u => by rw [hbay], fun u => by rw [hbay]⟩
  rw [State.sramByte, State.sramByte, hsram]

theorem foldl {b : BayId} {α : Type} {g : State → α → State} (l : List α) (hg : ∀ s x, BayRun b s (g s x)) :
    ∀ s, BayRun b s (l.foldl g s) := by
  induction l with
  | nil => exact fun s => refl b s
  | cons x l ih => exact fun s => (hg s x).trans (ih (g s x))

theorem foldl_fst {b : BayId} {α β : Type} {g : State × β → α → State × β} (l : List α)
    (hg : ∀ acc x, BayRun b acc.1 (g acc x).1) : ∀ acc, BayRun b acc.1 (l.foldl g acc).1 := by
  induction l with
  | nil => exact fun acc => refl b acc.1
  | cons x l ih => exact fun acc => (hg acc x).trans (ih (g acc x))

end BayRun

theorem State.setReg_run (s : State) (b : BayId) (a : Nat) (v : Word) : BayRun b s (s.setReg a v) := .of_eq rfl rfl rfl

theorem State.wf_run (s : State) (b : BayId) (a : Nat) (f : Field) (n : Nat) : BayRun b s (s.wf a f n) := State.setReg_run ..

theorem State.addf_run (s : State) (b : BayId) (a : Nat) (f : Field) (n : Nat) : BayRun b s (s.addf a f n) := State.setReg_run ..

theorem State.vecFlags_run (s : State) (b : BayId) (f : Flags) : BayRun b s (s.vecFlags b f) := State.wf_run ..

theorem State.setVecGen_run (s : State) (b : BayId) (g : W32) : BayRun b s (s.setVecGen b g) := State.wf_run ..

theorem State.setDataGen_run (s : State) (b : BayId) (g : W32) : BayRun b s (s.setDataGen b g) := State.wf_run ..

theorem State.draw_run (s : State) (b : BayId) : BayRun b s s.draw.2 := .of_eq rfl rfl rfl

theorem State.drawBytes_run (s : State) (b : BayId) (n : Nat) : BayRun b s (s.drawBytes n).2 := .of_eq rfl rfl rfl

theorem State.setSram_run (s : State) (b : BayId) (o : Nat) (v : Byte) : BayRun b s (s.setSram b o v) :=
  ⟨rfl, fun _ _ => rfl, fun _ hc _ => State.sramByte_setSram_other _ _ (.inl hc), fun _ => rfl, fun _ => rfl⟩

theorem State.sramWrite_run (b : BayId) (bs : List Byte) : ∀ (s : State) (o : Nat), BayRun b s (s.sramWrite b o bs) := by
  induction bs with
  | nil => exact fun s _ => .refl b s
  | cons v vs ih => exact fun s o => (s.setSram_run b o v).trans (ih _ _)

theorem State.sramPut_run (s : State) (b : BayId) (o : Nat) (bs : List Byte) (undef : Bool) : BayRun b s (s.sramPut b o bs undef) := by
  unfold State.sramPut
  split
  · exact (s.drawBytes_run b _).trans (State.sramWrite_run ..)
  · exact State.sramWrite_run ..

theorem State.flagsOr_run (s : State) (b : BayId) (undef : Bool) (f : Flags) : BayRun b s (s.flagsOr undef f).2 := by
  unfold State.flagsOr
  split
  · exact s.draw_run b
  · exact .refl b s

theorem Bay.running_setRunning_same (x : Bay) (u : UnitKind) (r : Option Running) : (x.setRunning u r).running u = r := by
  cases u <;> rfl

theorem Bay.running_setRunning_other (x : Bay) {u v : UnitKind} (r : Option Running) (h : v ≠ u) :
    (x.setRunning u r).running v = x.running v := by
  cases u <;> cases v <;> first | rfl | exact absurd rfl h

theorem Bay.queue_setRunning (x : Bay) (u v : UnitKind) (r : Option Running) : (x.setRunning u r).queue v = x.queue v := by
  cases u <;> rfl

theorem State.runFlags_run (s : State) (b : BayId) (u : UnitKind) (f : BitVec 8) : BayRun b s (s.runFlags b u f) := by
  have hb : (s.runFlags b u f).bay b =
      (s.bay b).setRunning u (((s.bay b).running u).map (fun r => { r with flags := r.flags ||| f })) := State.bay_setBay_same ..
  refine ⟨rfl, fun c hc => State.bay_setBay_other _ _ hc, fun _ _ _ => rfl, fun v => ?_, fun v => ?_⟩
  · rw [hb, Bay.queue_setRunning]
  · rw [hb]
    by_cases hv : v = u
    · rw [hv, Bay.running_setRunning_same, Option.map_map]
      rfl
    · rw [Bay.running_setRunning_other _ _ hv]

/-! ## Matrix jobs -/

theorem State.runBlock_run (s : State) (b : BayId) (j : DotJob) (k : Nat) : BayRun b s (s.runBlock b j k).1 :=
  ((s.wf_run b _ _ _).trans (State.wf_run ..)).trans (State.addf_run ..)

theorem State.runBlocks_run (b : BayId) (j : DotJob) (ks : List Nat) (s : State) : BayRun b s (s.runBlocks b j ks).1 :=
  BayRun.foldl_fst (g := fun acc k =>
    let x := acc.1.runBlock b j k
    (x.1, acc.2.1 ++ x.2.1, acc.2.2 ||| x.2.2)) ks (fun acc k => acc.1.runBlock_run b j k) (s, [], 0)

theorem State.writeResults_run (s : State) (b : BayId) (f : Fmt) (addr : Nat → Nat → Nat) (rs : List (Nat × Nat × Nat)) (undef : Bool) :
    BayRun b s (s.writeResults b f addr rs undef) := by
  refine BayRun.foldl rs (fun s r => ?_) s
  dsimp only
  split
  · exact (s.drawBytes_run b _).trans (State.sramWrite_run ..)
  · exact State.sramWrite_run ..

/-- A job whose tile checks all hold. -/
theorem State.runMatrix_run (s : State) (b : BayId) (j : DotJob) (out : Fmt) (addr : Nat → Nat → Nat) (undef : Bool) :
    BayRun b s (s.runMatrix b j out addr undef none) :=
  (((State.runBlocks_run b j (List.range j.blocks) s).trans (State.writeResults_run ..)).trans (State.flagsOr_run ..)).trans
    (State.runFlags_run ..)

/-! ## Vector, CONVERT and REDUCE -/

theorem State.vecGroup_run (s s0 : State) (b : BayId) (x : VecD) (fa fb fd : Fmt) (rm : RMode) (sat undef : Bool) (j n : Nat) :
    BayRun b s (s.vecGroup s0 b x fa fb fd rm sat undef j n).1 := by
  unfold State.vecGroup
  exact (((s.setVecGen_run b _).trans (State.sramPut_run ..)).trans (State.flagsOr_run ..)).trans (State.vecFlags_run ..)

theorem State.vecGroups_run (s : State) (b : BayId) (x : VecD) (fa fb fd : Fmt) (rm : RMode) (sat undef : Bool) (k : Nat) :
    BayRun b s (s.vecGroups b x fa fb fd rm sat undef k).1 :=
  BayRun.foldl_fst (g := fun acc g =>
    let r := acc.1.vecGroup s b x fa fb fd rm sat undef (256 * g) (min 256 (x.count - 256 * g))
    (r.1, acc.2 ||| r.2)) (List.range k) (fun acc _ => acc.1.vecGroup_run s b x fa fb fd rm sat undef _ _) (s, 0)

theorem State.vecRun_run (s : State) (b : BayId) (d : Desc) (x : VecD) (fa fb fd : Fmt) :
    BayRun b s (s.vecRun b d x fa fb fd quietUnit) :=
  (State.vecGroups_run s b x fa fb fd _ _ _ _).trans (State.runFlags_run ..)

theorem State.convertRun_run (s : State) (b : BayId) (d : Desc) (x : ConvertD) (fs fd : Fmt) :
    BayRun b s (s.convertRun b d x fs fd quietUnit) :=
  ((((s.setDataGen_run b _).trans (State.sramPut_run ..)).trans (State.sramPut_run ..)).trans (State.flagsOr_run ..)).trans
    (State.runFlags_run ..)

theorem State.reduceRun_run (s : State) (b : BayId) (d : Desc) (x : ReduceD) (fs fd : Fmt) :
    BayRun b s (s.reduceRun b d x fs fd quietUnit) :=
  (((s.setDataGen_run b _).trans (State.sramPut_run ..)).trans (State.flagsOr_run ..)).trans (State.runFlags_run ..)

/-! ## ATTN_BLOCK -/

theorem State.attnStates_run (s : State) (b : BayId) (x : AttnD) (rows : List AttnRow) (undef : Bool) :
    BayRun b s (s.attnStates b x rows undef) := State.writeResults_run ..

theorem State.attnOut_run (s : State) (b : BayId) (x : AttnD) (rd : Nat → Byte) (fv out : Fmt) (rm : RMode) (sat : Bool)
    (rows : List AttnRow) (undef : Bool) : BayRun b s (s.attnOut b x rd fv out rm sat rows undef).1 := by
  have hjob := (State.runBlocks_run b (x.pvJob rd fv rm sat rows) (List.range (x.pvJob rd fv rm sat rows).blocks) s).trans
    (State.attnStates_run _ b x rows undef)
  unfold State.attnOut
  dsimp only
  split
  · dsimp only
    exact ((hjob.trans (State.setVecGen_run ..)).trans (State.vecFlags_run ..)).trans (State.writeResults_run ..)
  · dsimp only
    exact hjob.trans (State.writeResults_run ..)

theorem State.attnRun_run (s : State) (b : BayId) (x : AttnD) (fq fk fv out : Fmt) (rm : RMode) (sat : Bool) :
    BayRun b s (s.attnRun b x fq fk fv out rm sat quietUnit) :=
  (((((State.runBlocks_run b _ _ s).trans (State.setVecGen_run ..)).trans (State.vecFlags_run ..)).trans
    (State.attnOut_run ..)).trans (State.flagsOr_run ..)).trans (State.runFlags_run ..)

/-! ## The start of a unit's head -/

/-- The head of a queue starts: it leaves the queue and runs, and nothing else of the bay's SRAM or of other bays changes. -/
theorem State.startHead_bay (s : State) (b : BayId) (u : UnitKind) (q : Queued) : (s.startHead b u q).bay b =
    { ((s.bay b).setQueue u (((s.bay b).queue u).drop 1)).setRunning u (some (newRun s q)) with stall := 0, progress := true } :=
  State.bay_setBay_same ..

theorem State.startHead_bay_other (s : State) {b c : BayId} (u : UnitKind) (q : Queued) (h : c ≠ b) :
    (s.startHead b u q).bay c = s.bay c := State.bay_setBay_other _ _ h

theorem State.startHead_queue (s : State) (b : BayId) (u : UnitKind) (q : Queued) :
    ((s.startHead b u q).bay b).queue u = ((s.bay b).queue u).drop 1 := by
  rw [State.startHead_bay]
  cases u <;> rfl

theorem State.startHead_running (s : State) (b : BayId) (u : UnitKind) (q : Queued) :
    ((s.startHead b u q).bay b).running u = some (newRun s q) := by
  rw [State.startHead_bay]
  cases u <;> rfl

/-- The head of a queue, started and run by what touches its bay alone. -/
theorem State.startHead_runs {s t : State} {b : BayId} {u : UnitKind} {q : Queued} (h : BayRun b (s.startHead b u q) t) :
    t.mem = s.mem ∧ (∀ c, c ≠ b → t.bay c = s.bay c) ∧ (∀ c, c ≠ b → ∀ o < 2 ^ 24, t.sramByte c o = s.sramByte c o) ∧
      (t.bay b).queue u = ((s.bay b).queue u).drop 1 ∧ ((t.bay b).running u).map Running.idx = some q.idx := by
  refine ⟨h.mem.trans rfl, fun c hc => ?_, fun c hc o _ => h.sram c hc o, ?_, ?_⟩
  · rw [h.bays c hc, State.startHead_bay_other _ _ _ hc]
  · rw [h.queue, State.startHead_queue]
  · rw [h.running, State.startHead_running]
    rfl

end Sys2Proof.Machine
end

section
/-!
PROOFS. The descriptors of a unit: which start, what each does where it starts, and how one completes (R106, R107, R113).
-/

namespace Sys2Proof.Machine

/-! ## The rows, where nothing is ready and where a descriptor is -/

section
variable {s : State} {b : BayId} (e : UnitEnv)

theorem exec_matmul_of_ready {q : Queued} (h : s.headReady b .matrix 0x01 = some q) {fa fb out : Fmt}
    (ha : (matmulOf q.d).fa = some fa) (hb : (matmulOf q.d).fb = some fb) (ho : (matmulOf q.d).out = some out) :
    exec (.matmul b e) s = .next (s.matmulRun b q (matmulOf q.d) fa fb out e) := by
  change execMatmul b e s = _
  simp only [execMatmul, h, ha, hb, ho]

theorem exec_conv_of_ready {q : Queued} (h : s.headReady b .matrix 0x03 = some q) {fi fw out : Fmt}
    (hi : (convOf q.d).fin = some fi) (hw : (convOf q.d).fwt = some fw) (ho : (convOf q.d).out = some out) :
    exec (.conv b e) s = .next (s.convRun b q (convOf q.d) fi fw out e) := by
  change execConv b e s = _
  simp only [execConv, h, hi, hw, ho]

theorem exec_vec_of_ready {q : Queued} (h : s.headReady b .vector 0x10 = some q) {fa fb fd : Fmt}
    (ha : (vecOf q.d).fa = some fa) (hb : (vecOf q.d).fb = some fb) (hd : (vecOf q.d).fd = some fd) :
    exec (.vec b e) s = .next ((s.startHead b .vector q).vecRun b q.d (vecOf q.d) fa fb fd e) := by
  change execVec b e s = _
  simp only [execVec, h, ha, hb, hd]

theorem exec_convert_of_ready {q : Queued} (h : s.headReady b .data 0x20 = some q) {fs fd : Fmt}
    (hs : (convertOf q.d).fs = some fs) (hd : (convertOf q.d).fd = some fd) :
    exec (.convert b e) s = .next ((s.startHead b .data q).convertRun b q.d (convertOf q.d) fs fd e) := by
  change execConvert b e s = _
  simp only [execConvert, h, hs, hd]

theorem exec_reduce_of_ready {q : Queued} (h : s.headReady b .data 0x21 = some q) {fs fd : Fmt}
    (hs : (reduceOf q.d).fs = some fs) (hd : (reduceOf q.d).fd = some fd) :
    exec (.reduce b e) s = .next ((s.startHead b .data q).reduceRun b q.d (reduceOf q.d) fs fd e) := by
  change execReduce b e s = _
  simp only [execReduce, h, hs, hd]

theorem exec_vecMicro_of_ready {q : Queued} (h : s.headReady b .vector 0x11 = some q) : exec (.vecMicro b e) s =
    .next (if (s.bay b).slotLoading (dfield q.d 2 3 0) q.idx then s
      else if wbit (s.reg (BAY_SEQ_UPROG b)) (dfield q.d 2 3 0) then (s.startHead b .vector q).vecMicroRun b q.d e
      else s.malformedStop b q.idx q.d) := by
  change execVecMicro b e s = _
  simp only [execVecMicro, h]

theorem exec_load_of_ready {q : Queued} (h : s.headReady b .data 0x22 = some q) : exec (.load b e) s =
    .next (if (moveOf q.d).uprog then s
      else
        let r := State.readRows b e.mem (moveOf q.d).loadRows (s.startHead b .data q)
        r.1.settleRead b r.2) := by
  change execLoad b e s = _
  simp only [execLoad, h]

theorem exec_store_of_ready {q : Queued} (h : s.headReady b .data 0x23 = some q) :
    exec (.store b e) s = .next (s.storeStart b q e) := by
  change execStore b e s = _
  simp only [execStore, h]

theorem exec_select_of_ready {q : Queued} (h : s.headReady b .data 0x24 = some q) :
    exec (.select b e) s = .next ((s.startHead b .data q).selectRun b (selectOf q.d) e) := by
  change execSelect b e s = _
  simp only [execSelect, h]

theorem exec_send_of_ready {q : Queued} (h : s.headReady b .exchange 0x30 = some q) :
    exec (.send b e) s = .next (s.sendStart b q e) := by
  change execSend b e s = _
  simp only [execSend, h]

theorem exec_recv_of_ready {q : Queued} (h : s.headReady b .exchange 0x31 = some q) :
    exec (.recv b) s = .next (s.recvStart b q) := by
  change execRecv b s = _
  simp only [execRecv, h]

/-- No descriptor starts without one that is ready. -/
theorem exec_unitRow_of_none {i : Instr} {u : UnitKind} {type : Nat} (hi : (i, u, type) ∈ unitRows b e)
    (h : s.headReady b u type = none) : exec i s = .next s := by
  simp only [unitRows, List.mem_cons, Prod.mk.injEq, List.not_mem_nil, or_false] at hi
  obtain ⟨rfl, rfl, rfl⟩ | ⟨rfl, rfl, rfl⟩ | ⟨rfl, rfl, rfl⟩ | ⟨rfl, rfl, rfl⟩ | ⟨rfl, rfl, rfl⟩ | ⟨rfl, rfl, rfl⟩ |
    ⟨rfl, rfl, rfl⟩ | ⟨rfl, rfl, rfl⟩ | ⟨rfl, rfl, rfl⟩ | ⟨rfl, rfl, rfl⟩ | ⟨rfl, rfl, rfl⟩ | ⟨rfl, rfl, rfl⟩ := hi
  · change execMatmul b e s = _; rw [execMatmul, h]
  · change execConv b e s = _; rw [execConv, h]
  · change execVec b e s = _; rw [execVec, h]
  · change execVecMicro b e s = _; rw [execVecMicro, h]
  · change execConvert b e s = _; rw [execConvert, h]
  · change execReduce b e s = _; rw [execReduce, h]
  · change execLoad b e s = _; rw [execLoad, h]
  · change execMicroprogramLoad b e s = _; rw [execMicroprogramLoad, h]
  · change execStore b e s = _; rw [execStore, h]
  · change execSelect b e s = _; rw [execSelect, h]
  · change execSend b e s = _; rw [execSend, h]
  · change execRecv b s = _; rw [execRecv, h]

theorem exec_attnBlock_of_none (h : s.headReady b .matrix 0x02 = none ∨ s.headReady b .vector 0x02 = none) :
    exec (.attnBlock b e) s = .next s := by
  change execAttnBlock b e s = _
  unfold execAttnBlock
  rcases h with h | h
  · rw [h]
  · rw [h]
    split
    next heq => exact absurd heq (by simp)
    next => rfl

theorem exec_attnBlock_of_ready {q : Queued} (hm : s.headReady b .matrix 0x02 = some q) (hv : s.headReady b .vector 0x02 = some q) :
    exec (.attnBlock b e) s = .next (s.attnStart b q e) := by
  change execAttnBlock b e s = _
  simp only [execAttnBlock, hm, hv, if_true]

end

/-! ## Descriptors that compute in their bay -/

theorem State.matmulRun_runs {s : State} {b : BayId} {q : Queued} {x : MatmulD} {fa fb out : Fmt}
    (h : x.startBad (s.sramByte b) fb = false) :
    BayRun b (s.startHead b .matrix q) (s.matmulRun b q x fa fb out quietUnit) := by
  have hbad : ¬(x.startBad (s.sramByte b) fb = true) := by simp [h]
  rw [State.matmulRun, if_neg hbad]
  exact State.runMatrix_run ..

theorem State.convRun_runs (s : State) (b : BayId) (q : Queued) (x : ConvD) (fi fw out : Fmt) :
    BayRun b (s.startHead b .matrix q) (s.convRun b q x fi fw out quietUnit) := by
  have hcodes : BayRun b (s.startHead b .matrix q) (if x.sp24 then
      { s.startHead b .matrix q with freeCtr := (s.startHead b .matrix q).freeCtr + x.cout * cdiv x.kk 4 }
      else s.startHead b .matrix q) := by
    split
    · exact .of_eq rfl rfl rfl
    · exact .refl ..
  exact hcodes.trans (State.runMatrix_run ..)

/-- A descriptor that touches nothing but its bay runs there. -/
theorem exec_localRow {s : State} {b : BayId} {q : Queued} {i : Instr} {u : UnitKind} {type : Nat} {ok : Prop}
    (hi : (i, u, type, ok) ∈ localRows s b q) (h : s.headReady b u type = some q) (hok : ok) :
    ∃ t, exec i s = .next t ∧ BayRun b (s.startHead b u q) t := by
  have hsome : ∀ {o : Option Fmt}, o ≠ none → ∃ f, o = some f := Option.ne_none_iff_exists'.1
  simp only [localRows, List.mem_cons, Prod.mk.injEq, List.not_mem_nil, or_false] at hi
  obtain ⟨rfl, rfl, rfl, rfl⟩ | ⟨rfl, rfl, rfl, rfl⟩ | ⟨rfl, rfl, rfl, rfl⟩ | ⟨rfl, rfl, rfl, rfl⟩ | ⟨rfl, rfl, rfl, rfl⟩ := hi
  · obtain ⟨fa, fb, out, ha, hb, ho, hbad⟩ := hok
    exact ⟨_, exec_matmul_of_ready _ h ha hb ho, State.matmulRun_runs hbad⟩
  · obtain ⟨hi, hw, ho⟩ := hok
    obtain ⟨fi, hi⟩ := hsome hi
    obtain ⟨fw, hw⟩ := hsome hw
    obtain ⟨out, ho⟩ := hsome ho
    exact ⟨_, exec_conv_of_ready _ h hi hw ho, State.convRun_runs ..⟩
  · obtain ⟨ha, hb, hd⟩ := hok
    obtain ⟨fa, ha⟩ := hsome ha
    obtain ⟨fb, hb⟩ := hsome hb
    obtain ⟨fd, hd⟩ := hsome hd
    exact ⟨_, exec_vec_of_ready _ h ha hb hd, State.vecRun_run ..⟩
  · obtain ⟨hs, hd⟩ := hok
    obtain ⟨fs, hs⟩ := hsome hs
    obtain ⟨fd, hd⟩ := hsome hd
    exact ⟨_, exec_convert_of_ready _ h hs hd, State.convertRun_run ..⟩
  · obtain ⟨hs, hd⟩ := hok
    obtain ⟨fs, hs⟩ := hsome hs
    obtain ⟨fd, hd⟩ := hsome hd
    exact ⟨_, exec_reduce_of_ready _ h hs hd, State.reduceRun_run ..⟩

/-- ATTN_BLOCK starts in the matrix and the vector unit together. -/
theorem exec_attnBlock_runs {s : State} {b : BayId} {q : Queued} (hm : s.headReady b .matrix 0x02 = some q)
    (hv : s.headReady b .vector 0x02 = some q) (hq : (attnOf q.d).fq ≠ none) (hk : (attnOf q.d).fk ≠ none)
    (hf : (attnOf q.d).fv ≠ none) (ho : (attnOf q.d).out ≠ none) : ∃ t, exec (.attnBlock b quietUnit) s = .next t ∧
      BayRun b ((s.startHead b .matrix q).startHead b .vector q) t := by
  have hsome : ∀ {o : Option Fmt}, o ≠ none → ∃ f, o = some f := Option.ne_none_iff_exists'.1
  obtain ⟨fq, hq⟩ := hsome hq
  obtain ⟨fk, hk⟩ := hsome hk
  obtain ⟨fv, hf⟩ := hsome hf
  obtain ⟨out, ho⟩ := hsome ho
  refine ⟨_, exec_attnBlock_of_ready quietUnit hm hv, ?_⟩
  simp only [State.attnStart, hq, hk, hf, ho]
  exact State.attnRun_run ..

/-! ## Descriptors that move data -/

theorem State.settleRead_done {s : State} {b : BayId} {r : PieceRes} (h : r = .done) : s.settleRead b r = s := by
  rw [h]
  rfl

theorem State.settleRead_bad {s : State} {b : BayId} {r : PieceRes} {x : DataErr} (h : r = .bad x) :
    s.settleRead b r = s.dataError b x := by
  rw [h]
  rfl

theorem exec_load_of_plain {s : State} {b : BayId} (e : UnitEnv) {q : Queued} (h : s.headReady b .data 0x22 = some q)
    (hp : (moveOf q.d).uprog = false) :
    let r := State.readRows b e.mem (moveOf q.d).loadRows (s.startHead b .data q)
    exec (.load b e) s = .next (r.1.settleRead b r.2) := by
  rw [exec_load_of_ready e h, if_neg (by simp [hp])]

theorem exec_load_of_uprog {s : State} {b : BayId} (e : UnitEnv) {q : Queued} (h : s.headReady b .data 0x22 = some q)
    (hp : (moveOf q.d).uprog = true) : exec (.load b e) s = .next s := by
  rw [exec_load_of_ready e h, if_pos hp]

theorem exec_microprogramLoad_of_plain {s : State} {b : BayId} (e : UnitEnv) {q : Queued} (h : s.headReady b .data 0x22 = some q)
    (hp : (moveOf q.d).uprog = false) : exec (.microprogramLoad b e) s = .next s := by
  change execMicroprogramLoad b e s = _
  simp [execMicroprogramLoad, h, hp]

/-- The part of a microprogram that its LOAD reads where it starts. -/
def State.programRead (s : State) (b : BayId) (e : UnitEnv) (q : Queued) : State × PieceRes :=
  let u := s.startHead b .data q
  (u.setBay b { u.bay b with parts := [] }).readRow b e.mem (moveOf q.d).da (moveOf q.d).rowBytes
    { sram := 0, conv := none, uprog := some (moveOf q.d).slot, undef := false }

theorem exec_microprogramLoad_of_uprog {s : State} {b : BayId} (e : UnitEnv) {q : Queued}
    (h : s.headReady b .data 0x22 = some q) (hp : (moveOf q.d).uprog = true) :
    ((s.programRead b e q).2 = .done → exec (.microprogramLoad b e) s = .next ((s.programRead b e q).1.placeProgram b)) ∧
    (∀ x, (s.programRead b e q).2 = .bad x → exec (.microprogramLoad b e) s = .next ((s.programRead b e q).1.dataError b x)) := by
  have hno : ¬((!(moveOf q.d).uprog) = true) := by simp [hp]
  have hexec : exec (.microprogramLoad b e) s = execMicroprogramLoad b e s := rfl
  rw [hexec, execMicroprogramLoad]
  simp only [h, if_neg hno]
  refine ⟨fun hr => ?_, fun x hr => ?_⟩
  · rw [State.programRead] at hr ⊢
    rw [hr]
  · rw [State.programRead] at hr ⊢
    rw [hr]

theorem exec_store_of_readonly {s : State} {b : BayId} (e : UnitEnv) {q : Queued} (h : s.headReady b .data 0x23 = some q)
    (hro : (s.startHead b .data q).storeReadonly (moveOf q.d) = true) :
    exec (.store b e) s = .next ((s.startHead b .data q).dataError b .readonly) := by
  rw [exec_store_of_ready e h, State.storeStart, if_pos hro]

theorem State.sramErrs_nil (s : State) (b : BayId) : s.sramErrs b [] = (s, none) := rfl

theorem exec_store_of_writable {s : State} {b : BayId} (e : UnitEnv) {q : Queued} (h : s.headReady b .data 0x23 = some q)
    (hro : (s.startHead b .data q).storeReadonly (moveOf q.d) = false) (hsram : e.sram = []) :
    let r := State.storeRows b e.mem q.d (moveOf q.d) (moveOf q.d).rows 0 (s.startHead b .data q)
    (r.2 = .done → exec (.store b e) s = .next r.1) ∧ (∀ x, r.2 = .bad x → exec (.store b e) s = .next (r.1.dataError b x)) := by
  have hno : ¬((s.startHead b .data q).storeReadonly (moveOf q.d) = true) := by simp [hro]
  intro r
  rw [exec_store_of_ready e h, State.storeStart, if_neg hno, hsram]
  simp only [State.sramErrs_nil, State.partDone]
  refine ⟨fun hr => ?_, fun x hr => ?_⟩
  · rw [hr]
    rfl
  · rw [hr]

theorem exec_send_of_link {s : State} {b : BayId} (e : UnitEnv) {q : Queued} (h : s.headReady b .exchange 0x30 = some q)
    (hsram : e.sram = []) : exec (.send b e) s = .next (if (xchgOf q.d).link = 255 then
      (s.startHead b .exchange q).sendLocal b (xchgOf q.d) else (s.startHead b .exchange q).sendLink b q (xchgOf q.d)) := by
  rw [exec_send_of_ready e h, State.sendStart, hsram]
  rfl

theorem exec_recv_of_full {s : State} {b : BayId} {q : Queued} (h : s.headReady b .exchange 0x31 = some q)
    (hfull : 64 ≤ (s.bay b).recvs.length) : exec (.recv b) s = .next s := by
  rw [exec_recv_of_ready h, State.recvStart, if_pos hfull]

/-- The buffer that a RECV posts. -/
def State.posting (s : State) (q : Queued) : Posted :=
  { idx := q.idx, d := q.d, link := (xchgOf q.d).link, flow := (xchgOf q.d).flow, dst := (xchgOf q.d).addr, len := (xchgOf q.d).len,
    got := 0, startFrame := s.frame }

/-- RECV posts its buffer where nothing has arrived. -/
theorem exec_recv_of_room {s : State} {b : BayId} {q : Queued} (h : s.headReady b .exchange 0x31 = some q)
    (hroom : (s.bay b).recvs.length < 64) (harr : (s.bay b).arrived = []) :
    exec (.recv b) s = .next (s.setBay b { s.bay b with
      qXchg := (s.bay b).qXchg.drop 1, recvs := (s.bay b).recvs ++ [s.posting q], stall := 0, progress := true }) := by
  rw [exec_recv_of_ready h, State.recvStart, if_neg (by omega)]
  simp only [State.bay_setBay_same, harr, List.length_nil, State.drainArrived]
  rfl

/-! ## Completion -/

theorem exec_descriptorComplete (b : BayId) (u : UnitKind) (cycles : Nat) (s : State) :
    exec (.descriptorComplete b u cycles) s = .next (s.completeUnit b u cycles) := rfl

theorem State.completeUnit_idle {s : State} {b : BayId} {u : UnitKind} (cycles : Nat) (h : (s.bay b).running u = none)
    (hu : u ≠ .exchange) : s.completeUnit b u cycles = s.settleControl b := by
  cases u with
  | matrix => simp only [State.completeUnit, State.completeMatrix, show (s.bay b).rMat = none from h]
  | vector => simp only [State.completeUnit, State.completeVector, show (s.bay b).rVec = none from h]
  | data => simp only [State.completeUnit, State.completeData, show (s.bay b).rData = none from h]
  | exchange => exact absurd rfl hu

theorem State.completeUnit_compute {s : State} {b : BayId} {u : UnitKind} (cycles : Nat) {r : Running}
    (h : (s.bay b).running u = some r) (hu : u = .vector ∨ u = .matrix) (hd : dtype r.d ≠ 2) :
    s.completeUnit b u cycles = ((s.setBay b ((s.bay b).setRunning u none)).complete b r cycles).settleControl b := by
  obtain rfl | rfl := hu
  · simp only [State.completeUnit, State.completeVector, show (s.bay b).rVec = some r from h, if_neg hd]
    rfl
  · simp only [State.completeUnit, State.completeMatrix, show (s.bay b).rMat = some r from h, if_neg hd]
    rfl

theorem State.completeUnit_data {s : State} {b : BayId} (cycles : Nat) {r : Running} (h : (s.bay b).running .data = some r) :
    s.completeUnit b .data cycles = (if r.waiting = 0 then (s.setBay b ((s.bay b).setRunning .data none)).complete b r cycles
      else s).settleControl b := by
  simp only [State.completeUnit, State.completeData, show (s.bay b).rData = some r from h]
  rfl

/-- Settles O44: each row by what it does where its descriptor is ready, and a completion by the unit's kind. -/
theorem unitDescriptorsStartAndComplete : Obligations.UnitDescriptorsStartAndComplete := by
  unfold Obligations.UnitDescriptorsStartAndComplete
  intro b e s
  refine ⟨fun i u type hi h => exec_unitRow_of_none e hi h, exec_attnBlock_of_none e, fun q i u type ok hi h hok => ?_,
    fun q hm hv hq hk hf ho => ?_, fun q h hload => ⟨fun hslot => ?_, fun hslot => ?_⟩,
    fun q h => ⟨fun hp => ⟨exec_microprogramLoad_of_plain e h hp, fun hr => ?_, fun x hr => ?_⟩,
      fun hp => ⟨exec_load_of_uprog e h hp, exec_microprogramLoad_of_uprog e h hp⟩⟩,
    fun q h => ⟨exec_store_of_readonly e h, exec_store_of_writable e h⟩, fun q h => exec_select_of_ready e h,
    fun q h hsram => ⟨fun hl => ?_, fun hl => ?_⟩, fun q h => ⟨exec_recv_of_full h, fun hroom harr => ?_⟩,
    fun u cycles => ⟨fun h hu => ?_, fun r h hu hd => ?_, fun r h hu => ?_⟩⟩
  · obtain ⟨t, ht, hrun⟩ := exec_localRow hi h hok
    exact ⟨t, ht, State.startHead_runs hrun⟩
  · obtain ⟨t, ht, hrun⟩ := exec_attnBlock_runs hm hv hq hk hf ho
    obtain ⟨hmem, -, -, hqv, hrv⟩ := State.startHead_runs hrun
    have hbay : ((s.startHead b .matrix q).startHead b .vector q).bay b = _ := State.startHead_bay ..
    refine ⟨t, ht, hmem, (hrun.queue .matrix).trans ?_, hqv.trans ?_, (hrun.running .matrix).trans ?_, hrv⟩
    · rw [hbay, State.startHead_bay]
      rfl
    · rw [State.startHead_bay]
      rfl
    · rw [hbay, State.startHead_bay]
      rfl
  · rw [exec_vecMicro_of_ready e h, if_neg (by simp [hload]), if_pos hslot]
  · rw [exec_vecMicro_of_ready e h, if_neg (by simp [hload]), if_neg (by simp [hslot])]
  · exact (exec_load_of_plain e h hp).trans (congrArg _ (State.settleRead_done hr))
  · exact (exec_load_of_plain e h hp).trans (congrArg _ (State.settleRead_bad hr))
  · rw [exec_send_of_link e h hsram, if_pos hl]
  · rw [exec_send_of_link e h hsram, if_neg hl]
  · exact ⟨_, exec_recv_of_room h hroom harr, congrArg Bay.recvs (State.bay_setBay_same ..),
      congrArg Bay.qXchg (State.bay_setBay_same ..), fun _ => rfl, .of_eq rfl rfl rfl rfl⟩
  · rw [exec_descriptorComplete, State.completeUnit_idle cycles h hu]
  · rw [exec_descriptorComplete, State.completeUnit_compute cycles h hu hd]
  · subst hu
    rw [exec_descriptorComplete, State.completeUnit_data cycles h]

end Sys2Proof.Machine
end

section
/-!
PROOFS. VEC on FP32 buffers (R139): one group reads its sources, computes lane by lane and stores the results.
-/

namespace Sys2Proof.Machine

/-- The operands of element j of a VEC on FP32 buffers that takes no scalar. -/
def State.vecOperands (s : State) (b : BayId) (x : VecD) (j : Nat) : W32 × W32 × W32 :=
  (s.elem32 b x.a j, if microUsesB x.op then s.elem32 b x.b j else 0, if microUsesC x.op then s.elem32 b x.c j else 0)

theorem State.vecSource_fp32 (s : State) (b : BayId) (a n : Nat) :
    s.vecSource b .fp32 a 0 n = (List.range n).map (fun j => s.elem32 b a j) := by
  simp [State.vecSource, State.bufElem, State.elem32, widenElem]

/-- A source that the micro-op does not use reads as zeros. -/
theorem ite_source (use : Bool) (f : Nat → W32) (n : Nat) :
    (if use then (List.range n).map f else List.replicate n 0) = (List.range n).map (fun j => if use then f j else 0) := by
  cases use <;> simp

/-- The sources of a group of a VEC. -/
theorem State.vecSources_fp32 (s : State) (b : BayId) (x : VecD) (n : Nat) :
    (s.vecSource b .fp32 x.a 0 n).zip
      ((if microUsesB x.op then s.vecSource b .fp32 x.b 0 n else List.replicate n 0).zip
        (if microUsesC x.op then s.vecSource b .fp32 x.c 0 n else List.replicate n 0)) =
      (List.range n).map (s.vecOperands b x) := by
  simp only [State.vecSource_fp32, ite_source, List.zip_map']
  rfl

/-- The results of a VEC on FP32 buffers: its lanes, in a mode that draws nothing. -/
def State.vecResults (s : State) (b : BayId) (x : VecD) (rm : RMode) (sat : Bool) (n : Nat) : List W32 :=
  (laneOps x.op rm sat ((List.range n).map (s.vecOperands b x)) (s.vecGen b)).1

theorem State.vecResults_length (s : State) (b : BayId) (x : VecD) (rm : RMode) (sat : Bool) (n : Nat) :
    (s.vecResults b x rm sat n).length = n := by
  rw [State.vecResults, (laneOps_lanes _ _ _ _ _).1, List.length_map, List.length_range]

theorem State.vecResults_getD (s : State) (b : BayId) (x : VecD) {rm : RMode} (hrm : rm ≠ .sr) (sat : Bool) {n j : Nat} (hj : j < n) :
    (s.vecResults b x rm sat n).getD j 0 = (laneOp x.op { rm := rm, sat := sat, u := 0 } (s.vecOperands b x j).1
      (s.vecOperands b x j).2.1 (s.vecOperands b x j).2.2).1 := by
  obtain ⟨-, u, hu, hlanes⟩ := laneOps_lanes x.op rm sat ((List.range n).map (s.vecOperands b x)) (s.vecGen b)
  have hlane := (hlanes j (by simpa using hj) (s.vecOperands b x j) (by simp [hj])).1
  rw [(hu hrm).1] at hlane
  exact hlane

/-- What the one group of a VEC on FP32 buffers leaves in SRAM. -/
theorem State.vecGroup_sram (s : State) (b : BayId) (x : VecD) (rm : RMode) (sat : Bool) (n : Nat) (hs : x.scalar = false) :
    ∃ g, ∀ c o, (s.vecGroup s b x .fp32 .fp32 .fp32 rm sat false 0 n).1.sramByte c o =
      ((s.setVecGen b g).sramWrite b x.dst (packElems .fp32 ((s.vecResults b x rm sat n).map BitVec.toNat))).sramByte c o := by
  simp only [State.vecGroup, hs, Bool.false_eq_true, if_false, State.vecSources_fp32]
  exact ⟨_, fun _ _ => rfl⟩

/-- A VEC of one group with nothing amiss: its bytes are those of the group. -/
theorem State.vecRun_sram (s : State) (b : BayId) (d : Desc) (x : VecD) (hc : 0 < x.count) (hc' : x.count ≤ 256) (c : BayId) (o : Nat) :
    (s.vecRun b d x .fp32 .fp32 .fp32 quietUnit).sramByte c o =
      (s.vecGroup s b x .fp32 .fp32 .fp32 (dRmode d) (dSat d) (x.undef .fp32 .fp32 .fp32) 0 x.count).1.sramByte c o := by
  have hn : cdiv x.count 256 = 1 := by
    unfold cdiv
    omega
  have hm : min 256 (x.count - 256 * 0) = x.count := by omega
  have hrun : s.vecRun b d x .fp32 .fp32 .fp32 quietUnit =
      (s.vecGroups b x .fp32 .fp32 .fp32 (dRmode d) (dSat d) (x.undef .fp32 .fp32 .fp32) (cdiv x.count 256)).1.runFlags b .vector
        (s.vecGroups b x .fp32 .fp32 .fp32 (dRmode d) (dSat d) (x.undef .fp32 .fp32 .fp32) (cdiv x.count 256)).2 := rfl
  have hgroups : (s.vecGroups b x .fp32 .fp32 .fp32 (dRmode d) (dSat d) (x.undef .fp32 .fp32 .fp32) 1).1 =
      (s.vecGroup s b x .fp32 .fp32 .fp32 (dRmode d) (dSat d) (x.undef .fp32 .fp32 .fp32) 0 (min 256 (x.count - 256 * 0))).1 := rfl
  rw [hrun, hn]
  change State.sramByte (State.vecGroups _ _ _ _ _ _ _ _ _ _).1 c o = _
  rw [hgroups, hm]

theorem State.elem32_startHead (s : State) (b : BayId) (u : UnitKind) (q : Queued) (a j : Nat) :
    (s.startHead b u q).elem32 b a j = s.elem32 b a j := rfl

/-- Settles O45: the group's results are packed at the destination, byte by byte, and its lanes are the micro-op's. -/
theorem vecComputesEveryElement : Obligations.VecComputesEveryElement := by
  unfold Obligations.VecComputesEveryElement
  intro b q s x hready ha hb hd hscalar hpos hcount hfit hundef hrm
  let u := s.startHead b .vector q
  have hrun := State.vecRun_run u b q.d x .fp32 .fp32 .fp32
  obtain ⟨hmem, -, -, -, hrv⟩ := State.startHead_runs hrun
  obtain ⟨g, hgroup⟩ := State.vecGroup_sram u b x (dRmode q.d) (dSat q.d) x.count hscalar
  let bs := packElems .fp32 ((u.vecResults b x (dRmode q.d) (dSat q.d) x.count).map BitVec.toNat)
  have hlen : bs.length = 4 * x.count := by rw [packElems_fp32_length, List.length_map, State.vecResults_length]
  have hbytes : ∀ c o, (u.vecRun b q.d x .fp32 .fp32 .fp32 quietUnit).sramByte c o =
      ((u.setVecGen b g).sramWrite b x.dst bs).sramByte c o := fun c o => by
    rw [State.vecRun_sram u b q.d x hpos hcount, hundef, hgroup]
  refine ⟨_, exec_vec_of_ready quietUnit hready ha hb hd, fun j hj => ?_, fun c o ho hout => ?_, hmem, hrv⟩
  · refine elemAt_fp32_of_bytes fun i hi => ?_
    rw [hbytes, Nat.add_assoc, State.sramByte_sramWrite_in bs _ _ _ (by omega) (by omega),
      packElems_fp32_getD _ (by rw [List.length_map, State.vecResults_length]; exact hj) hi,
      show (0 : Nat) = BitVec.toNat (0 : W32) from rfl, List.getD_map, State.vecResults_getD u b x hrm _ hj]
    rfl
  · rw [hbytes, State.sramByte_sramWrite_other ho bs _ _ (by omega) (by rw [hlen]; exact hout)]
    rfl

end Sys2Proof.Machine
end

section
/-!
PROOFS. Control descriptors (R125 to R129): dispatch at the front of a bay, the wait, and what each kind does as it completes.
-/

namespace Sys2Proof.Machine

/-- The rows of the control descriptors. -/
theorem exec_controlRow {b : BayId} {i : Instr} {type : Nat} (h : (i, type) ∈ ([(.nop b, 0x00), (.signal b, 0x40),
    (.waitEvent b, 0x41), (.fence b, 0x42), (.frameMark b, 0x43)] : List (Instr × Nat))) (s : State) :
    exec i s = .next (s.controlRow b type) ∧ isControl type = true := by
  simp only [List.mem_cons, Prod.mk.injEq, List.not_mem_nil, or_false] at h
  obtain ⟨rfl, rfl⟩ | ⟨rfl, rfl⟩ | ⟨rfl, rfl⟩ | ⟨rfl, rfl⟩ | ⟨rfl, rfl⟩ := h
  · exact ⟨rfl, rfl⟩
  · exact ⟨rfl, rfl⟩
  · exact ⟨rfl, rfl⟩
  · exact ⟨rfl, rfl⟩
  · exact ⟨rfl, rfl⟩

section
variable {s : State} {b : BayId} {idx : Nat} {d : Desc} {rest : List (Nat × Desc)}

/-- A row of another type than the front descriptor's does nothing. -/
theorem State.controlRow_other {type : Nat} (hc : (s.bay b).control = none)
    (h : ∀ p ∈ (s.bay b).prefetch.head?, dtype p.2 ≠ type) : s.controlRow b type = s := by
  simp only [State.controlRow, hc]
  cases hp : (s.bay b).prefetch with
  | nil => rfl
  | cons p rest => exact if_neg (h p (by simp [hp]))

/-- A row of the front descriptor's type dispatches it. -/
theorem State.controlRow_front (hp : (s.bay b).prefetch = (idx, d) :: rest) (hc : (s.bay b).control = none) :
    s.controlRow b (dtype d) = s.dispatchFront b := by
  simp only [State.controlRow, hc, hp, if_true]

theorem State.dispatchFront_control (hp : (s.bay b).prefetch = (idx, d) :: rest) (hc : (s.bay b).control = none)
    (hd : isControl (dtype d) = true) (hm : s.malformed d = false) :
    s.dispatchFront b = if s.seqRuns b = true then s.dispatchControl b idx d else s := by
  simp only [State.dispatchFront, hp, hc, hm, hd, Option.isSome_none, Bool.or_false, Bool.false_eq_true, if_false, if_true]
  cases s.seqRuns b <;> rfl

/-- The front descriptor, dispatched. -/
def State.controlStarted (s : State) (b : BayId) (idx : Nat) (d : Desc) (rest : List (Nat × Desc)) : State :=
  (s.wf (BAY_SEQ_POS b) BAY_SEQ_POS_INDEX (idx + 1)).setBay b
    { s.bay b with prefetch := rest, control := some (newRun s { idx := idx, d := d, slip := 0 }), ctlFrames := 0, progress := true }

theorem State.frame_wf {a : Nat} (f : Field) (n : Nat) (h : STR_FRAME ≠ a) : (s.wf a f n).frame = s.frame :=
  State.rf_wf_other _ _ _ _ h

theorem newRun_seqPos (n : Nat) (q : Queued) : newRun (s.wf (BAY_SEQ_POS b) BAY_SEQ_POS_INDEX n) q = newRun s q := by
  have hne : STR_FRAME ≠ BAY_SEQ_POS b := by
    unfold STR_FRAME BAY_SEQ_POS bayBase csmBase
    omega
  rw [newRun, newRun, State.frame_wf _ _ hne]

theorem State.dispatchControl_starts (hp : (s.bay b).prefetch = (idx, d) :: rest) (hs : s.startBegun b d = true)
    (hw : s.waitMet b d = true) : s.dispatchControl b idx d = (s.controlStarted b idx d rest).settleControl b := by
  have hrest : (s.bay b).prefetch.drop 1 = rest := by rw [hp, List.drop_one, List.tail_cons]
  rw [State.dispatchControl, if_pos ⟨hs, hw⟩]
  simp only [hrest, newRun_seqPos]
  rfl

theorem State.dispatchControl_waits (h : s.startBegun b d = false ∨ s.waitMet b d = false) : s.dispatchControl b idx d = s := by
  refine if_neg fun ⟨hs, hw⟩ => ?_
  rcases h with h | h
  · exact absurd (h.symm.trans hs) (by decide)
  · exact absurd (h.symm.trans hw) (by decide)

/-- A bay whose control descriptor waits no more. -/
def State.controlFreed (s : State) (b : BayId) : State := s.setBay b { s.bay b with control := none, ctlFrames := 0 }

/-- The waiting control descriptor with its effect, once its condition holds. -/
def State.controlDone (s : State) (b : BayId) (d : Desc) : State := (s.controlFreed b).controlEffect b d

theorem State.settleControl_waits {r : Running} (hc : (s.bay b).control = some r) (h : s.controlMet b r.d = false) :
    s.settleControl b = s := by
  simp only [State.settleControl, hc, h, Bool.false_eq_true, if_false]

theorem State.settleControl_completes {r : Running} (hc : (s.bay b).control = some r) (h : s.controlMet b r.d = true) :
    s.settleControl b = (s.controlDone b r.d).draw.2.complete b r ((s.controlDone b r.d).draw.1.toNat % 2 ^ 16) := by
  simp only [State.settleControl, hc, h, if_true]
  rfl

/-! ## Effects -/

/-- NOP, WAIT_EVENT and FENCE have no effect beside their completion. -/
theorem State.controlEffect_none (h : dtype d ≠ 0x43) (h' : dtype d ≠ 0x40) : s.controlEffect b d = s := by
  rw [State.controlEffect, if_neg h, if_neg h']

/-- SIGNAL to its own bay counts an event, where the bay is in service. -/
theorem State.controlEffect_signal (h : dtype d = 0x40) (hown : dfield d 2 13 13 = 1) (hf : s.isFenced (locBay b) = false)
    (hpow : s.rf (BAY_STATUS b) BAY_STATUS_POWER = 2) :
    s.controlEffect b d = s.bumpEvt b (dfield d 2 12 8) (dfield d 2 31 16) := by
  rw [State.controlEffect, if_neg (by rw [h]; decide), if_pos h, if_pos hown]
  exact if_neg (by simp [hf, hpow])

theorem State.evt_bumpEvt (e n : Nat) : (s.bumpEvt b e n).evt b e = (s.evt b e + n) % 2 ^ 16 := by
  rw [State.evt, State.bumpEvt, State.addf, State.rf_wf_same _ _ _ _ (by simp only [evtField]; omega)]
  rfl

theorem State.controlFreed_reg (s : State) (b : BayId) (a : Nat) : (s.controlFreed b).reg a = s.reg a := rfl

theorem State.controlFreed_isFenced (s : State) (b : BayId) (l : Nat) : (s.controlFreed b).isFenced l = s.isFenced l := rfl

theorem State.setBay_bytes (s : State) (b : BayId) (x : Bay) : BytesKept s (s.setBay b x) := .of_eq rfl rfl rfl rfl

theorem State.controlFreed_bytes (s : State) (b : BayId) : BytesKept s (s.controlFreed b) := State.setBay_bytes _ _ _

theorem State.controlFreed_control (s : State) (b : BayId) : ((s.controlFreed b).bay b).control = none := by
  rw [State.controlFreed, State.bay_setBay_same]

theorem State.controlStarted_isFenced (l : Nat) : (s.controlStarted b idx d rest).isFenced l = s.isFenced l := rfl

theorem State.controlStarted_bay : (s.controlStarted b idx d rest).bay b =
    { s.bay b with prefetch := rest, control := some (newRun s { idx := idx, d := d, slip := 0 }), ctlFrames := 0, progress := true } :=
  State.bay_setBay_same ..

theorem State.controlStarted_reg {a : Nat} (h : a ≠ BAY_SEQ_POS b) : (s.controlStarted b idx d rest).reg a = s.reg a := by
  rw [State.controlStarted, State.reg_setBay, State.reg_wf_other _ _ _ h]

theorem State.controlStarted_bytes : BytesKept s (s.controlStarted b idx d rest) :=
  (State.wf_bytes s _ _ _).trans (State.setBay_bytes _ b _)

theorem State.controlDone_quiet (h : dtype d = 0x00 ∨ dtype d = 0x41 ∨ dtype d = 0x42) :
    let v := (s.controlStarted b idx d rest).controlDone b d
    (v.bay b).control = none ∧ BytesKept s v ∧ ∀ a, a ≠ BAY_SEQ_POS b → v.reg a = s.reg a := by
  have hnone : dtype d ≠ 0x43 ∧ dtype d ≠ 0x40 := by omega
  intro v
  have hv : v = (s.controlStarted b idx d rest).controlFreed b := State.controlEffect_none hnone.1 hnone.2
  rw [hv]
  refine ⟨State.controlFreed_control .., State.controlStarted_bytes.trans (State.controlFreed_bytes _ _), fun a ha => ?_⟩
  rw [State.controlFreed_reg, State.controlStarted_reg ha]

theorem State.controlDone_signal (h : dtype d = 0x40) (hown : dfield d 2 13 13 = 1) (hf : s.isFenced (locBay b) = false)
    (hpow : s.rf (BAY_STATUS b) BAY_STATUS_POWER = 2) : ((s.controlStarted b idx d rest).controlDone b d).evt b (dfield d 2 12 8) =
      (s.evt b (dfield d 2 12 8) + dfield d 2 31 16) % 2 ^ 16 := by
  have hst : BAY_STATUS b ≠ BAY_SEQ_POS b := by
    unfold BAY_STATUS BAY_SEQ_POS
    omega
  have hev : ∀ e, BAY_SEQ_EVT b e ≠ BAY_SEQ_POS b := fun e => by
    unfold BAY_SEQ_EVT BAY_SEQ_POS
    omega
  let u := (s.controlStarted b idx d rest).controlFreed b
  have hreg : ∀ a, a ≠ BAY_SEQ_POS b → ∀ f, u.rf a f = s.rf a f := fun a ha f => by
    rw [State.rf, State.rf, State.controlFreed_reg, State.controlStarted_reg ha]
  have hfence : u.isFenced (locBay b) = false := by rw [State.controlFreed_isFenced, State.controlStarted_isFenced, hf]
  rw [State.controlDone, State.controlEffect_signal (s := u) h hown hfence ((hreg _ hst _).trans hpow), State.evt_bumpEvt,
    State.evt, hreg _ (hev _), State.evt]

end

/-- Settles O43: dispatch, then the wait by the descriptor's condition, then the effect of its kind. -/
theorem controlDescriptorsWaitAndComplete : Obligations.ControlDescriptorsWaitAndComplete := by
  unfold Obligations.ControlDescriptorsWaitAndComplete
  intro b i type s hi
  obtain ⟨hexec, hcontrol⟩ := exec_controlRow hi s
  refine ⟨fun idx d rest hp hc hd hruns hm hs hw => ?_, fun idx d rest hp hc hd hm hno => ?_, fun hc hne => ?_⟩
  · subst hd
    have hrow : exec i s = .next ((s.controlStarted b idx d rest).settleControl b) := by
      rw [hexec, State.controlRow_front hp hc, State.dispatchFront_control hp hc hcontrol hm, if_pos hruns,
        State.dispatchControl_starts hp hs hw]
    have hctl : ((s.controlStarted b idx d rest).bay b).control = some (newRun s { idx := idx, d := d, slip := 0 }) :=
      congrArg Bay.control State.controlStarted_bay
    refine ⟨fun h => ?_, fun h => ?_, fun ht => ?_, fun ht hown hf hpow => ?_⟩
    · exact hrow.trans (congrArg _ (State.settleControl_waits hctl h))
    · exact hrow.trans (congrArg _ (State.settleControl_completes hctl h))
    · exact State.controlDone_quiet ht
    · exact State.controlDone_signal ht hown hf hpow
  · subst hd
    rw [hexec, State.controlRow_front hp hc, State.dispatchFront_control hp hc hcontrol hm, State.dispatchControl_waits hno, ite_self]
  · rw [hexec, State.controlRow_other hc hne]

end Sys2Proof.Machine
end

section
/-!
PROOFS. The fibre array's contact, mesh elements in FAULT, and fade measurements that cross nothing (R244, R266, R286).
-/

namespace Sys2Proof.Machine

/-! ## Casement records -/

@[simp] theorem State.csm_setCsm_same (s : State) (c : Nat) (x : CsmSt) : (s.setCsm c x).csm c = x := sparseGet_set_same ..

@[simp] theorem State.reg_setCsm (s : State) (c : Nat) (x : CsmSt) (a : Nat) : (s.setCsm c x).reg a = s.reg a := rfl

@[simp] theorem State.rf_setCsm (s : State) (c : Nat) (x : CsmSt) (a : Nat) (f : Field) : (s.setCsm c x).rf a f = s.rf a f := rfl

theorem State.setCsm_bytes (s : State) (c : Nat) (x : CsmSt) : BytesKept s (s.setCsm c x) := .of_eq rfl rfl rfl rfl

theorem csmFa_ne_csmStatus (c : Nat) : CSM_FA c ≠ CSM_STATUS c := by
  unfold CSM_FA CSM_STATUS
  omega

/-! ## The contact -/

theorem exec_faPresenceOpen (c : Casement) (s : State) : exec (.faPresenceOpen c) s =
    .next (if s.mode = .off then s else s.faOpen c.val) := rfl

theorem exec_faPresenceStable (c : Casement) (s : State) : exec (.faPresenceStable c) s = .next (if s.mode = .off then s else
    ((s.wf (CSM_FA c.val) CSM_FA_PRESENT 1).wf (CSM_STATUS c.val) CSM_STATUS_FA_PRESENT 1).setCsm c.val
      { s.csm c.val with faStable := true }) := rfl

theorem exec_meshFault (c : Casement) (rx : Bool) (m : Fin 232) (s : State) :
    exec (.meshFault c rx m) s = .next (s.meshFail c.val rx m.val) := rfl

/-- The contact of a Casement's array as its registers and its record show it. -/
def State.contact (s : State) (c v : Nat) (x : CsmSt) : State :=
  ((s.wf (CSM_FA c) CSM_FA_PRESENT v).wf (CSM_STATUS c) CSM_STATUS_FA_PRESENT v).setCsm c x

theorem State.exec_faPresenceStable_on {c : Casement} {s : State} (h : s.mode ≠ .off) :
    exec (.faPresenceStable c) s = .next (s.contact c.val 1 { s.csm c.val with faStable := true }) := by
  rw [exec_faPresenceStable, if_neg h]
  rfl

theorem State.contact_links (s : State) (c v : Nat) (x : CsmSt) : (s.contact c v x).links = s.links := rfl

theorem State.contact_bytes (s : State) (c v : Nat) (x : CsmSt) : BytesKept s (s.contact c v x) := .of_eq rfl rfl rfl rfl

theorem State.contact_fa (s : State) (c v : Nat) (x : CsmSt) (f : Field) :
    (s.contact c v x).rf (CSM_FA c) f = (s.wf (CSM_FA c) CSM_FA_PRESENT v).rf (CSM_FA c) f := by
  rw [State.contact, State.rf_setCsm, State.rf_wf_other _ _ _ _ (csmFa_ne_csmStatus c)]

theorem State.contact_present (s : State) (c v : Nat) (x : CsmSt) :
    (s.contact c v x).rf (CSM_FA c) CSM_FA_PRESENT = v % 2 := by
  rw [State.contact_fa, State.rf_wf_same _ _ _ _ (by decide)]
  rfl

theorem State.contact_field (s : State) (c v : Nat) (x : CsmSt) {f : Field} (hf : f.lo + f.width ≤ 64) (h : fieldsApart CSM_FA_PRESENT f) :
    (s.contact c v x).rf (CSM_FA c) f = s.rf (CSM_FA c) f := by
  rw [State.contact_fa, State.rf_wf_field _ _ _ _ _ hf h]

theorem State.contact_status (s : State) (c v : Nat) (x : CsmSt) :
    (s.contact c v x).rf (CSM_STATUS c) CSM_STATUS_FA_PRESENT = v % 2 := by
  rw [State.contact, State.rf_setCsm, State.rf_wf_same _ _ _ _ (by decide)]
  rfl

theorem State.contact_csm (s : State) (c v : Nat) (x : CsmSt) : (s.contact c v x).csm c = x := State.csm_setCsm_same ..

/-- An opening of a dark array is only noted. -/
theorem State.faOpen_dark {s : State} {c : Nat} (h : s.rf (CSM_FA c) CSM_FA_DARK = 1) :
    s.faOpen c = s.contact c 0 { s.csm c with faStable := false } := by
  have hdark : (s.contact c 0 { s.csm c with faStable := false }).rf (CSM_FA c) CSM_FA_DARK = 1 := by
    rw [State.contact_field _ _ _ _ (by decide) (by decide), h]
  exact if_pos hdark

theorem State.meshFail_again {s : State} {c m : Nat} {rx : Bool}
    (h : s.rf (if rx then TUN_RXMESH c m else TUN_TXMESH c m) TUN_TXMESH_STATE = 3) : s.meshFail c rx m = s := if_pos h

/-! ## Fade -/

theorem lsrGrid_ne_lsrCfg (c n : Nat) : LSR_CFG c ≠ LSR_GRID c n := by
  unfold LSR_CFG LSR_GRID
  omega

theorem lsrGrid_inj {c n k : Nat} (h : n ≠ k) : LSR_GRID c k ≠ LSR_GRID c n := by
  unfold LSR_GRID
  omega

theorem lsrCarrier_ne_lsrGrid (c i : Nat) {n : Nat} (h : n < 18) : LSR_CARRIER c i ≠ LSR_GRID c n := by
  unfold LSR_CARRIER LSR_GRID
  omega

/-- A reading of the output o and the bias b with a FADE of 0, noted in the registers of a grid laser. -/
def State.gridNoted (s : State) (c n : Nat) (x : CsmSt) (o b : Nat) : State :=
  (s.setCsm c x).wfs (LSR_GRID c n) [(LSR_GRID_FADE, 0), (LSR_GRID_OUT_PWR, o), (LSR_GRID_BIAS, b)]

theorem State.gridNoted_other (s : State) (c n : Nat) (x : CsmSt) (o b : Nat) {a : Nat} (h : a ≠ LSR_GRID c n) :
    (s.gridNoted c n x o b).reg a = s.reg a := State.reg_wfs_other _ _ h

theorem State.gridNoted_bytes (s : State) (c n : Nat) (x : CsmSt) (o b : Nat) : BytesKept s (s.gridNoted c n x o b) :=
  (State.setCsm_bytes s c x).trans (.of_eq rfl rfl rfl rfl)

theorem State.gridNoted_outPwr (s : State) (c n : Nat) (x : CsmSt) (o b : Nat) :
    (s.gridNoted c n x o b).rf (LSR_GRID c n) LSR_GRID_OUT_PWR = o % 2 ^ 16 := by
  rw [State.gridNoted, State.rf_wfs_same]
  simp (disch := decide) only [List.foldl, getField_putField_same, getField_putField_other]
  rfl

theorem State.gridNoted_bias (s : State) (c n : Nat) (x : CsmSt) (o b : Nat) :
    (s.gridNoted c n x o b).rf (LSR_GRID c n) LSR_GRID_BIAS = b % 2 ^ LSR_GRID_BIAS.width := by
  rw [State.gridNoted, State.rf_wfs_same]
  simp (disch := decide) only [List.foldl, getField_putField_same]

theorem State.gridNoted_fade (s : State) (c n : Nat) (x : CsmSt) (o b : Nat) :
    (s.gridNoted c n x o b).rfs (LSR_GRID c n) LSR_GRID_FADE = 0 := by
  have hfade : (s.gridNoted c n x o b).rf (LSR_GRID c n) LSR_GRID_FADE = 0 := by
    rw [State.gridNoted, State.rf_wfs_same]
    simp (disch := decide) only [List.foldl, getField_putField_same, getField_putField_other]
    rfl
  rw [State.rfs, getSigned, show getField _ _ = 0 from hfade]
  rfl

/-- A reading of a grid laser below its limit that serves its own channel. -/
theorem State.noteReading_grid {s : State} {c : Nat} {r : LaserReading} (hn : r.laser.val < 18) (hlim : r.atLimit = false)
    (hlit : s.chanLit c r.laser.val = true) (hserv : s.serving c r.laser.val = r.laser.val) : s.noteReading c r =
      s.gridNoted c r.laser.val { s.csm c with atLimit := (s.csm c).atLimit.filter (fun y => y != r.laser.val) ++ [] }
        (toCode 16 r.output) r.bias := by
  have hfade : s.fadeOf c r = (0, s) := by simp [State.fadeOf, hlim]
  have hlit' : ∀ x, (s.setCsm c x).chanLit c r.laser.val = true := fun _ => hlit
  have hserv' : ∀ x, (s.setCsm c x).serving c r.laser.val = r.laser.val := fun _ => hserv
  simp only [State.noteReading, hfade, hlim, if_pos hn, hlit', hserv', BEq.rfl, Bool.and_self, if_true, Bool.false_eq_true, if_false,
    State.gridNoted]
  rfl

theorem State.fadeLimits_congr {s t : State} {c : Nat} (h : t.reg (LSR_CFG c) = s.reg (LSR_CFG c)) :
    t.fadeLimits c = s.fadeLimits c := by
  simp only [State.fadeLimits, State.rfs, h]

/-- Nothing is crossed at a FADE of 0 with limits below it, nor where FADE is what it was. -/
theorem State.crossed_nil {s : State} {c k : Nat} {fade : Int} {old : List Int} (hold : s.fadeLimits c = old)
    (h : s.rfs (LSR_GRID c k) LSR_GRID_FADE = fade ∨
      (s.rfs (LSR_GRID c k) LSR_GRID_FADE = 0 ∧ ∀ i < 3, (s.fadeLimits c).getD i 0 < 0)) : s.crossed c k fade old = [] := by
  rw [State.crossed, List.filter_eq_nil_iff]
  intro i hi
  rw [hold] at h ⊢
  rcases h with h | ⟨h, hneg⟩
  · rw [h]
    simp
  · have := hneg i (List.mem_range.1 hi)
    rw [h, decide_eq_false (by omega), Bool.false_and]
    exact Bool.false_ne_true

theorem State.wakeSpareCarrier_idle {s : State} {c i : Nat} (h : s.carrier c i ≠ crActive) : s.wakeSpareCarrier c i = s :=
  if_neg fun ⟨hact, _⟩ => h hact

theorem exec_fadeMeasurement (c : Casement) (rs : List LaserReading) (s : State) :
    exec (.fadeMeasurement c rs) s = .next (s.fadeMeasure c.val rs) := rfl

theorem foldl_id {α β : Type} {g : α → β → α} (l : List β) (a : α) (h : ∀ x ∈ l, g a x = a) : l.foldl g a = a := by
  induction l with
  | nil => rfl
  | cons x l ih =>
    rw [List.foldl_cons, h x (List.mem_cons_self ..)]
    exact ih fun y hy => h y (List.mem_cons_of_mem _ hy)

/-- A measurement of one grid laser below its limit, with limits below 0 and no carrier active. -/
theorem State.fadeMeasure_grid {s : State} {c : Nat} {r : LaserReading} (hmode : s.mode ≠ .off) (hframe : s.frame % 250 = 0)
    (hn : r.laser.val < 18) (hlim : r.atLimit = false) (hlit : s.chanLit c r.laser.val = true)
    (hserv : s.serving c r.laser.val = r.laser.val) (hneg : ∀ i < 3, (s.fadeLimits c).getD i 0 < 0)
    (hc0 : s.carrier c 0 ≠ crActive) (hc1 : s.carrier c 1 ≠ crActive) : s.fadeMeasure c [r] = s.noteReading c r := by
  have hno : ¬(s.mode = .off ∨ s.frame % 250 ≠ 0) := by
    rintro (h | h)
    · exact hmode h
    · exact h hframe
  let u := s.noteReading c r
  have hu : u = _ := State.noteReading_grid hn hlim hlit hserv
  have hother : ∀ {a : Nat}, a ≠ LSR_GRID c r.laser.val → u.reg a = s.reg a := fun h => by
    rw [hu, State.gridNoted_other _ _ _ _ _ _ h]
  have hlims : u.fadeLimits c = s.fadeLimits c := State.fadeLimits_congr (hother (lsrGrid_ne_lsrCfg c _))
  have hcross : ∀ k, k < 18 → u.crossed c k (((List.range 18).map (fun k => s.rfs (LSR_GRID c k) LSR_GRID_FADE)).getD k 0)
      (s.fadeLimits c) = [] := by
    intro k hk
    have hold : ((List.range 18).map (fun k => s.rfs (LSR_GRID c k) LSR_GRID_FADE)).getD k 0 = s.rfs (LSR_GRID c k) LSR_GRID_FADE := by
      simp [List.getD, hk]
    refine State.crossed_nil hlims ?_
    by_cases hkr : r.laser.val = k
    · refine .inr ⟨?_, fun i hi => ?_⟩
      · rw [hu, ← hkr, State.gridNoted_fade]
      · rw [hlims]
        exact hneg i hi
    · rw [hold, State.rfs, State.rfs, hother (lsrGrid_inj hkr)]
      exact .inl rfl
  have hcarrier : ∀ i, u.carrier c i = s.carrier c i := fun i => by
    rw [State.carrier, State.carrier, State.rf, State.rf, hother (lsrCarrier_ne_lsrGrid c i hn)]
  have hfold : ∀ k ∈ List.range 18, (if u.chanLit c k then (u.crossed c k
      (((List.range 18).map (fun k => s.rfs (LSR_GRID c k) LSR_GRID_FADE)).getD k 0) (s.fadeLimits c)).foldl
        (fun s i => s.fadeCross c k i) u else u) = u := fun k hk => by
    rw [hcross k (List.mem_range.1 hk), List.foldl_nil, ite_self]
  rw [State.fadeMeasure, if_neg hno]
  simp only [List.foldl_cons, List.foldl_nil]
  rw [foldl_id (List.range 18) u hfold, State.wakeSpareCarrier_idle (s := u) (by rw [hcarrier]; exact hc0),
    State.wakeSpareCarrier_idle (by rw [hcarrier]; exact hc1)]

theorem toCode_lt (w : Nat) (i : Int) : toCode w i < 2 ^ w := by
  have hpos : (0 : Int) < 2 ^ w := by positivity
  have h := Int.emod_lt_of_pos i hpos
  have h0 := Int.emod_nonneg i (ne_of_gt hpos)
  rw [toCode]
  zify
  rw [Int.toNat_of_nonneg h0]
  exact h

/-- Settles O22: the contact and the mesh by their registers, a measurement by the one reading it notes. -/
theorem fibreArrayMeshFaultsAndFade : Obligations.FibreArrayMeshFaultsAndFade := by
  unfold Obligations.FibreArrayMeshFaultsAndFade
  refine ⟨fun c rx m s => ⟨fun h => ?_, fun _ => exec_meshFault c rx m s, fun hmode hdark => ?_, fun hmode => ?_, fun hmode => ⟨?_, ?_⟩⟩,
    fun c rs r s => ⟨fun h => ?_, fun hmode hframe hn hlim hlit hserv hneg hc0 hc1 => ?_⟩⟩
  · rw [exec_meshFault, State.meshFail_again h]
  · refine ⟨s.contact c.val 0 { s.csm c.val with faStable := false }, ?_, State.contact_present .., ?_, ?_,
      State.contact_field _ _ _ _ (by decide) (by decide), State.contact_links .., State.contact_bytes _ _ _ _⟩
    · rw [exec_faPresenceOpen, if_neg hmode, State.faOpen_dark hdark]
    · rw [State.contact_field _ _ _ _ (by decide) (by decide), hdark]
    · rw [State.contact_csm]
  · refine ⟨s.contact c.val 1 { s.csm c.val with faStable := true }, State.exec_faPresenceStable_on hmode,
      State.contact_present .., State.contact_status .., ?_, State.contact_field _ _ _ _ (by decide) (by decide),
      State.contact_bytes _ _ _ _⟩
    rw [State.contact_csm]
  · rw [exec_faPresenceOpen, if_pos hmode]
  · rw [exec_faPresenceStable, if_pos hmode]
  · rw [exec_fadeMeasurement, State.fadeMeasure, if_pos h]
  · have hexec := exec_fadeMeasurement c [r] s
    rw [State.fadeMeasure_grid hmode hframe hn hlim hlit hserv hneg hc0 hc1, State.noteReading_grid hn hlim hlit hserv] at hexec
    refine ⟨_, hexec, State.gridNoted_fade .., ?_, State.gridNoted_bias .., fun a ha => State.gridNoted_other _ _ _ _ _ _ ha,
      State.gridNoted_bytes _ _ _ _ _ _⟩
    rw [State.gridNoted_outPwr, Nat.mod_eq_of_lt (toCode_lt 16 _)]

end Sys2Proof.Machine
end

section
/-!
PROOFS. Flits of an attachment (R386 to R389): the head's checks, the sequence, and the replay of what is not acknowledged.
-/

namespace Sys2Proof.Machine

theorem exec_dataFlit (a : Attach) (f : Flit) (s : State) : exec (.dataFlit a f) s = .next (s.dataFlit a.val f) := rfl

theorem exec_frameFlit (a : Attach) (f : Flit) (s : State) : exec (.frameFlit a f) s = .next (s.flitSeq a.val 2 f).1 := rfl

theorem exec_flitReplay (a : Attach) (s : State) : exec (.flitReplay a) s = .next (s.flitReplay a.val) := rfl

/-- An IDLE flit only acknowledges. -/
theorem exec_idleFlit_of_head {a : Attach} {f : Flit} {s t : State} {w0 : Word} (h : s.flitHead a.val 1 f = (t, some w0)) :
    exec (.idleFlit a f) s = .next (t.flitAck a.val w0) := by
  change execIdleFlit a f s = _
  simp only [execIdleFlit, h]

theorem exec_idleFlit_of_none {a : Attach} {f : Flit} {s t : State} (h : s.flitHead a.val 1 f = (t, none)) :
    exec (.idleFlit a f) s = .next t := by
  change execIdleFlit a f s = _
  simp only [execIdleFlit, h]

/-! ## The head and the sequence -/

theorem State.flitHead_dead {s : State} {a : Nat} (h : (s.csmAttach a).live = false) (kind : Nat) (f : Flit) :
    s.flitHead a kind f = (s, none) := by
  rw [State.flitHead, if_pos (by rw [h]; rfl)]

theorem State.flitSeq_none {s t : State} {a kind : Nat} {f : Flit} (h : s.flitHead a kind f = (t, none)) :
    s.flitSeq a kind f = (t, false) := by
  simp only [State.flitSeq, h]

/-- A flit out of sequence is discarded. -/
theorem State.flitSeq_other {s t : State} {a kind : Nat} {f : Flit} {w0 : Word} (h : s.flitHead a kind f = (t, some w0))
    (hne : getField w0 (bits 15 6) ≠ (t.csmAttach a).rxNext) : s.flitSeq a kind f = (t, false) := by
  simp only [State.flitSeq, h, if_pos hne]

/-- The flit that comes next moves the sequence on, and its acknowledgement is used. -/
theorem State.flitSeq_next {s t : State} {a kind : Nat} {f : Flit} {w0 : Word} (h : s.flitHead a kind f = (t, some w0))
    (heq : getField w0 (bits 15 6) = (t.csmAttach a).rxNext) : s.flitSeq a kind f =
      ((t.setAttach a { t.csmAttach a with rxNext := ((t.csmAttach a).rxNext + 1) % 1024, rxAny := true }).flitAck a w0, true) := by
  simp only [State.flitSeq, h, if_neg (not_not_intro heq)]

theorem isGuest_casement {a : Nat} (h : a < 8) : isGuest a = false := by
  simp only [isGuest, decide_eq_false_iff_not]
  omega

/-- A DATA flit of a Casement, and one out of sequence, goes through the sequence alone. -/
theorem State.dataFlit_seq {s : State} {a : Nat} {f : Flit} (h : (s.flitSeq a 0 f).2 = false ∨ a < 8) :
    s.dataFlit a f = (s.flitSeq a 0 f).1 := by
  unfold State.dataFlit
  refine if_pos ?_
  rcases h with h | h
  · simp [h]
  · simp [isGuest_casement h]

/-! ## Replay -/

@[simp] theorem State.csmAttach_setAttach_same (s : State) (a : Nat) (x : AttachSt) : (s.setAttach a x).csmAttach a = x :=
  sparseGet_set_same ..

theorem State.flitReplay_dead {s : State} {a : Nat} (h : (s.csmAttach a).live = false) : s.flitReplay a = s :=
  if_pos (by rw [h]; rfl)

theorem State.flitReplay_again {s : State} {a : Nat} (hlive : (s.csmAttach a).live = true) (ha : a < 8)
    (h : (s.csmAttach a).replays + 1 < 8) :
    s.flitReplay a = s.setAttach a { s.csmAttach a with replays := (s.csmAttach a).replays + 1 } := by
  have hno : ¬((!(s.csmAttach a).live || (isGuest a && (s.csmAttach a).unacked.isEmpty)) = true) := by
    simp [hlive, isGuest_casement ha]
  simp only [State.flitReplay, if_neg hno, if_pos ha, if_pos h]

/-- Settles O30: each row by the head's checks and then by the sequence. -/
theorem flitsAreTakenInSequence : Obligations.FlitsAreTakenInSequence := by
  unfold Obligations.FlitsAreTakenInSequence
  intro a f s
  refine ⟨fun hdead => ⟨?_, ?_, ?_, ?_⟩, fun w0 h hne => ?_, fun w0 h hne => ?_, fun w0 h heq => ?_, fun w0 ha h heq => ?_,
    fun w0 h => exec_idleFlit_of_head h, fun hlive ha hr => ?_⟩
  · have hseq := State.flitSeq_none (State.flitHead_dead hdead 0 f)
    rw [exec_dataFlit, State.dataFlit_seq (.inl (by rw [hseq])), hseq]
  · rw [exec_idleFlit_of_none (State.flitHead_dead hdead 1 f)]
  · rw [exec_frameFlit, State.flitSeq_none (State.flitHead_dead hdead 2 f)]
  · rw [exec_flitReplay, State.flitReplay_dead hdead]
  · rw [exec_frameFlit, State.flitSeq_other h hne]
  · have hseq := State.flitSeq_other h hne
    rw [exec_dataFlit, State.dataFlit_seq (.inl (by rw [hseq])), hseq]
  · rw [exec_frameFlit, State.flitSeq_next h heq]
  · rw [exec_dataFlit, State.dataFlit_seq (.inr ha), State.flitSeq_next h heq]
  · refine ⟨_, (exec_flitReplay a s).trans (congrArg _ (State.flitReplay_again hlive ha hr)), ?_, fun _ => rfl,
      .of_eq rfl rfl rfl rfl⟩
    rw [State.csmAttach_setAttach_same]

end Sys2Proof.Machine
end

section
/-!
PROOFS. The end of a retirement copy, the patrol and the reload lists (R182, R185 to R188, R488), and the fault log's entry that the
watermark statement leaves out.
-/

namespace Sys2Proof.Machine

/-! ## Steps that wait for a recovery -/

theorem State.stepResume_noSteps {s : State} (h : s.steps = []) : s.stepResume = s := by
  rw [State.stepResume, h]
  exact ite_self s

theorem exec_retirementCopyComplete (r : Fin 4) (s : State) :
    exec (.retirementCopyComplete r) s = .next (s.copyDone r.val).stepResume := rfl

/-- The record of a channel's retirement in the NV store. -/
def NvStore.copied (nv : NvStore) (k ch : Nat) : NvStore :=
  { nv with retired := nv.retired.map (fun e => if e.1 = k ∧ e.2.1 = ch then (k, ch, true) else e) }

theorem NvStore.copied_done {nv : NvStore} {k ch : Nat} {e : Nat × Nat × Bool} (he : e ∈ (nv.copied k ch).retired) (hk : e.1 = k)
    (hch : e.2.1 = ch) : e.2.2 = true := by
  obtain ⟨e', -, rfl⟩ := List.mem_map.1 he
  split at hk
  · rw [if_pos (by assumption)]
  · rename_i hne
    rw [if_neg hne] at hch
    exact absurd ⟨hk, hch⟩ hne

/-- A retirement whose copy is done. -/
def State.copyNoted (s : State) (r : Nat) : State :=
  ({ s with nv := s.nv.copied (s.rf (MEM_RETIRE r) MEM_RETIRE_STACK) (s.rf (MEM_RETIRE r) MEM_RETIRE_CHANNEL) } : State).wf
    (MEM_RETIRE r) MEM_RETIRE_STATE 1

theorem State.copyDone_underWay {s : State} {r : Nat} (hv : s.rf (MEM_RETIRE r) MEM_RETIRE_VALID = 1)
    (hs : s.rf (MEM_RETIRE r) MEM_RETIRE_STATE = 0) : s.copyDone r = s.copyNoted r := if_pos ⟨hv, hs⟩

theorem State.copyDone_invalid {s : State} {r : Nat} (h : s.rf (MEM_RETIRE r) MEM_RETIRE_VALID ≠ 1) : s.copyDone r = s :=
  if_neg fun ⟨hv, _⟩ => h hv

/-! ## Patrol -/

theorem exec_patrolRead (st : Stack) (ch : Fin 32) (da : Nat) (f : PatrolFind) (passEnd : Bool) (s : State) :
    exec (.patrolRead st ch da f passEnd) s = .next (s.patrol st.val ch.val da f passEnd) := rfl

/-- A patrol read, and the count of a pass that ends with it. -/
theorem State.patrol_off {s : State} {k ch da : Nat} {f : PatrolFind} (passEnd : Bool)
    (h : s.rf (MEM_ECC_CTRL (k / 3)) MEM_ECC_CTRL_PATROL_HOURS = 0 ∨ f = .clean) : s.patrol k ch da f passEnd =
      if passEnd then s.wf (checcOf { stack := k, channel := ch, row := 0, pc := da / 64 % 2 }) MEM_CHECC_CE_PASS 0 else s := by
  unfold State.patrol
  rcases h with h | h
  · simp only [if_pos h]
  · subst h
    simp only [ite_self]

/-- A corrected line that is not poisoned counts at its channel. -/
theorem State.patrol_corrected {s : State} {k ch da : Nat} (h : s.rf (MEM_ECC_CTRL (k / 3)) MEM_ECC_CTRL_PATROL_HOURS ≠ 0)
    (hp : s.isPoisoned da = false) : s.patrol k ch da .corrected false =
      s.memCe { stack := k, channel := ch, row := 0, pc := da / 64 % 2 } da := by
  unfold State.patrol
  simp only [if_neg h, hp, Bool.and_false, Bool.false_eq_true, if_false]

/-! ## Reloads -/

theorem exec_reloadComplete (step : Nat) (s : State) : exec (.reloadComplete step) s = .next s.reloadsDone := rfl

theorem State.reloadsDone_waits {s : State} (h : s.reloads.any (fun x => x.left != 0) = true) : s.reloadsDone = s := if_pos h

theorem State.reloadsDone_noSteps {s : State} (h : s.reloads.any (fun x => x.left != 0) = false) (hs : s.steps = []) :
    s.reloadsDone = { s with reloads := [] } :=
  (if_neg (by simp [h])).trans (State.stepResume_noSteps hs)

/-- Settles O34: with no step in flight the end of a recovery resumes none, and a patrol read acts by what it finds. -/
theorem retirementCopyAndPatrolEnd : Obligations.RetirementCopyAndPatrolEnd := by
  unfold Obligations.RetirementCopyAndPatrolEnd
  intro r st ch da step s
  refine ⟨fun hv hst hsteps => ?_, fun hv hsteps => ?_, ?_, ⟨?_, fun hh hp => ?_, fun hh f => ?_⟩, fun h => ?_, fun h hsteps => ?_⟩
  · have hsteps' : (s.copyNoted r.val).steps = [] := hsteps
    refine ⟨s.copyNoted r.val, ?_, ?_, fun e he hk hch => NvStore.copied_done he hk hch, .of_eq rfl rfl rfl rfl⟩
    · rw [exec_retirementCopyComplete, State.copyDone_underWay hv hst, State.stepResume_noSteps hsteps']
    · rw [State.copyNoted, State.rf_wf_same _ _ _ _ (by decide)]
      rfl
  · rw [exec_retirementCopyComplete, State.copyDone_invalid hv, State.stepResume_noSteps hsteps]
  · rw [exec_patrolRead, State.patrol_off _ (.inr rfl)]
    rfl
  · refine ⟨_, (exec_patrolRead ..).trans (congrArg _ ((State.patrol_off _ (.inr rfl)).trans (if_pos rfl))), ?_,
      fun a ha => State.reg_wf_other _ _ _ ha, State.wf_bytes _ _ _ _⟩
    rw [State.rf_wf_same _ _ _ _ (by decide)]
    rfl
  · rw [exec_patrolRead, State.patrol_corrected hh hp]
  · rw [exec_patrolRead, State.patrol_off _ (.inl hh)]
    rfl
  · rw [exec_reloadComplete, State.reloadsDone_waits h]
  · rw [exec_reloadComplete, State.reloadsDone_noSteps h hsteps]

/-! ## A fault log that names an entry beyond its 1,024 -/

theorem State.refreshFlt_reg_other (s : State) {a : Nat} (h : a ≠ FLT_STATUS) : s.refreshFlt.reg a = s.reg a :=
  State.reg_wfs_other _ _ h

/-- The third word of a record lies in its entry. -/
theorem State.putRecord_frameWord (s : State) (i : Nat) (ws : List Word) :
    (s.putRecord i ws).reg (FLT_LOG (i * 4 + 2)) = ws.getD 2 0 := by
  have hne : FLT_LOG (i * 4 + 2) ≠ FLT_LOG (i * 4 + 3) := by
    unfold FLT_LOG
    omega
  change ((((s.setReg _ _).setReg _ _).setReg (FLT_LOG (i * 4 + 2)) (ws.getD 2 0)).setReg (FLT_LOG (i * 4 + 3)) (ws.getD 3 0)).reg _ = _
  rw [State.reg_setReg_other _ _ hne, State.reg_setReg_same]

theorem State.logSlot_congr {s t : State} (horder : t.logOrder = s.logOrder) (hcleared : t.logCleared = s.logCleared) :
    t.logSlot = s.logSlot := by
  rw [State.logSlot, State.logSlot, horder, hcleared]

/-- A new record where nothing uncleared is of its code and locator. -/
theorem State.recordFault_new {s : State} {code loc det i : Nat} (injected : Bool) (lead step : Nat) (hu : s.uncleared = [])
    (hslot : s.logSlot = some i) : ∃ t : State, t.mgmt = s.mgmt ∧ t.queues = s.queues ∧ s.recordFault code loc det injected lead step =
      ((t.putRecord i (faultRecord s code loc det injected lead step)).refreshFlt, true) := by
  unfold State.recordFault
  rw [hu]
  simp only [List.find?_nil]
  generalize ht : (if faultSeverity code = 0 then s else _) = t
  have hkeep : t.mgmt = s.mgmt ∧ t.queues = s.queues ∧ t.logSlot = some i := by
    rw [← ht]
    split
    · exact ⟨rfl, rfl, hslot⟩
    · exact ⟨rfl, rfl, (State.logSlot_congr (s := s) (by rfl) (by rfl)).trans hslot⟩
  obtain ⟨hmgmt, hqueues, hfree⟩ := hkeep
  rw [hfree]
  exact ⟨t, hmgmt, hqueues, rfl⟩

/-- The entry whose third word is CEL_QWM of queue 0. -/
def strayEntry : Nat := 0x17F800

/-- A log full of that entry. -/
def strayOrder : List Nat := List.replicate 1024 strayEntry

theorem strayOrder_length : strayOrder.length = 1024 := List.length_replicate

theorem mem_strayOrder {i : Nat} (h : i ∈ strayOrder) : i = strayEntry := List.eq_of_mem_replicate h

/-- A package whose fault log is full of one entry beyond the log, and cleared; CEL_QWM of queue 0 holds 1. -/
def strayLog : State := { State.reset.setReg (CEL_QWM 0) 1 with logOrder := strayOrder, logCleared := [strayEntry] }

theorem strayLog_uncleared : strayLog.uncleared = [] := by
  refine List.filter_eq_nil_iff.2 fun i hi => ?_
  rw [mem_strayOrder hi]
  decide

theorem strayLog_slot : strayLog.logSlot = some strayEntry := by
  have horder : strayLog.logOrder = strayOrder := rfl
  have hcons : strayOrder = strayEntry :: List.replicate 1023 strayEntry := List.replicate_succ
  rw [State.logSlot, horder, if_neg (by rw [strayOrder_length]; exact Nat.lt_irrefl _), hcons]
  exact List.find?_cons_of_pos (by decide)

theorem strayLog_isBridge : strayLog.isBridge = false := by
  rw [State.isBridge, State.rf, show strayLog.reg HRT_PKGID = (State.reset.setReg (CEL_QWM 0) 1).reg HRT_PKGID from rfl,
    State.reg_setReg_other _ _ (by decide)]
  decide

theorem strayLog_frame : strayLog.frame = 0 := by
  rw [State.frame, State.rf, show strayLog.reg STR_FRAME = (State.reset.setReg (CEL_QWM 0) 1).reg STR_FRAME from rfl,
    State.reg_setReg_other _ _ (by decide)]
  decide

theorem State.isBridge_congr {s t : State} (h : t.reg HRT_PKGID = s.reg HRT_PKGID) : t.isBridge = s.isBridge := by
  rw [State.isBridge, State.isBridge, State.rf, State.rf, h]

/-- An event of a package that is no bridge leaves its registers alone. -/
theorem State.hostEvent_reg {s : State} (h : s.isBridge = false) (kind : Nat) (body : List Word) (a : Nat) :
    (s.hostEvent kind body).reg a = s.reg a := by
  rw [State.hostEvent, if_neg (by rw [h]; exact Bool.false_ne_true)]
  rfl

theorem State.putRecord_reg_other (s : State) (i : Nat) (ws : List Word) {a : Nat} (h : ∀ j < 4, a ≠ FLT_LOG (i * 4 + j)) :
    (s.putRecord i ws).reg a = s.reg a := by
  change ((((s.setReg (FLT_LOG (i * 4 + 0)) _).setReg (FLT_LOG (i * 4 + 1)) _).setReg (FLT_LOG (i * 4 + 2)) _).setReg
    (FLT_LOG (i * 4 + 3)) _).reg a = _
  rw [State.reg_setReg_other _ _ (h 3 (by decide)), State.reg_setReg_other _ _ (h 2 (by decide)),
    State.reg_setReg_other _ _ (h 1 (by decide)), State.reg_setReg_other _ _ (h 0 (by decide))]

/-- A note at that package overwrites CEL_QWM of queue 0 with its frame. -/
theorem strayLog_note (code loc det : Nat) : (strayLog.note code loc det).reg (CEL_QWM 0) = 0 := by
  let ws := faultRecord strayLog code loc det false 0 0xFFFFFFFF
  obtain ⟨t, hmgmt, -, ht⟩ :=
    State.recordFault_new (code := code) (loc := loc) (det := det) false 0 0xFFFFFFFF strayLog_uncleared strayLog_slot
  let u := (t.putRecord strayEntry ws).refreshFlt
  have hqwm : u.reg (CEL_QWM 0) = 0 := by
    rw [State.refreshFlt_reg_other _ (by decide), show CEL_QWM 0 = FLT_LOG (strayEntry * 4 + 2) by decide, State.putRecord_frameWord]
    change packFields [(bits 47 0, strayLog.frame), (bits 63 48, 0)] = 0
    rw [strayLog_frame]
    decide
  have hpkg : u.reg HRT_PKGID = strayLog.reg HRT_PKGID := by
    rw [State.refreshFlt_reg_other _ (by decide), State.putRecord_reg_other _ _ _ (by decide), State.reg, hmgmt, State.reg]
  rw [State.note, State.noteStep, ht]
  split
  · rw [State.hostEvent_reg ((State.isBridge_congr hpkg).trans strayLog_isBridge), hqwm]
  · exact hqwm

theorem exec_celQwmWrite (q : QueueIdx) (v : Word) (s : State) :
    exec (.celQwmWrite q v) s = .next (if queueUsed q.val then s.celQwm q.val v else s) := rfl

/-- Refutes O35: where the fault log, full, names an entry beyond its 1,024 as the cleared one, the record of an ignored write of
CEL_QWM lands on CEL_QWM itself. No sound state has such a log (R473). -/
theorem not_cellarQueuesRefillAndMark : ¬ Obligations.CellarQueuesRefillAndMark := by
  unfold Obligations.CellarQueuesRefillAndMark
  intro h
  obtain ⟨-, hqwm, -⟩ := h.2 0 0 false false strayLog
  obtain ⟨t, ht, hreg⟩ := hqwm (by decide) (by decide)
  have hexec : exec (.celQwmWrite 0 0) strayLog = .next (strayLog.mgmtError (locControl 5) (CEL_QWM 0)) := by
    rw [exec_celQwmWrite, if_pos (by decide), State.celQwm, if_pos (by decide)]
    rfl
  obtain rfl : strayLog.mgmtError (locControl 5) (CEL_QWM 0) = t := Host.Outcome.next.inj (hexec.symm.trans ht)
  have hnow : (strayLog.mgmtError (locControl 5) (CEL_QWM 0)).reg (CEL_QWM 0) = 0 := strayLog_note ..
  have hthen : strayLog.reg (CEL_QWM 0) = 1 :=
    show (State.reset.setReg (CEL_QWM 0) 1).reg (CEL_QWM 0) = 1 from State.reg_setReg_same ..
  exact absurd (hnow.symm.trans (hreg.trans hthen)) (by decide)

end Sys2Proof.Machine
end

section
/-!
PROOFS. What happens to a command before it runs (R417, R422, R425, R428).
-/

namespace Sys2Proof.Machine

/-! ## The rows of the command opcodes -/

/-- Every row of a command opcode is one command, run from its queue after its checks. -/
theorem CommandRow.exec_eq {c : Cmd} {i : Instr} {op : Nat} {body : State → State} (h : CommandRow c i op body) (s : State) :
    exec i s = .next (s.command c op body) := by
  unfold CommandRow at h
  refine (List.forall_mem_cons (p := fun x => exec x.1 s = .next (s.command c x.2.1 x.2.2))).2 ⟨rfl, ?_⟩ _ h
  repeat' refine List.forall_mem_cons.2 ⟨rfl, ?_⟩
  exact List.forall_mem_nil _

/-! ## The checks before a command runs -/

section
variable {c : Cmd} {op : Nat} {body : State → State} {s : State}

theorem State.command_ignored (h : c.opcode ≠ op ∨ s.canTake c = false) : s.command c op body = s := by
  refine if_pos ?_
  rcases h with h | h
  · simp [h]
  · simp [h]

/-- A duplicate of a command that was answered gets its reply again. -/
theorem State.command_duplicate {d : Remembered} (hop : c.opcode = op) (htake : s.canTake c = true)
    (hd : (s.unqueue c).dups.find? (fun d => d.tag == c.tag && d.origin == originOf s c && d.ring == c.ringId) = some d) :
    s.command c op body = (s.unqueue c).resend d := by
  rw [State.command, State.runCmd, if_neg (by simp [hop, htake])]
  simp only [hd]

/-- A command that was sent on and is not given up waits for its reply. -/
theorem State.command_waits {a : ActiveCmd} (hop : c.opcode = op) (htake : s.canTake c = true)
    (hd : (s.unqueue c).dups.find? (fun d => d.tag == c.tag && d.origin == originOf s c && d.ring == c.ringId) = none)
    (ha : (s.unqueue c).activeOf c.tag (originOf s c) c.ringId = some a) (hsent : a.sent = true) (hdead : a.dead = false) :
    s.command c op body = s.unqueue c := by
  rw [State.command, State.runCmd, if_neg (by simp [hop, htake])]
  simp only [hd, ha, hsent, hdead]
  rfl

/-- No reply is waited for. -/
def State.notOnItsWay (s : State) (tag origin ring : Nat) : Prop :=
  ∀ a, s.activeOf tag origin ring = some a → a.sent = false ∨ a.dead = true

/-- A command that is new is checked, and then goes on or runs. -/
theorem State.command_checked (hop : c.opcode = op) (htake : s.canTake c = true)
    (hd : (s.unqueue c).dups.find? (fun d => d.tag == c.tag && d.origin == originOf s c && d.ring == c.ringId) = none)
    (ha : (s.unqueue c).notOnItsWay c.tag (originOf s c) c.ringId) :
    (∀ st, (s.unqueue c).precheck c = some st → s.command c op body = (s.unqueue c).reply c st []) ∧
    ((s.unqueue c).precheck c = none → s.command c op body =
      if c.target ≠ 0xFFF ∧ !isForwarded c ∧ !(s.unqueue c).isSelf c.target then (s.unqueue c).forward c else body (s.unqueue c)) := by
  have hidle : (s.unqueue c).activeOf c.tag (originOf s c) c.ringId = none ∨
      ∃ a, (s.unqueue c).activeOf c.tag (originOf s c) c.ringId = some a ∧ (a.sent && !a.dead) = false := by
    cases hact : (s.unqueue c).activeOf c.tag (originOf s c) c.ringId with
    | none => exact .inl rfl
    | some a => exact .inr ⟨a, rfl, by rcases ha a hact with h | h <;> simp [h]⟩
  rw [State.command, State.runCmd, if_neg (by simp [hop, htake])]
  rcases hidle with hnone | ⟨a, hsome, hidle⟩
  · simp only [hd, hnone]
    exact ⟨fun st h => by simp only [h]; rfl, fun h => by simp only [h]; rfl⟩
  · simp only [hd, hsome, hidle]
    exact ⟨fun st h => by simp only [h]; rfl, fun h => by simp only [h]; rfl⟩

/-- A command for this package whose checks pass runs, taken from its queue. -/
theorem State.command_runs (h : TakesCommand c op s) : s.command c op body = body (s.unqueue c) := by
  have hd : (s.unqueue c).dups.find? (fun d => d.tag == c.tag && d.origin == originOf s c && d.ring == c.ringId) = none :=
    List.find?_eq_none.2 fun d hd => by simpa [and_assoc] using h.fresh d hd
  rw [(State.command_checked h.opcode h.taken hd h.idle).2 h.checked]
  refine if_neg fun ⟨htarget, hfwd, hself⟩ => ?_
  rcases h.here with hh | hh | hh
  · exact htarget hh
  · simp [hh] at hfwd
  · simp [hh] at hself

end

/-- A row of a command whose checks pass does what its opcode does. -/
theorem CommandRow.exec_runs {c : Cmd} {i : Instr} {op : Nat} {body : State → State} {s : State} (h : CommandRow c i op body)
    (ht : TakesCommand c op s) : exec i s = .next (body (s.unqueue c)) := by
  rw [h.exec_eq, State.command_runs ht]

/-- Settles O56: each row runs its command once, after the checks of R425. -/
theorem commandsRunOnceAfterTheirChecks : Obligations.CommandsRunOnceAfterTheirChecks := by
  unfold Obligations.CommandsRunOnceAfterTheirChecks
  intro c i op body s hrow
  refine ⟨fun h => ?_, hrow.exec_runs, fun hop htake => ⟨fun d hd => ?_, fun hd => ⟨fun a ha hsent hdead => ?_, fun ha => ?_⟩⟩⟩
  · rw [hrow.exec_eq, State.command_ignored h]
  · rw [hrow.exec_eq, State.command_duplicate hop htake hd]
  · rw [hrow.exec_eq, State.command_waits hop htake hd ha hsent hdead]
  · have hchecked := State.command_checked (body := body) hop htake hd ha
    refine ⟨fun st h => ?_, fun h htarget hfwd hself => ?_⟩
    · rw [hrow.exec_eq, hchecked.1 st h]
    · rw [hrow.exec_eq, hchecked.2 h, if_pos ⟨htarget, by simp [hfwd], by simp [hself]⟩]

end Sys2Proof.Machine
end

section
/-!
PROOFS. What the management, memory, step and Pantry commands do where they succeed.
-/

namespace Sys2Proof.Machine

/-! ## Where each command succeeds -/

/-- The role that a command asks for. -/
def roleAsked (c : Cmd) (s : State) : RoleChange :=
  { wing := c.pf 0 1 0, role := c.pf 0 9 8, tag := c.tag, origin := originOf s c, ring := c.ringId, deferred := false }

/-- The step that a command starts. -/
def stepAsked (c : Cmd) (s : State) : Step :=
  { num := c.pf 0 31 0, base := c.pf 1 47 0, bays := s.plannedBays ((List.range (stepCount c)).map (stepEntry c)),
    publish := c.pf 2 47 0, phase := .pending, replays := 0, cause := 0, longLead := false, tag := c.tag, origin := originOf s c,
    ring := c.ringId, old := [], frame := 0 }

/-- The operation on memory that a command starts. -/
def opAsked (c : Cmd) (s : State) (src dst bytes : Nat) (pattern : Word) : MemOp :=
  { opcode := c.opcode, src := src, dst := dst, bytes := bytes, pattern := pattern, tag := c.tag, origin := originOf s c,
    ring := c.ringId }

section
variable {c : Cmd} {s : State}

theorem State.podList_local (h : daWindow (c.pf 0 47 0) = 0) : s.podList c = s.replyWritten c (s.cmdWrite (c.pf 0 47 0)
    (natToBytes 2 s.reached.length ++ s.reached.flatMap (fun p => natToBytes 2 (p.1 % 4096 + if p.2 then 0x8000 else 0)))) [] :=
  if_neg (not_not.2 h)

theorem State.mgmtReadCmd_fits (h : c.pf 0 54 52 + 1 ≤ 6) : s.mgmtReadCmd c = s.podCmd c (fun s =>
    (s.mgmtReads (c.pf 0 39 0) (c.pf 0 54 52 + 1)).2.reply c stOk (s.mgmtReads (c.pf 0 39 0) (c.pf 0 54 52 + 1)).1) :=
  if_neg (Nat.not_lt.2 h)

theorem State.roleSet_first (h : ∀ r ∈ s.roles, r.wing ≠ c.pf 0 1 0) (hbusy : s.wingBusy (c.pf 0 1 0) = false) :
    s.roleSet c = (({ s with roles := s.roles ++ [roleAsked c s] } : State).wf HRT_WROLE (HRT_WROLE_PEND (c.pf 0 1 0)) 1).reply c
      stOk [] := by
  have hnone : s.roles.find? (fun r => r.wing == c.pf 0 1 0) = none := List.find?_eq_none.2 fun r hr => by simpa using h r hr
  unfold State.roleSet
  simp only [hnone, hbusy, Bool.false_eq_true, if_false]
  rfl

theorem State.regionSet_good {n : Nat} (hn : s.tables.regionNumber (c.pf 0 7 0) = some n) (hnamed : c.pf 0 7 0 < 64 ∨ c.pf 0 7 0 = 0xFF)
    (hbad : s.tables.regionBad n (c.p 1 &&& fieldMask MEM_RGN_BASE_BASE) (regionAttr (c.p 2)) = false)
    (hbusy : s.cellarBusy n (c.p 1 &&& fieldMask MEM_RGN_BASE_BASE) (regionAttr (c.p 2)) = false) :
    s.regionSet c = s.takeChanges c [.setRegion n (c.p 1 &&& fieldMask MEM_RGN_BASE_BASE) (regionAttr (c.p 2))] [packFields [(bits 5 0, n)]] := by
  have hok : (decide (64 ≤ c.pf 0 7 0) && c.pf 0 7 0 != 0xFF) = false := by
    rcases hnamed with h | h
    · simp [Nat.not_le.2 h]
    · simp [h]
  unfold State.regionSet
  simp only [hok, hn, hbad, hbusy, Bool.false_eq_true, if_false]

theorem State.regionClear_good (hvalid : s.tables.rgnValid (c.pf 0 5 0) = true) (hbusy : s.cellarBusy (c.pf 0 5 0) 0 0 = false) :
    s.regionClear c = s.takeChanges c [.clearRegion (c.pf 0 5 0)] [] := by
  unfold State.regionClear
  simp only [hvalid, hbusy, Bool.not_true, Bool.false_eq_true, if_false]

theorem State.halt_here (h : c.target ≠ 0xFFF ∨ isForwarded c = true) : s.halt c = s.haltHere.reply c stOk [] :=
  if_neg fun ⟨htarget, hfwd⟩ => h.elim (· htarget) fun h => by simp [h] at hfwd

theorem State.halt_everywhere (htarget : c.target = 0xFFF) (hfwd : isForwarded c = false) : s.halt c = s.haltHere.haltAll c :=
  if_pos ⟨htarget, by simp [hfwd]⟩

theorem State.stepStart_good (h : s.stepStatus c (s.plannedBays ((List.range (stepCount c)).map (stepEntry c))) = none) :
    s.stepStart c = ({ s with steps := s.steps ++ [stepAsked c s] } : State).reply c stDeferred [] := by
  unfold State.stepStart
  simp only [h]
  rfl

theorem State.stepAbort_found {t : Step} (h : s.findStep (c.pf 0 31 0) = some t) :
    s.stepAbort c = (s.fenceStep { cause := 7, replay := false, frame := s.frame, lead := 0, lost := none } t).reply c stOk [] := by
  unfold State.stepAbort
  simp only [h]

theorem State.addOp_aligned {src dst bytes : Nat} (pattern : Word) (hsrc : src % 64 = 0) (hdst : dst % 64 = 0) (hbytes : bytes % 64 = 0) :
    s.addOp c src dst bytes pattern =
      ({ s with memOps := s.memOps ++ [opAsked c s src dst bytes pattern] } : State).reply c stDeferred [] :=
  if_neg (by simp [hsrc, hdst, hbytes])

theorem State.larderFlush_readOnly (hvalid : s.rgnValid (c.pf 0 5 0) = true) (hro : s.rgnBit (c.pf 0 5 0) MEM_RGN_ATTR_READONLY = true) :
    s.larderFlush c = ({ s with changes := s.changes ++ [plainChange (.flush (c.pf 0 5 0)) c s] } : State).reply c stOk [] := by
  unfold State.larderFlush
  simp only [hvalid, hro, Bool.and_self, Bool.not_true, Bool.false_eq_true, if_false]
  rfl

theorem State.annexSet_good (hbad : s.annexBad c = false) (hbusy : s.annexBusy c = false) :
    s.annexSet c = s.takeChanges c [.setWindow (c.pf 0 7 0) (annexCfg c) (annexMap c) (annexPeer c)] [] := by
  unfold State.annexSet
  simp only [hbad, hbusy, Bool.false_eq_true, if_false]

theorem State.annexClear_good (hk : c.pf 0 7 0 ≠ 0) (hvalid : s.tables.winValid (c.pf 0 7 0) = true)
    (hused : s.windowUsed (c.pf 0 7 0) = false) (hused' : s.tables.windowUsed (c.pf 0 7 0) = false) :
    s.annexClear c = s.takeChanges c [.clearWindow (c.pf 0 7 0)] [] := by
  unfold State.annexClear
  simp only [hk, hvalid, hused, hused', Bool.not_true, Bool.or_self, Bool.false_eq_true, or_self, if_false]

theorem State.modelLoad_good {bs : List Byte} (hbad : s.tables.modelBad c = false)
    (hread : s.localRead (c.pf 0 47 0) (16 * (c.pf 0 59 48 + 1)) = .ok bs)
    (hversion : (segments (bytesToWords bs) (c.pf 0 59 48 + 1)).any (fun x => x.1 != 1) = false)
    (hsize : (segments (bytesToWords bs) (c.pf 0 59 48 + 1)).any (fun x => x.2.2 == 0 || x.2.2 % 4096 != 0) = false)
    (hshort : (placeAll (c.pf 1 39 0) (c.pf 2 39 0) (namedWindows (c.p 4)) s.tables.winSize
      ((segments (bytesToWords bs) (c.pf 0 59 48 + 1)).map (fun x => x.2))).short = 0) :
    s.modelLoad c = s.placeModel c (placeAll (c.pf 1 39 0) (c.pf 2 39 0) (namedWindows (c.p 4)) s.tables.winSize
      ((segments (bytesToWords bs) (c.pf 0 59 48 + 1)).map (fun x => x.2))) := by
  unfold State.modelLoad
  simp only [hbad, hread, hversion, hsize, hshort, Bool.false_eq_true, if_false, ne_eq, not_true_eq_false]

theorem State.pantryPublish_good (hread : s.listReadable (c.pf 0 47 0) = true) (hversion : (s.listHead (c.pf 0 47 0)).1 = 1)
    (hcount : (s.listHead (c.pf 0 47 0)).2.1 ≠ 0) : s.pantryPublish c =
      (s.applyList (c.pf 0 47 0) (s.listHead (c.pf 0 47 0)).2.1 (fun s e => s.publishOne e)).1.reply c stOk
        (countWords (s.applyList (c.pf 0 47 0) (s.listHead (c.pf 0 47 0)).2.1 (fun s e => s.publishOne e)).2) := by
  unfold State.pantryPublish
  simp only [hread, hversion, hcount, Bool.not_true, Bool.false_eq_true, if_false, ne_eq, not_true_eq_false]

/-- A resolve for this package with entropy and room for a lease answers what it found. -/
theorem State.pantryResolve_here (hbad : s.resolveBad c = false) (hself : s.requester c = s.pkg) (hroom : s.leases.length < 4096)
    (hentropy : s.rf SEC_STATUS SEC_STATUS_ENTROPY_FAIL ≠ 1) : s.pantryResolve c =
      if (s.resolveKeys (s.requester c) (resolveKeysOf c)).2.2.isEmpty then
        ((s.resolveKeys (s.requester c) (resolveKeysOf c)).1.writeTable c (s.resolveKeys (s.requester c) (resolveKeysOf c)).2.1).reply c
          stOk [0xFFFF]
      else
        let l := ((s.resolveKeys (s.requester c) (resolveKeysOf c)).1.writeTable c
          (s.resolveKeys (s.requester c) (resolveKeysOf c)).2.1).addLease (s.resolveKeys (s.requester c) (resolveKeysOf c)).2.2
        l.2.reply c stOk [BitVec.ofNat 64 l.1] := by
  unfold State.pantryResolve
  rw [if_neg (by simp [hbad]), if_neg (by simp [hself]), if_neg (Nat.not_le.2 hroom), if_neg (fun h => hentropy h.1)]

theorem State.pantryRelease_found {l : Lease} (h : s.leases.find? (fun l => l.handle == c.pf 0 15 0) = some l) :
    s.pantryRelease c = (s.endLease l).reply c stOk [] := by
  unfold State.pantryRelease
  simp only [h]

theorem State.pantryEvict_unpinned {n : Nat} (hn : (s.readSet (c.pf 0 47 0)).findKey (c.pf 0 47 0) = some n)
    (hpins : ((s.readSet (c.pf 0 47 0)).entry n).pins = 0) :
    s.pantryEvict c = ((s.readSet (c.pf 0 47 0)).setEntry n (pantryDefault n)).reply c stOk [] := by
  unfold State.pantryEvict
  simp only [hn, hpins, if_true]

end

/-! ## Operations on memory that complete -/

theorem exec_memFillComplete (n : Nat) (s : State) :
    exec (.memFillComplete n) s = .next (s.opDone 0x301 n none { status := 0, data := [] }) := rfl

theorem exec_memCopyComplete (n : Nat) (ue : Option Nat) (peer : PeerReply) (s : State) :
    exec (.memCopyComplete n ue peer) s = .next (s.opDone 0x302 n ue peer) := rfl

theorem State.opDone_none {s : State} {n : Nat} (op : Nat) (ue : Option Nat) (peer : PeerReply) (h : s.memOps[n]? = none) :
    s.opDone op n ue peer = s := by
  unfold State.opDone
  simp only [h]

theorem State.opDone_done {s : State} {op n : Nat} {m : MemOp} (ue : Option Nat) (peer : PeerReply) (h : s.memOps[n]? = some m)
    (hop : m.opcode = op) : s.opDone op n ue peer =
      (({ s with memOps := s.memOps.eraseIdx n } : State).opRun m m.bytes ue peer).1.applied m.tag m.origin m.ring op
        (({ s with memOps := s.memOps.eraseIdx n } : State).opRun m m.bytes ue peer).2 false := by
  subst hop
  unfold State.opDone
  simp only [h, ne_eq, not_true_eq_false, if_false]

/-! ## The rows -/

/-- A command whose checks pass runs, whatever its row does with it next. -/
theorem exec_runs {c : Cmd} {op : Nat} {s t : State} (body : State → State) (h : TakesCommand c op s) (hbody : body (s.unqueue c) = t) :
    Host.Outcome.next (s.command c op body) = (.next t : Out) := by
  rw [State.command_runs h, hbody]

/-- Settles O57: each command runs from its queue, and its own law says what it does there. -/
theorem managementMemoryAndStepCommandsSucceed : Obligations.ManagementMemoryAndStepCommandsSucceed := by
  unfold Obligations.ManagementMemoryAndStepCommandsSucceed
  intro c s
  refine ⟨fun h => exec_runs (fun s => s.identify c) h rfl,
    fun h hda => exec_runs (fun s => s.podList c) h (State.podList_local hda),
    fun h hn => exec_runs (fun s => s.mgmtReadCmd c) h (State.mgmtReadCmd_fits hn),
    fun h => exec_runs (fun s => s.mgmtWriteCmd c) h rfl,
    fun h hfirst hbusy => exec_runs (fun s => s.roleSet c) h (State.roleSet_first hfirst hbusy),
    fun n h hn hnamed hbad hbusy => exec_runs (fun s => s.regionSet c) h (State.regionSet_good hn hnamed hbad hbusy),
    fun h hvalid hbusy => exec_runs (fun s => s.regionClear c) h (State.regionClear_good hvalid hbusy),
    fun h hhere => exec_runs (fun s => s.halt c) h (State.halt_here hhere),
    fun h htarget hfwd => exec_runs (fun s => s.halt c) h (State.halt_everywhere htarget hfwd),
    fun h hgood => exec_runs (fun s => s.stepStart c) h (State.stepStart_good hgood),
    fun t h ht => exec_runs (fun s => s.stepAbort c) h (State.stepAbort_found ht),
    fun h hdst hbytes => exec_runs (fun s => s.addOp c 0 (c.pf 0 47 0) (c.pf 1 39 0) (c.p 2)) h
      (State.addOp_aligned _ rfl hdst hbytes),
    fun h hsrc hdst hbytes => exec_runs (fun s => s.addOp c (c.pf 0 47 0) (c.pf 1 47 0) (c.pf 2 39 0) 0) h
      (State.addOp_aligned _ hsrc hdst hbytes),
    fun n m ue peer hm => ⟨fun hop => ?_, fun hop => ?_⟩, fun n ue peer hm => ⟨?_, ?_⟩,
    fun h hvalid hro => exec_runs (fun s => s.larderFlush c) h (State.larderFlush_readOnly hvalid hro),
    fun h hbad hbusy => exec_runs (fun s => s.annexSet c) h (State.annexSet_good hbad hbusy),
    fun h hk hvalid hused hused' => exec_runs (fun s => s.annexClear c) h (State.annexClear_good hk hvalid hused hused'),
    fun bs h hbad hread hversion hsize hshort =>
      exec_runs (fun s => s.modelLoad c) h (State.modelLoad_good hbad hread hversion hsize hshort),
    fun h hread hversion hcount => exec_runs (fun s => s.pantryPublish c) h (State.pantryPublish_good hread hversion hcount),
    fun h hbad hself hroom hentropy => ⟨fun hnone => ?_, fun hsome => ?_⟩,
    fun l h hl => exec_runs (fun s => s.pantryRelease c) h (State.pantryRelease_found hl),
    fun n h hn hpins => exec_runs (fun s => s.pantryEvict c) h (State.pantryEvict_unpinned hn hpins)⟩
  · rw [exec_memFillComplete, State.opDone_done _ _ hm hop]
  · rw [exec_memCopyComplete, State.opDone_done _ _ hm hop]
  · rw [exec_memFillComplete, State.opDone_none _ _ _ hm]
  · rw [exec_memCopyComplete, State.opDone_none _ _ _ hm]
  · refine exec_runs (fun s => s.pantryResolve c) h ((State.pantryResolve_here hbad hself hroom hentropy).trans (if_pos ?_))
    rw [hnone]
    rfl
  · refine exec_runs (fun s => s.pantryResolve c) h ((State.pantryResolve_here hbad hself hroom hentropy).trans (if_neg ?_))
    rwa [List.isEmpty_iff]

end Sys2Proof.Machine
end

section
/-!
PROOFS. What the commands of links, light, plans, the Beat, Skylight and power do where they succeed.
-/

namespace Sys2Proof.Machine

/-! ## Links -/

section
variable {c : Cmd} {s : State}

/-- The link registers that LINK_SET writes. -/
def State.linkWritten (s : State) (l : Nat) (cfg pool : Word) : State :=
  (s.setReg (DRL_CFG l) (packFields ((limitFields ++ cfgFields).map (fun f => (f, getField cfg f))))).setReg (DRL_POOL l)
    (packFields (poolFields.map (fun f => (f, getField pool f))))

/-- The EN bit that LINK_SET writes. -/
theorem State.linkWritten_en (s : State) (l : Nat) (cfg pool : Word) :
    (s.linkWritten l cfg pool).rf (DRL_CFG l) DRL_CFG_EN = getField cfg DRL_CFG_EN := by
  have hne : DRL_CFG l ≠ DRL_POOL l := by
    unfold DRL_CFG DRL_POOL
    omega
  rw [State.linkWritten, State.rf, State.reg_setReg_other _ _ hne, State.reg_setReg_same]
  exact (getField_putField_same _ DRL_CFG_EN _ (by decide)).trans (Nat.mod_eq_of_lt (getField_lt _ _))

theorem State.linkSet_disabled (hbad : s.linkSetBad (c.pf 0 7 0) (c.p 1) (c.p 2) = false) (hstate : s.linkState (c.pf 0 7 0) = lkDisabled)
    (hen : getField (c.p 1) DRL_CFG_EN = 0) : s.linkSet c = (s.linkWritten (c.pf 0 7 0) (c.p 1) (c.p 2)).reply c stOk [] := by
  have hoff : (s.linkWritten (c.pf 0 7 0) (c.p 1) (c.p 2)).rf (DRL_CFG (c.pf 0 7 0)) DRL_CFG_EN ≠ 1 := by
    rw [State.linkWritten_en, hen]
    decide
  unfold State.linkSet
  rw [if_neg (by simp [hbad]), if_neg (not_not.2 hstate)]
  exact congrArg (fun t => State.reply t c stOk []) (if_neg hoff)

theorem State.linkWidth_same (hl : c.pf 0 7 0 < 128) (hnamed : s.linkNamed (c.pf 0 7 0) = true) (hwidth : (s.link (c.pf 0 7 0)).width = none)
    (hnow : c.pf 0 10 8 = s.rf (DRL_CFG (c.pf 0 7 0)) DRL_CFG_PAIRS_M1) (hfit : c.pf 0 7 0 % 16 + c.pf 0 10 8 + 1 ≤ 16)
    (hplan : s.planNames (c.pf 0 7 0 / 16) (c.pf 0 7 0) [] = false) : s.linkWidth c =
      (s.setLink (c.pf 0 7 0) { s.link (c.pf 0 7 0) with
        width := some (c.pf 0 10 8, c.pf 0 11 11, c.tag, originOf s c, c.ringId) }).reply c stDeferred [] := by
  have hnone (ks : List Nat) : ks.any (fun k => k != c.pf 0 7 0 && s.linkNamed k && (s.linkPairs k).any (fun _ => false)) = false := by
    simp
  unfold State.linkWidth
  simp only [← hnow, Nat.sub_self, List.range_zero, List.map_nil, List.contains_nil, hnone]
  rw [if_neg (by simp [hnamed]; omega), if_neg (by simp [hplan]), hwidth]

theorem State.linkRetrain_up (hl : c.pf 0 7 0 < 136) (hup : s.linkUp (c.pf 0 7 0) = true) : s.linkRetrain c =
    ((s.setLink (c.pf 0 7 0) { s.link (c.pf 0 7 0) with
      waits := (s.link (c.pf 0 7 0)).waits ++ [(0x412, c.tag, originOf s c, c.ringId)] }).startRetrain (c.pf 0 7 0)).reply c
        stDeferred [] :=
  if_neg (by simp [hup, hl])

/-- A LINK_STATE that no other waits for. -/
theorem State.linkStateSet_first (hl : c.pf 0 7 0 < 136) (hwant : (s.link (c.pf 0 7 0)).want = none) : s.linkStateSet c =
    if (s.rf (DRL_CFG (c.pf 0 7 0)) DRL_CFG_EN == 1) == (c.pf 0 8 8 == 1) && s.linkState (c.pf 0 7 0) != lkHeld then s.reply c stOk []
    else (s.setLink (c.pf 0 7 0) { s.link (c.pf 0 7 0) with want := some (c.pf 0 8 8 == 1, c.tag, originOf s c, c.ringId) }).reply c
      stDeferred [] := by
  unfold State.linkStateSet
  rw [if_neg (Nat.not_le.2 hl)]
  simp only [hwant]

theorem State.linkStateSet_asked (hl : c.pf 0 7 0 < 136) (hwant : (s.link (c.pf 0 7 0)).want = none)
    (hen : s.rf (DRL_CFG (c.pf 0 7 0)) DRL_CFG_EN = c.pf 0 8 8) (hheld : s.linkState (c.pf 0 7 0) ≠ lkHeld) :
    s.linkStateSet c = s.reply c stOk [] := by
  rw [State.linkStateSet_first hl hwant, if_pos (by simp [hen, hheld])]

theorem State.linkStateSet_changes (hl : c.pf 0 7 0 < 136) (hwant : (s.link (c.pf 0 7 0)).want = none)
    (hen : s.rf (DRL_CFG (c.pf 0 7 0)) DRL_CFG_EN ≠ c.pf 0 8 8) : s.linkStateSet c =
    (s.setLink (c.pf 0 7 0) { s.link (c.pf 0 7 0) with want := some (c.pf 0 8 8 == 1, c.tag, originOf s c, c.ringId) }).reply c
      stDeferred [] := by
  have hnow : s.rf (DRL_CFG (c.pf 0 7 0)) DRL_CFG_EN < 2 := State.rf_lt ..
  have hwish : c.pf 0 8 8 < 2 := getField_lt ..
  have hdiffer : ((s.rf (DRL_CFG (c.pf 0 7 0)) DRL_CFG_EN == 1) == (c.pf 0 8 8 == 1)) = false := by
    rw [beq_eq_false_iff_ne, ne_eq, Bool.eq_iff_iff, beq_iff_eq, beq_iff_eq]
    omega
  rw [State.linkStateSet_first hl hwant, if_neg (by simp [hdiffer])]

/-! ## Light -/

theorem State.laserSet_attic (hlo : 18 ≤ optLaser c) (hhi : optLaser c < 22) (hserving : s.attic (optCsm c) (optLaser c - 18) ≠ atServing)
    (hfenced : s.attic (optCsm c) (optLaser c - 18) ≠ atFenced) : s.laserSet c =
      (s.laserReq (optCsm c) (optLaser c) (c.pf 0 13 13 == 1) (cmdKey s c)).1.reply c
        (if (s.laserReq (optCsm c) (optLaser c) (c.pf 0 13 13 == 1) (cmdKey s c)).2 then stDeferred else stOk) [] := by
  unfold State.laserSet
  rw [if_neg (by omega)]
  simp only [hhi, if_true, beq_eq_false_iff_ne.2 hserving, beq_eq_false_iff_ne.2 hfenced, Bool.false_eq_true, if_false]

theorem State.laserSwap_free (hn : optLaser c < 18) (hlit : s.chan (optCsm c) (optLaser c) = chLit ∨ s.chan (optCsm c) (optLaser c) = chAttic)
    (hfree : s.freeAttic (optCsm c) ≠ none) : s.laserSwap c = (s.fadeCross (optCsm c) (optLaser c) 1).reply c stOk [] := by
  have hlit' : (s.chan (optCsm c) (optLaser c) == chLit || s.chan (optCsm c) (optLaser c) == chAttic) = true := by
    simpa using hlit
  have hfree' : (s.freeAttic (optCsm c)).isSome = true := Option.isSome_iff_ne_none.2 hfree
  unfold State.laserSwap
  rw [if_neg (Nat.not_le.2 hn)]
  simp only [hlit', hfree', Bool.true_or, Bool.not_true, Bool.or_self, Bool.false_eq_true, if_false]

/-- Commissioning with no swap and no channel lit notes the carriers that are on. -/
theorem State.laserCommission_dark (hswaps : (s.csm (optCsm c)).swaps = []) (hdark : ∀ k < 18, s.chanLit (optCsm c) k = false) :
    s.laserCommission c = ([0, 1].foldl (fun s i =>
      if s.laserOn (optCsm c) (22 + i) && !(s.csm (optCsm c)).atLimit.contains (22 + i) then
        s.setComm (optCsm c) (22 + i) (s.rf (LSR_CARRIER (optCsm c) i) LSR_CARRIER_OUT_PWR) else s) s).reply c stOk [] := by
  unfold State.laserCommission
  rw [if_neg (by simp [hswaps])]
  refine congrArg (fun t => State.reply (List.foldl _ t [0, 1]) c stOk []) (foldl_id _ _ fun k hk => ?_)
  rw [if_neg (by simp [hdark k (List.mem_range.1 hk)])]

theorem State.laserCommission_off (hswaps : (s.csm (optCsm c)).swaps = []) (hdark : ∀ k < 18, s.chanLit (optCsm c) k = false)
    (h0 : s.laserOn (optCsm c) 22 = false) (h1 : s.laserOn (optCsm c) 23 = false) : s.laserCommission c = s.reply c stOk [] := by
  rw [State.laserCommission_dark hswaps hdark]
  simp only [List.foldl, Nat.add_zero, h0, h1, Nat.reduceAdd, Bool.false_and, Bool.false_eq_true, if_false]

/-- The power of a commissioned laser is no state of a carrier. -/
theorem State.laserOn_setComm_carrier (s : State) (m n v : Nat) : (s.setComm m n v).laserOn m 23 = s.laserOn m 23 := by
  have hne : LSR_CARRIER m 1 ≠ LSR_COMM m n := by
    unfold LSR_CARRIER LSR_COMM
    omega
  have hcarrier : (s.setComm m n v).carrier m 1 = s.carrier m 1 := State.rf_wf_other _ _ _ _ hne
  rw [State.laserOn, State.laserOn, if_neg (by decide), if_neg (by decide), if_neg (by decide), if_neg (by decide), hcarrier]

theorem State.laserCommission_carrier (hswaps : (s.csm (optCsm c)).swaps = []) (hdark : ∀ k < 18, s.chanLit (optCsm c) k = false)
    (h0 : s.laserOn (optCsm c) 22 = true) (h1 : s.laserOn (optCsm c) 23 = false) (hlimit : (s.csm (optCsm c)).atLimit = []) :
    s.laserCommission c =
      (s.setComm (optCsm c) 22 (s.rf (LSR_CARRIER (optCsm c) 0) LSR_CARRIER_OUT_PWR)).reply c stOk [] := by
  rw [State.laserCommission_dark hswaps hdark]
  simp only [List.foldl, Nat.add_zero, h0, hlimit, List.contains_nil, Bool.not_false, Bool.and_self, if_true, Nat.reduceAdd,
    State.laserOn_setComm_carrier, h1, Bool.false_and, Bool.false_eq_true, if_false]

/-- New thresholds with no channel lit are crossed by none. -/
theorem State.threshSet_dark (hok : threshOk (c.p 1) = true) (hdark : ∀ k < 18, s.chanLit (optCsm c) k = false) : s.threshSet c =
    (s.wfs (LSR_CFG (optCsm c)) ([LSR_CFG_WARN_DB, LSR_CFG_SWAP_DB, LSR_CFG_FLOOR_DB].map (fun f => (f, getField (c.p 1) f)))).reply c
      stOk [] := by
  unfold State.threshSet
  rw [if_neg (by simp [hok])]
  refine congrArg (fun t => State.reply t c stOk []) (foldl_id _ _ fun k hk => ?_)
  have hne : LSR_GRID (optCsm c) k ≠ LSR_CFG (optCsm c) := by
    unfold LSR_GRID LSR_CFG
    omega
  have hchan (fs : List (Field × Nat)) : (s.wfs (LSR_CFG (optCsm c)) fs).chan (optCsm c) k = s.chan (optCsm c) k :=
    State.rf_wfs_other _ _ _ hne
  rw [if_neg]
  rw [State.chanLit, hchan]
  exact Bool.eq_false_iff.1 (hdark k (List.mem_range.1 hk))

/-- The interval that CAL_SET writes counts from now. -/
theorem State.calSet_interval (h : getField (c.p 1) TUN_CFG_CAL_INTERVAL ≠ 0) : s.calSet c =
    ((s.wfs (TUN_CFG (optCsm c)) ([TUN_CFG_CAL_INTERVAL, TUN_CFG_EPOCH_LEAD, TUN_CFG_CAL_TIMEOUT, TUN_CFG_CAL_EN].map
      (fun f => (f, getField (c.p 1) f)))).setCsm (optCsm c) { s.csm (optCsm c) with
        calDue := frameAdd s.frame (getField (c.p 1) TUN_CFG_CAL_INTERVAL) }).reply c stOk [] := by
  have hne : STR_FRAME ≠ TUN_CFG (optCsm c) := by
    unfold STR_FRAME TUN_CFG csmBase
    omega
  have hframe (fs : List (Field × Nat)) : (s.wfs (TUN_CFG (optCsm c)) fs).frame = s.frame := State.rf_wfs_other _ _ _ hne
  have hinterval : (s.wfs (TUN_CFG (optCsm c)) ([TUN_CFG_CAL_INTERVAL, TUN_CFG_EPOCH_LEAD, TUN_CFG_CAL_TIMEOUT, TUN_CFG_CAL_EN].map
      (fun f => (f, getField (c.p 1) f)))).rf (TUN_CFG (optCsm c)) TUN_CFG_CAL_INTERVAL = getField (c.p 1) TUN_CFG_CAL_INTERVAL := by
    rw [State.rf_wfs_same]
    simp (disch := decide) only [List.map, List.foldl, getField_putField_same, getField_putField_other]
    exact Nat.mod_eq_of_lt (getField_lt ..)
  unfold State.calSet
  rw [if_neg h]
  simp only [hframe, hinterval]
  rfl

/-! ## Plans and the Beat -/

/-- The plan that PLAN_LOAD brings. -/
def loadPlan (c : Cmd) (s : State) : PlanChange :=
  { frame := c.pf 1 47 0, load := true, csms := maskOf (c.pf 0 15 8),
    entries := (maskOf (c.pf 0 15 8)).zipIdx.flatMap (fun p => packetPlan c p.1 (8 + 512 * p.2)), opcode := 0x430, tag := c.tag,
    origin := originOf s c, ring := c.ringId }

theorem State.planLoad_good (hversion : c.pf 0 3 0 = 1) (hlen : c.len = 64 + 4096 * (maskOf (c.pf 0 15 8)).length)
    (hfails : s.changeFails (c.pf 1 47 0) (loadPlan c s).csms (loadPlan c s).entries = false)
    (hlate : s.lateFor (c.pf 1 47 0) s.deltaLead = false) (hplans : s.plans = []) :
    s.planLoad c = s.takePlan c (loadPlan c s) := by
  have hfails' : s.changeFails (c.pf 1 47 0) (maskOf (c.pf 0 15 8))
    ((maskOf (c.pf 0 15 8)).zipIdx.flatMap (fun p => packetPlan c p.1 (8 + 512 * p.2))) = false := hfails
  unfold State.planLoad
  rw [if_neg (not_not.2 hversion), if_neg (by simp [hlen, hfails']), if_neg (by simp [hlate, hplans])]
  rfl

/-- The entries that PLAN_DELTA brings. -/
def deltaEntries (c : Cmd) : List (Nat × Nat × Nat) :=
  (List.range (c.pf 0 21 16)).map (fun j => (c.pf (8 + j) 2 0, c.pf (8 + j) 12 3, c.pf (8 + j) 47 16))

/-- The plan that PLAN_DELTA brings. -/
def deltaPlan (c : Cmd) (s : State) : PlanChange :=
  { frame := c.pf 1 47 0, load := false, csms := ((deltaEntries c).map (fun e => e.1)).dedup, entries := deltaEntries c,
    opcode := 0x431, tag := c.tag, origin := originOf s c, ring := c.ringId }

theorem State.planDelta_good (hversion : c.pf 0 3 0 = 1) (hpos : c.pf 0 21 16 ≠ 0) (hmax : c.pf 0 21 16 ≤ 32)
    (hlen : c.len = 64 + 8 * c.pf 0 21 16) (hrsv : ∀ j < c.pf 0 21 16, c.pf (8 + j) 15 13 = 0 ∧ c.pf (8 + j) 63 48 = 0)
    (hfails : s.changeFails (c.pf 1 47 0) (deltaPlan c s).csms (deltaPlan c s).entries = false)
    (hlate : s.lateFor (c.pf 1 47 0) s.deltaLead = false) (hplans : s.plans = []) :
    s.planDelta c = s.takePlan c (deltaPlan c s) := by
  have hclean : (List.range (c.pf 0 21 16)).any (fun j => c.pf (8 + j) 15 13 != 0 || c.pf (8 + j) 63 48 != 0) = false := by
    refine List.any_eq_false.2 fun j hj => ?_
    obtain ⟨hmid, htop⟩ := hrsv j (List.mem_range.1 hj)
    simp [hmid, htop]
  have hfails' : s.changeFails (c.pf 1 47 0) ((deltaEntries c).map (fun e => e.1)).dedup (deltaEntries c) = false := hfails
  unfold State.planDelta
  rw [if_neg (not_not.2 hversion), if_neg, if_neg (by simp [hlate, hplans]), if_neg (by simp [hplans, hmax])]
  · rfl
  · rintro (h | h | h | h | h)
    · exact hpos h
    · exact Nat.not_lt.2 hmax h
    · exact h hlen
    · exact Bool.eq_false_iff.1 hclean h
    · exact Bool.eq_false_iff.1 hfails' h

/-- The settling that SETTLE_SET asks for. -/
def settleAsked (c : Cmd) (s : State) : SettleChange :=
  { csm := c.pf 0 2 0, engine := c.pf 0 5 3, settle := c.pf 0 6 6 == 0, frame := c.pf 1 47 0, quiet := false, tag := c.tag,
    origin := originOf s c, ring := c.ringId }

theorem State.settleSet_first (hfree : c.pf 0 6 6 = 1 ∨ s.engineBusy (c.pf 0 2 0) (c.pf 0 5 3) = false)
    (hlate : s.lateFor (c.pf 1 47 0) 2 = false) (hnone : s.settles = []) : s.settleSet c =
      (({ s with settles := [settleAsked c s] } : State).settleStat (c.pf 0 2 0)).reply c stDeferred [] := by
  have hgo : (c.pf 0 6 6 == 0 && s.engineBusy (c.pf 0 2 0) (c.pf 0 5 3)) = false := by
    rcases hfree with h | h <;> simp [h]
  unfold State.settleSet
  rw [if_neg (by simp [hgo]), if_neg (by simp [hlate])]
  simp only [hnone, List.find?_nil, List.filter_nil, List.foldl_nil, List.nil_append]
  rfl

/-- The Beat forgotten, with its links down. -/
def State.beatCleared (s : State) : State :=
  let v := s.beatLinksDown.wfs STR_BEAT [(STR_BEAT_CONFLICT, 0), (STR_BEAT_MASTER_ID, 0), (STR_BEAT_REF_ID, 0), (STR_BEAT_STRATUM, 3)]
  { v with beat := { BeatSt.init with fsyncNoted := v.beat.fsyncNoted } }

theorem State.beatRealign_unaligned (h : s.beatState = btUnaligned) : s.beatRealign c =
    (s.beatCleared.toBeat (if s.beatCleared.candidate then btElect else btAcquire)).reply c stOk [] :=
  if_neg fun ⟨_, hstate⟩ => hstate h

/-! ## Skylight and power -/

/-- A Skylight's configuration as SKY_SET writes it. -/
def State.skyConfigured (s : State) (m : Nat) (cfg : Word) : State :=
  s.wfs (SKY_CFG m) ([SKY_CFG_CAL_PERIOD, SKY_CFG_DRIFT_LIMIT, SKY_CFG_FORCE_EXACT, SKY_CFG_DRIFT_EN, SKY_CFG_EN].map
    (fun f => (f, getField cfg f)))

theorem State.skySet_good (hbad : s.mboxBad (c.p 2) = false) (hclr : getField (c.p 1) SKY_CFG_CNT_CLR = 0) : s.skySet c =
    ((s.skyConfigured (c.pf 0 2 0) (c.p 1)).wf (SKY_MBOX (c.pf 0 2 0)) SKY_MBOX_BASE (getField (c.p 2) SKY_MBOX_BASE)).reply c
      stOk [] := by
  unfold State.skySet
  rw [if_neg (by simp [hbad]), hclr]
  rfl

theorem State.skyCalCmd_free (hup : s.skyUp (c.pf 0 2 0) = true) (hcal : (s.sky1 (c.pf 0 2 0)).cal = none) : s.skyCalCmd c =
    (s.setSky (c.pf 0 2 0) { s.sky1 (c.pf 0 2 0) with
      due := (s.sky1 (c.pf 0 2 0)).due ++ [4]
      cmds := (s.sky1 (c.pf 0 2 0)).cmds ++ [(c.tag, originOf s c, c.ringId)] }).reply c stDeferred [] :=
  if_neg (by simp [hup, hcal])

theorem State.pointSet_matrix (h : s.isCache (c.pf 0 1 0) = false) : s.pointSet c =
    (s.pointReq (c.pf 0 1 0) (c.pf 0 9 8) (cmdKey s c)).1.reply c
      (if (s.pointReq (c.pf 0 1 0) (c.pf 0 9 8) (cmdKey s c)).2 then stDeferred else stOk) [] :=
  if_neg (by simp [h])

theorem State.capSet_fits (hlo : 3000 ≤ c.pf 0 15 0) (hhi : c.pf 0 15 0 ≤ s.tdp) :
    s.capSet c = (s.wf PWR_CFG PWR_CFG_CAP_W (c.pf 0 15 0)).reply c stOk [] :=
  if_neg (by omega)

theorem State.unitPower_good {x : PwrUnit} (hunit : unitAt (c.pf 0 31 0) = some x) (hstatus : s.unitStatus x (c.pf 0 32 32 == 1) = none) :
    s.unitPower c = (s.unitReq x (c.pf 0 32 32 == 1) (cmdKey s c)).1.reply c
      (if (s.unitReq x (c.pf 0 32 32 == 1) (cmdKey s c)).2 then stDeferred else stOk) [] := by
  unfold State.unitPower
  simp only [hunit, hstatus]

end

/-- Settles O58: each command runs from its queue, and its own law says what it does there. -/
theorem linkLightPlanAndPowerCommandsSucceed : Obligations.LinkLightPlanAndPowerCommandsSucceed := by
  unfold Obligations.LinkLightPlanAndPowerCommandsSucceed
  intro c s
  exact ⟨fun h hbad hstate hen => exec_runs (fun s => s.linkSet c) h (State.linkSet_disabled hbad hstate hen),
    fun h hl hnamed hwidth hnow hfit hplan =>
      exec_runs (fun s => s.linkWidth c) h (State.linkWidth_same hl hnamed hwidth hnow hfit hplan),
    fun h hl hup => exec_runs (fun s => s.linkRetrain c) h (State.linkRetrain_up hl hup),
    fun h hl hwant => ⟨fun hen hheld => exec_runs (fun s => s.linkStateSet c) h (State.linkStateSet_asked hl hwant hen hheld),
      fun hen => exec_runs (fun s => s.linkStateSet c) h (State.linkStateSet_changes hl hwant hen)⟩,
    fun h hlo hhi hserving hfenced => exec_runs (fun s => s.laserSet c) h (State.laserSet_attic hlo hhi hserving hfenced),
    fun h hn hlit hfree => exec_runs (fun s => s.laserSwap c) h (State.laserSwap_free hn hlit hfree),
    fun h hswaps hdark h0 h1 => exec_runs (fun s => s.laserCommission c) h (State.laserCommission_off hswaps hdark h0 h1),
    fun h hswaps hdark h0 h1 hlimit =>
      exec_runs (fun s => s.laserCommission c) h (State.laserCommission_carrier hswaps hdark h0 h1 hlimit),
    fun h hok hdark => exec_runs (fun s => s.threshSet c) h (State.threshSet_dark hok hdark),
    fun h hinterval => exec_runs (fun s => s.calSet c) h (State.calSet_interval hinterval),
    fun h hversion hlen hfails hlate hplans =>
      exec_runs (fun s => s.planLoad c) h (State.planLoad_good hversion hlen hfails hlate hplans),
    fun h hversion hpos hmax hlen hrsv hfails hlate hplans =>
      exec_runs (fun s => s.planDelta c) h (State.planDelta_good hversion hpos hmax hlen hrsv hfails hlate hplans),
    fun h hfree hlate hnone => exec_runs (fun s => s.settleSet c) h (State.settleSet_first hfree hlate hnone),
    fun h hstate => exec_runs (fun s => s.beatRealign c) h (State.beatRealign_unaligned hstate),
    fun h hbad hclr => exec_runs (fun s => s.skySet c) h (State.skySet_good hbad hclr),
    fun h hup hcal => exec_runs (fun s => s.skyCalCmd c) h (State.skyCalCmd_free hup hcal),
    fun h hcache => exec_runs (fun s => s.pointSet c) h (State.pointSet_matrix hcache),
    fun h hlo hhi => exec_runs (fun s => s.capSet c) h (State.capSet_fits hlo hhi),
    fun x h hunit hstatus => exec_runs (fun s => s.unitPower c) h (State.unitPower_good hunit hstatus)⟩

end Sys2Proof.Machine
end

section
/-!
PROOFS. What the fault, security and configuration commands do where they succeed.
-/

namespace Sys2Proof.Machine

/-! ## Trips and faults -/

section
variable {c : Cmd} {s : State}

/-- A trip acknowledged: the package starts again. -/
def State.tripAcked (s : State) : State :=
  { ({ s with nv := { s.nv with trip := s.nv.trip.set 0 (putField (s.nv.trip.getD 0 0) (bit 4) 1) } } : State).showTrip with mode := .starting }

theorem State.tripAck_unheld (hmode : s.mode = .initHold) (henv : (s.tripAcked.reply c stOk []).startEnv = none) :
    s.tripAck c = s.tripAcked.reply c stOk [] := by
  unfold State.tripAck
  rw [if_neg (not_not.2 hmode)]
  unfold State.tripAcked at henv ⊢
  simp only [henv]

theorem State.tripAck_held {e : StartEnv} (hmode : s.mode = .initHold) (henv : (s.tripAcked.reply c stOk []).startEnv = some e) :
    s.tripAck c = (s.tripAcked.reply c stOk []).afterS3 e := by
  unfold State.tripAck
  rw [if_neg (not_not.2 hmode)]
  unfold State.tripAcked at henv ⊢
  simp only [henv]

/-- The words of log entries as bytes. -/
def State.logBytes (s : State) (is : List Nat) : List Byte := wordsToBytes (is.flatMap (fun i => (List.range 4).map (s.logWord i)))

theorem wordsToBytes_length (ws : List Word) : (wordsToBytes ws).length = 8 * ws.length := by
  rw [wordsToBytes, List.length_flatMap, List.map_congr_left fun w _ => natToBytes_length 8 w.toNat, List.map_const', List.sum_replicate_nat,
    Nat.mul_comm]

theorem State.logBytes_isEmpty {is : List Nat} (h : is ≠ []) : (s.logBytes is).isEmpty = false := by
  obtain ⟨i, rest, rfl⟩ := List.exists_cons_of_ne_nil h
  rw [List.isEmpty_eq_false_iff_exists_mem, ← List.length_pos_iff_exists_mem, State.logBytes, wordsToBytes_length, List.flatMap_cons,
    List.length_append, List.length_map, List.length_range]
  omega

theorem State.faultRead_none (h : s.uncleared.take (c.pf 1 15 0) = []) : s.faultRead c = s.replyWritten c (some s) [0] := by
  unfold State.faultRead
  rw [h]
  rfl

theorem State.faultRead_some (h : s.uncleared.take (c.pf 1 15 0) ≠ []) : s.faultRead c =
    s.replyWritten c (s.cmdWrite (c.pf 0 47 0) (s.logBytes (s.uncleared.take (c.pf 1 15 0))))
      [BitVec.ofNat 64 (s.uncleared.take (c.pf 1 15 0)).length] :=
  congrArg (fun r => s.replyWritten c r _) (if_neg (Bool.eq_false_iff.1 (State.logBytes_isEmpty h)))

theorem State.faultClear_plain {f : FaultSource} (hf : faultSource (c.pf 0 15 0) = some f) (hsev : f.severity ≠ 2) :
    s.faultClear c = (s.clearCode f.code).reply c stOk [] := by
  unfold State.faultClear
  simp only [hf, hsev, if_false]

theorem State.faultClear_fatal {f : FaultSource} (hf : faultSource (c.pf 0 15 0) = some f) (hsev : f.severity = 2) :
    s.faultClear c = s.reply c stDenied [] := by
  unfold State.faultClear
  simp only [hf, hsev, if_true]

theorem State.reactionSet_keeps_forced {f : FaultSource} (hf : faultSource (c.pf 0 15 0) = some f)
    (hforced : c.pf 0 20 16 &&& f.forced = f.forced) :
    s.reactionSet c = (s.wf (FLT_REACT f.code) FLT_REACT_MASK (c.pf 0 20 16)).reply c stOk [] := by
  unfold State.reactionSet
  simp only [hf]
  exact if_neg (not_not.2 hforced)

theorem State.reactionSet_drops_forced {f : FaultSource} (hf : faultSource (c.pf 0 15 0) = some f)
    (hforced : c.pf 0 20 16 &&& f.forced ≠ f.forced) : s.reactionSet c = s.reply c stDenied [] := by
  unfold State.reactionSet
  simp only [hf]
  exact if_pos hforced

theorem State.fallbackLoad_replaces {bs : List Byte} {p : Nat} (hda : daWindow (c.pf 0 47 0) = 0) (hn : 64 ≤ c.pf 1 31 0)
    (hro : s.inReadonly (c.pf 0 47 0) (c.pf 1 31 0) = true) (hread : s.localRead (c.pf 0 47 0) (c.pf 1 31 0) = .ok bs)
    (hversion : (s.planHead (c.pf 0 47 0)).version = 1) (hsize : c.pf 1 31 0 = planBytes (s.planHead (c.pf 0 47 0)))
    (hkind : kindFits (s.planHead (c.pf 0 47 0)).kind (s.planHead (c.pf 0 47 0)).loc = true)
    (hbays : planBaysBad ((s.planHead (c.pf 0 47 0)).lostPkg == 0 || (s.planHead (c.pf 0 47 0)).lostPkg == s.pkg)
      (s.planHead (c.pf 0 47 0)).loc (s.planBays (c.pf 0 47 0)) = false)
    (hreloads : s.reloadsBad (s.planReloads (c.pf 0 47 0)) = false) (hnbay : (s.planHead (c.pf 0 47 0)).nbay ≠ 0)
    (hmatch : s.planMatch (s.planHead (c.pf 0 47 0)) = some p) :
    s.fallbackLoad c = (s.setPlan p (s.planHead (c.pf 0 47 0)) (c.pf 0 47 0)).reply c stOk [] := by
  unfold State.fallbackLoad
  simp only [hread, hmatch]
  rw [if_neg (by simp [hda, hn, hro]), if_neg (not_not.2 hversion), if_neg (by simp [← hsize, hkind, hbays, hreloads]),
    if_neg (fun h => hnbay h.1)]

theorem State.unfenceCmd_idle (hfenced : s.unitFenced (c.pf 0 31 0) = true) (hsteps : s.steps = []) : s.unfenceCmd c =
    (s.liftOn (c.pf 0 31 0) (cmdKey s c)).1.reply c (if (s.liftOn (c.pf 0 31 0) (cmdKey s c)).2 then stDeferred else stOk) [] := by
  unfold State.unfenceCmd
  rw [if_neg (by simp [hfenced]), if_neg (by simp [hsteps])]

theorem State.faultInject_fits (h : reportFits (c.pf 0 15 0) (c.pf 1 31 0) = true) : s.faultInject c =
    ({ ({ s with injecting := true } : State).detect (c.pf 0 15 0) (c.pf 1 31 0) 0 with injecting := false } : State).reply c stOk [] :=
  if_neg (by simp [h])

/-! ## Authentication -/

/-- A challenge of four drawn words on a command's channel. -/
def State.challenged (s : State) (c : Cmd) : State :=
  let v := (s.drawWords 4).2.dropChallenges c.ringId
  { v with challenges := v.challenges ++ [{ ring := c.ringId, role := c.pf 0 1 0, nonce := (s.drawWords 4).1, frame := v.frame }] }

theorem State.authChallenge_good (hrole : c.pf 0 1 0 ≠ 0) (hfwd : isForwarded c = false) (hlock : s.lockout = none)
    (hentropy : s.entropyFail = false) : s.authChallenge c = (s.challenged c).reply c stOk (s.drawWords 4).1 := by
  unfold State.authChallenge
  rw [if_neg (by simp [hrole, hfwd]), if_neg (by simp [hlock]), if_neg (by simp [hentropy])]
  rfl

/-- The role that an answered challenge grants. -/
def State.granted (s : State) (c : Cmd) (x : Challenge) : State :=
  let v := ((s.dropChallenges c.ringId).setRole c x.role).wf SEC_AUTH SEC_AUTH_FAILS_NOW 0
  ({ v with denials := 0 } : State).auditRec 1 x.role 0 0 v.pkg c.ringId 0 0 (c.p 0) (c.p 1)

theorem State.authResponse_unasked (hfwd : isForwarded c = false) (hnone : s.challenges.find? (fun x => x.ring == c.ringId) = none) :
    s.authResponse c = (s.dropChallenges c.ringId).authDenied c := by
  unfold State.authResponse
  rw [if_neg (by simp [hfwd])]
  simp only [hnone]

theorem State.authResponse_wrong {x : Challenge} (hfwd : isForwarded c = false)
    (hx : s.challenges.find? (fun x => x.ring == c.ringId) = some x) (hok : s.responseOk c x = false) :
    s.authResponse c = (s.dropChallenges c.ringId).authDenied c := by
  unfold State.authResponse
  rw [if_neg (by simp [hfwd])]
  simp only [hx, hok, Bool.false_and, Bool.false_eq_true, if_false]

theorem State.authResponse_right {x : Challenge} (hfwd : isForwarded c = false) (hguest : ∀ g, c.via ≠ .guest g)
    (hx : s.challenges.find? (fun x => x.ring == c.ringId) = some x) (hok : s.responseOk c x = true) :
    s.authResponse c = (s.granted c x).reply c stOk [] := by
  unfold State.authResponse
  rw [if_neg (by simp [hfwd])]
  simp only [hx, hok, Bool.true_and]
  cases hvia : c.via with
  | guest g => exact absurd hvia (hguest g)
  | _ => rfl

theorem State.authDrop_good (hfwd : isForwarded c = false) : s.authDrop c =
    ((s.auditRec 2 (s.chanRole c) 0 0 s.pkg c.ringId 0 0 0 0).setRole c 0).reply c stOk [] :=
  if_neg (by simp [hfwd])

/-! ## Images and the configuration -/

/-- The bytes of an image that is kept: its header and its body. -/
def imageCut (bs : List Byte) : List Byte := bs.take (4096 + (imageBody bs).length)

/-- The firmware entry of an image. -/
def fwEntry (bs : List Byte) : FwImage :=
  { verdict := 1, svn := imageSvn (imageCut bs), version := imageWord (imageCut bs) 2, digest := sha256 (imageCut bs) }

/-- A firmware image in the NV store. -/
def State.fwStored (s : State) (slot : Nat) (x : FwImage) : State :=
  if slot = 0 then { s with nv := { s.nv with fwA := x } } else { s with nv := { s.nv with fwB := x } }

theorem State.fwInstall_sound {bs : List Byte} {v : State} (hsteps : s.nv.lifecycle ≠ 2 ∨ s.steps = [])
    (hread : s.readImage (c.pf 0 47 0) (c.pf 1 31 0) = some (bs, v)) (hsound : imageSound 0 bs = true)
    (hsigner : imageSigner bs = Config.fwRoot) (hsvn : s.nv.svnFw ≤ imageSvn bs) (hnv : v.nv = s.nv) : s.fwInstall c =
      (v.fwStored (c.pf 2 0 0) (fwEntry bs)).replyWith c stOk [] (imageWord (imageCut bs) 4) (imageWord (imageCut bs) 5) := by
  have hidle : ¬ (s.nv.lifecycle = 2 ∧ (!s.steps.isEmpty) = true) := by
    rintro ⟨hlife, hbusy⟩
    rcases hsteps with h | h
    · exact h hlife
    · simp [h] at hbusy
  unfold State.fwInstall
  rw [if_neg hidle]
  simp only [hread]
  rw [if_neg (by simp [hsound, hsigner]), if_neg (by rw [hnv]; exact Nat.not_lt.2 hsvn)]
  rfl

/-- A configuration image in the NV store. -/
def NvStore.configured (nv : NvStore) (bs : List Byte) : NvStore :=
  { nv with cfg := .image (imageCut bs), signer := some (imageSigner (imageCut bs)), bootRoles := (cfgReg (imageBody bs) PCH_CFG).getD 0,
            bootBridge := getField ((cfgReg (imageBody bs) HRT_PKGID).getD 0) HRT_PKGID_BRIDGE == 1 }

/-- A configuration image kept, and the security registers that show it. -/
def State.configStored (s : State) (bs : List Byte) : State := ({ s with nv := s.nv.configured bs } : State).showSec

theorem State.setReg_bytes (s : State) (a : Nat) (v : Word) : BytesKept s (s.setReg a v) := .of_eq rfl rfl rfl rfl

theorem State.showSec_bytes (s : State) : BytesKept s s.showSec := by
  unfold State.showSec State.wf State.wfs
  exact ((State.setReg_bytes _ _ _).trans (State.setReg_bytes _ _ _)).trans (State.setReg_bytes _ _ _)

theorem State.showSec_nv (s : State) : s.showSec.nv = s.nv := by
  unfold State.showSec
  exact (State.wf_nv _ _ _ _).trans ((State.setReg_nv _ _ _).trans (State.wfs_nv _ _ _))

theorem State.withNv_bytes (s : State) (nv : NvStore) : BytesKept s { s with nv := nv } := .of_eq rfl rfl rfl rfl

theorem State.configStored_bytes (s : State) (bs : List Byte) : BytesKept s (s.configStored bs) :=
  (State.withNv_bytes s (s.nv.configured bs)).trans (State.showSec_bytes _)

theorem State.configStored_nv (s : State) (bs : List Byte) : (s.configStored bs).nv = s.nv.configured bs := State.showSec_nv _

/-- What CONFIG_WRITE answers an image it can read, and what it keeps of it. -/
theorem State.configWrite_read {bs : List Byte} {v : State} (hread : s.readImage (c.pf 0 47 0) (c.pf 1 31 0) = some (bs, v)) :
    s.configWrite c =
      if !(imageSound 1 bs && v.signerOk bs && decide (v.nv.svnCfg ≤ imageSvn bs) && cfgSound (imageBody bs)) then v.reply c stBadParam []
      else (v.configStored bs).replyWith c stOk [] (imageWord (imageCut bs) 4) (imageWord (imageCut bs) 5) := by
  unfold State.configWrite State.configStored NvStore.configured imageCut
  simp only [hread]

theorem State.configWrite_unsound {bs : List Byte} {v : State} (hread : s.readImage (c.pf 0 47 0) (c.pf 1 31 0) = some (bs, v))
    (h : imageSound 1 bs = false ∨ v.signerOk bs = false ∨ imageSvn bs < v.nv.svnCfg ∨ cfgSound (imageBody bs) = false) :
    s.configWrite c = v.reply c stBadParam [] := by
  refine (State.configWrite_read hread).trans (if_pos ?_)
  rcases h with h | h | h | h
  · simp [h]
  · simp [h]
  · simp [Nat.not_le.2 h]
  · simp [h]

theorem State.configWrite_sound {bs : List Byte} {v : State} (hread : s.readImage (c.pf 0 47 0) (c.pf 1 31 0) = some (bs, v))
    (hsound : imageSound 1 bs = true) (hsigner : v.signerOk bs = true) (hsvn : v.nv.svnCfg ≤ imageSvn bs)
    (hcfg : cfgSound (imageBody bs) = true) :
    s.configWrite c = (v.configStored bs).replyWith c stOk [] (imageWord (imageCut bs) 4) (imageWord (imageCut bs) 5) :=
  (State.configWrite_read hread).trans (if_neg (by simp [hsound, hsigner, hsvn, hcfg]))

theorem State.configRead_short (h : c.pf 1 31 0 < (cfgBytes s.cfgNow).length) : s.configRead c = s.reply c stCapacity [] := if_pos h

theorem State.configRead_fits (h : (cfgBytes s.cfgNow).length ≤ c.pf 1 31 0) :
    s.configRead c = s.replyWritten c (s.cmdWrite (c.pf 0 47 0) (cfgBytes s.cfgNow)) [] := if_neg (Nat.not_lt.2 h)

/-! ## The lifecycle, attestation and the audit log -/

/-- LIFECYCLE_SET of a state that there is. -/
theorem State.lifecycleSet_known (h : c.pf 0 2 0 < 5) : s.lifecycleSet c =
    if c.pf 0 2 0 = s.nv.lifecycle then s.dropLife.reply c stOk []
    else if !s.mayMove (c.pf 0 2 0) c.role then s.reply c stDenied []
    else if s.steps.isEmpty then (s.dropLife.reply c stOk []).moveLife (c.pf 0 2 0) c.role (originOf s c) c.ringId
    else ({ s.dropLife with lifePend := some (c.pf 0 2 0, c.tag, originOf s c, c.ringId) } : State).reply c stDeferred [] :=
  if_neg (Nat.not_le.2 h)

theorem State.attest_good {e : Nat} (he : s.spaceEnd (c.pf 4 47 0) = some e) (hroom : c.pf 4 47 0 + 2096 ≤ e)
    (hwrite : (s.cmdWrite (c.pf 4 47 0) (List.replicate 2096 0)).isSome = true) (hleaves : s.leavesLeft ≠ 0)
    (hlife : s.nv.lifecycle ≠ 4) (hentropy : s.entropyFail = false) :
    s.attest c = s.useLeaf.replyWritten c (s.useLeaf.cmdWrite (c.pf 4 47 0)
      (s.useLeaf.report320 s.nv.nextQ [c.p 0, c.p 1, c.p 2, c.p 3] ++
        idSign s.nv.nextQ (s.useLeaf.report320 s.nv.nextQ [c.p 0, c.p 1, c.p 2, c.p 3]))) [BitVec.ofNat 64 s.useLeaf.leavesLeft] := by
  have hnone : (s.cmdWrite (c.pf 4 47 0) (List.replicate 2096 0)).isNone = false := Option.isNone_eq_false_iff.2 hwrite
  unfold State.attest
  simp only [he]
  rw [if_neg (Nat.not_lt.2 hroom), if_neg (Bool.eq_false_iff.1 hnone), if_neg (by simp [hleaves, hlife]),
    if_neg (by simp [hentropy])]

end

/-- Settles O59: each command runs from its queue, and its own law says what it does there. -/
theorem faultAndSecurityCommandsSucceed : Obligations.FaultAndSecurityCommandsSucceed := by
  unfold Obligations.FaultAndSecurityCommandsSucceed
  intro c s
  refine ⟨fun e h hmode => ⟨fun henv => exec_runs (fun s => s.tripAck c) h (State.tripAck_unheld hmode henv),
      fun henv => exec_runs (fun s => s.tripAck c) h (State.tripAck_held hmode henv)⟩,
    fun h hnone => exec_runs (fun s => s.faultRead c) h (State.faultRead_none hnone),
    fun h hsome => exec_runs (fun s => s.faultRead c) h (State.faultRead_some hsome),
    fun f h hf hsev => exec_runs (fun s => s.faultClear c) h (State.faultClear_plain hf hsev),
    fun f h hf hsev => exec_runs (fun s => s.faultClear c) h (State.faultClear_fatal hf hsev),
    fun f h hf => ⟨fun hforced => exec_runs (fun s => s.reactionSet c) h (State.reactionSet_keeps_forced hf hforced),
      fun hforced => exec_runs (fun s => s.reactionSet c) h (State.reactionSet_drops_forced hf hforced)⟩,
    fun bs p h hda hn hro hread hversion hsize hkind hbays hreloads hnbay hmatch => exec_runs (fun s => s.fallbackLoad c) h
      (State.fallbackLoad_replaces hda hn hro hread hversion hsize hkind hbays hreloads hnbay hmatch),
    fun h hfenced hsteps => exec_runs (fun s => s.unfenceCmd c) h (State.unfenceCmd_idle hfenced hsteps),
    fun h hfits => exec_runs (fun s => s.faultInject c) h (State.faultInject_fits hfits),
    fun h hrole hfwd hlock hentropy =>
      exec_runs (fun s => s.authChallenge c) h (State.authChallenge_good hrole hfwd hlock hentropy),
    fun h hfwd => ⟨fun hnone => exec_runs (fun s => s.authResponse c) h (State.authResponse_unasked hfwd hnone),
      fun x hx hguest => ⟨fun hok => exec_runs (fun s => s.authResponse c) h (State.authResponse_wrong hfwd hx hok),
        fun hok => exec_runs (fun s => s.authResponse c) h (State.authResponse_right hfwd hguest hx hok)⟩⟩,
    fun h hfwd => exec_runs (fun s => s.authDrop c) h (State.authDrop_good hfwd),
    fun bs v h hsteps hread hsound hsigner hsvn hnv =>
      exec_runs (fun s => s.fwInstall c) h (State.fwInstall_sound hsteps hread hsound hsigner hsvn hnv),
    fun bs v h hread => ⟨fun hunsound => exec_runs (fun s => s.configWrite c) h (State.configWrite_unsound hread hunsound),
      fun hsound hsigner hsvn hcfg => ⟨v.configStored bs, _, _,
        exec_runs (fun s => s.configWrite c) h (State.configWrite_sound hread hsound hsigner hsvn hcfg),
        congrArg NvStore.cfg (State.configStored_nv v bs), (congrArg NvStore.svnCfg (State.configStored_nv v bs)).trans rfl,
        State.configStored_bytes v bs⟩⟩,
    fun h => ⟨fun hshort => exec_runs (fun s => s.configRead c) h (State.configRead_short hshort),
      fun hfits => exec_runs (fun s => s.configRead c) h (State.configRead_fits hfits)⟩,
    fun h hknown => ⟨fun hsame => exec_runs (fun s => s.lifecycleSet c) h ((State.lifecycleSet_known hknown).trans (if_pos hsame)),
      fun hnew hdeny => ?_, fun hnew hmay => ⟨fun hsteps => ?_, fun hsteps => ?_⟩⟩,
    fun e h he hroom hwrite hleaves hlife hentropy =>
      exec_runs (fun s => s.attest c) h (State.attest_good he hroom hwrite hleaves hlife hentropy),
    fun h => exec_runs (fun s => s.auditRead c) h rfl⟩
  · exact exec_runs (fun s => s.lifecycleSet c) h
      ((State.lifecycleSet_known hknown).trans ((if_neg hnew).trans (if_pos (by simp [hdeny]))))
  · exact exec_runs (fun s => s.lifecycleSet c) h
      ((State.lifecycleSet_known hknown).trans ((if_neg hnew).trans ((if_neg (by simp [hmay])).trans (if_pos (by simp [hsteps])))))
  · exact exec_runs (fun s => s.lifecycleSet c) h
      ((State.lifecycleSet_known hknown).trans ((if_neg hnew).trans ((if_neg (by simp [hmay])).trans (if_neg (by simp [hsteps])))))

end Sys2Proof.Machine
end

section
/-!
PROOFS. The Hearth pair (R444 to R446, R449, R452).
-/

namespace Sys2Proof.Machine

/-! ## The state of a Hearth -/

theorem State.hearth_setHearth_same (s : State) (hb : Bool) (n : Nat) : (s.setHearth hb n).hearth hb = n % 16 := by
  cases hb
  · exact State.rf_wf_same _ _ _ _ (by decide)
  · exact State.rf_wf_same _ _ _ _ (by decide)

theorem State.hearth_setHearth_other (s : State) {hb hb' : Bool} (n : Nat) (h : hb' ≠ hb) : (s.setHearth hb n).hearth hb' = s.hearth hb' := by
  cases hb <;> cases hb'
  · exact absurd rfl h
  · exact State.rf_wf_field _ _ _ _ _ (by decide) (by decide)
  · exact State.rf_wf_field _ _ _ _ _ (by decide) (by decide)
  · exact absurd rfl h

theorem State.setHearth_reg (s : State) (hb : Bool) (n : Nat) {a : Nat} (h : a ≠ HRT_HSTATUS) : (s.setHearth hb n).reg a = s.reg a :=
  State.reg_wf_other _ _ _ h

theorem State.setHearth_bytes (s : State) (hb : Bool) (n : Nat) : BytesKept s (s.setHearth hb n) := State.wf_bytes _ _ _ _

/-- Another field of the pair's status says nothing of a Hearth. -/
theorem State.hearth_wf (s : State) (hb : Bool) (f : Field) (n : Nat) (hA : fieldsApart f HRT_HSTATUS_HA_STATE)
    (hB : fieldsApart f HRT_HSTATUS_HB_STATE) : (s.wf HRT_HSTATUS f n).hearth hb = s.hearth hb := by
  cases hb
  · exact State.rf_wf_field _ _ _ _ _ (by decide) hA
  · exact State.rf_wf_field _ _ _ _ _ (by decide) hB

theorem State.paired_wf (s : State) : (s.wf HRT_HSTATUS HRT_HSTATUS_PAIRED 1).paired = true := by
  rw [State.paired, State.rf_wf_same _ _ _ _ (by decide)]
  rfl

theorem State.unpaired_wf (s : State) : (s.wf HRT_HSTATUS HRT_HSTATUS_PAIRED 0).paired = false := by
  rw [State.paired, State.rf_wf_same _ _ _ _ (by decide)]
  rfl

theorem State.showFence_pair (s : State) (l v : Nat) : (s.showFence l v).pair = s.pair := by
  unfold State.showFence
  split
  · split
    · rfl
    · split <;> rfl
  · split <;> rfl
  · rfl
  · rfl

/-! ## Heartbeats -/

theorem exec_heartbeat (hb : Bool) (e n : Nat) (s : State) : exec (.heartbeat hb e n) s = .next (s.heartbeat hb e) := rfl

section
variable {s : State}

theorem State.heartbeat_off (hb : Bool) (e : Nat) (h : s.mode = .off) : s.heartbeat hb e = s := if_pos h

theorem State.heartbeat_inOffice (h : s.mode ≠ .off) :
    s.heartbeat s.activeHb s.epoch = { s with pair := { s.pair with silent := 0, heard := true } } := by
  rw [State.heartbeat, if_neg h, if_pos rfl, if_pos rfl]

theorem State.heartbeat_otherEpoch {e : Nat} (h : e ≠ s.epoch) : s.heartbeat s.activeHb e = s := by
  rw [State.heartbeat, if_pos rfl, if_neg h, ite_self]

theorem State.heartbeat_peer (hb : Bool) (e : Nat) (h : hb ≠ s.activeHb) (hmode : s.mode ≠ .off) : s.heartbeat hb e =
    if s.pair.stale && decide (e < s.epoch) then
      (({ s with pair := { s.pair with stale := false } } : State).unfence (hearthLoc hb)).setHearth hb hsCheck
    else s := by
  rw [State.heartbeat, if_neg hmode, if_neg h]

theorem State.heartbeat_notStale {e : Nat} (h : s.pair.stale = false ∨ s.epoch ≤ e) : s.heartbeat (!s.activeHb) e = s := by
  by_cases hmode : s.mode = .off
  · exact State.heartbeat_off _ _ hmode
  · rw [State.heartbeat_peer _ _ (Bool.not_ne_self _) hmode, if_neg]
    rcases h with h | h
    · simp [h]
    · simp [Nat.not_lt.2 h]

theorem State.heartbeat_stale {e : Nat} (hmode : s.mode ≠ .off) (hstale : s.pair.stale = true) (he : e < s.epoch) :
    (s.heartbeat (!s.activeHb) e).hearth (!s.activeHb) = hsCheck ∧
      (s.heartbeat (!s.activeHb) e).pair = { s.pair with stale := false } := by
  rw [State.heartbeat_peer _ _ (Bool.not_ne_self _) hmode, if_pos (by simp [hstale, he])]
  exact ⟨State.hearth_setHearth_same _ _ _, (State.wf_pair _ _ _ _).trans (State.showFence_pair _ _ _)⟩

/-! ## Digests -/

theorem exec_digestCompare (n : Nat) (d : Word) (s : State) : exec (.digestCompare n d) s =
    .next (if s.mode != .off && s.paired && s.hearth (!s.activeHb) == hsStandby && d != Config.outDigest s.epoch n
      then s.mismatch else s) := rfl

theorem exec_digestTimeout (k : Nat) (s : State) : exec (.digestTimeout k) s =
    .next (if s.mode != .off && s.paired && s.hearth (!s.activeHb) == hsStandby then s.mismatch else s) := rfl

theorem State.mismatch_hearth (s : State) (hb : Bool) : s.mismatch.hearth hb = hsCheck := by
  cases hb
  · exact (State.hearth_setHearth_other _ _ (by decide)).trans (State.hearth_setHearth_same _ _ _)
  · exact State.hearth_setHearth_same _ _ _

theorem State.mismatch_reg (s : State) {a : Nat} (h : a ≠ HRT_HSTATUS) : s.mismatch.reg a = s.reg a :=
  (State.setHearth_reg _ _ _ h).trans (State.setHearth_reg _ _ _ h)

theorem State.mismatch_bytes (s : State) : BytesKept s s.mismatch := (State.setHearth_bytes _ _ _).trans (State.setHearth_bytes _ _ _)

/-! ## The self-check -/

theorem exec_selfcheck (p q : Bool) (s : State) : exec (.selfcheck p q) s = .next (s.selfcheck p q) := rfl

theorem State.selfcheck_unasked (p q : Bool) (h : s.mode = .off ∨ s.hearth (!s.activeHb) ≠ hsCheck) : s.selfcheck p q = s := if_pos h

theorem State.selfcheck_standby (p q : Bool) (hmode : s.mode ≠ .off) (hother : s.hearth (!s.activeHb) = hsCheck)
    (hactive : s.hearth s.activeHb ≠ hsCheck) :
    s.selfcheck p q = if q then s.setHearth (!s.activeHb) hsResync else s.loseHearth (!s.activeHb) := by
  unfold State.selfcheck
  exact (if_neg (fun h => h.elim hmode fun h => h hother)).trans (if_pos hactive)

/-- The pair after both checked themselves and both passed. -/
def State.diverged (s : State) : State :=
  (((s.setHearth s.activeHb hsActive).setHearth (!s.activeHb) hsResync).wf HRT_HSTATUS HRT_HSTATUS_PAIRED 0).satf HRT_HSTATUS
    HRT_HSTATUS_DIVERGES 1

theorem State.diverged_active (s : State) : s.diverged.hearth s.activeHb = hsActive := by
  rw [State.diverged, State.satf, State.hearth_wf _ _ _ _ (by decide) (by decide), State.hearth_wf _ _ _ _ (by decide) (by decide),
    State.hearth_setHearth_other _ _ (Bool.not_ne_self _).symm, State.hearth_setHearth_same]
  rfl

theorem State.diverged_other (s : State) : s.diverged.hearth (!s.activeHb) = hsResync := by
  rw [State.diverged, State.satf, State.hearth_wf _ _ _ _ (by decide) (by decide), State.hearth_wf _ _ _ _ (by decide) (by decide),
    State.hearth_setHearth_same]
  rfl

theorem State.diverged_paired (s : State) : s.diverged.paired = false := by
  rw [State.diverged, State.satf, State.paired, State.rf_wf_field _ _ _ _ _ (by decide) (by decide), ← State.paired, State.unpaired_wf]

theorem State.diverged_fences (s : State) : s.diverged.fences = s.fences := by
  unfold State.diverged State.setHearth
  simp only [State.satf_fences, State.wf_fences]

section
variable (hmode : s.mode ≠ .off) (hother : s.hearth (!s.activeHb) = hsCheck) (hactive : s.hearth s.activeHb = hsCheck)
include hmode hother hactive

theorem State.selfcheck_both_pass : s.selfcheck true true = s.diverged.raise F_DIVERGE locPackage 0 := by
  unfold State.selfcheck
  exact (if_neg (fun h => h.elim hmode fun h => h hother)).trans (if_neg (not_not.2 hactive))

theorem State.selfcheck_other_fails : s.selfcheck true false = (s.setHearth s.activeHb hsActive).loseHearth (!s.activeHb) := by
  unfold State.selfcheck
  exact (if_neg (fun h => h.elim hmode fun h => h hother)).trans (if_neg (not_not.2 hactive))

theorem State.selfcheck_both_fail : s.selfcheck false false = s.loseHearths := by
  unfold State.selfcheck
  exact (if_neg (fun h => h.elim hmode fun h => h hother)).trans (if_neg (not_not.2 hactive))

end

/-! ## Silence and resynchronisation -/

theorem exec_heartbeatMissing (s : State) : exec .heartbeatMissing s = .next s.heartbeatMissing := rfl

theorem State.heartbeatMissing_early (h : s.mode = .off ∨ s.pair.silent < 2) : s.heartbeatMissing = s := if_pos h

theorem State.heartbeatMissing_silent (hmode : s.mode ≠ .off) (h : 2 ≤ s.pair.silent) : s.heartbeatMissing =
    if s.hearth (!s.activeHb) = hsStandby ∨ s.hearth (!s.activeHb) = hsCheck then s.takeover else s.loseHearths :=
  if_neg fun h' => h'.elim hmode (Nat.not_lt.2 h)

theorem exec_resyncComplete (hb : Bool) (s : State) : exec (.resyncComplete hb) s =
    .next (if s.mode != .off && s.hearth hb == hsResync then (s.setHearth hb hsStandby).wf HRT_HSTATUS HRT_HSTATUS_PAIRED 1 else s) := rfl

end

/-- Settles O49: each event of the pair acts where its condition holds, and there on the two Hearths alone. -/
theorem hearthPairAgreesOrTakesOver : Obligations.HearthPairAgreesOrTakesOver := by
  unfold Obligations.HearthPairAgreesOrTakesOver
  intro hb p q e n k d s
  refine ⟨fun hoff => ⟨?_, ?_, ?_, ?_, ?_, ?_⟩, fun hmode => ?_, fun he => ?_, fun h => ?_, fun hmode hstale he => ?_,
    fun hmode hpaired hstandby => ⟨fun hd => ?_, ?_⟩, fun h => ⟨?_, ?_⟩, fun h => ?_,
    fun hmode hother hactive => ⟨?_, ?_⟩, fun hmode hother hactive => ⟨?_, ?_, ?_⟩, fun h => ?_, fun hmode h hstandby => ?_,
    fun hmode h hstandby hcheck => ?_, fun h => ?_, fun hmode h => ?_⟩
  · rw [exec_heartbeat, State.heartbeat_off _ _ hoff]
  · rw [exec_digestCompare, if_neg (by simp [hoff])]
  · rw [exec_digestTimeout, if_neg (by simp [hoff])]
  · rw [exec_selfcheck, State.selfcheck_unasked _ _ (.inl hoff)]
  · rw [exec_heartbeatMissing, State.heartbeatMissing_early (.inl hoff)]
  · rw [exec_resyncComplete, if_neg (by simp [hoff])]
  · rw [exec_heartbeat, State.heartbeat_inOffice hmode]
  · rw [exec_heartbeat, State.heartbeat_otherEpoch he]
  · rw [exec_heartbeat, State.heartbeat_notStale h]
  · exact ⟨_, rfl, State.heartbeat_stale hmode hstale he⟩
  · refine ⟨s.mismatch, ?_, ?_, State.mismatch_hearth _ _, State.mismatch_hearth _ _, fun r hr => State.mismatch_reg _ hr,
      State.mismatch_bytes _⟩
    · rw [exec_digestCompare, if_pos (by simp [hmode, hpaired, hstandby, hd])]
    · rw [exec_digestTimeout, if_pos (by simp [hmode, hpaired, hstandby])]
  · rw [exec_digestCompare, if_neg (by simp)]
  · rw [exec_digestCompare, if_neg (by rcases h with h | h <;> simp [h])]
  · rw [exec_digestTimeout, if_neg (by rcases h with h | h <;> simp [h])]
  · rw [exec_selfcheck, State.selfcheck_unasked _ _ (.inr h)]
  · refine ⟨s.setHearth (!s.activeHb) hsResync, ?_, State.hearth_setHearth_same _ _ _,
      State.hearth_setHearth_other _ _ (Bool.not_ne_self _).symm, fun r hr => State.setHearth_reg _ _ _ hr⟩
    rw [exec_selfcheck, State.selfcheck_standby _ _ hmode hother hactive]
    rfl
  · rw [exec_selfcheck, State.selfcheck_standby _ _ hmode hother hactive]
    rfl
  · exact ⟨s.diverged, (exec_selfcheck ..).trans (congrArg _ (State.selfcheck_both_pass hmode hother hactive)), s.diverged_active,
      s.diverged_other, s.diverged_paired, s.diverged_fences⟩
  · rw [exec_selfcheck, State.selfcheck_other_fails hmode hother hactive]
  · rw [exec_selfcheck, State.selfcheck_both_fail hmode hother hactive]
  · rw [exec_heartbeatMissing, State.heartbeatMissing_early (.inr h)]
  · rw [exec_heartbeatMissing, State.heartbeatMissing_silent hmode h, if_pos (.inl hstandby)]
  · rw [exec_heartbeatMissing, State.heartbeatMissing_silent hmode h, if_neg (fun h => h.elim hstandby hcheck)]
  · rw [exec_resyncComplete, if_neg (by simp [h])]
  · refine ⟨(s.setHearth hb hsStandby).wf HRT_HSTATUS HRT_HSTATUS_PAIRED 1, ?_, ?_, State.paired_wf _,
      fun r hr => (State.reg_wf_other _ _ _ hr).trans (State.setHearth_reg _ _ _ hr),
      (State.setHearth_bytes _ _ _).trans (State.wf_bytes _ _ _ _)⟩
    · rw [exec_resyncComplete, if_pos (by simp [hmode, h])]
    · rw [State.hearth_wf _ _ _ _ (by decide) (by decide), State.hearth_setHearth_same]
      rfl

end Sys2Proof.Machine
end

section
/-!
PROOFS. The security clocks (R505, R510, R515).
-/

namespace Sys2Proof.Machine

/-! ## The entropy of a Hearth -/

/-- A state with a reseed of a Hearth waiting. -/
def State.reseedWaits (s : State) (hb : Bool) : State := if hb then { s with drbgB := true } else { s with drbgA := true }

theorem State.reseedWaits_mgmt (s : State) (hb : Bool) : (s.reseedWaits hb).mgmt = s.mgmt := by
  cases hb <;> rfl

theorem State.reseedWaits_bytes (s : State) (hb : Bool) : BytesKept s (s.reseedWaits hb) := by
  cases hb <;> exact .of_eq rfl rfl rfl rfl

theorem State.reseedWaits_drbg (s : State) (hb : Bool) : (if hb then (s.reseedWaits hb).drbgB else (s.reseedWaits hb).drbgA) = true := by
  cases hb <;> rfl

theorem State.activeHb_congr {s t : State} (h : t.reg HRT_HSTATUS = s.reg HRT_HSTATUS) : t.activeHb = s.activeHb := by
  rw [State.activeHb, State.activeHb, State.rf, State.rf, h]

/-- A reseed that waits, on the standby and on the active Hearth. -/
theorem State.setEntropy_waits (s : State) (hb : Bool) : s.setEntropy hb true =
    if hb = s.activeHb then (s.reseedWaits hb).wf SEC_STATUS SEC_STATUS_ENTROPY_FAIL 1 else s.reseedWaits hb := by
  cases hb <;> rfl

/-- The facts about a reseed that waits which hold of either Hearth. -/
structure EntropyFailed (hb : Bool) (s t : State) : Prop where
  waits : (if hb then t.drbgB else t.drbgA) = true
  shown : hb = s.activeHb → t.rf SEC_STATUS SEC_STATUS_ENTROPY_FAIL = 1
  active : t.activeHb = s.activeHb
  bytes : BytesKept s t
  regs : ∀ a, a ≠ SEC_STATUS → a ≠ SEC_ENTROPY → t.reg a = s.reg a

theorem State.setEntropy_failed (s : State) (hb : Bool) : EntropyFailed hb s (s.setEntropy hb true) := by
  have hreg (a : Nat) : (s.reseedWaits hb).reg a = s.reg a := by
    rw [State.reg, State.reseedWaits_mgmt, State.reg]
  rw [State.setEntropy_waits]
  split
  · have hwf (a : Nat) (h : a ≠ SEC_STATUS) : ((s.reseedWaits hb).wf SEC_STATUS SEC_STATUS_ENTROPY_FAIL 1).reg a = s.reg a :=
      (State.reg_wf_other _ _ _ h).trans (hreg a)
    exact ⟨s.reseedWaits_drbg hb, fun _ => State.rf_wf_same _ _ _ _ (by decide), State.activeHb_congr (hwf _ (by decide)),
      (s.reseedWaits_bytes hb).trans (State.wf_bytes _ _ _ _), fun a h _ => hwf a h⟩
  · rename_i hother
    exact ⟨s.reseedWaits_drbg hb, fun h => absurd h hother, State.activeHb_congr (hreg _), s.reseedWaits_bytes hb, fun a _ _ => hreg a⟩

/-- A count is one of the block that is shown or of the other. -/
theorem State.entropyCount_cases (s : State) (hb : Bool) (f : Field) (saturates : Bool) :
    (∃ v, s.entropyCount hb f saturates = s.setReg SEC_ENTROPY v) ∨
      ∃ v, s.entropyCount hb f saturates = { s with entropyOther := v } := by
  by_cases h : hb = s.activeHb
  · exact .inl ⟨_, if_pos h⟩
  · exact .inr ⟨_, if_neg h⟩

/-- A count of the security block shows nothing of a reseed. -/
theorem State.entropyCount_failed {s t : State} {hb : Bool} (h : EntropyFailed hb s t) (f : Field) (saturates : Bool) :
    EntropyFailed hb s (t.entropyCount hb f saturates) := by
  obtain ⟨hwaits, hshown, hactive, hbytes, hregs⟩ := h
  rcases State.entropyCount_cases t hb f saturates with ⟨v, hv⟩ | ⟨v, hv⟩ <;> rw [hv]
  · have hset (a : Nat) (v : Word) (h : a ≠ SEC_ENTROPY) : (t.setReg SEC_ENTROPY v).reg a = t.reg a := State.reg_setReg_other _ _ h
    exact ⟨hwaits, fun h => (State.rf_setReg_other _ _ _ (by decide)).trans (hshown h),
      (State.activeHb_congr (hset _ _ (by decide))).trans hactive, hbytes.trans (State.setReg_bytes _ _ _),
      fun a h h' => (hset a _ h').trans (hregs a h h')⟩
  · exact ⟨hwaits, hshown, hactive, hbytes.trans (.of_eq rfl rfl rfl rfl), hregs⟩

theorem exec_drbgReseed (hb pass : Bool) (s : State) : exec (.drbgReseed hb pass) s = .next (s.drbgReseed hb pass) := rfl

theorem State.drbgReseed_fails {s : State} (hb : Bool) (h : s.mode ≠ .off) : EntropyFailed hb s (s.drbgReseed hb false) := by
  have hdraw : EntropyFailed hb s (s.draw.2.setEntropy hb true) := by
    obtain ⟨hwaits, hshown, hactive, hbytes, hregs⟩ := State.setEntropy_failed s.draw.2 hb
    exact ⟨hwaits, hshown, hactive, hbytes, hregs⟩
  unfold State.drbgReseed
  rw [if_neg h, if_neg Bool.false_ne_true]
  exact State.entropyCount_failed hdraw _ _

theorem exec_entropySamplePass (hb : Bool) (s : State) : exec (.entropySamplePass hb) s =
    .next (if s.mode != .off && (if hb then s.drbgB else s.drbgA) then s.reseeded hb else s) := rfl

/-! ## The lockout and the lifecycle -/

theorem exec_lockoutEnd_none {s : State} (h : s.lockout = none) : exec .lockoutEnd s = .next s := by
  change execLockoutEnd s = _
  simp only [execLockoutEnd, h]

/-- The lockout ended. -/
def State.unlocked (s : State) : State :=
  (({ s with lockout := none, denials := 0 } : State).wf SEC_STATUS SEC_STATUS_LOCKOUT 0).wf SEC_AUTH SEC_AUTH_FAILS_NOW 0

theorem exec_lockoutEnd {s : State} {f : Nat} (h : s.lockout = some f) :
    exec .lockoutEnd s = .next (if frameReached s.frame f then s.unlocked else s) := by
  change execLockoutEnd s = _
  simp only [execLockoutEnd, h]
  rfl

theorem State.unlocked_reg (s : State) {a : Nat} (h : a ≠ SEC_STATUS) (h' : a ≠ SEC_AUTH) : s.unlocked.reg a = s.reg a :=
  (State.reg_wf_other _ _ _ h').trans (State.reg_wf_other _ _ _ h)

theorem State.unlocked_lockout (s : State) : s.unlocked.rf SEC_STATUS SEC_STATUS_LOCKOUT = 0 :=
  (State.rf_wf_other _ _ _ _ (by decide)).trans (State.rf_wf_same _ _ _ _ (by decide))

theorem State.unlocked_fails (s : State) : s.unlocked.rf SEC_AUTH SEC_AUTH_FAILS_NOW = 0 := State.rf_wf_same _ _ _ _ (by decide)

theorem State.unlocked_bytes (s : State) : BytesKept s s.unlocked :=
  (BytesKept.of_eq rfl rfl rfl rfl : BytesKept s { s with lockout := none, denials := 0 }).trans
    ((State.wf_bytes _ _ _ _).trans (State.wf_bytes _ _ _ _))

theorem exec_lifecycleTransition_waits {s : State} (h : s.lifePend = none ∨ s.steps ≠ []) : exec .lifecycleTransition s = .next s := by
  change execLifecycleTransition s = _
  rw [execLifecycleTransition]
  cases hlife : s.lifePend with
  | none => rfl
  | some x =>
    have hsteps : s.steps ≠ [] := h.resolve_left (by simp [hlife])
    exact congrArg _ (if_neg (by simp [hsteps]))

theorem exec_lifecycleTransition {s : State} {new tag origin ring : Nat} (h : s.lifePend = some (new, tag, origin, ring))
    (hsteps : s.steps = []) : exec .lifecycleTransition s =
      .next ((s.applied tag origin ring 0x720 stOk false).moveLife new (if new ≤ 1 then 3 else 2) origin ring) := by
  change execLifecycleTransition s = _
  simp only [execLifecycleTransition, h, hsteps, List.isEmpty_nil, if_true]

/-- Settles O52: each clock acts when it has run out, on its own registers. -/
theorem securityClocksRunOut : Obligations.SecurityClocksRunOut := by
  unfold Obligations.SecurityClocksRunOut
  intro hb pass s
  refine ⟨fun hoff => ⟨?_, ?_⟩, fun hmode => ?_, fun hmode => ?_, fun h => ?_, fun hmode h => ?_, exec_lockoutEnd_none,
    fun f hf h => ?_, fun f hf h => ?_, exec_lifecycleTransition_waits, fun _ _ _ _ h hsteps => exec_lifecycleTransition h hsteps⟩
  · rw [exec_drbgReseed, State.drbgReseed, if_pos hoff]
  · rw [exec_entropySamplePass, if_neg (by simp [hoff])]
  · rw [exec_drbgReseed, State.drbgReseed, if_neg hmode, if_pos rfl]
  · obtain ⟨hwaits, hshown, -, hbytes, hregs⟩ := State.drbgReseed_fails hb hmode
    exact ⟨_, exec_drbgReseed .., hwaits, hshown, hbytes, hregs⟩
  · rw [exec_entropySamplePass, if_neg (by simp [h])]
  · rw [exec_entropySamplePass, if_pos (by simp [hmode, h])]
  · rw [exec_lockoutEnd hf, if_neg (Bool.eq_false_iff.1 h)]
  · exact ⟨s.unlocked, (exec_lockoutEnd hf).trans (congrArg _ (if_pos h)), rfl, rfl, s.unlocked_lockout, s.unlocked_fails,
      fun a ha ha' => State.unlocked_reg _ ha ha', s.unlocked_bytes⟩

end Sys2Proof.Machine
end

section
/-!
PROOFS. Skylight (R365, R368, R373, R377, R380, R381).
-/

namespace Sys2Proof.Machine

/-! ## An engine and what it shows -/

@[simp] theorem State.sky1_setSky_same (s : State) (c : Nat) (x : SkySt) : (s.setSky c x).sky1 c = x := sparseGet_set_same ..

theorem State.setSky_reg (s : State) (c : Nat) (x : SkySt) (a : Nat) : (s.setSky c x).reg a = s.reg a := rfl

theorem State.setSky_bytes (s : State) (c : Nat) (x : SkySt) : BytesKept s (s.setSky c x) := .of_eq rfl rfl rfl rfl

theorem State.setSky_frame (s : State) (c : Nat) (x : SkySt) : (s.setSky c x).frame = s.frame := rfl

theorem State.sky1_wf (s : State) (c a : Nat) (f : Field) (n : Nat) : (s.wf a f n).sky1 c = s.sky1 c := rfl

theorem State.skyShow_sky1 (s : State) (c : Nat) : (s.skyShow c).sky1 c = s.sky1 c := State.sky1_wf _ _ _ _ _

theorem State.skyShow_bytes (s : State) (c : Nat) : BytesKept s (s.skyShow c) := State.wf_bytes _ _ _ _

theorem State.skyShow_rf (s : State) (c : Nat) {a : Nat} (f : Field) (h : a ≠ SKY_STATUS c) : (s.skyShow c).rf a f = s.rf a f :=
  State.rf_wf_other _ _ _ _ h

theorem SKY_ERR_ne_SKY_STATUS (c : Nat) : SKY_ERR c ≠ SKY_STATUS c := by
  unfold SKY_ERR SKY_STATUS
  omega

theorem LSR_CARRIER_ne_SKY_STATUS (c : Casement) : LSR_CARRIER c.val 0 ≠ SKY_STATUS c.val := by
  unfold LSR_CARRIER SKY_STATUS
  omega

/-! ## The mailbox -/

section
variable {c : Casement} {s : State}

theorem exec_skyMailboxScan (c : Casement) (s : State) : exec (.skyMailboxScan c) s = .next (s.skyScan c.val) := rfl

theorem State.skyScan_waits (h : s.skyRuns c.val = false ∨ (s.sky1 c.val).job ≠ none) : s.skyScan c.val = s := by
  refine if_pos ?_
  rcases h with h | h
  · simp [h]
  · simp [Option.isSome_iff_ne_none.2 h]

/-- The indices of the valid records of a mailbox. -/
def State.validRecords (s : State) (c : Nat) : List Nat := (List.range 64).filter (fun i => (s.mboxRecord c i).isSome)

theorem State.skyScan_starts (hruns : s.skyRuns c.val = true) (hjob : (s.sky1 c.val).job = none) :
    s.skyScan c.val = (s.setSky c.val { s.sky1 c.val with found := s.validRecords c.val }).skyStart c.val :=
  if_neg (by simp [hruns, hjob])

theorem State.setSky_mboxRecord (s : State) (c : Nat) (x : SkySt) (i : Nat) : (s.setSky c x).mboxRecord c i = s.mboxRecord c i := rfl

theorem State.skyStart_empty (h : (s.sky1 c.val).found = []) : s.skyStart c.val = s := by
  unfold State.skyStart
  simp only [h]

theorem State.skyStart_busy {ws : List Word} {f : Nat} (h : (s.sky1 c.val).job = some (ws, f)) : s.skyStart c.val = s := by
  unfold State.skyStart
  simp only [h]
  cases (s.sky1 c.val).found <;> rfl

/-- A job taken from the record at an index. -/
def State.jobStarted (s : State) (c i : Nat) (ws : List Word) : State :=
  (s.setSky c { s.sky1 c with job := some (ws, s.frame), expired := false }).wf (SKY_STATUS c) SKY_STATUS_MBOX_IDX i

theorem State.skyStart_record {i : Nat} {rest : List Nat} {ws : List Word} (hfound : (s.sky1 c.val).found = i :: rest)
    (hjob : (s.sky1 c.val).job = none) (hws : s.mboxRecord c.val i = some ws) : s.skyStart c.val = s.jobStarted c.val i ws := by
  unfold State.skyStart State.jobStarted
  simp only [hfound, hjob, hws]

theorem State.jobStarted_sky1 (s : State) (c i : Nat) (ws : List Word) :
    (s.jobStarted c i ws).sky1 c = { s.sky1 c with job := some (ws, s.frame), expired := false } :=
  (State.sky1_wf _ _ _ _ _).trans (State.sky1_setSky_same _ _ _)

theorem State.jobStarted_bytes (s : State) (c i : Nat) (ws : List Word) : BytesKept s (s.jobStarted c i ws) :=
  (State.setSky_bytes _ _ _).trans (State.wf_bytes _ _ _ _)

theorem State.jobStarted_reg (s : State) (c i : Nat) (ws : List Word) {a : Nat} (h : a ≠ SKY_STATUS c) :
    (s.jobStarted c i ws).reg a = s.reg a := (State.reg_wf_other _ _ _ h).trans (State.setSky_reg _ _ _ _)

/-! ## Jobs -/

theorem exec_loadMatrix (c : Casement) (idx : Fin 64) (s : State) : exec (.loadMatrix c idx) s =
    .next (s.skyRun c.val idx.val 0 (fun s ws f => s.skyLoad c.val ws f)) := rfl

theorem exec_score (c : Casement) (idx : Fin 64) (e : ScoreEnv) (s : State) : exec (.score c idx e) s =
    .next (s.skyRun c.val idx.val 1 (fun s ws f => s.skyScoreJob c.val e ws f)) := rfl

theorem State.skyRun_other {idx kind : Nat} {run : State → List Word → Nat → State} (h : (s.sky1 c.val).found.head? ≠ some idx) :
    s.skyRun c.val idx kind run = s := by
  unfold State.skyRun
  simp only [h, if_false]
  cases hhead : (s.sky1 c.val).found.head? with
  | none => rfl
  | some i =>
    have hi : i ≠ idx := fun hi => h (hhead.trans (congrArg some hi))
    cases hjob : (s.sky1 c.val).job with
    | none => rfl
    | some x => exact if_pos (.inl hi)

/-- The head of the records found, where it is the job that runs. -/
theorem State.skyRun_head {idx kind f : Nat} {ws : List Word} {run : State → List Word → Nat → State}
    (hhead : (s.sky1 c.val).found.head? = some idx) (hjob : (s.sky1 c.val).job = some (ws, f)) (hruns : s.skyRuns c.val = true) :
    s.skyRun c.val idx kind run =
      if s.skyBad (skyJobOf ws) then s.skyReject c.val ws
      else if (skyJobOf ws).kind ≠ kind ∨ (s.sky1 c.val).cal.isSome then s
      else run (s.skyShow c.val) ws f := by
  unfold State.skyRun
  simp only [hhead, if_true, State.skyStart_busy hjob, hjob]
  exact if_neg (by simp [hruns])

theorem exec_skyJobTimeout_none (h : (s.sky1 c.val).job = none) : exec (.skyJobTimeout c) s = .next s := by
  change execSkyJobTimeout c s = _
  simp only [execSkyJobTimeout, h]

theorem exec_skyJobTimeout {ws : List Word} {f : Nat} (h : (s.sky1 c.val).job = some (ws, f)) : exec (.skyJobTimeout c) s = .next
    (if !s.skyRuns c.val || !s.skyLate ws f || s.skyBad (skyJobOf ws) then s
     else if (s.sky1 c.val).cal.isSome then s.setSky c.val { s.sky1 c.val with expired := true }
     else s.skyFallback c.val ws f true) := by
  change execSkyJobTimeout c s = _
  simp only [execSkyJobTimeout, h]

theorem exec_slotReady (c : Casement) (slot : Fin 64) (s : State) : exec (.slotReady c slot) s = .next
    (if s.rf (SKY_SLOT c.val slot.val) SKY_SLOT_STATE = 1 then s.wf (SKY_SLOT c.val slot.val) SKY_SLOT_STATE 2 else s) := rfl

/-! ## Calibration and carriers -/

theorem exec_skyCalibration (c : Casement) (s : State) : exec (.skyCalibration c) s = .next (s.skyCalibrate c.val) := rfl

/-- A calibration that has begun. -/
def State.calBegun (s : State) (c k : Nat) : State := (s.setSky c { s.sky1 c with due := [], cal := some k }).skyShow c

theorem State.calBegun_sky1 (s : State) (c k : Nat) : (s.calBegun c k).sky1 c = { s.sky1 c with due := [], cal := some k } :=
  (State.skyShow_sky1 _ _).trans (State.sky1_setSky_same _ _ _)

theorem State.calBegun_bytes (s : State) (c k : Nat) : BytesKept s (s.calBegun c k) :=
  (State.setSky_bytes _ _ _).trans (State.skyShow_bytes _ _)

theorem State.skyCalibrate_none (h : (s.sky1 c.val).due = []) : s.skyCalibrate c.val = s := by
  unfold State.skyCalibrate
  simp only [h]

theorem State.skyCalibrate_due {k : Nat} {rest : List Nat} (h : (s.sky1 c.val).due = k :: rest) : s.skyCalibrate c.val =
    if (s.sky1 c.val).job.isSome || (s.sky1 c.val).cal.isSome || !s.skyUp c.val || !s.carrierGood c.val then s
    else s.calBegun c.val k := by
  unfold State.skyCalibrate
  simp only [h]
  rfl

theorem State.skyCalibrate_waits (h : (s.sky1 c.val).due = [] ∨ (s.sky1 c.val).job ≠ none ∨ (s.sky1 c.val).cal ≠ none ∨
    s.skyUp c.val = false ∨ s.carrierGood c.val = false) : s.skyCalibrate c.val = s := by
  cases hdue : (s.sky1 c.val).due with
  | nil => exact State.skyCalibrate_none hdue
  | cons k rest =>
    rw [State.skyCalibrate_due hdue, if_pos]
    rcases h.resolve_left (by simp [hdue]) with h | h | h | h
    · simp [Option.isSome_iff_ne_none.2 h]
    · simp [Option.isSome_iff_ne_none.2 h]
    · simp [h]
    · simp [h]

theorem exec_skyCalibrationComplete (c : Casement) (rms : Nat) (s : State) :
    exec (.skyCalibrationComplete c rms) s = .next (s.skyCalibrated c.val rms) := rfl

theorem State.skyCalibrated_none (rms : Nat) (h : (s.sky1 c.val).cal = none) : s.skyCalibrated c.val rms = s := by
  unfold State.skyCalibrated
  simp only [h]

/-- A calibration that has ended. -/
def State.calEnded (s : State) (c k rms : Nat) : State :=
  ((((s.setSky c { s.sky1 c with cal := none, cmds := [], tuned := true }).satf (SKY_STATUS c) SKY_STATUS_CAL_COUNT 1).wf (SKY_STATUS c)
    SKY_STATUS_LAST_CAL k).wf (SKY_ERR c) SKY_ERR_RMS_CAL (min rms 0xFFFF)).skyShow c

theorem State.skyCalibrated_quiet {k : Nat} (rms : Nat) (hcal : (s.sky1 c.val).cal = some k) (hjob : (s.sky1 c.val).job = none)
    (hcmds : (s.sky1 c.val).cmds = []) : s.skyCalibrated c.val rms = s.calEnded c.val k rms := by
  unfold State.skyCalibrated State.calEnded
  simp only [hcal, hjob, hcmds, List.foldl_nil]

theorem State.calEnded_sky1 (s : State) (c k rms : Nat) :
    (s.calEnded c k rms).sky1 c = { s.sky1 c with cal := none, cmds := [], tuned := true } := by
  rw [State.calEnded, State.skyShow_sky1, State.sky1_wf, State.sky1_wf, State.satf, State.sky1_wf, State.sky1_setSky_same]

theorem State.calEnded_bytes (s : State) (c k rms : Nat) : BytesKept s (s.calEnded c k rms) :=
  ((((State.setSky_bytes _ _ _).trans (State.wf_bytes _ _ _ _)).trans (State.wf_bytes _ _ _ _)).trans (State.wf_bytes _ _ _ _)).trans
    (State.skyShow_bytes _ _)

theorem State.calEnded_rms (s : State) (c k rms : Nat) :
    (s.calEnded c k rms).rf (SKY_ERR c) SKY_ERR_RMS_CAL = min rms 0xFFFF % 2 ^ SKY_ERR_RMS_CAL.width := by
  rw [State.calEnded, State.skyShow_rf _ _ _ (SKY_ERR_ne_SKY_STATUS c), State.rf_wf_same _ _ _ _ (by decide)]

theorem exec_carrierHandover (c : Casement) (s : State) : exec (.carrierHandover c) s = .next (s.skyHandover c.val) := rfl

theorem State.skyHandover_waits (h : (∀ i < 2, s.carrier c.val i ≠ crStandby) ∨ (s.sky1 c.val).job ≠ none ∨ (s.sky1 c.val).cal ≠ none) :
    s.skyHandover c.val = s := by
  unfold State.skyHandover
  cases hspare : (List.range 2).find? (fun i => s.carrier c.val i == crStandby) with
  | none => rfl
  | some i =>
    have hi : i < 2 := List.mem_range.1 (List.mem_of_find?_eq_some hspare)
    have hstandby : s.carrier c.val i = crStandby := by simpa using List.find?_some hspare
    refine if_pos ?_
    rcases h with h | h | h
    · exact absurd hstandby (h i hi)
    · simp [Option.isSome_iff_ne_none.2 h]
    · simp [Option.isSome_iff_ne_none.2 h]

/-- The state after carrier 0 took over. -/
def State.handedOver (s : State) (c : Nat) : State :=
  (((s.setCarrier c 0 crActive).wf (SKY_STATUS c) SKY_STATUS_CARRIER 0).setSky c
    { s.sky1 c with tuned := false, due := (s.sky1 c).due ++ [3] }).skyShow c

theorem State.skyHandover_first (hstandby : s.carrier c.val 0 = crStandby) (hjob : (s.sky1 c.val).job = none)
    (hcal : (s.sky1 c.val).cal = none) (hold : s.rf (SKY_STATUS c.val) SKY_STATUS_CARRIER = 1)
    (hactive : s.carrier c.val 1 ≠ crActive) : s.skyHandover c.val = s.handedOver c.val := by
  have hspare : (List.range 2).find? (fun i => s.carrier c.val i == crStandby) = some 0 :=
    List.find?_cons_of_pos (by simp [hstandby])
  unfold State.skyHandover
  simp only [hspare, hold]
  rw [if_neg (by simp [hjob, hcal, hactive]), if_neg (fun h => hactive h.2)]
  rfl

theorem State.handedOver_sky1 (s : State) (c : Nat) :
    (s.handedOver c).sky1 c = { s.sky1 c with tuned := false, due := (s.sky1 c).due ++ [3] } :=
  (State.skyShow_sky1 _ _).trans (State.sky1_setSky_same _ _ _)

theorem State.handedOver_carrier (s : State) (c : Casement) : (s.handedOver c.val).carrier c.val 0 = crActive := by
  have hne := LSR_CARRIER_ne_SKY_STATUS c
  rw [State.carrier, State.handedOver, State.skyShow_rf _ _ _ hne, State.rf, State.setSky_reg, State.reg_wf_other _ _ _ hne]
  exact State.rf_wf_same _ _ _ _ (by decide)

theorem State.handedOver_bytes (s : State) (c : Nat) : BytesKept s (s.handedOver c) := by
  have hcarrier : BytesKept s (s.setCarrier c 0 crActive) := State.wf_bytes _ _ _ _
  exact ((hcarrier.trans (State.wf_bytes _ _ _ _)).trans (State.setSky_bytes _ _ _)).trans (State.skyShow_bytes _ _)

end

/-- Settles O53: what an engine does follows from the records found, the job and the calibration that it holds. -/
theorem skylightRunsItsJobs : Obligations.SkylightRunsItsJobs := by
  unfold Obligations.SkylightRunsItsJobs
  intro c idx slot env rms s
  refine ⟨fun h => ?_, fun hruns hjob hnone => ?_, fun ws hruns hjob hws => ?_, fun h => ⟨?_, ?_⟩,
    fun ws f hhead hjob hruns => ⟨fun hbad => ⟨?_, ?_⟩, fun hgood hcal => ⟨fun hkind => ⟨?_, ?_⟩, fun hkind => ⟨?_, ?_⟩⟩,
      fun hgood hlate => ⟨fun hcal => ?_, fun hcal => ?_⟩, fun hlate => ?_⟩,
    exec_skyJobTimeout_none, fun h => ?_, fun h => ?_, fun h => ?_, fun k rest hdue hjob hcal hup hgood => ?_, fun h => ?_,
    fun k hcal hjob hcmds => ?_, fun h => ?_, fun hstandby hjob hcal hold hactive => ?_⟩
  · rw [exec_skyMailboxScan, State.skyScan_waits h]
  · have hvalid : s.validRecords c.val = [] := List.filter_eq_nil_iff.2 fun i hi => by simp [hnone i (List.mem_range.1 hi)]
    have hscan : s.skyScan c.val = s.setSky c.val { s.sky1 c.val with found := [] } := by
      rw [State.skyScan_starts hruns hjob, hvalid, State.skyStart_empty (by rw [State.sky1_setSky_same])]
    refine ⟨_, (exec_skyMailboxScan ..).trans (congrArg _ hscan), ?_, ?_, State.setSky_reg _ _ _, State.setSky_bytes _ _ _⟩
    · rw [State.sky1_setSky_same]
    · rw [State.sky1_setSky_same]
      exact hjob
  · let u := s.setSky c.val { s.sky1 c.val with found := s.validRecords c.val }
    have hsky : u.sky1 c.val = { s.sky1 c.val with found := s.validRecords c.val } := State.sky1_setSky_same _ _ _
    have hvalid : ∃ rest, s.validRecords c.val = 0 :: rest :=
      ⟨_, List.filter_cons_of_pos (by simp [hws])⟩
    obtain ⟨rest, hrest⟩ := hvalid
    have hscan : s.skyScan c.val = u.jobStarted c.val 0 ws := by
      rw [State.skyScan_starts hruns hjob]
      exact State.skyStart_record (by rw [hsky]; exact hrest) (by rw [hsky]; exact hjob)
        ((State.setSky_mboxRecord _ _ _ _).trans hws)
    refine ⟨_, (exec_skyMailboxScan ..).trans (congrArg _ hscan), ?_, State.rf_wf_same _ _ _ _ (by decide),
      (State.setSky_bytes _ _ _).trans (State.jobStarted_bytes _ _ _ _),
      fun a ha => (State.jobStarted_reg _ _ _ _ ha).trans (State.setSky_reg _ _ _ _)⟩
    rw [State.jobStarted_sky1]
    rfl
  · rw [exec_loadMatrix, State.skyRun_other h]
  · rw [exec_score, State.skyRun_other h]
  · rw [exec_loadMatrix, State.skyRun_head hhead hjob hruns, if_pos hbad]
  · rw [exec_score, State.skyRun_head hhead hjob hruns, if_pos hbad]
  · rw [exec_loadMatrix, State.skyRun_head hhead hjob hruns, if_neg (Bool.eq_false_iff.1 hgood), if_neg (by simp [hkind, hcal])]
  · rw [exec_score, State.skyRun_head hhead hjob hruns, if_neg (Bool.eq_false_iff.1 hgood), if_pos (by simp [hkind])]
  · rw [exec_score, State.skyRun_head hhead hjob hruns, if_neg (Bool.eq_false_iff.1 hgood), if_neg (by simp [hkind, hcal])]
  · rw [exec_loadMatrix, State.skyRun_head hhead hjob hruns, if_neg (Bool.eq_false_iff.1 hgood), if_pos (by simp [hkind])]
  · rw [exec_skyJobTimeout hjob, if_neg (by simp [hruns, hlate, hgood]), if_neg (by simp [hcal])]
  · rw [exec_skyJobTimeout hjob, if_neg (by simp [hruns, hlate, hgood]), if_pos (Option.isSome_iff_ne_none.2 hcal)]
  · rw [exec_skyJobTimeout hjob, if_pos (by simp [hlate])]
  · exact ⟨_, (exec_slotReady ..).trans (congrArg _ (if_pos h)), State.wf_bytes _ _ _ _, State.rf_wf_same _ _ _ _ (by decide),
      fun a ha => State.reg_wf_other _ _ _ ha⟩
  · rw [exec_slotReady, if_neg h]
  · rw [exec_skyCalibration, State.skyCalibrate_waits h]
  · refine ⟨s.calBegun c.val k, ?_, ?_, ?_, State.calBegun_bytes _ _ _⟩
    · rw [exec_skyCalibration, State.skyCalibrate_due hdue, if_neg (by simp [hjob, hcal, hup, hgood])]
    · rw [State.calBegun_sky1]
    · rw [State.calBegun_sky1]
  · rw [exec_skyCalibrationComplete, State.skyCalibrated_none _ h]
  · refine ⟨s.calEnded c.val k rms, ?_, ?_, ?_, State.calEnded_bytes _ _ _ _, State.calEnded_rms _ _ _ _⟩
    · rw [exec_skyCalibrationComplete, State.skyCalibrated_quiet _ hcal hjob hcmds]
    · rw [State.calEnded_sky1]
    · rw [State.calEnded_sky1]
  · rw [exec_carrierHandover, State.skyHandover_waits h]
  · refine ⟨s.handedOver c.val, ?_, State.handedOver_carrier _ _, ?_, ?_, State.handedOver_bytes _ _⟩
    · rw [exec_carrierHandover, State.skyHandover_first hstandby hjob hcal hold hactive]
    · rw [State.handedOver_sky1]
    · rw [State.handedOver_sky1]

end Sys2Proof.Machine
end

section
/-!
PROOFS. Register writes and counter clears (R6, R95, R176, R260, R326, R360, R383).
-/

namespace Sys2Proof.Machine

/-! ## Folds over states -/

/-- What one element of a list brings about and no element undoes holds after the fold. -/
theorem foldl_brings {α : Type} {P : State → Prop} {g : State → α → State} {l : List α} {x : α} (hx : x ∈ l) (hset : ∀ s, P (g s x))
    (hkeep : ∀ s, ∀ y ∈ l, P s → P (g s y)) (s : State) : P (l.foldl g s) := by
  induction l generalizing s with
  | nil => exact absurd hx List.not_mem_nil
  | cons y l ih =>
    rw [List.foldl_cons]
    by_cases h : x ∈ l
    · exact ih h (fun s z hz => hkeep s z (List.mem_cons_of_mem _ hz)) _
    · obtain rfl : x = y := (List.mem_cons.1 hx).resolve_right h
      exact List.foldlRecOn l g (hset s) fun t ht z hz => hkeep t z (List.mem_cons_of_mem _ hz) ht

/-- A register that no element writes is left alone by the fold. -/
theorem foldl_reg {α : Type} {g : State → α → State} {l : List α} {a : Nat} (h : ∀ s, ∀ x ∈ l, (g s x).reg a = s.reg a) (s : State) :
    (l.foldl g s).reg a = s.reg a :=
  List.foldlRecOn (motive := fun t => t.reg a = s.reg a) l g rfl fun t ht x hx => (h t x hx).trans ht

/-! ## Registers at zero -/

theorem State.reg_setReg_zero {s : State} {a : Nat} (b : Nat) (h : s.reg a = 0) : (s.setReg b 0).reg a = 0 := by
  by_cases hab : a = b
  · rw [hab, State.reg_setReg_same]
  · rw [State.reg_setReg_other _ _ hab, h]

theorem State.rf_wf_zero {s : State} {a : Nat} {f : Field} (b : Nat) (hf : f.lo + f.width ≤ 64) (h : s.rf a f = 0) :
    (s.wf b f 0).rf a f = 0 := by
  by_cases hab : a = b
  · rw [hab, State.rf_wf_same _ _ _ _ hf, Nat.zero_mod]
  · rw [State.rf_wf_other _ _ _ _ hab, h]

/-! ## The clears of a Casement -/

/-- A receiver's four counters at zero. -/
def State.rxZero (s : State) (c f : Nat) : Prop :=
  s.reg (CSM_RXCW c f) = 0 ∧ s.reg (CSM_RXCORR c f) = 0 ∧ s.reg (CSM_RXSYM c f) = 0 ∧ s.reg (CSM_RXUNC c f) = 0

/-- A receiver cleared. -/
def State.rxClear (s : State) (c f : Nat) : State :=
  (((s.setReg (CSM_RXCW c f) 0).setReg (CSM_RXCORR c f) 0).setReg (CSM_RXSYM c f) 0).setReg (CSM_RXUNC c f) 0

theorem State.rxClear_zero (s : State) (c f : Nat) : (s.rxClear c f).rxZero c f :=
  ⟨State.reg_setReg_zero _ (State.reg_setReg_zero _ (State.reg_setReg_zero _ (State.reg_setReg_same ..))),
    State.reg_setReg_zero _ (State.reg_setReg_zero _ (State.reg_setReg_same ..)), State.reg_setReg_zero _ (State.reg_setReg_same ..),
    State.reg_setReg_same ..⟩

theorem State.rxClear_keeps_zero {s : State} {a : Nat} (c f : Nat) (h : s.reg a = 0) : (s.rxClear c f).reg a = 0 :=
  State.reg_setReg_zero _ (State.reg_setReg_zero _ (State.reg_setReg_zero _ (State.reg_setReg_zero _ h)))

theorem State.rxClear_other (s : State) {a c f : Nat}
    (h : a ≠ CSM_RXCW c f ∧ a ≠ CSM_RXCORR c f ∧ a ≠ CSM_RXSYM c f ∧ a ≠ CSM_RXUNC c f) : (s.rxClear c f).reg a = s.reg a := by
  obtain ⟨hcw, hcorr, hsym, hunc⟩ := h
  rw [State.rxClear, State.reg_setReg_other _ _ hunc, State.reg_setReg_other _ _ hsym, State.reg_setReg_other _ _ hcorr,
    State.reg_setReg_other _ _ hcw]

/-- The receivers of a Casement cleared. -/
def State.rxClears (s : State) (c : Nat) : State := (List.range 16).foldl (fun s f => s.rxClear c f) s

/-- The lanes of a Casement cleared. -/
def State.laneClears (s : State) (c : Nat) : State := (List.range 128).foldl (fun s i => s.wf (CSM_RXLANE c i) CSM_RXLANE_SYM_ERR 0) s

theorem State.csmClear_eq (s : State) (c : Nat) : s.csmClear c = (s.rxClears c).laneClears c := rfl

theorem State.rxClears_zero (s : State) (c : Nat) {f : Nat} (hf : f < 16) : (s.rxClears c).rxZero c f :=
  foldl_brings (P := fun t => t.rxZero c f) (List.mem_range.2 hf) (fun t => t.rxClear_zero c f)
    (fun _ _ _ ⟨hcw, hcorr, hsym, hunc⟩ => ⟨State.rxClear_keeps_zero _ _ hcw, State.rxClear_keeps_zero _ _ hcorr,
      State.rxClear_keeps_zero _ _ hsym, State.rxClear_keeps_zero _ _ hunc⟩) s

theorem State.laneClears_zero (s : State) (c : Nat) {i : Nat} (hi : i < 128) : (s.laneClears c).rf (CSM_RXLANE c i) CSM_RXLANE_SYM_ERR = 0 :=
  foldl_brings (P := fun t => t.rf (CSM_RXLANE c i) CSM_RXLANE_SYM_ERR = 0) (List.mem_range.2 hi)
    (fun _ => State.rf_wf_same _ _ _ _ (by decide)) (fun _ _ _ h => State.rf_wf_zero _ (by decide) h) s

theorem State.laneClears_other (s : State) (c : Nat) {a : Nat} (h : ∀ i < 128, a ≠ CSM_RXLANE c i) : (s.laneClears c).reg a = s.reg a :=
  foldl_reg (fun _ i hi => State.reg_wf_other _ _ _ (h i (List.mem_range.1 hi))) s

/-- No counter of a receiver is a register of a lane. -/
theorem rx_ne_rxlane (c : Nat) {f : Nat} (hf : f < 16) (i : Nat) : CSM_RXCW c f ≠ CSM_RXLANE c i ∧ CSM_RXCORR c f ≠ CSM_RXLANE c i ∧
    CSM_RXSYM c f ≠ CSM_RXLANE c i ∧ CSM_RXUNC c f ≠ CSM_RXLANE c i := by
  unfold CSM_RXCW CSM_RXCORR CSM_RXSYM CSM_RXUNC CSM_RXLANE
  omega

theorem State.csmClear_zero (s : State) (c : Nat) {f : Nat} (hf : f < 16) : (s.csmClear c).rxZero c f := by
  obtain ⟨hcw, hcorr, hsym, hunc⟩ := s.rxClears_zero c hf
  rw [State.csmClear_eq]
  exact ⟨(State.laneClears_other _ _ fun i _ => (rx_ne_rxlane c hf i).1).trans hcw,
    (State.laneClears_other _ _ fun i _ => (rx_ne_rxlane c hf i).2.1).trans hcorr,
    (State.laneClears_other _ _ fun i _ => (rx_ne_rxlane c hf i).2.2.1).trans hsym,
    (State.laneClears_other _ _ fun i _ => (rx_ne_rxlane c hf i).2.2.2).trans hunc⟩

theorem State.csmClear_lane (s : State) (c : Nat) {i : Nat} (hi : i < 128) : (s.csmClear c).rf (CSM_RXLANE c i) CSM_RXLANE_SYM_ERR = 0 := by
  rw [State.csmClear_eq]
  exact State.laneClears_zero _ _ hi

theorem State.csmClear_other (s : State) (c : Nat) {a : Nat}
    (hrx : ∀ f < 16, a ≠ CSM_RXCW c f ∧ a ≠ CSM_RXCORR c f ∧ a ≠ CSM_RXSYM c f ∧ a ≠ CSM_RXUNC c f)
    (hlane : ∀ i < 128, a ≠ CSM_RXLANE c i) : (s.csmClear c).reg a = s.reg a :=
  (State.laneClears_other _ _ hlane).trans (foldl_reg (fun _ f hf => State.rxClear_other _ (hrx f (List.mem_range.1 hf))) s)

theorem State.rxClear_bytes (s : State) (c f : Nat) : BytesKept s (s.rxClear c f) :=
  (((State.setReg_bytes _ _ _).trans (State.setReg_bytes _ _ _)).trans (State.setReg_bytes _ _ _)).trans (State.setReg_bytes _ _ _)

theorem State.csmClear_bytes (s : State) (c : Nat) : BytesKept s (s.csmClear c) :=
  (BytesKept.foldl _ _ fun t f => t.rxClear_bytes c f).trans (BytesKept.foldl _ _ fun t _ => State.wf_bytes t _ _ _)

/-! ## The clears of the steering counters -/

/-- A fibre's three counters at zero. -/
def State.ferrZero (s : State) (c f : Nat) : Prop :=
  s.rf (STR_FERR c f) STR_FERR_WRONG_PEER = 0 ∧ s.rf (STR_FERR c f) STR_FERR_NO_LIGHT = 0 ∧ s.rf (STR_FERR c f) STR_FERR_LATE = 0

/-- A fibre's counters cleared. -/
def State.ferrClear (s : State) (c f : Nat) : State :=
  s.wfs (STR_FERR c f) [(STR_FERR_WRONG_PEER, 0), (STR_FERR_NO_LIGHT, 0), (STR_FERR_LATE, 0)]

theorem State.ferrClear_zero (s : State) (c f : Nat) : (s.ferrClear c f).ferrZero c f := by
  refine ⟨?_, ?_, ?_⟩ <;> rw [State.ferrClear, State.rf_wfs_same] <;>
    simp (disch := decide) only [List.foldl, getField_putField_same, getField_putField_other] <;> rfl

theorem State.ferrZero_congr {s t : State} {c f : Nat} (h : t.reg (STR_FERR c f) = s.reg (STR_FERR c f)) (hs : s.ferrZero c f) :
    t.ferrZero c f := by
  obtain ⟨hpeer, hlight, hlate⟩ := hs
  exact ⟨(State.rf_congr h _).trans hpeer, (State.rf_congr h _).trans hlight, (State.rf_congr h _).trans hlate⟩

theorem State.ferrClear_keeps_zero {s : State} {c f : Nat} (d g : Nat) (h : s.ferrZero c f) : (s.ferrClear d g).ferrZero c f := by
  by_cases hsame : STR_FERR c f = STR_FERR d g
  · have hz := s.ferrClear_zero d g
    unfold State.ferrZero at hz ⊢
    rwa [hsame]
  · exact State.ferrZero_congr (State.reg_wfs_other _ _ hsame) h

/-- The steering counters of a Casement cleared. -/
def State.strClear1 (s : State) (c : Nat) : State :=
  ((List.range 16).foldl (fun s f => s.ferrClear c f) s).wf (STR_PLANSTAT c) STR_PLANSTAT_SKIPPED 0

theorem State.strClear_eq (s : State) : s.strClear = (List.range 8).foldl (fun s c => s.strClear1 c) s := rfl

theorem STR_FERR_ne_STR_PLANSTAT (c d : Nat) {f : Nat} (_ : f < 16) : STR_FERR c f ≠ STR_PLANSTAT d := by
  unfold STR_FERR STR_PLANSTAT csmBase
  omega

theorem State.strClear1_ferr (s : State) (c : Nat) {f : Nat} (hf : f < 16) : (s.strClear1 c).ferrZero c f :=
  State.ferrZero_congr (State.reg_wf_other _ _ _ (STR_FERR_ne_STR_PLANSTAT c c hf))
    (foldl_brings (P := fun t => t.ferrZero c f) (List.mem_range.2 hf) (fun t => t.ferrClear_zero c f)
      (fun _ _ _ h => State.ferrClear_keeps_zero _ _ h) s)

theorem State.strClear1_keeps_ferr {s : State} {c f : Nat} (d : Nat) (hf : f < 16) (h : s.ferrZero c f) : (s.strClear1 d).ferrZero c f :=
  State.ferrZero_congr (State.reg_wf_other _ _ _ (STR_FERR_ne_STR_PLANSTAT c d hf))
    (List.foldlRecOn (motive := fun (t : State) => t.ferrZero c f) _ _ h fun _ ht _ _ => State.ferrClear_keeps_zero _ _ ht)

theorem State.strClear1_keeps_skipped {s : State} {c : Nat} (d : Nat) (h : s.rf (STR_PLANSTAT c) STR_PLANSTAT_SKIPPED = 0) :
    (s.strClear1 d).rf (STR_PLANSTAT c) STR_PLANSTAT_SKIPPED = 0 := by
  have hfold : ((List.range 16).foldl (fun s f => s.ferrClear d f) s).reg (STR_PLANSTAT c) = s.reg (STR_PLANSTAT c) :=
    foldl_reg (fun _ f hf => State.reg_wfs_other _ _ (STR_FERR_ne_STR_PLANSTAT d c (List.mem_range.1 hf)).symm) s
  exact State.rf_wf_zero _ (by decide) ((State.rf_congr hfold _).trans h)

theorem State.strClear_ferr (s : State) {x f : Nat} (hx : x < 8) (hf : f < 16) : s.strClear.ferrZero x f :=
  foldl_brings (P := fun t => t.ferrZero x f) (List.mem_range.2 hx) (fun t => t.strClear1_ferr x hf)
    (fun _ _ _ h => State.strClear1_keeps_ferr _ hf h) s

theorem State.strClear_skipped (s : State) {x : Nat} (hx : x < 8) : s.strClear.rf (STR_PLANSTAT x) STR_PLANSTAT_SKIPPED = 0 :=
  foldl_brings (P := fun t => t.rf (STR_PLANSTAT x) STR_PLANSTAT_SKIPPED = 0) (List.mem_range.2 hx)
    (fun _ => State.rf_wf_same _ _ _ _ (by decide)) (fun _ _ _ h => State.strClear1_keeps_skipped _ h) s

theorem State.strClear_other (s : State) {a : Nat} (h : ∀ x < 8, a ≠ STR_PLANSTAT x ∧ ∀ f < 16, a ≠ STR_FERR x f) :
    s.strClear.reg a = s.reg a := by
  refine foldl_reg (fun t x hx => ?_) s
  obtain ⟨hplan, hferr⟩ := h x (List.mem_range.1 hx)
  exact (State.reg_wf_other _ _ _ hplan).trans (foldl_reg (fun _ f hf => State.reg_wfs_other _ _ (hferr f (List.mem_range.1 hf))) t)

theorem State.wfs_bytes (s : State) (a : Nat) (fs : List (Field × Nat)) : BytesKept s (s.wfs a fs) := State.setReg_bytes _ _ _

theorem State.strClear_bytes (s : State) : BytesKept s s.strClear :=
  BytesKept.foldl _ _ fun _ _ => (BytesKept.foldl _ _ fun _ _ => State.wfs_bytes _ _ _).trans (State.wf_bytes _ _ _ _)

/-! ## The clears of links, Skylight and Larders -/

theorem State.drlClear_zero (s : State) (c : Nat) {l : Nat} (hl : l ∈ csmLinks c) :
    (s.drlClear c).reg (DRL_RXERR l) = 0 ∧ (s.drlClear c).reg (DRL_EVENTS l) = 0 :=
  foldl_brings (P := fun t => t.reg (DRL_RXERR l) = 0 ∧ t.reg (DRL_EVENTS l) = 0) hl
    (fun _ => ⟨State.reg_setReg_zero _ (State.reg_setReg_same ..), State.reg_setReg_same ..⟩)
    (fun _ _ _ ⟨hrx, hev⟩ => ⟨State.reg_setReg_zero _ (State.reg_setReg_zero _ hrx), State.reg_setReg_zero _ (State.reg_setReg_zero _ hev)⟩) s

theorem State.drlClear_other (s : State) (c : Nat) {a : Nat} (h : ∀ l ∈ csmLinks c, a ≠ DRL_RXERR l ∧ a ≠ DRL_EVENTS l) :
    (s.drlClear c).reg a = s.reg a :=
  foldl_reg (fun _ l hl => (State.reg_setReg_other _ _ (h l hl).2).trans (State.reg_setReg_other _ _ (h l hl).1)) s

theorem State.drlClear_bytes (s : State) (c : Nat) : BytesKept s (s.drlClear c) :=
  BytesKept.foldl _ _ fun _ _ => (State.setReg_bytes _ _ _).trans (State.setReg_bytes _ _ _)

theorem State.skyClear_jobs (s : State) (c : Nat) : (s.skyClear c).reg (SKY_JOBS c) = 0 := by
  have hne : SKY_JOBS c ≠ SKY_ERR c := by
    unfold SKY_JOBS SKY_ERR
    omega
  rw [State.skyClear, State.reg_wfs_other _ _ hne, State.reg_setReg_same]

theorem State.skyClear_err (s : State) (c : Nat) :
    (s.skyClear c).rf (SKY_ERR c) SKY_ERR_CLIPS = 0 ∧ (s.skyClear c).rf (SKY_ERR c) SKY_ERR_READ_FAILS = 0 := by
  refine ⟨?_, ?_⟩ <;> rw [State.skyClear, State.rf_wfs_same] <;>
    simp (disch := decide) only [List.foldl, getField_putField_same, getField_putField_other] <;> rfl

theorem State.skyClear_other (s : State) (c : Nat) {a : Nat} (hjobs : a ≠ SKY_JOBS c) (herr : a ≠ SKY_ERR c) :
    (s.skyClear c).reg a = s.reg a := (State.reg_wfs_other _ _ herr).trans (State.reg_setReg_other _ _ hjobs)

theorem State.skyClear_bytes (s : State) (c : Nat) : BytesKept s (s.skyClear c) :=
  (State.setReg_bytes _ _ _).trans (State.wfs_bytes _ _ _)

/-- LARDER_ENABLE writes LDR_CTRL alone; the rest of its work is on the lines that the Larders hold. -/
theorem State.larderEnable_reg (s : State) (w en a : Nat) :
    (s.larderEnable w en).reg a = (s.wf (LDR_CTRL w) LDR_CTRL_EN (en &&& s.larderAble w)).reg a := rfl

theorem State.larderEnable_en (s : State) (w en : Nat) :
    (s.larderEnable w en).rf (LDR_CTRL w) LDR_CTRL_EN = (en &&& s.larderAble w) % 2 ^ LDR_CTRL_EN.width := by
  rw [State.rf, State.larderEnable_reg, ← State.rf, State.rf_wf_same _ _ _ _ (by decide)]

/-! ## The rows -/

theorem exec_registerWrite (src : Writer) (sp : Space) (a width : Nat) (v : Word) (s : State) :
    exec (.registerWrite src sp a width v) s = .next (s.registerWrite src sp a width v) := rfl

section
variable {s : State} {e a width : Nat} {v : Word}

theorem State.registerWrite_off (src : Writer) (sp : Space) (h : s.mode = .off) : s.registerWrite src sp a width v = s := if_pos h

theorem State.registerWrite_bar0_other {src : Writer} (h : src ≠ .host) : s.registerWrite src .bar0 a width v = s := by
  by_cases hoff : s.mode = .off
  · exact if_pos hoff
  · exact (if_neg hoff).trans (if_neg h)

theorem State.registerWrite_bar0_host (hmode : s.mode ≠ .off) : s.registerWrite .host .bar0 a width v = s.bar0Write a width v := by
  unfold State.registerWrite
  rw [if_neg hmode]
  exact if_pos rfl

theorem State.registerWrite_stale (h : e < s.epoch) : s.registerWrite (.hearth e) .mgmt a width v = s := by
  by_cases hoff : s.mode = .off
  · exact if_pos hoff
  · exact (if_neg hoff).trans (if_neg (by simp [fromHearth, h]))

theorem State.registerWrite_hearth (hmode : s.mode ≠ .off) (h : s.epoch ≤ e) :
    s.registerWrite (.hearth e) .mgmt a width v = s.mgmtAccess true true a width v := by
  unfold State.registerWrite
  rw [if_neg hmode]
  exact if_pos (by simp [fromHearth, h])

theorem State.registerWrite_host (hmode : s.mode ≠ .off) :
    s.registerWrite .host .mgmt a width v = s.mgmtAccess false false a width v := by
  unfold State.registerWrite
  rw [if_neg hmode]

theorem State.registerWrite_peer (hmode : s.mode ≠ .off) :
    s.registerWrite .peer .mgmt a width v = s.mgmtAccess false false a width v := by
  unfold State.registerWrite
  rw [if_neg hmode]

theorem State.mgmtAccess_aligned (fw own : Bool) (h : a % 8 = 0) : s.mgmtAccess fw own a 8 v = s.mgmtWrite fw own a v :=
  if_neg (by simp [h])

/-- The deadline of the start-up is at least 2 seconds. -/
theorem State.mgmtWrite_start (s : State) (v : Word) : s.mgmtWrite true true HRT_START v =
    s.wf HRT_START HRT_START_DEADLINE_MS (max 2000 (getField v HRT_START_DEADLINE_MS)) := rfl

theorem State.bar0Write_ring (hup : s.functionUp = true) (hwidth : width % 8 = 0) (ha : a % 8 = 0) (hend : a + width ≤ 0x100000)
    (hpos : 0 < width) : s.bar0Write a width v = { s with ringMem := memWrite s.ringMem a (natToBytes width v.toNat) } := by
  rw [State.bar0Write, if_neg (by simp [hup]), if_pos (by omega), if_pos ⟨hwidth, ha, hend⟩]

end

theorem exec_eccClr (src : Writer) (b : BayId) (s : State) :
    exec (.eccClr src b) s = .next (if fromHearth s src then s.eccClear b else s) := rfl

theorem exec_csmCntClr (src : Writer) (c : Casement) (s : State) :
    exec (.csmCntClr src c) s = .next (if fromHearth s src then s.csmClear c.val else s) := rfl

theorem exec_strCntClr (src : Writer) (s : State) : exec (.strCntClr src) s = .next (if fromHearth s src then s.strClear else s) := rfl

theorem exec_drlCntClr (src : Writer) (c : Casement) (s : State) :
    exec (.drlCntClr src c) s = .next (if fromHearth s src then s.drlClear c.val else s) := rfl

theorem exec_skyCntClr (src : Writer) (c : Casement) (s : State) :
    exec (.skyCntClr src c) s = .next (if fromHearth s src then s.skyClear c.val else s) := rfl

theorem exec_larderEnable (src : Writer) (w : Wing) (en : BitVec 3) (s : State) :
    exec (.larderEnable src w en) s = .next (if fromHearth s src then s.larderEnable w.val en.toNat else s) := rfl

/-- Settles O46: a write goes by its source, space and width, and each clear zeroes its own counters alone. -/
theorem registerWritesAndCounterClears : Obligations.RegisterWritesAndCounterClears := by
  unfold Obligations.RegisterWritesAndCounterClears
  refine ⟨fun src sp a width e v s => ⟨fun hoff => ?_, fun hsrc => ?_, fun he => ?_, fun hmode he hbad => ?_, fun hmode he ha => ?_,
      fun hmode ha => ⟨?_, ?_⟩, fun hmode he => ?_, fun hmode hup hwidth ha hend hpos => ?_⟩,
    fun src b c w en s => ⟨fun h => ⟨?_, ?_, ?_, ?_, ?_, ?_⟩, fun h => ⟨?_, ?_, ?_, ?_, ?_, ?_⟩⟩⟩
  · rw [exec_registerWrite, State.registerWrite_off _ _ hoff]
  · rw [exec_registerWrite, State.registerWrite_bar0_other hsrc]
  · rw [exec_registerWrite, State.registerWrite_stale he]
  · rw [exec_registerWrite, State.registerWrite_hearth hmode he, State.mgmtAccess, if_pos hbad]
  · rw [exec_registerWrite, State.registerWrite_hearth hmode he, State.mgmtAccess_aligned _ _ ha]
  · rw [exec_registerWrite, State.registerWrite_peer hmode, State.mgmtAccess_aligned _ _ ha]
  · rw [exec_registerWrite, State.registerWrite_host hmode, State.mgmtAccess_aligned _ _ ha]
  · refine ⟨s.wf HRT_START HRT_START_DEADLINE_MS (max 2000 (getField v HRT_START_DEADLINE_MS)), ?_, State.rf_wf_same _ _ _ _ (by decide),
      fun b hb => State.reg_wf_other _ _ _ hb⟩
    rw [exec_registerWrite, State.registerWrite_hearth hmode he, State.mgmtAccess_aligned _ _ (by decide), State.mgmtWrite_start]
  · rw [exec_registerWrite, State.registerWrite_bar0_host hmode, State.bar0Write_ring hup hwidth ha hend hpos]
  · rw [exec_eccClr, if_neg (Bool.eq_false_iff.1 h)]
  · rw [exec_csmCntClr, if_neg (Bool.eq_false_iff.1 h)]
  · rw [exec_strCntClr, if_neg (Bool.eq_false_iff.1 h)]
  · rw [exec_drlCntClr, if_neg (Bool.eq_false_iff.1 h)]
  · rw [exec_skyCntClr, if_neg (Bool.eq_false_iff.1 h)]
  · rw [exec_larderEnable, if_neg (Bool.eq_false_iff.1 h)]
  · exact ⟨s.eccClear b, (exec_eccClr ..).trans (congrArg _ (if_pos h)), State.reg_setReg_same .., fun a ha => State.reg_setReg_other _ _ ha,
      State.setReg_bytes _ _ _⟩
  · exact ⟨s.csmClear c.val, (exec_csmCntClr ..).trans (congrArg _ (if_pos h)), State.csmClear_bytes _ _,
      fun f hf => State.csmClear_zero _ _ hf, fun i hi => State.csmClear_lane _ _ hi, fun a hrx hlane => State.csmClear_other _ _ hrx hlane⟩
  · exact ⟨s.strClear, (exec_strCntClr ..).trans (congrArg _ (if_pos h)), State.strClear_bytes _, fun x hx f hf => State.strClear_ferr _ hx hf,
      fun x hx => State.strClear_skipped _ hx, fun a ha => State.strClear_other _ ha⟩
  · exact ⟨s.drlClear c.val, (exec_drlCntClr ..).trans (congrArg _ (if_pos h)), State.drlClear_bytes _ _,
      fun l hl => State.drlClear_zero _ _ hl, fun a ha => State.drlClear_other _ _ ha⟩
  · obtain ⟨hclips, hfails⟩ := s.skyClear_err c.val
    exact ⟨s.skyClear c.val, (exec_skyCntClr ..).trans (congrArg _ (if_pos h)), State.skyClear_bytes _ _, State.skyClear_jobs _ _, hclips,
      hfails, fun a hjobs herr => State.skyClear_other _ _ hjobs herr⟩
  · exact ⟨s.larderEnable w.val en.toNat, (exec_larderEnable ..).trans (congrArg _ (if_pos h)), .of_eq rfl rfl rfl rfl,
      State.larderEnable_en _ _ _, fun a ha => (State.larderEnable_reg _ _ _ _).trans (State.reg_wf_other _ _ _ ha), rfl⟩

end Sys2Proof.Machine
end

section
/-!
PROOFS. PERST, the function-level reset and configuration requests (R416, R529), and the I3C port (R536, R549).
-/

namespace Sys2Proof.Machine

/-! ## The port -/

theorem exec_perstN (asserted : Bool) (s : State) : exec (.perstN asserted) s = .next (s.perst asserted) := rfl

theorem State.setPorch_reg_pcie (s : State) (n st : Nat) : (s.setPorch n st).reg PCH_PCIE = s.reg PCH_PCIE := by
  have hlane : PCH_PCIE ≠ PCH_LANE n := by
    unfold PCH_PCIE PCH_LANE
    omega
  exact (State.reg_wf_other _ _ _ (by decide)).trans ((State.reg_wf_other _ _ _ (by decide)).trans (State.reg_wf_other _ _ _ hlane))

theorem State.setPorch_bytes (s : State) (n st : Nat) : BytesKept s (s.setPorch n st) :=
  ((State.wf_bytes _ _ _ _).trans (State.wf_bytes _ _ _ _)).trans (State.wf_bytes _ _ _ _)

theorem State.setPorch_hb (s : State) (n st : Nat) : (s.setPorch n st).hb = s.hb :=
  (State.wf_hb _ _ _ _).trans ((State.wf_hb _ _ _ _).trans (State.wf_hb _ _ _ _))

/-- Lanes of the Porch all in training. -/
def State.porchTrains (s : State) (ns : List Nat) : State := ns.foldl (fun s n => s.setPorch n plTraining) s

theorem State.porchTrains_rf (s : State) (ns : List Nat) (f : Field) : (s.porchTrains ns).rf PCH_PCIE f = s.rf PCH_PCIE f :=
  State.rf_congr (foldl_reg (fun _ _ _ => State.setPorch_reg_pcie _ _ _) s) f

theorem State.porchTrains_bytes (s : State) (ns : List Nat) : BytesKept s (s.porchTrains ns) :=
  .foldl _ _ fun _ _ => State.setPorch_bytes _ _ _

theorem State.porchTrains_hb (s : State) (ns : List Nat) : (s.porchTrains ns).hb = s.hb :=
  List.foldlRecOn (motive := fun (t : State) => t.hb = s.hb) ns _ rfl fun _ ht _ _ => (State.setPorch_hb _ _ _).trans ht

/-- The port without a link. -/
def State.portDown (s : State) : State :=
  s.wfs PCH_PCIE [(PCH_PCIE_PERST, 1), (PCH_PCIE_LINK_UP, 0), (PCH_PCIE_SPEED, 0), (PCH_PCIE_WIDTH, 0)]

theorem State.perst_noBridge {s : State} (h : s.isBridge = false) : s.perst true = s.portDown.porchTrains s.portDown.pcieLanes := by
  unfold State.perst
  simp only [h, Bool.false_eq_true, if_true, if_false]
  rfl

theorem State.portDown_perst (s : State) : s.portDown.rf PCH_PCIE PCH_PCIE_PERST = 1 := by
  rw [State.portDown, State.rf_wfs_same]
  simp (disch := decide) only [List.foldl, getField_putField_same, getField_putField_other]
  rfl

theorem State.portDown_linkUp (s : State) : s.portDown.rf PCH_PCIE PCH_PCIE_LINK_UP = 0 := by
  rw [State.portDown, State.rf_wfs_same]
  simp (disch := decide) only [List.foldl, getField_putField_same, getField_putField_other]
  rfl

theorem State.portDown_width (s : State) : s.portDown.rf PCH_PCIE PCH_PCIE_WIDTH = 0 := by
  rw [State.portDown, State.rf_wfs_same]
  simp (disch := decide) only [List.foldl, getField_putField_same]
  rfl

/-! ## The function -/

theorem exec_functionLevelReset (s : State) : exec .functionLevelReset s = .next (if s.functionUp then s.functionReset else s) := rfl

/-- Entries of other keys that are taken away change no read. -/
theorem sparseGet_filter {α : Type} (d : Nat → α) {p : Nat × α → Bool} {k : Nat} (h : ∀ v, p (k, v) = true) :
    ∀ m : Sparse α, sparseGet d (m.filter p) k = sparseGet d m k
  | [] => rfl
  | (k', v) :: m => by
    by_cases hk : k' = k
    · rw [hk, List.filter_cons_of_pos (h v)]
      exact (if_pos rfl).trans (if_pos rfl).symm
    · have hrest : sparseGet d ((k', v) :: m) k = sparseGet d m k := if_neg hk
      rw [hrest, ← sparseGet_filter d h m]
      cases hp : p (k', v) with
      | true =>
        rw [List.filter_cons_of_pos hp]
        exact if_neg hk
      | false => rw [List.filter_cons_of_neg (Bool.eq_false_iff.1 hp)]

/-- The bridge without its configuration space, its MSI-X table and its pending interrupts. -/
def State.functionEmptied (s : State) : State :=
  { s with pci := [], msixPending := [], hb := s.hb.filter (fun e => !(decide (0x110000 ≤ e.1) && decide (e.1 < 0x112000))) }

theorem State.functionEmptied_hreg (s : State) {a : Nat} (h : a < 0x110000) : s.functionEmptied.hreg a = s.hreg a :=
  sparseGet_filter _ (fun _ => by simp [h]) _

/-- A reset of the function ends with an empty Hatch and an empty configuration space. -/
theorem State.functionReset_eq (s : State) :
    ∃ u : State, s.functionReset = ((u.setHreg HB_HATCH_ADDR 0).setHreg HB_HATCH_ERR 0).functionEmptied := ⟨_, rfl⟩

theorem State.functionReset_hatch (s : State) : s.functionReset.hreg HB_HATCH_ADDR = 0 ∧ s.functionReset.hreg HB_HATCH_ERR = 0 ∧
    s.functionReset.pci = [] ∧ s.functionReset.msixPending = [] := by
  obtain ⟨u, hu⟩ := s.functionReset_eq
  rw [hu]
  refine ⟨?_, ?_, rfl, rfl⟩
  · rw [State.functionEmptied_hreg _ (by decide), State.hreg_setHreg_other _ _ (by decide), State.hreg_setHreg_same]
  · rw [State.functionEmptied_hreg _ (by decide), State.hreg_setHreg_same]

theorem exec_configurationRequest (off : Nat) (w : Option W32) (s : State) :
    exec (.configurationRequest off w) s = .next (s.configRequest off w) := rfl

/-- A dword of the configuration space written. -/
def State.pciWritten (s : State) (k : Nat) (w : W32) : State := { s with pci := sparseSet pciDefault s.pci k (w &&& pciMask k) }

theorem State.configRequest_quiet {s : State} {off : Nat} (w : W32) (hup : s.functionUp = true) (hoff : off / 4 ≠ 1)
    (hmaster : s.busMaster = false) : s.configRequest off (some w) = s.pciWritten (off / 4) w := by
  have hkept : (s.pciWritten (off / 4) w).busMaster = false := by
    rw [State.busMaster, State.pciWritten, sparseGet_set_other _ _ _ hoff.symm]
    exact hmaster
  exact (if_neg (by simp [hup])).trans (if_neg (Bool.eq_false_iff.1 hkept))

/-! ## I3C -/

theorem exec_i3cDataWrite (bs : List Byte) (peer : PeerReply) (s : State) : exec (.i3cDataWrite bs peer) s = .next (s.i3cWrite bs peer) := rfl

theorem State.i3cWrite_discards {s : State} {bs : List Byte} (peer : PeerReply)
    (h : s.mode = .off ∨ s.mode = .initHold ∨ s.mode = .safeHold ∨ bs.length % 8 ≠ 0 ∨ bs.length = 0 ∨ 256 < bs.length) :
    s.i3cWrite bs peer = s := by
  refine if_pos ?_
  rcases h with h | h | h | h | h | h <;> simp [h]

theorem State.i3cWrite_moves {s u : State} {bs : List Byte} {peer : PeerReply} (hmode : s.mode = .starting ∨ s.mode = .ready)
    (hmod : bs.length % 8 = 0) (hpos : bs.length ≠ 0) (hmax : bs.length ≤ 256) (hu : s.hostWrite s.i3cAddr bs peer = (u, none)) :
    s.i3cWrite bs peer = { u with i3cAddr := (s.i3cAddr + bs.length) % 2 ^ 48 } := by
  have hgo : (s.mode == .off || s.mode == .initHold || s.mode == .safeHold || bs.length % 8 != 0 || bs.length == 0 ||
      decide (256 < bs.length)) = false := by
    rcases hmode with h | h <;> simp [h, hmod, hpos, hmax]
  unfold State.i3cWrite
  rw [if_neg (Bool.eq_false_iff.1 hgo)]
  simp only [hu]

/-- A command packet on the I3C channel. -/
def onI3c (c : Cmd) : Cmd := { c with via := .i3c }

/-- The reply to the I3C command before is gone. -/
def State.i3cFresh (s : State) : State := { s with locals := sparseSet localsDefault s.locals 20 [] }

theorem exec_i3cCommandWrite (c : Cmd) (s : State) : exec (.i3cCommandWrite c) s = if s.mode = .off then .next s
    else if 256 < c.len ∨ c.len % 8 ≠ 0 then .next (s.i3cFresh.reply (onI3c c) stBadParam [])
    else runOpcode (onI3c c) (s.i3cFresh.takeCmd (onI3c c)) := rfl

theorem exec_vauxWithinTolerance (straps : BitVec 2) (s : State) :
    exec (.vauxWithinTolerance straps) s = .next { s with straps := straps.toNat } := rfl

theorem exec_setdasa (a : BitVec 7) (s : State) : exec (.setdasa a) s = .next (s.assignAddr a.toNat) := rfl

theorem exec_entdaa (a : BitVec 7) (s : State) : exec (.entdaa a) s = .next (s.assignAddr a.toNat) := rfl

theorem State.assignAddr_none {s : State} (a : Nat) (h : s.i3cDyn = none) : s.assignAddr a = { s with i3cDyn := some a } :=
  if_neg (by simp [h])

theorem State.assignAddr_held {s : State} (a : Nat) (h : s.i3cDyn ≠ none) : s.assignAddr a = s :=
  if_pos (Option.isSome_iff_ne_none.2 h)

theorem exec_i3cDataAddressWrite (da : Word) (s : State) : exec (.i3cDataAddressWrite da) s =
    .next (if s.mode == .off || da.toNat % 8 != 0 then s else { s with i3cAddr := da.toNat % 2 ^ 48 }) := rfl

/-- Settles O48: the port, the function and the I3C window each by the condition that lets them act. -/
theorem pcieResetsConfigurationAndI3c : Obligations.PcieResetsConfigurationAndI3c := by
  unfold Obligations.PcieResetsConfigurationAndI3c
  refine ⟨fun off w bs peer c s => ⟨fun hbridge => ?_, exec_perstN false s, fun hup => ?_, exec_configurationRequest off none s,
      fun hup => ?_, fun hup hoff hmaster => ?_, fun h => ?_, fun u hmode hmod hpos hmax hu => ?_, fun hoff => ?_, fun hmode hbad => ?_,
      fun hmode hmax hmod => ?_⟩,
    fun straps a da s => ⟨exec_vauxWithinTolerance straps s, fun h => ⟨?_, ?_⟩, fun h => ⟨?_, ?_⟩, fun hmode hda => ?_, fun h => ?_⟩⟩
  · refine ⟨s.portDown.porchTrains s.portDown.pcieLanes, ?_, ?_, ?_, ?_, ?_, ?_⟩
    · rw [exec_perstN, State.perst_noBridge hbridge]
    · rw [State.porchTrains_rf, State.portDown_perst]
    · rw [State.porchTrains_rf, State.portDown_linkUp]
    · rw [State.porchTrains_rf, State.portDown_width]
    · exact (State.wfs_bytes _ _ _).trans (State.porchTrains_bytes _ _)
    · exact (State.porchTrains_hb _ _).trans (State.wfs_hb _ _ _)
  · obtain ⟨haddr, herr, hpci, hmsix⟩ := s.functionReset_hatch
    exact ⟨s.functionReset, (exec_functionLevelReset s).trans (congrArg _ (if_pos hup)), haddr, herr, hpci, hmsix⟩
  · rw [exec_configurationRequest]
    exact congrArg _ (if_pos (by simp [hup]))
  · refine ⟨s.pciWritten (off / 4) w, ?_, sparseGet_set_same _ _ _ _, rfl, fun k hk => sparseGet_set_other _ _ _ hk⟩
    rw [exec_configurationRequest, State.configRequest_quiet w hup hoff hmaster]
  · rw [exec_i3cDataWrite, State.i3cWrite_discards _ h]
  · rw [exec_i3cDataWrite, State.i3cWrite_moves hmode hmod hpos hmax hu]
  · rw [exec_i3cCommandWrite, if_pos hoff]
  · exact (exec_i3cCommandWrite c s).trans ((if_neg hmode).trans (if_pos hbad))
  · exact (exec_i3cCommandWrite c s).trans ((if_neg hmode).trans (if_neg (by omega)))
  · rw [exec_setdasa, State.assignAddr_none _ h]
  · rw [exec_entdaa, State.assignAddr_none _ h]
  · rw [exec_setdasa, State.assignAddr_held _ h]
  · rw [exec_entdaa, State.assignAddr_held _ h]
  · rw [exec_i3cDataAddressWrite, if_neg (by simp [hmode, hda])]
  · rw [exec_i3cDataAddressWrite, if_pos (by rcases h with h | h <;> simp [h])]

end Sys2Proof.Machine
end

section
/-!
PROOFS. An event queue that is disabled while an entry waits in it (R199, R202, R424).
-/

namespace Sys2Proof.Machine

/-- A bridge whose event queue 0 holds one entry, notices its low crossing with MSI-X vector 0, and has that vector unmasked with
data 5. -/
def ringLeft : State :=
  (((((State.reset.wf HRT_PKGID HRT_PKGID_BRIDGE 1).wf (CEL_QCFG 1096) CEL_QCFG_NOTIFY 2).wf (CEL_QCFG 1096) CEL_QCFG_EN_L 1).setReg
    (CEL_QWM 1096) 0).setHreg 0x110008 5).setQueue 1096 { Queue.empty with head := [1], lens := [1] }

theorem exec_eventQueueEnable (q : EvQueue) (v : Word) (s : State) : exec (.eventQueueEnable q v) s = .next (s.evqCfgWrite q.val v) := rfl

theorem ringLeft_isBridge : ringLeft.isBridge = true := by decide

theorem ringLeft_sizeGood : ringLeft.sizeBad (HB_EVQ_CFG (0 : EvQueue).val) HB_EVQ_CFG_SIZE HB_EVQ_CFG_EN 0 = false := by decide

/-- The entries lost with the queue take its level to LOW, and the notice of that is a message in host memory. -/
theorem ringLeft_notified : memGet (ringLeft.evqCfgWrite (0 : EvQueue).val 0).hostMem 0 = 5 := by decide

theorem ringLeft_silent : memGet ringLeft.hostMem 0 = 0 := by decide

/-- A command of no meaning. -/
def blankCmd : Cmd := { via := .i3c, w0 := 0, w1 := 0, w2 := 0, w3 := 0, params := [] }

/-- Refutes O47: disabling an event queue does not keep host memory where an entry still waited, for the crossing of LOW is notified by
its MSI-X message. -/
theorem not_bridgeRingsQueuesDmaAndHatch : ¬ Obligations.BridgeRingsQueuesDmaAndHatch := by
  unfold Obligations.BridgeRingsQueuesDmaAndHatch
  intro h
  obtain ⟨-, hbridge, -⟩ := h
  obtain ⟨-, -, -, -, -, hdisable, -⟩ := hbridge 0 0 0 blankCmd ringLeft ringLeft_isBridge
  obtain ⟨t, ht, -, -, -, hbytes⟩ := hdisable ringLeft_sizeGood (by decide) (by decide)
  obtain rfl : ringLeft.evqCfgWrite (0 : EvQueue).val 0 = t := Host.Outcome.next.inj ((exec_eventQueueEnable ..).symm.trans ht)
  obtain ⟨-, -, -, hhost⟩ := hbytes 0
  rw [ringLeft_notified, ringLeft_silent] at hhost
  exact absurd hhost (by decide)

end Sys2Proof.Machine
end

section
/-!
PROOFS. Slot plans and bursts (R258, R296, R319, R324).
-/

namespace Sys2Proof.Machine

/-! ## What the plan's registers show -/

theorem STR_PLAN_ne_STR_PLANSTAT (c d : Nat) {i : Nat} (h : i < 1024) : STR_PLAN c i ≠ STR_PLANSTAT d := by
  unfold STR_PLAN STR_PLANSTAT csmBase
  omega

theorem STR_PLAN_inj {c i j : Nat} (h : STR_PLAN c i = STR_PLAN c j) : i = j := by
  unfold STR_PLAN at h
  omega

theorem State.planStat_reg (s : State) {a : Nat} (h : ∀ c, a ≠ STR_PLANSTAT c) : s.planStat.reg a = s.reg a :=
  foldl_reg (fun _ c _ => State.reg_wfs_other _ _ (h c)) s

theorem State.planStat_planNow (s : State) (c : Nat) {i : Nat} (hi : i < 1024) : s.planStat.planNow c i = s.planNow c i :=
  State.rf_congr (State.planStat_reg s fun d => STR_PLAN_ne_STR_PLANSTAT c d hi) _

theorem State.planStat_bytes (s : State) : BytesKept s s.planStat := .foldl _ _ fun _ _ => State.wfs_bytes _ _ _

theorem State.planStat_kept (s : State) : s.planStat.plans = s.plans ∧ s.planStat.slotParts = s.slotParts :=
  List.foldlRecOn (motive := fun (t : State) => t.plans = s.plans ∧ t.slotParts = s.slotParts) _ _ ⟨rfl, rfl⟩ fun _ ht _ _ => ht

/-! ## A plan that comes into force -/

/-- The entries of a Casement's plan written. -/
def State.planWritten (s : State) (c : Nat) (p : Plan) : State :=
  (List.range 1024).foldl (fun s i => s.wf (STR_PLAN c i) STR_PLAN_ENTRY (p i)) s

theorem State.setPlanOf_eq (s : State) (c : Nat) (p : Plan) :
    s.setPlanOf c p = (s.planWritten c p).setCsm c { (s.planWritten c p).csm c with dropped := [] } := rfl

theorem State.planWritten_entry (s : State) (c : Nat) (p : Plan) {i : Nat} (hi : i < 1024) :
    (s.planWritten c p).rf (STR_PLAN c i) STR_PLAN_ENTRY = p i % 2 ^ STR_PLAN_ENTRY.width := by
  refine foldl_brings (P := fun t => t.rf (STR_PLAN c i) STR_PLAN_ENTRY = p i % 2 ^ STR_PLAN_ENTRY.width) (List.mem_range.2 hi)
    (fun _ => State.rf_wf_same _ _ _ _ (by decide)) (fun t j _ h => ?_) s
  by_cases hij : i = j
  · rw [← hij]
    exact State.rf_wf_same _ _ _ _ (by decide)
  · exact (State.rf_wf_other _ _ _ _ fun ha => hij (STR_PLAN_inj ha)).trans h

theorem State.planWritten_bytes (s : State) (c : Nat) (p : Plan) : BytesKept s (s.planWritten c p) :=
  .foldl _ _ fun _ _ => State.wf_bytes _ _ _ _

theorem State.planWritten_kept (s : State) (c : Nat) (p : Plan) :
    (s.planWritten c p).plans = s.plans ∧ (s.planWritten c p).slotParts = s.slotParts :=
  List.foldlRecOn (motive := fun (t : State) => t.plans = s.plans ∧ t.slotParts = s.slotParts) _ _ ⟨rfl, rfl⟩ fun _ ht _ _ => ht

theorem State.setPlanOf_planNow (s : State) (c : Nat) (p : Plan) {i : Nat} (hi : i < 1024) :
    (s.setPlanOf c p).planNow c i = p i % 2 ^ STR_PLAN_ENTRY.width := by
  rw [State.planNow, State.setPlanOf_eq, State.rf, State.reg_setCsm]
  exact State.planWritten_entry _ _ _ hi

theorem State.setPlanOf_bytes (s : State) (c : Nat) (p : Plan) : BytesKept s (s.setPlanOf c p) := by
  rw [State.setPlanOf_eq]
  exact (State.planWritten_bytes _ _ _).trans (State.setCsm_bytes _ _ _)

theorem State.setCsm_kept (s : State) (c : Nat) (x : CsmSt) : (s.setCsm c x).plans = s.plans ∧ (s.setCsm c x).slotParts = s.slotParts :=
  ⟨rfl, rfl⟩

theorem State.setPlanOf_kept (s : State) (c : Nat) (p : Plan) :
    (s.setPlanOf c p).plans = s.plans ∧ (s.setPlanOf c p).slotParts = s.slotParts := by
  obtain ⟨hplans, hparts⟩ := s.planWritten_kept c p
  rw [State.setPlanOf_eq]
  obtain ⟨hplans', hparts'⟩ := (s.planWritten c p).setCsm_kept c { (s.planWritten c p).csm c with dropped := [] }
  exact ⟨hplans'.trans hplans, hparts'.trans hparts⟩

theorem State.setPlanOf_frame (s : State) (c : Nat) (p : Plan) : (s.setPlanOf c p).frame = s.frame := by
  have hne (i : Nat) : STR_FRAME ≠ STR_PLAN c i := by
    unfold STR_FRAME STR_PLAN csmBase
    omega
  have hreg : (s.planWritten c p).reg STR_FRAME = s.reg STR_FRAME := foldl_reg (fun _ i _ => State.reg_wf_other _ _ _ (hne i)) s
  rw [State.frame, State.setPlanOf_eq, State.rf, State.reg_setCsm, hreg, ← State.rf, ← State.frame]

theorem exec_planApply (s : State) : exec .planApply s = .next s.planApply := rfl

section
variable {s : State}

/-- The plans of a state replaced. -/
def State.withPlans (s : State) (ps : List PlanChange) : State := { s with plans := ps }

theorem State.withPlans_slotParts (s : State) (ps : List PlanChange) : (s.withPlans ps).slotParts = s.slotParts := rfl

theorem State.withPlans_plans (s : State) (ps : List PlanChange) : (s.withPlans ps).plans = ps := rfl

theorem State.withPlans_planNow (s : State) (ps : List PlanChange) (c : Nat) : (s.withPlans ps).planNow c = s.planNow c := rfl

theorem State.withPlans_bytes (s : State) (ps : List PlanChange) : BytesKept s (s.withPlans ps) := .of_eq rfl rfl rfl rfl

/-- The parts of fallback plans that are due come into force. -/
def State.partsApplied (s : State) : State :=
  (s.slotParts.filter (fun p => frameReached s.frame p.2.2)).foldl (fun s p =>
    if s.planFails p.1 (s.slotPlan p.2.1) then s.note F_FALLBACK_REJECT (locCasement p.1) 0
    else s.setPlanOf p.1 (s.slotPlan p.2.1)) { s with slotParts := s.slotParts.filter (fun p => !frameReached s.frame p.2.2) }

theorem State.partsApplied_none (h : s.slotParts = []) : s.partsApplied = s := by
  have hself : ({ s with slotParts := [] } : State) = s := by rw [← h]
  rw [State.partsApplied, h]
  exact hself

theorem State.planApply_eq (s : State) : s.planApply =
    ((s.plans.filter (fun p => frameReached s.frame p.frame)).foldl
      (fun s p => if p.opcode = 0 then s else s.applied p.tag p.origin p.ring p.opcode stOk false)
      (let u := (((s.plans.filter (fun p => frameReached s.frame p.frame)).flatMap (fun p => p.csms)).dedup).foldl
        (fun t c => t.setPlanOf c (Plan.after c (dueEntries s.plans s.frame) (t.planNow c))) s
       (u.withPlans (u.plans.filter (fun p => !frameReached u.frame p.frame))).planStat)).partsApplied := rfl

theorem State.planApply_none (hdue : s.plans.filter (fun p => frameReached s.frame p.frame) = []) (hparts : s.slotParts = []) :
    s.planApply = s.planStat := by
  have hall : s.plans.filter (fun p => !frameReached s.frame p.frame) = s.plans := by
    refine List.filter_eq_self.2 fun p hp => ?_
    simpa using List.filter_eq_nil_iff.1 hdue p hp
  rw [State.planApply_eq, hdue]
  simp only [List.flatMap_nil, List.dedup_nil, List.foldl_nil, hall]
  exact State.partsApplied_none (s.planStat_kept.2.trans hparts)

/-- One change that is due, at one Casement, not by a command. -/
theorem State.planApply_one {p : PlanChange} {c : Nat} (hp : s.plans = [p]) (hframe : frameReached s.frame p.frame = true)
    (hop : p.opcode = 0) (hcsms : p.csms = [c]) (hparts : s.slotParts = []) : s.planApply =
      ((s.setPlanOf c (Plan.after c p.entries (s.planNow c))).withPlans []).planStat := by
  have hdue : s.plans.filter (fun p => frameReached s.frame p.frame) = [p] := by
    rw [hp]
    exact List.filter_cons_of_pos hframe
  have hentries : dueEntries s.plans s.frame = p.entries := by
    rw [dueEntries, hdue]
    simp
  let u := s.setPlanOf c (Plan.after c p.entries (s.planNow c))
  have hkept : u.plans.filter (fun q => !frameReached u.frame q.frame) = [] := by
    rw [(State.setPlanOf_kept _ _ _).1, hp, State.setPlanOf_frame]
    exact List.filter_cons_of_neg (by simp [hframe])
  rw [State.planApply_eq, hdue, hentries]
  simp only [List.flatMap_cons, List.flatMap_nil, List.append_nil, hcsms, (List.nodup_singleton c).dedup, List.foldl_cons, List.foldl_nil,
    hop, if_true]
  rw [hkept]
  refine State.partsApplied_none ((State.planStat_kept _).2.trans ?_)
  rw [State.withPlans_slotParts]
  exact (State.setPlanOf_kept _ _ _).2.trans hparts

end

/-! ## Settled engines -/

theorem exec_settleChange (c : Casement) (e : Engine) (s : State) : exec (.settleChange c e) s = .next (s.settleChange c.val e.val) := rfl

theorem exec_quietPeriodEnd (c : Casement) (e : Engine) (s : State) : exec (.quietPeriodEnd c e) s = .next (s.quietEnd c.val e.val) := rfl

/-- The settles of a state replaced. -/
def State.withSettles (s : State) (xs : List SettleChange) : State := { s with settles := xs }

theorem State.withSettles_reg (s : State) (xs : List SettleChange) (a : Nat) : (s.withSettles xs).reg a = s.reg a := rfl

theorem State.withSettles_bytes (s : State) (xs : List SettleChange) : BytesKept s (s.withSettles xs) := .of_eq rfl rfl rfl rfl

theorem State.withSettles_settles (s : State) (xs : List SettleChange) : (s.withSettles xs).settles = xs := rfl

theorem State.settleStat_reg (s : State) (c : Nat) {a : Nat} (h : a ≠ STR_SETTLED c) : (s.settleStat c).reg a = s.reg a :=
  State.reg_wfs_other _ _ h

/-- The fields that show what waits leave the engines' own bits alone. -/
theorem State.settleStat_settled (s : State) (c : Nat) {e : Nat} (he : e < 8) :
    wbit ((s.settleStat c).reg (STR_SETTLED c)) e = wbit (s.reg (STR_SETTLED c)) e := by
  rw [State.settleStat, State.reg_wfs_same]
  simp only [List.foldl_cons, List.foldl_nil]
  rw [wbit_eq, putField_getLsbD _ _ _ _ (by omega), if_neg (by simp only [STR_SETTLED_CHANGE_FRAME, bits]; omega),
    putField_getLsbD _ _ _ _ (by omega), if_neg (by simp only [STR_SETTLED_PEND, bits]; omega), wbit_eq]

theorem State.settleStat_settles (s : State) (c : Nat) : (s.settleStat c).settles = s.settles := State.wfs_settles _ _ _

theorem State.settleStat_bytes (s : State) (c : Nat) : BytesKept s (s.settleStat c) := State.wfs_bytes _ _ _

/-- An engine that has settled or is released, its quiet period begun. -/
def State.settleBegun (s : State) (c e : Nat) (x : SettleChange) : State :=
  let v := s.wf (STR_SETTLED c) { lo := e, width := 1 } (if x.settle then 1 else 0)
  (v.withSettles (v.settles.filter (fun y => !(y.csm == c && y.engine == e)) ++ [{ x with quiet := true }])).settleStat c

section
variable {s : State} {c e : Nat}

theorem State.settleChange_none (h : s.settles.find? (fun x => x.csm == c && x.engine == e && !x.quiet) = none) :
    s.settleChange c e = s := by
  unfold State.settleChange
  simp only [h]

theorem State.settleChange_some {x : SettleChange} (h : s.settles.find? (fun x => x.csm == c && x.engine == e && !x.quiet) = some x) :
    s.settleChange c e = if !frameReached s.frame x.frame then s
      else (s.settleBegun c e x).applied x.tag x.origin x.ring 0x432 stOk false := by
  unfold State.settleChange
  simp only [h]
  rfl

theorem State.settleBegun_bit (s : State) (c : Nat) (x : SettleChange) (he : e < 8) :
    wbit ((s.settleBegun c e x).reg (STR_SETTLED c)) e = x.settle := by
  rw [State.settleBegun, State.settleStat_settled _ _ he, State.withSettles_reg, State.reg_wf_same, wbit_eq, putField_getLsbD _ _ _ _ (by omega),
    if_pos ⟨Nat.le_refl _, by simp⟩, Nat.sub_self]
  cases x.settle <;> rfl

theorem State.settleBegun_reg (s : State) (c e : Nat) (x : SettleChange) {a : Nat} (h : a ≠ STR_SETTLED c) :
    (s.settleBegun c e x).reg a = s.reg a := by
  rw [State.settleBegun, State.settleStat_reg _ _ h, State.withSettles_reg, State.reg_wf_other _ _ _ h]

theorem State.settleBegun_mem (s : State) (c e : Nat) (x : SettleChange) : { x with quiet := true } ∈ (s.settleBegun c e x).settles := by
  rw [State.settleBegun, State.settleStat_settles, State.withSettles_settles]
  exact List.mem_append_right _ (List.mem_singleton_self _)

theorem State.quietEnd_none (h : s.settles.find? (fun x => x.csm == c && x.engine == e && x.quiet) = none) : s.quietEnd c e = s := by
  unfold State.quietEnd
  simp only [h]

theorem State.quietEnd_some {x : SettleChange} (h : s.settles.find? (fun x => x.csm == c && x.engine == e && x.quiet) = some x) :
    s.quietEnd c e = if !frameReached s.frame (frameAdd x.frame 1) then s
      else (s.withSettles (s.settles.filter (fun y => y != x))).settleStat c := by
  unfold State.quietEnd
  simp only [h]
  rfl

end

/-! ## Bursts -/

theorem exec_burstArrival (c : Casement) (e : Engine) (slot : Fin 64) (b : Burst) (s : State) :
    exec (.burstArrival c e slot b) s = .next (s.burst c.val e.val slot.val b) := rfl

section
variable {s : State} {c e slot l f : Nat} {must : Bool} {b : Burst}

theorem State.burst_unexpected (h : s.rxSlot c slot e = none) : s.burst c e slot b = s := by
  unfold State.burst
  simp only [h]

theorem State.burst_linkDown (hslot : s.rxSlot c slot e = some (l, f, must)) (hlive : s.isLive l = false)
    (hstate : s.linkState l ≠ lkTraining) : s.burst c e slot b = s := by
  unfold State.burst
  simp only [hslot]
  exact if_pos (by simp [hlive, hstate])

theorem State.burst_pathOff (hslot : s.rxSlot c slot e = some (l, f, must)) (hpath : s.pathOn c 1 e f = false) :
    s.burst c e slot b = s := by
  unfold State.burst
  simp only [hslot]
  exact if_pos (by simp [hpath])

/-- A slot in which no light came on a live path. -/
theorem State.burst_dark (hslot : s.rxSlot c slot e = some (l, f, must)) (hlive : s.isLive l = true) (hpath : s.pathOn c 1 e f = true)
    (hdark : b.offset = none) : s.burst c e slot b =
      if slot != 0 && !s.settled c e && must then (s.satf (STR_FERR c f) STR_FERR_NO_LIGHT 1).dataMiss c f l else s := by
  unfold State.burst
  simp only [hslot, hdark]
  exact if_neg (by simp [hlive, hpath])

/-- A burst that came late. -/
def State.burstLate (s : State) (c l f : Nat) : State :=
  (s.setLink l { s.link l with lit := true }).satf (STR_FERR c f) STR_FERR_LATE 1

theorem State.settled_setLink (s : State) (l : Nat) (x : LinkSt) (c e : Nat) : (s.setLink l x).settled c e = s.settled c e := rfl

theorem State.burst_late {o : Nat} (hslot : s.rxSlot c slot e = some (l, f, must)) (hlive : s.isLive l = true)
    (hpath : s.pathOn c 1 e f = true) (ho : b.offset = some o) (hlo : 160 ≤ o) (hhi : o < 320) (hsettled : s.settled c e = false) :
    s.burst c e slot b = s.burstLate c l f := by
  unfold State.burst
  simp only [hslot, ho]
  refine (if_neg (by simp [hlive, hpath])).trans ((if_neg (Nat.not_le.2 hhi)).trans (if_pos ?_))
  rw [State.settled_setLink, hsettled]
  simp [hlo]

theorem State.burstLate_lit (s : State) (c l f : Nat) : ((s.burstLate c l f).link l).lit = true := by
  have hkept (t : State) (a : Nat) (g : Field) (n k : Nat) : (t.satf a g n).link k = t.link k := rfl
  rw [State.burstLate, hkept, State.link_setLink_same]

theorem State.burstLate_bytes (s : State) (c l f : Nat) : BytesKept s (s.burstLate c l f) :=
  (State.setLink_bytes _ _ _).trans (State.wf_bytes _ _ _ _)

theorem State.burstLate_reg (s : State) (c l f : Nat) {a : Nat} (h : a ≠ STR_FERR c f) : (s.burstLate c l f).reg a = s.reg a :=
  (State.reg_satf_other _ _ _ h).trans (State.reg_setLink _ _ _ _)

theorem State.burstLate_count (s : State) (c l f : Nat) : (s.burstLate c l f).rf (STR_FERR c f) STR_FERR_LATE =
    min (s.rf (STR_FERR c f) STR_FERR_LATE + 1) (2 ^ STR_FERR_LATE.width - 1) := by
  rw [State.burstLate, State.rf_satf_same _ _ _ _ (by decide), State.rf, State.reg_setLink, ← State.rf]

end

/-! ## A degraded lane -/

theorem exec_laneDegraded (c : Casement) (e : Engine) (lane : Fin 16) (s : State) :
    exec (.laneDegraded c e lane) s = .next (s.degraded c.val e.val lane.val) := rfl

theorem State.linkOwner_congr {s t : State} (h : ∀ l, t.reg (DRL_CFG l) = s.reg (DRL_CFG l)) (l : Nat) : t.linkOwner l = s.linkOwner l := by
  have hrf (k : Nat) (f : Field) : t.rf (DRL_CFG k) f = s.rf (DRL_CFG k) f := State.rf_congr (h k) f
  unfold State.linkOwner
  simp only [hrf]

theorem State.pairLink_congr {s t : State} (h : ∀ l, t.reg (DRL_CFG l) = s.reg (DRL_CFG l)) (c f : Nat) :
    t.pairLink c f = s.pairLink c f := by
  have hrf (k : Nat) (f : Field) : t.rf (DRL_CFG k) f = s.rf (DRL_CFG k) f := State.rf_congr (h k) f
  unfold State.pairLink State.linkPairs
  simp only [State.linkOwner_congr h, hrf]

theorem State.isLive_congr {s t : State} {l : Nat} (h : t.reg (DRL_STATUS l) = s.reg (DRL_STATUS l)) : t.isLive l = s.isLive l := by
  unfold State.isLive State.linkState
  rw [State.rf_congr h]

/-- No register of a link is a receive lane's. -/
theorem link_ne_rxlane (c : Casement) {i : Nat} (hi : i < 128) (l : Nat) :
    DRL_CFG l ≠ CSM_RXLANE c.val i ∧ DRL_STATUS l ≠ CSM_RXLANE c.val i := by
  have hc := c.isLt
  unfold DRL_CFG DRL_STATUS CSM_RXLANE linkBase csmBase
  split <;> omega

/-- A lane noted as degraded. -/
def State.laneNoted (s : State) (c i : Nat) : State := s.wf (CSM_RXLANE c i) CSM_RXLANE_DEGRADED 1

/-- The live link of an engine's two fibres. -/
def State.engineLink (s : State) (c e : Nat) : Option Nat := ([2 * e, 2 * e + 1].filterMap (s.pairLink c)).find? s.isLive

/-- The channel that a lane of an engine drops: by its link's map, or its own number where no link is live. -/
def State.laneChannel (s : State) (c e lane : Nat) : Nat :=
  match s.engineLink c e with | some l => (s.laneMap l 1).getD lane 0x1F | none => lane

/-- A ring at the end of those that are calibrated first. -/
def State.ringFirst (s : State) (c r : Nat) : State := s.setCsm c { s.csm c with calFirst := (s.csm c).calFirst ++ [r] }

theorem State.degraded_eq (s : State) (c e lane : Nat) : s.degraded c e lane =
    let t := s.laneNoted c (e * 16 + lane)
    let k := t.laneChannel c e lane
    if 18 ≤ k ∨ (t.csm c).calFirst.contains (144 + e * 18 + k) then t else t.ringFirst c (144 + e * 18 + k) := rfl

/-- A degraded lane is noted, and beside that the calibration's order alone may change. -/
theorem State.degraded_cases (s : State) (c e lane : Nat) : s.degraded c e lane = s.laneNoted c (e * 16 + lane) ∨
    ∃ r, s.degraded c e lane = (s.laneNoted c (e * 16 + lane)).ringFirst c r := by
  rw [State.degraded_eq]
  by_cases h : 18 ≤ (s.laneNoted c (e * 16 + lane)).laneChannel c e lane ∨ ((s.laneNoted c (e * 16 + lane)).csm c).calFirst.contains
      (144 + e * 18 + (s.laneNoted c (e * 16 + lane)).laneChannel c e lane)
  · exact .inl (if_pos h)
  · exact .inr ⟨_, if_neg h⟩

/-- What a degraded lane's note and the calibration's order leave alone. -/
structure LaneDegraded (s t : State) (c i : Nat) : Prop where
  noted : t.rf (CSM_RXLANE c i) CSM_RXLANE_DEGRADED = 1
  regs : ∀ a, a ≠ CSM_RXLANE c i → t.reg a = s.reg a
  links : t.links = s.links
  bytes : BytesKept s t

theorem State.laneNoted_degraded (s : State) (c i : Nat) : LaneDegraded s (s.laneNoted c i) c i :=
  ⟨State.rf_wf_same _ _ _ _ (by decide), fun _ h => State.reg_wf_other _ _ _ h, State.wf_links _ _ _ _, State.wf_bytes _ _ _ _⟩

theorem LaneDegraded.ringFirst {s t : State} {c i : Nat} (h : LaneDegraded s t c i) (d r : Nat) : LaneDegraded s (t.ringFirst d r) c i := by
  obtain ⟨hnoted, hregs, hlinks, hbytes⟩ := h
  have hreg (a : Nat) : (t.ringFirst d r).reg a = t.reg a := State.reg_setCsm _ _ _ _
  exact ⟨(State.rf_congr (hreg _) _).trans hnoted, fun a ha => (hreg a).trans (hregs a ha), hlinks, hbytes.trans (State.setCsm_bytes _ _ _)⟩

theorem State.degraded_degraded (s : State) (c e lane : Nat) : LaneDegraded s (s.degraded c e lane) c (e * 16 + lane) := by
  have hnoted := s.laneNoted_degraded c (e * 16 + lane)
  rcases s.degraded_cases c e lane with h | ⟨r, h⟩ <;> rw [h]
  · exact hnoted
  · exact hnoted.ringFirst c r

/-- With no link live the lane of its own number is calibrated first. -/
theorem State.degraded_first (s : State) (c : Casement) (e : Engine) (lane : Fin 16) (h : s.engineLink c.val e.val = none) :
    144 + e.val * 18 + lane.val ∈ ((s.degraded c.val e.val lane.val).csm c.val).calFirst := by
  let t := s.laneNoted c.val (e.val * 16 + lane.val)
  have hi : e.val * 16 + lane.val < 128 := by omega
  have hlink : t.engineLink c.val e.val = none := by
    have hpair : t.pairLink c.val = s.pairLink c.val :=
      funext fun f => State.pairLink_congr (fun l => State.reg_wf_other _ _ _ (link_ne_rxlane c hi l).1) _ _
    have hlive : t.isLive = s.isLive := funext fun l => State.isLive_congr (State.reg_wf_other _ _ _ (link_ne_rxlane c hi l).2)
    rw [State.engineLink, hpair, hlive]
    exact h
  have hchan : t.laneChannel c.val e.val lane.val = lane.val := by
    unfold State.laneChannel
    simp only [hlink]
  rw [State.degraded_eq]
  change _ ∈ ((if 18 ≤ t.laneChannel c.val e.val lane.val ∨ _ then t else t.ringFirst c.val (144 + e.val * 18 + _) : State).csm c.val).calFirst
  rw [hchan]
  split
  · rename_i hcond
    exact List.contains_iff_mem.1 (hcond.resolve_left (by omega))
  · rw [State.ringFirst, State.csm_setCsm_same]
    exact List.mem_append_right _ (List.mem_singleton_self _)

/-- Settles O54: plans and settles apply once their frames have come, and a burst is counted by what its slot expects. -/
theorem plansApplyAndBurstsAreCounted : Obligations.PlansApplyAndBurstsAreCounted := by
  unfold Obligations.PlansApplyAndBurstsAreCounted
  intro c e slot lane b s
  refine ⟨fun hdue hparts => ?_, fun p hp hframe hop hcsms hparts => ?_, fun h => ?_, fun x hx => ⟨fun hf => ?_, fun hf => ?_⟩,
    fun h => ?_, fun x hx => ⟨fun hf => ?_, fun hf => ?_⟩, fun h => ?_,
    fun l f must hslot => ⟨fun hlive hstate => ?_, fun hpath => ?_, fun hlive hpath => ⟨fun hzero hdark => ?_,
      fun hslot0 hsettled hmust hdark => ?_, fun o ho hlo hhi hsettled => ?_⟩⟩, ?_⟩
  · rw [exec_planApply, State.planApply_none hdue hparts]
  · refine ⟨_, (exec_planApply s).trans (congrArg _ (State.planApply_one hp hframe hop hcsms hparts)), ?_, ?_, fun i hi => ?_⟩
    · rw [(State.planStat_kept _).1, State.withPlans_plans]
    · exact ((State.setPlanOf_bytes _ _ _).trans (State.withPlans_bytes _ _)).trans (State.planStat_bytes _)
    · rw [State.planStat_planNow _ _ hi, State.withPlans_planNow, State.setPlanOf_planNow _ _ _ hi]
  · rw [exec_settleChange, State.settleChange_none h]
  · rw [exec_settleChange, State.settleChange_some hx, if_pos (by simp [hf])]
  · refine ⟨s.settleBegun c.val e.val x, ?_, State.settleBegun_bit _ _ _ e.isLt, State.settleBegun_mem _ _ _ _,
      fun a ha => State.settleBegun_reg _ _ _ _ ha⟩
    rw [exec_settleChange, State.settleChange_some hx, if_neg (by simp [hf])]
  · rw [exec_quietPeriodEnd, State.quietEnd_none h]
  · rw [exec_quietPeriodEnd, State.quietEnd_some hx, if_pos (by simp [hf])]
  · refine ⟨(s.withSettles (s.settles.filter (fun y => y != x))).settleStat c.val, ?_, State.settleStat_settles _ _,
      fun a ha => (State.settleStat_reg _ _ ha).trans (State.withSettles_reg _ _ _),
      (State.withSettles_bytes _ _).trans (State.settleStat_bytes _ _)⟩
    rw [exec_quietPeriodEnd, State.quietEnd_some hx, if_neg (by simp [hf])]
  · rw [exec_burstArrival, State.burst_unexpected h]
  · rw [exec_burstArrival, State.burst_linkDown hslot hlive hstate]
  · rw [exec_burstArrival, State.burst_pathOff hslot hpath]
  · rw [exec_burstArrival, State.burst_dark hslot hlive hpath hdark, if_neg (by simp [hzero])]
  · have hpos : slot.val ≠ 0 := fun h => hslot0 (Fin.ext h)
    rw [exec_burstArrival, State.burst_dark hslot hlive hpath hdark, if_pos (by simp [hpos, hsettled, hmust])]
  · refine ⟨s.burstLate c.val l f, ?_, State.burstLate_lit _ _ _ _, State.burstLate_bytes _ _ _ _,
      fun a ha => State.burstLate_reg _ _ _ _ ha, State.burstLate_count _ _ _ _⟩
    rw [exec_burstArrival, State.burst_late hslot hlive hpath ho hlo hhi hsettled]
  · obtain ⟨hnoted, hregs, hlinks, hbytes⟩ := s.degraded_degraded c.val e.val lane.val
    exact ⟨s.degraded c.val e.val lane.val, exec_laneDegraded .., hnoted, hregs, hlinks, hbytes, State.degraded_first s c e lane⟩

end Sys2Proof.Machine
end

section
/-!
PROOFS. Start-up and its deadline, the boundaries of slots and frames, and reports of faults (R294, R315, R471, R490, R523, R531).
-/

namespace Sys2Proof.Machine

/-! ## The rows -/

theorem exec_startUp (e : StartEnv) (s : State) : exec (.startUp e) s = .next (s.startUp e) := rfl

theorem exec_startUpDeadline (s : State) : exec .startUpDeadline s = .next (s.bootAdvance true) := rfl

theorem exec_frameBoundary (f : FrameEnv) (s : State) : exec (.frameBoundary f) s = .next (s.frameBoundary f) := rfl

theorem exec_slotBoundary (slot : Fin 64) (s : State) : exec (.slotBoundary slot) s =
    .next (if s.mode = .off then s else ((s.sendRestores).pumpReloads).slotBoundary slot.val) := rfl

theorem exec_faultReport (code : BitVec 16) (loc det : W32) (s : State) : exec (.faultReport code loc det) s =
    .next (if s.mode = .off ∨ reportFits code.toNat loc.toNat = false then s else s.detect code.toNat loc.toNat det.toNat) := rfl

theorem exec_budgetOverrun (k : Fin 10) (loc : W32) (s : State) : exec (.budgetOverrun k loc) s =
    .next (if s.mode = .off then s else (s.satf (FLT_BUDGET k.val) FLT_BUDGET_OVERRUNS 1).note F_BUDGET_OVERRUN loc.toNat k.val) := rfl

/-! ## Start-up -/

/-- START_UP begins from reset once the reset line is released. -/
def State.released (s : State) : State := ({ s with resetLow := false } : State).wiped.stage1

/-- An unacknowledged trip record holds the package in INIT; any other goes on with S4. -/
def State.afterRom (e : StartEnv) (s : State) : State :=
  if s.tripHeld then (({ s with mode := .initHold, startEnv := some e } : State).enterStage 14).i3cShow 6 0 0 else s.afterS3 e

theorem State.afterRom_clean (e : StartEnv) (v : State) {lost : List Bool} {bad : List Nat} (hl : lost = []) (hb : bad = []) :
    State.afterRom e (bad.foldl (fun s n => s.note F_PORCH_CFG (locPorch n) 0) (lost.foldl (fun s h => s.loseHearth h) v)) =
      State.afterRom e v := by
  subst hl hb
  rfl

section StartUp

variable {e : StartEnv} {s : State}

theorem State.startUp_ignored (h : s.mode ≠ .off ∨ s.clamped = true) : s.startUp e = s := by
  rw [State.startUp, if_pos h]

theorem State.startUp_fwHold (hm : s.mode = .off) (hc : s.clamped = false) (hp : (s.released.pickFw e).run = []) :
    s.startUp e = s.released.fwHold (s.released.pickFw e) := by
  rw [State.startUp, if_neg (by simp [hm, hc])]
  exact if_pos hp

/-- START_UP with its firmware in the Hearths: a Hearth is lost that does not run it, and each lane that breaks R405 is noted. -/
theorem State.startUp_firmware (hm : s.mode = .off) (hc : s.clamped = false) (hp : (s.released.pickFw e).run ≠ []) :
    s.startUp e = State.afterRom e (s.released.brokenLanes.foldl (fun s n => s.note F_PORCH_CFG (locPorch n) 0)
      (((s.released.pickFw e).lost ++ (if e.romOkA then [] else [false]) ++ (if e.romOkB then [] else [true])).foldl
        (fun s h => s.loseHearth h) ((s.released.stage2 (s.released.pickFw e)).stage3 e))) := by
  rw [State.startUp, if_neg (by simp [hm, hc])]
  exact if_neg hp

/-- Where both Hearths run their firmware and no lane's role breaks R405, nothing stands between S3 and the trip record. -/
theorem State.startUp_runs (hm : s.mode = .off) (hc : s.clamped = false) (hp : (s.released.pickFw e).run ≠ [])
    (hl : (s.released.pickFw e).lost = []) (hA : e.romOkA = true) (hB : e.romOkB = true) (hb : s.released.brokenLanes = []) :
    s.startUp e = State.afterRom e ((s.released.stage2 (s.released.pickFw e)).stage3 e) :=
  (State.startUp_firmware hm hc hp).trans (State.afterRom_clean e _ (by simp [hl, hA, hB]) hb)

theorem State.initHold_stage (v : State) :
    ((({ v with mode := .initHold, startEnv := some e } : State).enterStage 14).i3cShow 6 0 0).rf HRT_START HRT_START_STAGE =
      14 % 2 ^ HRT_START_STAGE.width :=
  State.rf_wf_same (s := { v with mode := .initHold, startEnv := some e }) _ _ _ (by decide)

end StartUp

/-! ## The deadline -/

section Deadline

variable {s : State}

theorem State.bootAdvance_notStarting (late : Bool) (h : s.mode ≠ .starting) : s.bootAdvance late = s := by
  rw [State.bootAdvance, if_pos h]

/-- S9 and S10 pass by a stage that is neither of them. -/
theorem State.bootAdvance_pastLinks (late : Bool) (hm : s.mode = .starting) (h9 : s.rf HRT_START HRT_START_STAGE ≠ 9)
    (h10 : s.rf HRT_START HRT_START_STAGE ≠ 10) : s.bootAdvance late =
      if s.rf HRT_START HRT_START_STAGE = 11 ∧ s.plans.all (fun p => p.opcode != 0) then s.becomeReady else s := by
  rw [State.bootAdvance, if_neg (not_not_intro hm)]
  simp only [if_pos h9, if_pos h10]

theorem State.bootAdvance_otherStage (late : Bool) (h : s.rf HRT_START HRT_START_STAGE < 9 ∨ 11 < s.rf HRT_START HRT_START_STAGE) :
    s.bootAdvance late = s := by
  by_cases hm : s.mode = .starting
  · rw [State.bootAdvance_pastLinks _ hm (by omega) (by omega), if_neg fun ⟨h11, _⟩ => by omega]
  · exact State.bootAdvance_notStarting late hm

theorem State.bootAdvance_ready (late : Bool) (hm : s.mode = .starting) (h11 : s.rf HRT_START HRT_START_STAGE = 11)
    (hp : s.plans.all (fun p => p.opcode != 0) = true) : s.bootAdvance late = s.becomeReady := by
  rw [State.bootAdvance_pastLinks _ hm (by omega) (by omega), if_pos ⟨h11, hp⟩]

end Deadline

/-! ## Slips of the bays -/

/-- A slip changes no byte, and of the registers only those of the sequencers' status. -/
structure OnlySeqStatus (s t : State) : Prop where
  bytes : BytesKept s t
  reg : ∀ a, (∀ b, a ≠ BAY_SEQ_STATUS b) → t.reg a = s.reg a

theorem OnlySeqStatus.refl (s : State) : OnlySeqStatus s s := ⟨.refl s, fun _ _ => rfl⟩

theorem OnlySeqStatus.trans {s t u : State} (h : OnlySeqStatus s t) (h' : OnlySeqStatus t u) : OnlySeqStatus s u :=
  ⟨h.bytes.trans h'.bytes, fun a ha => (h'.reg a ha).trans (h.reg a ha)⟩

theorem State.slipHead_only (s : State) (b : BayId) (u : UnitKind) : OnlySeqStatus s (s.slipHead b u) := by
  by_cases h : s.slips b u = true
  · rw [State.slipHead, if_neg (by simp [h])]
    exact ⟨(State.setBay_bytes _ _ _).trans (State.wf_bytes _ _ _ _), fun a ha => State.reg_satf_other _ _ _ (ha b)⟩
  · rw [State.slipHead, if_pos (by simpa using h)]
    exact .refl s

/-- A head that may wait for another unit's slip slips only where it does not. -/
theorem State.slipUnless_only (s : State) (c : Prop) [Decidable c] (b : BayId) (u : UnitKind) :
    OnlySeqStatus s (if c then s else s.slipHead b u) := by
  by_cases h : c
  · rw [if_pos h]
    exact .refl s
  · rw [if_neg h]
    exact State.slipHead_only s b u

theorem State.slipBay_only (s : State) (b : BayId) : OnlySeqStatus s (s.slipBay b) := by
  by_cases h : s.seqState b = seqRunning
  · rw [State.slipBay, if_neg (not_not_intro h)]
    exact (((State.slipUnless_only s _ b .matrix).trans (State.slipUnless_only _ _ b .vector)).trans
      (State.slipHead_only _ b .data)).trans (State.slipHead_only _ b .exchange)
  · rw [State.slipBay, if_pos h]
    exact .refl s

theorem State.slipBays_only (s : State) (bs : List BayId) : OnlySeqStatus s (bs.foldl (fun s b => s.slipBay b) s) :=
  List.foldlRecOn (motive := OnlySeqStatus s) bs (fun s b => s.slipBay b) (.refl s)
    fun t ht b _ => ht.trans (State.slipBay_only t b)

theorem STR_FRAME_ne_BAY_SEQ_STATUS (b : BayId) : STR_FRAME ≠ BAY_SEQ_STATUS b := by
  unfold STR_FRAME BAY_SEQ_STATUS bayBase csmBase
  omega

theorem State.frame_nextFrame (s : State) : s.nextFrame.frame = (s.frame + 1) % 2 ^ 48 :=
  State.rf_wf_same _ _ _ _ (by decide)

theorem State.nextFrame_bytes (s : State) : BytesKept s s.nextFrame := State.wf_bytes _ _ _ _

/-! ## The frame boundary -/

/-- What a frame boundary does to a running package before the boot stages go on. -/
def State.frameWork (s : State) (f : FrameEnv) : State :=
  let u := (allBays.foldl (fun s b => s.slipBay b) s).nextFrame
  let v := (((allBays.foldl (fun s b => (s.overrunBay b).countBay b) u).powerFrame f).pairFrame).blockResetsDue
  ((v.lightFrame.attachFrame).unfencesDue).moveTraffic

section Boundary

variable {s : State} {f : FrameEnv}

theorem State.frameBoundary_off (h : s.mode = .off) : s.frameBoundary f = s := by
  rw [State.frameBoundary, if_pos h]

theorem State.frameBoundary_on (h : s.mode ≠ .off) : s.frameBoundary f = if (s.frameWork f).mode = .starting
    then ({ s.frameWork f with bootFrame := (s.frameWork f).bootFrame + 1 } : State).bootAdvance false else s.frameWork f := by
  rw [State.frameBoundary, if_neg h]
  rfl

end Boundary

/-- Settles O55: START_UP runs in its stages, the three stages that wait are the only ones the deadline moves, and the first act of a
frame boundary is the slips and the count of the frame. -/
theorem startUpBoundariesAndReports : Obligations.StartUpBoundariesAndReports := by
  unfold Obligations.StartUpBoundariesAndReports
  intro e f slot code loc det k s
  refine ⟨?_, ?_, ?_, ?_, ?_, ?_, ?_, ?_, ?_, ?_, ?_⟩
  · intro h
    rw [exec_startUp, State.startUp_ignored h]
  · intro hm hc
    refine ⟨fun hp => ?_, fun hp hl hA hB hb => ⟨fun ht => ?_, fun ht => ⟨_, rfl, ?_⟩⟩⟩
    · rw [exec_startUp, State.startUp_fwHold hm hc hp]
      rfl
    · exact (exec_startUp e s).trans (congrArg _ ((State.startUp_runs hm hc hp hl hA hB hb).trans (if_neg (ne_true_of_eq_false ht))))
    · rw [(State.startUp_runs hm hc hp hl hA hB hb).trans (if_pos ht)]
      exact ⟨rfl, State.initHold_stage _⟩
  · intro hm
    rw [exec_startUpDeadline, State.bootAdvance_notStarting true hm]
  · intro h
    rw [exec_startUpDeadline, State.bootAdvance_otherStage true h]
  · intro hm h11 hp
    rw [exec_startUpDeadline, State.bootAdvance_ready true hm h11 hp]
  · intro hm
    rw [exec_frameBoundary, State.frameBoundary_off hm, exec_slotBoundary, if_pos hm, exec_faultReport, if_pos (.inl hm),
      exec_budgetOverrun, if_pos hm]
    exact ⟨rfl, rfl, rfl, rfl⟩
  · intro hm
    have hslip := State.slipBays_only s allBays
    refine ⟨?_, hslip.bytes.trans (State.nextFrame_bytes _), fun a hf hb => ?_, fun hw => ?_, fun hw => ?_⟩
    · rw [State.frame_nextFrame, State.frame, State.rf_congr (hslip.reg _ STR_FRAME_ne_BAY_SEQ_STATUS), State.frame]
    · exact (State.reg_wf_other _ _ _ hf).trans (hslip.reg a hb)
    · exact (exec_frameBoundary f s).trans (congrArg _ ((State.frameBoundary_on hm).trans (if_neg hw)))
    · exact (exec_frameBoundary f s).trans (congrArg _ ((State.frameBoundary_on hm).trans (if_pos hw)))
  · intro hm
    rw [exec_slotBoundary, if_neg hm]
  · intro h
    rw [exec_faultReport, if_pos (.inr h)]
  · intro hm h
    rw [exec_faultReport, if_neg (by simp [hm, h])]
  · intro hm
    refine ⟨s.satf (FLT_BUDGET k.val) FLT_BUDGET_OVERRUNS 1, ?_, fun a ha => State.reg_satf_other _ _ _ ha,
      State.rf_satf_same _ _ _ _ (by decide)⟩
    rw [exec_budgetOverrun, if_neg hm]

end Sys2Proof.Machine
end

section
/-!
PROOFS. An event entry changes at most two lines of stacked memory (R191, R192, R426).
-/

namespace Sys2Proof.Machine

/-! ## Lines of 64 bytes -/

/-- From m to m' nothing changes outside the lines of 64 bytes at the addresses of a list. -/
def WithinLines (as : List Nat) (m m' : Memory) : Prop :=
  ∀ x, (∀ a ∈ as, x < a ∨ a + 64 ≤ x) → memGet m' x = memGet m x

theorem WithinLines.refl (m : Memory) : WithinLines [] m m := fun _ _ => rfl

theorem WithinLines.cons {a : Nat} {as : List Nat} {m m' m'' : Memory} (h : WithinLines [a] m m') (h' : WithinLines as m' m'') :
    WithinLines (a :: as) m m'' := fun x hx =>
  (h' x fun b hb => hx b (List.mem_cons_of_mem _ hb)).trans
    (h x fun b hb => hx b (List.mem_singleton.1 hb ▸ List.mem_cons_self))

theorem withinLines_memWrite {bs : List Byte} (m : Memory) (a : Nat) (h : bs.length ≤ 64) : WithinLines [a] m (memWrite m a bs) := by
  intro x hx
  have := hx a List.mem_cons_self
  exact memGet_memWrite_out _ _ (by omega)

/-- A changed byte lies in one of the lines. -/
theorem WithinLines.mem_of_changed {as : List Nat} {m m' : Memory} {x : Nat} (h : WithinLines as m m')
    (hx : memGet m' x ≠ memGet m x) : ∃ a ∈ as, a ≤ x ∧ x < a + 64 := by
  by_contra hne
  refine hx (h x fun a ha => ?_)
  by_contra hin
  exact hne ⟨a, ha, by omega⟩

/-- Two lines do not hold three changed bytes that lie a line apart. -/
theorem WithinLines.not_three {as : List Nat} {m m' : Memory} {x y z : Nat} (h : WithinLines as m m') (hlen : as.length ≤ 2)
    (hxy : x + 64 ≤ y) (hyz : y + 64 ≤ z) (hx : memGet m' x ≠ memGet m x) (hy : memGet m' y ≠ memGet m y)
    (hz : memGet m' z ≠ memGet m z) : False := by
  obtain ⟨a, ha, hax⟩ := h.mem_of_changed hx
  obtain ⟨b, hb, hby⟩ := h.mem_of_changed hy
  obtain ⟨c, hc, hcz⟩ := h.mem_of_changed hz
  have hnodup : [a, b, c].Nodup := by
    simp only [List.nodup_cons, List.mem_cons, List.not_mem_nil, or_false, not_or, not_false_eq_true, List.nodup_nil, and_true]
    omega
  have hsub : [a, b, c] ⊆ as := by simp [ha, hb, hc]
  have := (List.subperm_of_subset hnodup hsub).length_le
  simp only [List.length_cons, List.length_nil] at this
  omega

/-! ## Stores and spills -/

theorem State.unpoison_mem (s : State) (l : Nat) : (s.unpoison l).mem = s.mem := by
  unfold State.unpoison
  extract_lets
  split <;> rfl

theorem State.memStore_mem (s : State) (a : Nat) (bs : List Byte) : (s.memStore a bs).mem = memWrite s.mem a bs := by
  unfold State.memStore
  extract_lets full t
  have ht : t.mem = s.mem := List.foldlRecOn (motive := fun u : State => u.mem = s.mem) full _ rfl fun u hu l _ => by
    split
    · exact (State.unpoison_mem u l).trans hu
    · exact hu
  change memWrite t.mem a bs = _
  rw [ht]

theorem cellarLine_length (bs : List Byte) (seq : Nat) : (wordsToBytes (cellarLine bs seq)).length ≤ 64 := by
  rw [wordsToBytes_length]
  unfold cellarLine
  simp only [List.length_append, List.length_take, List.length_cons, List.length_nil]
  omega

/-- A spill of at most k lines. -/
theorem State.spill_withinLines : ∀ (k : Nat) (s : State) (n : Nat) (q : Queue) (r : State × Queue), s.spill k n q = some r →
    ∃ as, as.length ≤ k ∧ WithinLines as s.mem r.1.mem
  | 0, s, n, q, r, h => by
    unfold State.spill at h
    split at h
    · cases h
      exact ⟨[], Nat.le_refl 0, .refl _⟩
    · cases h
  | k + 1, s, n, q, r, h => by
    unfold State.spill at h
    split at h
    · cases h
      exact ⟨[], Nat.zero_le _, .refl _⟩
    · split at h
      · cases h
      · rename_i a q' took hline
        extract_lets t u at h
        have hu : WithinLines [a] s.mem u.mem := by
          have ht : WithinLines [a] s.mem t.mem := by
            unfold t
            rw [State.memStore_mem]
            exact withinLines_memWrite _ _ (cellarLine_length _ _)
          unfold u
          split <;> exact ht
        obtain ⟨as, hlen, has⟩ := State.spill_withinLines k _ n _ r h
        exact ⟨a :: as, Nat.succ_le_succ hlen, hu.cons has⟩

/-! ## Events -/

theorem State.queuePut_withinLines {s t : State} {n : Nat} {bs : List Byte} (h : s.queuePut n bs = some t) :
    ∃ as, as.length ≤ bs.length / 56 + 1 ∧ WithinLines as s.mem t.mem := by
  unfold State.queuePut at h
  obtain ⟨r, hr, rfl⟩ := Option.map_eq_some_iff.mp h
  exact State.spill_withinLines _ _ _ _ _ hr

theorem State.msix_mem (s : State) (v : Nat) : (s.msix v).mem = s.mem := by
  unfold State.msix
  extract_lets a d
  split <;> rfl

theorem State.ringWrite_mem (s : State) (q : Nat) (bs : List Byte) : (s.ringWrite q bs).mem = s.mem := by
  unfold State.ringWrite
  extract_lets tail size pass ws base t u
  split
  · exact State.msix_mem _ _
  · rfl

theorem State.deliver_mem : ∀ (k : Nat) (s : State) (q : Nat), (State.deliver k s q).mem = s.mem
  | 0, _, _ => rfl
  | k + 1, s, q => by
    unfold State.deliver
    split
    · rfl
    · rename_i t ht
      have hone : t.mem = s.mem := by
        unfold State.deliverOne at ht
        split at ht
        · obtain ⟨r, -, rfl⟩ := Option.map_eq_some_iff.mp ht
          exact State.ringWrite_mem _ _ _
        · cases ht
      exact (State.deliver_mem k t q).trans hone

theorem State.crossings_mem (s : State) (n before : Nat) : (s.crossings n before).1.mem = s.mem := by
  unfold State.crossings State.crossingsW
  extract_lets level h l nh nl t u host
  have ht : t.mem = s.mem := by
    unfold t
    split <;> rfl
  have hu : u.mem = t.mem := by
    unfold u
    split <;> rfl
  exact hu.trans ht

/-- The crossings of queue n after a change of its level, with their notice on ring q. -/
def State.marked (s : State) (q n before : Nat) : State :=
  if (s.crossings n before).2.1 || (s.crossings n before).2.2 then (s.crossings n before).1.notifyRing q else (s.crossings n before).1

theorem State.marked_mem (s : State) (q n before : Nat) : (s.marked q n before).mem = s.mem := by
  unfold State.marked
  split
  · exact (State.msix_mem _ _).trans (State.crossings_mem _ _ _)
  · exact State.crossings_mem _ _ _

/-- Queue q of the events with an entry joined, or with one counted that it had no place for. -/
def State.eventJoined (s : State) (q : Nat) (ws : List Word) : State :=
  match s.queuePut (1096 + q) (wordsToBytes ws) with
  | some s => s
  | none => s.satf (CEL_QLEVEL (1096 + q)) CEL_QLEVEL_DROPPED 1

theorem State.eventJoined_some {s t : State} {q : Nat} {ws : List Word} (h : s.queuePut (1096 + q) (wordsToBytes ws) = some t) :
    s.eventJoined q ws = t := by
  rw [State.eventJoined, h]

theorem State.eventJoined_none {s : State} {q : Nat} {ws : List Word} (h : s.queuePut (1096 + q) (wordsToBytes ws) = none) :
    s.eventJoined q ws = s.satf (CEL_QLEVEL (1096 + q)) CEL_QLEVEL_DROPPED 1 := by
  rw [State.eventJoined, h]

/-- An event joins its queue, the queue delivers what its ring takes, and both changes of level are marked. -/
theorem State.putEvent_eq (s : State) (q : Nat) (ws : List Word) : s.putEvent q ws =
    (((s.eventJoined q ws).marked q (1096 + q) (queueLevel (s.queue (1096 + q)))).deliverAll q).marked q (1096 + q)
      (queueLevel (((s.eventJoined q ws).marked q (1096 + q) (queueLevel (s.queue (1096 + q)))).queue (1096 + q))) := rfl

/-- The queue's crossings and the delivery to its ring store nothing in stacked memory. -/
theorem State.putEvent_mem (s : State) (q : Nat) (ws : List Word) : (s.putEvent q ws).mem = (s.eventJoined q ws).mem := by
  rw [State.putEvent_eq, State.marked_mem, State.deliverAll, State.deliver_mem, State.marked_mem]

theorem State.eventJoined_withinLines (s : State) (q : Nat) (ws : List Word) :
    ∃ as, as.length ≤ (wordsToBytes ws).length / 56 + 1 ∧ WithinLines as s.mem (s.eventJoined q ws).mem := by
  cases h : s.queuePut (1096 + q) (wordsToBytes ws) with
  | none =>
    rw [State.eventJoined_none h]
    exact ⟨[], Nat.zero_le _, .refl _⟩
  | some t =>
    rw [State.eventJoined_some h]
    exact State.queuePut_withinLines h

theorem eventEntry_bytes (source kind tag epoch status opcode : Nat) (body : List Word) :
    (wordsToBytes (eventEntry source kind tag epoch status opcode body)).length = 64 := by
  rw [wordsToBytes_length]
  simp only [eventEntry, List.length_append, List.length_cons, List.length_nil, List.length_take, List.length_replicate]
  omega

theorem State.hostEvent_withinLines (s : State) (kind : Nat) (body : List Word) :
    ∃ as, as.length ≤ 2 ∧ WithinLines as s.mem (s.hostEvent kind body).mem := by
  by_cases hb : s.isBridge = true
  · rw [State.hostEvent, if_pos hb, State.putEvent_mem]
    obtain ⟨as, hlen, has⟩ := s.eventJoined_withinLines 0 (eventEntry s.pkg kind 0 s.epoch 0 0 body)
    rw [eventEntry_bytes] at hlen
    exact ⟨as, hlen, has⟩
  · rw [State.hostEvent, if_neg hb]
    exact ⟨[], Nat.zero_le _, .refl _⟩

/-- The end of a step that has begun raises one event. -/
theorem State.endStep_mem (s : State) {st : Step} (h : st.phase ≠ .pending) : (s.endStep st).mem =
    (({ s with steps := s.steps.filter (fun x => x.num != st.num) } : State).stepAborted st false).mem := by
  rw [State.endStep]
  simp only [if_neg h]
  rfl

theorem State.endStep_withinLines (s : State) {st : Step} (h : st.phase ≠ .pending) :
    ∃ as, as.length ≤ 2 ∧ WithinLines as s.mem (s.endStep st).mem := by
  rw [State.endStep_mem s h]
  exact State.hostEvent_withinLines { s with steps := s.steps.filter (fun x => x.num != st.num) } _ _

end Sys2Proof.Machine
end

section
/-!
PROOFS. A step that is late for its replay on a bridge whose event queue spills (R191, R196, R426, R482).
-/

namespace Sys2Proof.Machine

/-! ## A queue that spills -/

/-- What a bridge's registers show where event queue 0 spills into the CELLAR region at 0 and marks no crossing, and its ring is off. -/
structure SpillReady (s : State) : Prop where
  bridge : s.isBridge = true
  region : s.cellarRegion = some 0
  base : s.rgnLo 0 = 0
  spills : s.rf CEL_CTRL CEL_CTRL_SPILL_EN ≠ 0
  noHigh : s.rf (CEL_QCFG 1096) CEL_QCFG_EN_H = 0
  noLow : s.rf (CEL_QCFG 1096) CEL_QCFG_EN_L = 0
  ringOff : s.hf (HB_EVQ_CFG 0) HB_EVQ_CFG_EN = 0
  clean : ∀ k < 4, s.isPoisoned (64 * k) = false

/-- It is a fact about the registers alone. -/
def State.regsOnly (s : State) : State := { State.reset with mgmt := s.mgmt, hb := s.hb }

theorem SpillReady.regsOnly {s : State} (h : SpillReady s) : SpillReady s.regsOnly :=
  ⟨h.bridge, h.region, h.base, h.spills, h.noHigh, h.noLow, h.ringOff, h.clean⟩

theorem SpillReady.of_regsOnly {s : State} (h : SpillReady s.regsOnly) : SpillReady s :=
  ⟨h.bridge, h.region, h.base, h.spills, h.noHigh, h.noLow, h.ringOff, h.clean⟩

theorem SpillReady.congr {s t : State} (h : SpillReady s) (hm : t.mgmt = s.mgmt) (hh : t.hb = s.hb) : SpillReady t := by
  have hst : t.regsOnly = s.regsOnly := by rw [State.regsOnly, State.regsOnly, hm, hh]
  exact .of_regsOnly (hst ▸ h.regsOnly)

/-- Queue q has used k lines of segment 0, and the tail begins with m bytes of 0xFF. -/
structure TailOf (q : Queue) (k m : Nat) (rest : List Byte) : Prop where
  mid : q.mid ≠ []
  segs : q.segs = [0]
  used : q.used = k
  tail : q.tail = List.replicate m 0xFF ++ rest

/-- Lines 1 to k of the region begin with 0xFF. -/
def LinesWritten (s : State) (k : Nat) : Prop := ∀ i, 1 ≤ i → i < k → memGet s.mem (64 * i) = 0xFF

theorem fullLine_length (seq : Nat) : (wordsToBytes (cellarLine (List.replicate 56 0xFF) seq)).length = 64 := rfl

theorem fullLine_first (seq : Nat) : (wordsToBytes (cellarLine (List.replicate 56 0xFF) seq))[0]'(by rw [fullLine_length]; decide) = 0xFF := rfl

theorem linesOf_line : ∀ k < 4, linesOf (64 * k) 64 = [64 * k] := by decide

theorem State.memStore_clean {s : State} {k : Nat} {bs : List Byte} (hk : k < 4) (hlen : bs.length = 64)
    (hc : s.isPoisoned (64 * k) = false) : s.memStore (64 * k) bs = { s with mem := memWrite s.mem (64 * k) bs } := by
  rw [State.memStore, hlen, linesOf_line k hk]
  simp [hc]

section Spill

variable {s : State} {q : Queue} {k m : Nat} {rest : List Byte}

theorem State.nextLine_inSegment (hs : SpillReady s) (ht : TailOf q k m rest) (hk : k < 4) :
    s.nextLine 1096 q = some (64 * k, { q with used := q.used + 1 }, false) := by
  rw [State.nextLine, hs.region]
  simp only [if_neg hs.spills, ht.segs, ht.used, hs.base]
  rw [if_pos ⟨by simp, by omega⟩]
  simp [Nat.mul_comm]

/-- The queue after its oldest 56 bytes of the tail went to line k. -/
def lineSpilled (q : Queue) (k : Nat) : Queue :=
  { q with used := q.used + 1, tail := q.tail.drop 56, mid := q.mid ++ [(64 * k, q.seq % 256)], seq := q.seq + 1 }

/-- The state after that line was stored. -/
def State.lineStored (s : State) (q : Queue) (k : Nat) : State :=
  ({ s with mem := memWrite s.mem (64 * k) (wordsToBytes (cellarLine (List.replicate 56 0xFF) q.seq)) } : State).setQueue 1096
    (lineSpilled q k)

theorem TailOf.spilled (ht : TailOf q k (m + 56) rest) : TailOf (lineSpilled q k) (k + 1) m rest where
  mid := by simp [lineSpilled]
  segs := ht.segs
  used := congrArg (· + 1) ht.used
  tail := by
    change q.tail.drop 56 = _
    rw [ht.tail, List.drop_append_of_le_length (by simp), List.drop_replicate, Nat.add_sub_cancel]

theorem State.spill_line (hs : SpillReady s) (ht : TailOf q k (m + 56) rest) (hk : k < 4) (hlen : 4096 < q.tail.length) (f : Nat) :
    State.spill (f + 1) s 1096 q = State.spill f (s.lineStored q k) 1096 (lineSpilled q k) := by
  have htake : q.tail.take 56 = List.replicate 56 0xFF := by
    rw [ht.tail, List.take_append_of_le_length (by simp), List.take_replicate, Nat.min_eq_left (by omega)]
  rw [State.spill, if_neg (by rw [show queueCap 1096 = 4096 from rfl]; omega), State.nextLine_inSegment hs ht hk, htake]
  simp only [State.memStore_clean hk (fullLine_length q.seq) (hs.clean k hk)]
  rfl

theorem State.spill_done (f : Nat) (hlen : q.tail.length ≤ 4096) : State.spill f s 1096 q = some (s, q) := by
  have hcap : q.tail.length ≤ queueCap 1096 := hlen
  cases f <;> rw [State.spill, if_pos hcap]

theorem SpillReady.withMemory (hs : SpillReady s) (m : Memory) (n : Nat) (q : Queue) :
    SpillReady (({ s with mem := m } : State).setQueue n q) := hs.congr rfl rfl

theorem SpillReady.lineStored (hs : SpillReady s) : SpillReady (s.lineStored q k) :=
  hs.withMemory _ _ _

theorem LinesWritten.lineStored (hw : LinesWritten s k) : LinesWritten (s.lineStored q k) (k + 1) := by
  intro i h1 hi
  change memGet (memWrite s.mem (64 * k) (wordsToBytes (cellarLine (List.replicate 56 0xFF) q.seq))) (64 * i) = 0xFF
  rcases Nat.lt_succ_iff_lt_or_eq.1 hi with hlt | rfl
  · rw [memGet_memWrite_out _ _ (.inl (by omega))]
    exact hw i h1 hlt
  · exact (memGet_memWrite_in _ s.mem (64 * i) (i := 0) (by rw [fullLine_length]; decide)).trans (fullLine_first q.seq)

end Spill

/-! ## An event that spills -/

section Quiet

variable {s : State}

theorem State.marked_quiet (hs : SpillReady s) (before : Nat) : s.marked 0 1096 before = s := by
  have hc : s.crossings 1096 before = (s, false, false) := by
    simp [State.crossings, State.crossingsW, hs.noHigh, hs.noLow]
  rw [State.marked, hc]
  rfl

theorem State.ringReady_off (hs : SpillReady s) : s.ringReady 0 = false := by
  simp [State.ringReady, hs.ringOff]

theorem State.deliverAll_quiet (hs : SpillReady s) : s.deliverAll 0 = s := by
  rw [State.deliverAll]
  generalize (s.queue (1096 + 0)).lens.length = k
  cases k with
  | zero => rfl
  | succ k => rw [State.deliver, State.deliverOne, State.ringReady_off hs, if_neg Bool.false_ne_true]

theorem State.putEvent_quiet {ws : List Word} (hs : SpillReady (s.eventJoined 0 ws)) : s.putEvent 0 ws = s.eventJoined 0 ws := by
  rw [State.putEvent_eq, State.marked_quiet hs, State.deliverAll_quiet hs, State.marked_quiet hs]

end Quiet

/-- A bridge whose event queue spills next to line k of its segment, with m bytes of 0xFF first, and lines 1 to k - 1 begin with 0xFF. -/
structure Spilling (s : State) (k m : Nat) (rest : List Byte) : Prop where
  ready : SpillReady s
  tail : TailOf (s.queue 1096) k m rest
  lines : LinesWritten s k

theorem Spilling.congr {s t : State} {k m : Nat} {rest : List Byte} (h : Spilling s k m rest) (hm : t.mgmt = s.mgmt) (hh : t.hb = s.hb)
    (hmem : t.mem = s.mem) (hq : t.queues = s.queues) : Spilling t k m rest where
  ready := h.ready.congr hm hh
  tail := by
    rw [State.queue, hq]
    exact h.tail
  lines := by
    unfold LinesWritten
    rw [hmem]
    exact h.lines

/-- An entry joined to a queue. -/
def joined (q : Queue) (bs : List Byte) : Queue := { q with tail := q.tail ++ bs, lens := q.lens ++ [bs.length] }

section Event

variable {s : State} {q : Queue} {k m : Nat} {rest : List Byte}

theorem TailOf.joined (ht : TailOf q k m rest) (bs : List Byte) : TailOf (joined q bs) k m (rest ++ bs) where
  mid := ht.mid
  segs := ht.segs
  used := ht.used
  tail := by
    change q.tail ++ bs = _
    rw [ht.tail, List.append_assoc]

theorem TailOf.length (ht : TailOf q k m rest) : q.tail.length = m + rest.length := by
  rw [ht.tail, List.length_append, List.length_replicate]

theorem State.queuePut_spills (ht : TailOf (s.queue 1096) k m rest) (bs : List Byte) : s.queuePut 1096 bs =
    (State.spill (bs.length / 56 + 1) s 1096 (joined (s.queue 1096) bs)).map (fun r => r.1.setQueue 1096 r.2) := by
  have hmid : (joined (s.queue 1096) bs).mid.isEmpty = false := List.isEmpty_eq_false_iff.2 ht.mid
  have hpass : passToHead 1096 (joined (s.queue 1096) bs) = joined (s.queue 1096) bs := by
    rw [passToHead, hmid, if_neg Bool.false_ne_true]
  rw [State.queuePut, ← hpass]
  rfl

theorem State.queue_setQueue_same (s : State) (n : Nat) (q : Queue) : (s.setQueue n q).queue n = q := sparseGet_set_same ..

/-- The end of a spill leaves the queue with its tail. -/
theorem Spilling.ofSpill (hs : SpillReady s) (ht : TailOf q k m rest) (hw : LinesWritten s k) : Spilling (s.setQueue 1096 q) k m rest where
  ready := hs.congr rfl rfl
  tail := by
    rw [State.queue_setQueue_same]
    exact ht
  lines := hw

theorem State.hostEvent_joined {t : State} (hs : SpillReady s) (kind : Nat) (body : List Word)
    (h : s.queuePut 1096 (wordsToBytes (eventEntry s.pkg kind 0 s.epoch 0 0 body)) = some t) (ht : SpillReady t) :
    s.hostEvent kind body = t := by
  have hj : s.eventJoined 0 (eventEntry s.pkg kind 0 s.epoch 0 0 body) = t := State.eventJoined_some h
  rw [State.hostEvent, if_pos hs.bridge, State.putEvent_quiet (hj ▸ ht), hj]

/-- An event that takes the tail of its queue beyond its buffer by up to 56 bytes spills one line. -/
theorem Spilling.one (h : Spilling s k (m + 56) rest) (hk : k < 4) (hlo : 3976 < m + rest.length) (hhi : m + rest.length ≤ 4032)
    (kind : Nat) (body : List Word) : ∃ bs : List Byte, bs.length = 64 ∧ Spilling (s.hostEvent kind body) (k + 1) m (rest ++ bs) := by
  obtain ⟨hs, ht, hw⟩ := h
  have hlen := eventEntry_bytes s.pkg kind 0 s.epoch 0 0 body
  refine ⟨_, hlen, ?_⟩
  generalize hbs : wordsToBytes (eventEntry s.pkg kind 0 s.epoch 0 0 body) = bs at hlen ⊢
  have ht1 := ht.joined bs
  have ht2 := ht1.spilled
  have hl1 := ht1.length
  have hl2 := ht2.length
  rw [List.length_append, hlen] at hl1 hl2
  have hput : s.queuePut 1096 bs = some ((s.lineStored (joined (s.queue 1096) bs) k).setQueue 1096
      (lineSpilled (joined (s.queue 1096) bs) k)) := by
    rw [State.queuePut_spills ht, hlen, State.spill_line hs ht1 hk (by omega), State.spill_done _ (by omega)]
    rfl
  have hend := Spilling.ofSpill (hs.lineStored (q := joined (s.queue 1096) bs) (k := k)) ht2 hw.lineStored
  rw [State.hostEvent_joined hs kind body (hbs ▸ hput) hend.ready]
  exact hend

/-- One that takes it further spills two. -/
theorem Spilling.two (h : Spilling s k (m + 56 + 56) rest) (hk : k < 3) (hlo : 3976 < m + rest.length) (hhi : m + rest.length ≤ 4032)
    (kind : Nat) (body : List Word) : ∃ bs : List Byte, bs.length = 64 ∧ Spilling (s.hostEvent kind body) (k + 2) m (rest ++ bs) := by
  obtain ⟨hs, ht, hw⟩ := h
  have hlen := eventEntry_bytes s.pkg kind 0 s.epoch 0 0 body
  refine ⟨_, hlen, ?_⟩
  generalize hbs : wordsToBytes (eventEntry s.pkg kind 0 s.epoch 0 0 body) = bs at hlen ⊢
  generalize hq1 : joined (s.queue 1096) bs = q1
  have ht1 : TailOf q1 k (m + 56 + 56) (rest ++ bs) := hq1 ▸ ht.joined bs
  have hs2 : SpillReady (s.lineStored q1 k) := hs.lineStored
  have ht2 := ht1.spilled
  have ht3 := ht2.spilled
  have hl1 := ht1.length
  have hl2 := ht2.length
  have hl3 := ht3.length
  rw [List.length_append, hlen] at hl1 hl2 hl3
  have hput : s.queuePut 1096 bs = some (((s.lineStored q1 k).lineStored (lineSpilled q1 k) (k + 1)).setQueue 1096
      (lineSpilled (lineSpilled q1 k) (k + 1))) := by
    rw [State.queuePut_spills ht, hlen, hq1, State.spill_line hs ht1 (by omega) (by omega),
      State.spill_line hs2 ht2 (by omega) (by omega), State.spill_done _ (by omega)]
    rfl
  have hend := Spilling.ofSpill (hs2.lineStored (q := lineSpilled q1 k) (k := k + 1)) ht3 hw.lineStored.lineStored
  rw [State.hostEvent_joined hs kind body (hbs ▸ hput) hend.ready]
  exact hend

end Event

/-! ## The late step -/

theorem exec_replayLate (n : Nat) (s : State) : exec (.replayLate n) s = .next (s.stepLate n) := rfl

section Late

variable {s : State} {n : Nat} {st : Step}

/-- A step that is late is noted, told to the other packages and ended. -/
theorem State.stepLate_ends (hf : s.findStep n = some st) (hp : st.phase = .fenced) (hr : frameReached s.frame st.base = true)
    (hn : s.stepReady st = false) : s.stepLate n = ((s.noteStep F_REPLAY_LATE locPackage 0 0 n).spread
      (faultRecord (s.noteStep F_REPLAY_LATE locPackage 0 0 n) F_REPLAY_LATE locPackage 0 false 0 n)).endStep st := by
  rw [State.stepLate, hf]
  exact if_pos ⟨hp, hr, .inr (by rw [hn]; rfl)⟩

/-- The event of a step's end spills one line more. -/
theorem Spilling.endStep {k m : Nat} {rest : List Byte} (h : Spilling s k (m + 56) rest) (hp : st.phase ≠ .pending) (hk : k < 4)
    (hlo : 3976 < m + rest.length) (hhi : m + rest.length ≤ 4032) (ws : List Word) :
    LinesWritten ((s.spread ws).endStep st) (k + 1) := by
  have ht : Spilling { s.spread ws with steps := (s.spread ws).steps.filter (fun x => x.num != st.num) } k (m + 56) rest :=
    h.congr rfl rfl rfl rfl
  obtain ⟨bs, -, hspill⟩ := ht.one hk hlo hhi 0x0011
    [packFields [(bits 31 0, st.num), (bits 35 32, st.cause), (bit 36, if false then 1 else 0)]]
  unfold LinesWritten
  rw [State.endStep_mem _ hp]
  exact hspill.lines

end Late

/-- A fenced step of base frame 0 that has no bays. -/
def lateStep : Step :=
  { num := 5, base := 0, bays := [], publish := 0, phase := .fenced, replays := 0, cause := 0, longLead := false, tag := 0, origin := 0,
    ring := 0, old := [], frame := 0 }

/-- A bridge with that step and a row that still has to be restored; region 0 is a CELLAR of 1 MiB at 0, and the Cellar may spill. -/
def lateBridge : State :=
  ((({ State.reset with steps := [lateStep], restores := [(0, [])] } : State).wf HRT_PKGID HRT_PKGID_BRIDGE 1).wf
    CEL_CTRL CEL_CTRL_SPILL_EN 1).setReg (MEM_RGN_ATTR 0)
      (packFields [(MEM_RGN_ATTR_VALID, 1), (MEM_RGN_ATTR_CELLAR, 1), (MEM_RGN_ATTR_LAST, 0xFF)])

/-- A queue whose tail buffer is full and whose middle holds the first line of segment 0. -/
def fullQueue : Queue :=
  { Queue.empty with tail := List.replicate (3928 + 56 + 56 + 56) 0xFF, mid := [(0, 0)], segs := [0], used := 1, seq := 1 }

/-- That bridge with its event queue 0 full. -/
def lateFull : State := lateBridge.setQueue 1096 fullQueue

/-- The bridge with the record of REPLAY_LATE. -/
def lateNoted : State := (lateFull.recordFault F_REPLAY_LATE locPackage 0 false 0 5).1

theorem lateNoted_ready : SpillReady lateNoted where
  bridge := by decide
  region := by decide
  base := by decide
  spills := by decide
  noHigh := by decide
  noLow := by decide
  ringOff := by decide
  clean := by decide

theorem fullQueue_tail : TailOf fullQueue 1 (3928 + 56 + 56 + 56) [] where
  mid := List.cons_ne_nil _ _
  segs := rfl
  used := rfl
  tail := (List.append_nil _).symm

theorem lateFull_queue : lateFull.queue 1096 = fullQueue := State.queue_setQueue_same lateBridge 1096 fullQueue

theorem lateNoted_queue : lateNoted.queue 1096 = fullQueue := by
  obtain ⟨t, -, hqueues, ht⟩ := State.recordFault_new (s := lateFull) (code := F_REPLAY_LATE) (loc := locPackage) (det := 0) (i := 0)
    false 0 5 rfl rfl
  have hnoted : lateNoted.queues = t.queues := by
    rw [lateNoted, ht]
    rfl
  rw [State.queue, hnoted, hqueues]
  exact lateFull_queue

theorem lateNoted_spilling : Spilling lateNoted 1 (3928 + 56 + 56 + 56) [] where
  ready := lateNoted_ready
  tail := by
    rw [lateNoted_queue]
    exact fullQueue_tail
  lines := fun i h1 hi => absurd h1 (by omega)

theorem lateFull_recorded : (lateFull.recordFault F_REPLAY_LATE locPackage 0 false 0 5).2 = true := by decide

theorem lateFull_reacts : wbit (lateFull.reg (FLT_REACT F_REPLAY_LATE)) 0 = true := by decide

/-- A new record whose mask has INT raises its event. -/
theorem State.noteStep_event {s : State} {code loc det lead step : Nat} (hnew : (s.recordFault code loc det false lead step).2 = true)
    (hint : wbit (s.reg (FLT_REACT code)) 0 = true) : s.noteStep code loc det lead step =
      (s.recordFault code loc det false lead step).1.hostEvent 0x0080 (faultRecord s code loc det false lead step) :=
  if_pos (by rw [hnew, hint]; rfl)

theorem lateFull_noted : lateFull.noteStep F_REPLAY_LATE locPackage 0 0 5 =
    lateNoted.hostEvent 0x0080 (faultRecord lateFull F_REPLAY_LATE locPackage 0 false 0 5) :=
  State.noteStep_event lateFull_recorded lateFull_reacts

/-- The events of the fault and of the step's end spill three lines. -/
theorem lateFull_lines (ws : List Word) :
    LinesWritten (((lateFull.noteStep F_REPLAY_LATE locPackage 0 0 5).spread ws).endStep lateStep) 4 := by
  obtain ⟨bs, hlen, hnoted⟩ := lateNoted_spilling.two (by decide) (by decide) (by decide) 0x0080
    (faultRecord lateFull F_REPLAY_LATE locPackage 0 false 0 5)
  rw [← lateFull_noted] at hnoted
  have hrest : ([] ++ bs : List Byte).length = 64 := hlen
  exact hnoted.endStep (by decide) (by decide) (by omega) (by omega) ws

/-- Refutes O37: the event of REPLAY_LATE may itself spill lines of its queue into stacked memory, so that the memory at the step's end
is not that of the step before with the end's own event alone. -/
theorem not_stepsBeginCommitReplayOrAreLate : ¬ Obligations.StepsBeginCommitReplayOrAreLate := by
  unfold Obligations.StepsBeginCommitReplayOrAreLate
  intro h
  obtain ⟨⟨-, hlate⟩, -⟩ := h
  have hfound : lateFull.findStep 5 = some lateStep := rfl
  have hreached : frameReached lateFull.frame lateStep.base = true := by decide
  have hwaits : lateFull.stepReady lateStep = false := rfl
  obtain ⟨-, hends, -⟩ := hlate 5 lateStep lateFull hfound
  obtain ⟨-, u, hu, -, humem⟩ := hends rfl hreached hwaits
  obtain ⟨as, hlen, has⟩ := u.endStep_withinLines (st := lateStep) (by decide)
  have hu : lateFull.stepLate 5 = u.endStep lateStep := Host.Outcome.next.inj ((exec_replayLate ..).symm.trans hu)
  have hlines : LinesWritten (u.endStep lateStep) 4 := by
    rw [← hu, State.stepLate_ends hfound rfl hreached hwaits]
    exact lateFull_lines _
  have hchanged : ∀ i, 1 ≤ i → i < 4 → memGet (u.endStep lateStep).mem (64 * i) ≠ memGet u.mem (64 * i) := by
    intro i h1 hi
    rw [hlines i h1 hi, humem]
    exact (by decide : (0xFF : Byte) ≠ 0)
  exact has.not_three hlen (by decide) (by decide) (hchanged 1 (by decide) (by decide)) (hchanged 2 (by decide) (by decide))
    (hchanged 3 (by decide) (by decide))

end Sys2Proof.Machine
end
